-- ==== Sys2Proof/Word.lean ====
section
/-!
DEFINITION. The word types of the GZ3 and the plainest operations on lists by index and on tables by key.
-/
namespace Sys2Proof

/-- One byte. -/
abbrev Byte := BitVec 8
/-- The data of one token, one register of an element (05 R76, 06 R84). -/
abbrev Word := BitVec 32
/-- A 64-bit control word: a heddle descriptor, a segment register, a sequencer command. -/
abbrev DWord := BitVec 64

/-- A table by key: its entries in strictly rising order of key; a key that is not listed has the value the reader of
the table names. -/
abbrev Tab (α : Type) := List (Nat × α)

end Sys2Proof
end

