-- ==== Sys2Proof/Syntax.lean ====
section
/-!
DEFINITION. The instructions and steps of the GZ3: one constructor of `Instr` for each row of
spec/opcode_table.json, in the table's order: first the rows that the machine decodes (element instructions with their
fields, 05 R70-R73, sequencer commands, control tokens, queue commands, graph nodes), then the rows that are steps of
the parts, which carry what names the part and what the outside supplies.
-/
namespace Sys2Proof

/-- What a six-bit operand field names (05 R76). -/
inductive Operand where
  /-- Registers d0-d15, numbers 0-15. -/
  | d (n : Fin 16)
  /-- Input ports i0-i7, numbers 16-23: a read pops the head token. -/
  | i (n : Fin 8)
  /-- Output ports o0-o7, numbers 24-31. -/
  | o (n : Fin 8)
  /-- Peek ports k0-k7, numbers 32-39: the head of i0-i7, without popping. -/
  | k (n : Fin 8)
  /-- Constants c0-c7, numbers 40-47. -/
  | c (n : Fin 8)
  /-- Predicates p0-p7, numbers 48-55. -/
  | p (n : Fin 8)
  /-- Zero, number 56. -/
  | z
  /-- The beat index, number 57. -/
  | bt
  /-- The tag of the last token popped, number 58. -/
  | tg
  /-- The skip count of the last sparse token popped, number 59. -/
  | sk
  /-- The sticky flags, number 60. -/
  | fl
  /-- The element address, number 61. -/
  | id
  /-- The generator, number 62. -/
  | lf
  /-- The next payload word of the shuttle being served, number 63. -/
  | hd
  deriving DecidableEq, Repr

/-- The trigger field of a slot word: trigger set 0-3 and heddle 0-15 (05 R70). -/
structure Trig where
  set : Fin 4
  heddle : Fin 16
  deriving DecidableEq, Repr

/-- An atomic that another device of the pod sends (15 R280): the bulkhead it is for, the device, the key it carries, the virtual
address with its address word, operation, size and operands, class and reads, its ticket and requester. -/
structure PeerAtomic where
  bh : Fin 16
  device : Fin 128
  key : BitVec 16
  va : BitVec 64
  word : Word
  op : Fin 11
  wide : Bool
  v : BitVec 64
  c : BitVec 64
  cls : Fin 8
  reads : Fin 16
  ticket : BitVec 16
  elem : BitVec 16
  deriving DecidableEq, Repr

/-- A packet that reaches a router port or a gate: that of a place among those in flight in this device, or an atomic of another. -/
inductive Arrival where
  | inFlight (index : Nat)
  | peer (p : PeerAtomic)
  deriving DecidableEq, Repr

/-- The instructions and steps, one constructor a row of spec/opcode_table.json. -/
inductive Instr where
  /-- ADDI_S32 (R141): Adds a sign-extended 6-bit immediate to a, modulo 2^32. -/
  | addiS32 (t : Trig) (dst : Operand) (a : Operand) (imm : BitVec 6)
  /-- ADD_S32 (R141): Writes the wrapping 32-bit sum of a and b. -/
  | addS32 (t : Trig) (dst : Operand) (a : Operand) (b : Operand)
  /-- ADDS_S32 (R141): Writes the saturating signed 32-bit sum and sets SAT when it clamps. -/
  | addsS32 (t : Trig) (dst : Operand) (a : Operand) (b : Operand)
  /-- SUB_S32 (R141): Writes the wrapping 32-bit difference a minus b. -/
  | subS32 (t : Trig) (dst : Operand) (a : Operand) (b : Operand)
  /-- SUBS_S32 (R141): Writes the saturating signed 32-bit difference and sets SAT when it clamps. -/
  | subsS32 (t : Trig) (dst : Operand) (a : Operand) (b : Operand)
  /-- NEG_S32 (R141): Writes the wrapping negation of a. -/
  | negS32 (t : Trig) (dst : Operand) (a : Operand)
  /-- ABS_S32 (R141): Writes the wrapping absolute value of a. -/
  | absS32 (t : Trig) (dst : Operand) (a : Operand)
  /-- ADD_S16 (R141): Adds two packed 16-bit lanes with wrap-around. -/
  | addS16 (t : Trig) (dst : Operand) (a : Operand) (b : Operand)
  /-- ADDS_S16 (R141): Adds two packed 16-bit lanes with saturation. -/
  | addsS16 (t : Trig) (dst : Operand) (a : Operand) (b : Operand)
  /-- SUB_S16 (R141): Subtracts two packed 16-bit lanes with wrap-around. -/
  | subS16 (t : Trig) (dst : Operand) (a : Operand) (b : Operand)
  /-- SUBS_S16 (R141): Subtracts two packed 16-bit lanes with saturation. -/
  | subsS16 (t : Trig) (dst : Operand) (a : Operand) (b : Operand)
  /-- MUL_S32 (R142): Writes the low 32 bits of a times b. -/
  | mulS32 (t : Trig) (dst : Operand) (a : Operand) (b : Operand)
  /-- MULH_S32 (R142): Writes the high word of the signed 64-bit product. -/
  | mulhS32 (t : Trig) (dst : Operand) (a : Operand) (b : Operand)
  /-- MULH_N32 (R142): Writes the high word of the non-negative 64-bit product. -/
  | mulhN32 (t : Trig) (dst : Operand) (a : Operand) (b : Operand)
  /-- MAC_S32 (R142): Adds a times b into the dst register, modulo 2^32. -/
  | macS32 (t : Trig) (dst : Operand) (a : Operand) (b : Operand)
  /-- MUL_S16 (R142): Multiplies two packed 16-bit lanes, modulo 2^16. -/
  | mulS16 (t : Trig) (dst : Operand) (a : Operand) (b : Operand)
  /-- DOT_S8 (R142): Writes the exact dot product of four signed byte pairs. -/
  | dotS8 (t : Trig) (dst : Operand) (a : Operand) (b : Operand)
  /-- DOT_N8 (R142): Writes the exact dot product of four non-negative byte pairs. -/
  | dotN8 (t : Trig) (dst : Operand) (a : Operand) (b : Operand)
  /-- DIV_S32 (R143): Writes the signed quotient truncated towards zero, with defined results and SAT for zero
      divisors and overflow. -/
  | divS32 (t : Trig) (dst : Operand) (a : Operand) (b : Operand)
  /-- DIV_N32 (R143): Writes the non-negative quotient, giving 0xFFFF_FFFF and SAT for a zero divisor. -/
  | divN32 (t : Trig) (dst : Operand) (a : Operand) (b : Operand)
  /-- REM_S32 (R143): Writes the signed remainder, which takes the sign of the dividend. -/
  | remS32 (t : Trig) (dst : Operand) (a : Operand) (b : Operand)
  /-- REM_N32 (R143): Writes the non-negative remainder. -/
  | remN32 (t : Trig) (dst : Operand) (a : Operand) (b : Operand)
  /-- MIN_S32 (R144): Writes the signed minimum of a and b. -/
  | minS32 (t : Trig) (dst : Operand) (a : Operand) (b : Operand)
  /-- MAX_S32 (R144): Writes the signed maximum of a and b. -/
  | maxS32 (t : Trig) (dst : Operand) (a : Operand) (b : Operand)
  /-- MIN_N32 (R144): Writes the non-negative minimum of a and b. -/
  | minN32 (t : Trig) (dst : Operand) (a : Operand) (b : Operand)
  /-- MAX_N32 (R144): Writes the non-negative maximum of a and b. -/
  | maxN32 (t : Trig) (dst : Operand) (a : Operand) (b : Operand)
  /-- AND (R144): Writes the bitwise AND of a and b. -/
  | and (t : Trig) (dst : Operand) (a : Operand) (b : Operand)
  /-- OR (R144): Writes the bitwise OR of a and b. -/
  | or (t : Trig) (dst : Operand) (a : Operand) (b : Operand)
  /-- XOR (R144): Writes the bitwise XOR of a and b. -/
  | xor (t : Trig) (dst : Operand) (a : Operand) (b : Operand)
  /-- NOT (R144): Writes the bitwise complement of a. -/
  | not (t : Trig) (dst : Operand) (a : Operand)
  /-- ANDI (R144): Writes a AND a zero-extended 6-bit immediate. -/
  | andi (t : Trig) (dst : Operand) (a : Operand) (imm : BitVec 6)
  /-- SHL (R145): Shifts a left by the value of b, giving 0 for shifts of 32 or more. -/
  | shl (t : Trig) (dst : Operand) (a : Operand) (b : Operand)
  /-- SHR (R145): Shifts a right logically by the value of b. -/
  | shr (t : Trig) (dst : Operand) (a : Operand) (b : Operand)
  /-- SAR (R145): Shifts a right arithmetically by the value of b. -/
  | sar (t : Trig) (dst : Operand) (a : Operand) (b : Operand)
  /-- SHLI (R145): Shifts a left by an immediate from 0 to 31. -/
  | shli (t : Trig) (dst : Operand) (a : Operand) (imm : BitVec 5)
  /-- SHRI (R145): Shifts a right logically by an immediate from 0 to 31. -/
  | shri (t : Trig) (dst : Operand) (a : Operand) (imm : BitVec 5)
  /-- SARI (R145): Shifts a right arithmetically by an immediate from 0 to 31. -/
  | sari (t : Trig) (dst : Operand) (a : Operand) (imm : BitVec 5)
  /-- CLZ (R146): Writes the number of leading zero bits of a. -/
  | clz (t : Trig) (dst : Operand) (a : Operand)
  /-- CTZ (R146): Writes the number of trailing zero bits of a. -/
  | ctz (t : Trig) (dst : Operand) (a : Operand)
  /-- POPC (R146): Writes the number of one bits in a. -/
  | popc (t : Trig) (dst : Operand) (a : Operand)
  /-- LDI (R147): Writes a sign-extended 12-bit immediate. -/
  | ldi (t : Trig) (dst : Operand) (imm : BitVec 12)
  /-- LDHI (R147): Writes a 12-bit immediate to bits [31:20] and keeps bits [19:0] of a dst register. -/
  | ldhi (t : Trig) (dst : Operand) (imm : BitVec 12)
  /-- LIT (R73): Writes the 32-bit literal held in the next slot. -/
  | lit (t : Trig) (dst : Operand) (lit : Word)
  /-- CEQ_S32 (R103): Writes 1 when a equals b, else 0. -/
  | ceqS32 (t : Trig) (dst : Operand) (a : Operand) (b : Operand)
  /-- CNE_S32 (R103): Writes 1 when a differs from b, else 0. -/
  | cneS32 (t : Trig) (dst : Operand) (a : Operand) (b : Operand)
  /-- CLT_S32 (R103): Writes 1 when a is less than b, signed. -/
  | cltS32 (t : Trig) (dst : Operand) (a : Operand) (b : Operand)
  /-- CLE_S32 (R103): Writes 1 when a is at most b, signed. -/
  | cleS32 (t : Trig) (dst : Operand) (a : Operand) (b : Operand)
  /-- CGT_S32 (R103): Writes 1 when a is greater than b, signed. -/
  | cgtS32 (t : Trig) (dst : Operand) (a : Operand) (b : Operand)
  /-- CGE_S32 (R103): Writes 1 when a is at least b, signed. -/
  | cgeS32 (t : Trig) (dst : Operand) (a : Operand) (b : Operand)
  /-- CLT_N32 (R103): Writes 1 when a is less than b, non-negative. -/
  | cltN32 (t : Trig) (dst : Operand) (a : Operand) (b : Operand)
  /-- CLE_N32 (R103): Writes 1 when a is at most b, non-negative. -/
  | cleN32 (t : Trig) (dst : Operand) (a : Operand) (b : Operand)
  /-- CGT_N32 (R103): Writes 1 when a is greater than b, non-negative. -/
  | cgtN32 (t : Trig) (dst : Operand) (a : Operand) (b : Operand)
  /-- CGE_N32 (R103): Writes 1 when a is at least b, non-negative. -/
  | cgeN32 (t : Trig) (dst : Operand) (a : Operand) (b : Operand)
  /-- CEQ_F32 (R103): Writes 1 when the binary32 values are equal, raising NV only for a signalling NaN. -/
  | ceqF32 (t : Trig) (dst : Operand) (a : Operand) (b : Operand)
  /-- CNE_F32 (R103): Writes 1 when the binary32 values are not equal. -/
  | cneF32 (t : Trig) (dst : Operand) (a : Operand) (b : Operand)
  /-- CLT_F32 (R103): Writes 1 when binary32 a is less than b, raising NV for any NaN. -/
  | cltF32 (t : Trig) (dst : Operand) (a : Operand) (b : Operand)
  /-- CLE_F32 (R103): Writes 1 when binary32 a is at most b, raising NV for any NaN. -/
  | cleF32 (t : Trig) (dst : Operand) (a : Operand) (b : Operand)
  /-- CUN_F32 (R103): Writes 1 when either binary32 operand is NaN. -/
  | cunF32 (t : Trig) (dst : Operand) (a : Operand) (b : Operand)
  /-- PAND (R104): Writes the logical AND of the truth values of a and b. -/
  | pand (t : Trig) (dst : Operand) (a : Operand) (b : Operand)
  /-- POR (R104): Writes the logical OR of the truth values of a and b. -/
  | por (t : Trig) (dst : Operand) (a : Operand) (b : Operand)
  /-- PXOR (R104): Writes the logical XOR of the truth values of a and b. -/
  | pxor (t : Trig) (dst : Operand) (a : Operand) (b : Operand)
  /-- CEQ_F64 (R103): Evaluator-only binary64 equality compare. -/
  | ceqF64 (t : Trig) (dst : Operand) (a : Operand) (b : Operand)
  /-- CLT_F64 (R103): Evaluator-only binary64 less-than compare. -/
  | cltF64 (t : Trig) (dst : Operand) (a : Operand) (b : Operand)
  /-- CLE_F64 (R103): Evaluator-only binary64 less-or-equal compare. -/
  | cleF64 (t : Trig) (dst : Operand) (a : Operand) (b : Operand)
  /-- CUN_F64 (R103): Evaluator-only binary64 unordered compare. -/
  | cunF64 (t : Trig) (dst : Operand) (a : Operand) (b : Operand)
  /-- CTAG (R105): Writes 1 when the selvage level of a (or a[2:0]) equals the immediate level. -/
  | ctag (t : Trig) (dst : Operand) (a : Operand) (imm : BitVec 3)
  /-- MOV (R107): Copies a to dst, keeping the tag of a port token. -/
  | mov (t : Trig) (dst : Operand) (a : Operand)
  /-- TAGV (R107): Copies a to dst with selvage level b[2:0]. -/
  | tagv (t : Trig) (dst : Operand) (a : Operand) (b : Operand)
  /-- SELV (R107): Copies a to dst as a selvage of the immediate level 1 to 7. -/
  | selv (t : Trig) (dst : Operand) (a : Operand) (imm : BitVec 3)
  /-- DROP (R107): Reads a and discards it, popping a port, stepping lf or advancing hd. -/
  | drop (t : Trig) (a : Operand)
  /-- SEL_PN (R108): Writes a when predicate pN is 1, else b, with only the chosen operand's exception bit. -/
  | selPn (t : Trig) (n : Fin 8) (dst : Operand) (a : Operand) (b : Operand)
  /-- SEND (R109): Appends a shuttle with an immediate route label and one payload word to the send queue, or faults
      SHUTTLE_UNBOUND. -/
  | send (t : Trig) (payload : Operand) (label : BitVec 7)
  /-- SENDR (R109): Appends a shuttle whose label comes from a register operand, with two payload words. -/
  | sendr (t : Trig) (label : Operand) (a : Operand) (b : Operand)
  /-- DONE (R345): ORs a code into RETSTAT and stops the element evaluating heddles for the rest of the residency. -/
  | done (t : Trig) (code : BitVec 12)
  /-- SPAWN (R38): Enqueues a TASK or GRAPH command to a local queue of the function and writes the enqueue status. -/
  | spawn (t : Trig) (dst : Operand) (a : Operand) (b : Operand)
  /-- FADD_F32 (R148): Writes the rounded binary32 sum. -/
  | faddF32 (t : Trig) (dst : Operand) (a : Operand) (b : Operand)
  /-- FSUB_F32 (R148): Writes the rounded binary32 difference. -/
  | fsubF32 (t : Trig) (dst : Operand) (a : Operand) (b : Operand)
  /-- FMUL_F32 (R148): Writes the rounded binary32 product. -/
  | fmulF32 (t : Trig) (dst : Operand) (a : Operand) (b : Operand)
  /-- FMAC_F32 (R148): Computes dst + a×b with one rounding into the dst register. -/
  | fmacF32 (t : Trig) (dst : Operand) (a : Operand) (b : Operand)
  /-- FNMAC_F32 (R148): Computes dst − a×b with one rounding into the dst register. -/
  | fnmacF32 (t : Trig) (dst : Operand) (a : Operand) (b : Operand)
  /-- FMIN_F32 (R149): Writes the lesser binary32 operand, preferring a non-NaN operand. -/
  | fminF32 (t : Trig) (dst : Operand) (a : Operand) (b : Operand)
  /-- FMAX_F32 (R149): Writes the greater binary32 operand, preferring a non-NaN operand. -/
  | fmaxF32 (t : Trig) (dst : Operand) (a : Operand) (b : Operand)
  /-- FABS_F32 (R150): Writes a with bit 31 cleared. -/
  | fabsF32 (t : Trig) (dst : Operand) (a : Operand)
  /-- FNEG_F32 (R150): Writes a with bit 31 inverted. -/
  | fnegF32 (t : Trig) (dst : Operand) (a : Operand)
  /-- FCPSGN_F32 (R150): Writes a[30:0] with the sign of b. -/
  | fcpsgnF32 (t : Trig) (dst : Operand) (a : Operand) (b : Operand)
  /-- FRSQS_F32 (R162): Writes the table seed approximating 1/sqrt(a). -/
  | frsqsF32 (t : Trig) (dst : Operand) (a : Operand)
  /-- FRCPS_F32 (R163): Writes the table seed approximating 1/a. -/
  | frcpsF32 (t : Trig) (dst : Operand) (a : Operand)
  /-- FEX2S_F32 (R164): Writes the table seed approximating 2^a. -/
  | fex2sF32 (t : Trig) (dst : Operand) (a : Operand)
  /-- FLG2S_F32 (R165): Writes the table seed approximating log2 a. -/
  | flg2sF32 (t : Trig) (dst : Operand) (a : Operand)
  /-- FCLS_F32 (R151): Writes a one-hot class mask of a. -/
  | fclsF32 (t : Trig) (dst : Operand) (a : Operand)
  /-- FRND_F32 (R152): Rounds a to an integral binary32 value in the element's mode. -/
  | frndF32 (t : Trig) (dst : Operand) (a : Operand)
  /-- FADD_H16 (R153): Adds two packed h16 lanes. -/
  | faddH16 (t : Trig) (dst : Operand) (a : Operand) (b : Operand)
  /-- FSUB_H16 (R153): Subtracts two packed h16 lanes. -/
  | fsubH16 (t : Trig) (dst : Operand) (a : Operand) (b : Operand)
  /-- FMUL_H16 (R153): Multiplies two packed h16 lanes. -/
  | fmulH16 (t : Trig) (dst : Operand) (a : Operand) (b : Operand)
  /-- FMAC_H16 (R153): Accumulates a×b into each h16 lane of the dst register with one rounding. -/
  | fmacH16 (t : Trig) (dst : Operand) (a : Operand) (b : Operand)
  /-- FMIN_H16 (R153): Writes the lane-wise h16 minimum. -/
  | fminH16 (t : Trig) (dst : Operand) (a : Operand) (b : Operand)
  /-- FMAX_H16 (R153): Writes the lane-wise h16 maximum. -/
  | fmaxH16 (t : Trig) (dst : Operand) (a : Operand) (b : Operand)
  /-- FDOT_H16 (R154): Writes the binary32 dot product of the two h16 lanes with one rounding. -/
  | fdotH16 (t : Trig) (dst : Operand) (a : Operand) (b : Operand)
  /-- FDMAC_H16 (R154): Adds the h16 dot product into a binary32 dst register with one rounding. -/
  | fdmacH16 (t : Trig) (dst : Operand) (a : Operand) (b : Operand)
  /-- CVT_F32_S32 (R155): Converts signed a to binary32. -/
  | cvtF32S32 (t : Trig) (dst : Operand) (a : Operand)
  /-- CVT_S32_F32 (R155): Converts binary32 a to s32 under R133. -/
  | cvtS32F32 (t : Trig) (dst : Operand) (a : Operand)
  /-- CVT_F32_N32 (R155): Converts non-negative a to binary32. -/
  | cvtF32N32 (t : Trig) (dst : Operand) (a : Operand)
  /-- CVT_N32_F32 (R155): Converts binary32 a to n32 under R133. -/
  | cvtN32F32 (t : Trig) (dst : Operand) (a : Operand)
  /-- CVT_H16_F32 (R155): Packs h16 conversions of a and b into lanes 0 and 1. -/
  | cvtH16F32 (t : Trig) (dst : Operand) (a : Operand) (b : Operand)
  /-- CVTL_F32_H16 (R155): Converts lane 0 of a to binary32 exactly. -/
  | cvtlF32H16 (t : Trig) (dst : Operand) (a : Operand)
  /-- CVTH_F32_H16 (R155): Converts lane 1 of a to binary32 exactly. -/
  | cvthF32H16 (t : Trig) (dst : Operand) (a : Operand)
  /-- CVT_S8_F32 (R155): Converts binary32 a to s8, sign-extended. -/
  | cvtS8F32 (t : Trig) (dst : Operand) (a : Operand)
  /-- CVT_MX8E4_F32 (R157): Encodes a as an E4M3 code against the scale word b. -/
  | cvtMx8e4F32 (t : Trig) (dst : Operand) (a : Operand) (b : Operand)
  /-- CVT_MX8E5_F32 (R157): Encodes a as an E5M2 code against the scale word b. -/
  | cvtMx8e5F32 (t : Trig) (dst : Operand) (a : Operand) (b : Operand)
  /-- CVT_F32_MX8E4 (R158): Decodes an E4M3 code under the scale in b. -/
  | cvtF32Mx8e4 (t : Trig) (dst : Operand) (a : Operand) (b : Operand)
  /-- CVT_F32_MX8E5 (R158): Decodes an E5M2 code under the scale in b. -/
  | cvtF32Mx8e5 (t : Trig) (dst : Operand) (a : Operand) (b : Operand)
  /-- CVT_WF8_F32 (R157): Encodes a as a WF8 code against scale and micro-exponent in b. -/
  | cvtWf8F32 (t : Trig) (dst : Operand) (a : Operand) (b : Operand)
  /-- CVT_F32_WF8 (R158): Decodes a WF8 code under the scale and micro-exponent in b. -/
  | cvtF32Wf8 (t : Trig) (dst : Operand) (a : Operand) (b : Operand)
  /-- CVT_WF5_F32 (R157): Encodes a as a WF5 code. -/
  | cvtWf5F32 (t : Trig) (dst : Operand) (a : Operand) (b : Operand)
  /-- CVT_F32_WF5 (R158): Decodes a WF5 code. -/
  | cvtF32Wf5 (t : Trig) (dst : Operand) (a : Operand) (b : Operand)
  /-- CVT_WF3_F32 (R157): Encodes a as a WF3 code. -/
  | cvtWf3F32 (t : Trig) (dst : Operand) (a : Operand) (b : Operand)
  /-- CVT_F32_WF3 (R158): Decodes a WF3 code. -/
  | cvtF32Wf3 (t : Trig) (dst : Operand) (a : Operand) (b : Operand)
  /-- FADD_F64 (R159): Evaluator-only binary64 addition. -/
  | faddF64 (t : Trig) (dst : Operand) (a : Operand) (b : Operand)
  /-- FSUB_F64 (R159): Evaluator-only binary64 subtraction. -/
  | fsubF64 (t : Trig) (dst : Operand) (a : Operand) (b : Operand)
  /-- FMUL_F64 (R159): Evaluator-only binary64 multiplication. -/
  | fmulF64 (t : Trig) (dst : Operand) (a : Operand) (b : Operand)
  /-- FMAC_F64 (R159): Evaluator-only binary64 fused multiply-add into an even register pair. -/
  | fmacF64 (t : Trig) (dst : Operand) (a : Operand) (b : Operand)
  /-- FDIV_F64 (R159): Evaluator-only correctly rounded binary64 division. -/
  | fdivF64 (t : Trig) (dst : Operand) (a : Operand) (b : Operand)
  /-- FSQRT_F64 (R159): Evaluator-only correctly rounded binary64 square root. -/
  | fsqrtF64 (t : Trig) (dst : Operand) (a : Operand)
  /-- FMIN_F64 (R159): Evaluator-only binary64 minimum. -/
  | fminF64 (t : Trig) (dst : Operand) (a : Operand) (b : Operand)
  /-- FMAX_F64 (R159): Evaluator-only binary64 maximum. -/
  | fmaxF64 (t : Trig) (dst : Operand) (a : Operand) (b : Operand)
  /-- CVT_F64_F32 (R160): Widens binary32 a exactly to a binary64 pair. -/
  | cvtF64F32 (t : Trig) (dst : Operand) (a : Operand)
  /-- CVT_F32_F64 (R160): Narrows a binary64 pair to binary32 by mode. -/
  | cvtF32F64 (t : Trig) (dst : Operand) (a : Operand)
  /-- CVT_F64_S32 (R160): Converts signed a exactly to a binary64 pair. -/
  | cvtF64S32 (t : Trig) (dst : Operand) (a : Operand)
  /-- CVT_S32_F64 (R160): Converts a binary64 pair to s32 by mode. -/
  | cvtS32F64 (t : Trig) (dst : Operand) (a : Operand)
  /-- FABS_F64 (R159): Clears bit 63 of a binary64 pair. -/
  | fabsF64 (t : Trig) (dst : Operand) (a : Operand)
  /-- FNEG_F64 (R159): Inverts bit 63 of a binary64 pair. -/
  | fnegF64 (t : Trig) (dst : Operand) (a : Operand)
  /-- LD_N32 (R192): Places a 4-byte load request in the memory issue queue, or faults at fire on a segment or
      alignment check. -/
  | ldN32 (t : Trig) (dst : Operand) (a : Operand) (wave : BitVec 6)
  /-- LD_S16 (R192): Places a sign-extending halfword load request. -/
  | ldS16 (t : Trig) (dst : Operand) (a : Operand) (wave : BitVec 6)
  /-- LD_N16 (R192): Places a zero-extending halfword load request. -/
  | ldN16 (t : Trig) (dst : Operand) (a : Operand) (wave : BitVec 6)
  /-- LD_S8 (R192): Places a sign-extending byte load request. -/
  | ldS8 (t : Trig) (dst : Operand) (a : Operand) (wave : BitVec 6)
  /-- LD_N8 (R192): Places a zero-extending byte load request. -/
  | ldN8 (t : Trig) (dst : Operand) (a : Operand) (wave : BitVec 6)
  /-- ST_N32 (R192): Places a 4-byte store request and completes the beat. -/
  | stN32 (t : Trig) (data : Operand) (a : Operand) (wave : BitVec 6)
  /-- ST_N16 (R192): Places a halfword store request. -/
  | stN16 (t : Trig) (data : Operand) (a : Operand) (wave : BitVec 6)
  /-- ST_N8 (R192): Places a byte store request. -/
  | stN8 (t : Trig) (data : Operand) (a : Operand) (wave : BitVec 6)
  /-- PF (R197): Requests a prefetch of the 256-byte line into the last-level cache, never faulting. -/
  | pf (t : Trig) (a : Operand) (wave : BitVec 6)
  /-- GST_N32 (R198): Stores 4 bytes when the data token's level is 1, else sends a skipped request for the wave
      chain. -/
  | gstN32 (t : Trig) (data : Operand) (a : Operand) (wave : BitVec 6)
  /-- GST_N16 (R198): Guarded halfword store. -/
  | gstN16 (t : Trig) (data : Operand) (a : Operand) (wave : BitVec 6)
  /-- GST_N8 (R198): Guarded byte store. -/
  | gstN8 (t : Trig) (data : Operand) (a : Operand) (wave : BitVec 6)
  /-- LD_N64 (R192): Evaluator-only 8-byte load into a register pair. -/
  | ldN64 (t : Trig) (dst : Operand) (a : Operand) (wave : BitVec 6)
  /-- ST_N64 (R192): Evaluator-only 8-byte store from a register pair. -/
  | stN64 (t : Trig) (data : Operand) (a : Operand) (wave : BitVec 6)
  /-- AMO (R268): Issues a class-A atomic of the literal's OP and size to the home slice, local, remote or via the
      portal. -/
  | amo (t : Trig) (dst : Operand) (a : Operand) (b : Operand) (lit : Word)
  /-- AMOC (R272): Issues a conditional atomic whose success launches a continuation named by the TGT descriptor. -/
  | amoc (t : Trig) (dst : Operand) (a : Operand) (b : Operand) (lit : Word)
  /-- SEMS (R285): Issues a semaphore signal adding n to a bulkhead semaphore. -/
  | sems (t : Trig) (dst : Operand) (a : Operand) (b : Operand)
  /-- SEMW (R285): Issues a semaphore wait for n that is granted in arrival order. -/
  | semw (t : Trig) (dst : Operand) (a : Operand) (b : Operand)
  /-- ARRIVE (R289): Decrements a dependence counter at the graph scheduler, optionally counting a fault. -/
  | arrive (t : Trig) (dst : Operand) (a : Operand) (b : Operand)
  /-- FENCEL (R257): Writes dst from a and places a mark so later requests wait until earlier ones are performed. -/
  | fencel (t : Trig) (dst : Operand) (a : Operand) (b : Operand)
  /-- FENCEH (R258): Asks an owner's tile to drain its store buffer and writes the reply status. -/
  | fenceh (t : Trig) (dst : Operand) (a : Operand) (b : Operand)
  /-- FENCE (R256): Holds successor classes until predecessor classes are complete at the literal's scope. -/
  | fence (t : Trig) (lit : Word)
  /-- IFENCE (R264): Marks every held evaluator page stale; does nothing in a loom element. -/
  | ifence (t : Trig)
  /-- MCMD (R219): Pushes a two-word control token to a matrix island's CMD port as a tenant-scope release. -/
  | mcmd (t : Trig) (target : Operand) (a : Operand) (b : Operand)
  /-- SCMD (R212): Pushes a streamer command word and descriptor address to a STRM-bound port. -/
  | scmd (t : Trig) (target : Operand) (a : Operand) (b : Operand)
  /-- QCMD (R212): Pushes a 64-bit sequencer command as two tokens to a CMDQ-bound port. -/
  | qcmd (t : Trig) (target : Operand) (a : Operand) (b : Operand)
  /-- ASK (R297): Pops query tokens and sends a class-X ask to the hub, receiving a status word. -/
  | ask (t : Trig) (dst : Operand) (a : Operand) (b : Operand)
  /-- ANSWER (R308): Sends W answer registers for an ASKID to the hub, or faults ANSWER_FAULT. -/
  | answer (t : Trig) (a : Operand) (b : Operand)
  /-- SETPG (R319): Selects an evaluator page, fetching and validating it when not held. -/
  | setpg (t : Trig) (page : BitVec 2)
  /-- NOP (R334): Does nothing. -/
  | nop (t : Trig)
  /-- TRAP (R334): Raises the TRAP fault with the given code as detail. -/
  | trap (t : Trig) (code : BitVec 12)
  /-- BKPT (R334): Halts the element after the beat when DBGCTL.BKEN is 1. -/
  | bkpt (t : Trig) (code : BitVec 12)
  /-- SRD (R334): Reads a special register into dst, or faults SREG_FAULT. -/
  | srd (t : Trig) (dst : Operand) (index : BitVec 12)
  /-- SWR (R334): Writes a special register under its access, or faults SREG_FAULT. -/
  | swr (t : Trig) (value : Operand) (index : BitVec 12)
  /-- VECTOR_BEAT (R93): A later beat of an N-beat issue runs, or a held beat completes once room exists. -/
  | vectorBeat (elem : Nat)
  /-- HALT (R334): Sequencer command that ends the static program and switches to serving the command queue. -/
  | halt
  /-- STREAM_RD (R203): Starts a read run of count lines at a base and stride. -/
  | streamRd (st : BitVec 3) (base : Word) (count : BitVec 12) (stride : BitVec 12)
  /-- STREAM_WR (R203): Starts a write run of count lines at a base and stride. -/
  | streamWr (st : BitVec 3) (base : Word) (count : BitVec 12) (stride : BitVec 12)
  /-- SNEXT_RD (R203): Continues a stream from its next-base register with a new read run. -/
  | snextRd (st : BitVec 3) (count : BitVec 12) (stride : BitVec 12)
  /-- SNEXT_WR (R203): Continues a stream from its next-base register with a new write run. -/
  | snextWr (st : BitVec 3) (count : BitVec 12) (stride : BitVec 12)
  /-- SADD (R203): Adds 64·delta to a stream's next-base register. -/
  | sadd (st : BitVec 3) (delta : Word)
  /-- DELIVER (R204): Becomes the consumer of a read run and sends its lines as tokens with selvages to a bound port.
      -/
  | deliver (st : BitVec 3) (port : BitVec 4) (row : BitVec 12) (level : BitVec 3)
  /-- PUSH (R204): Becomes the consumer of a read run and writes whole tiles into a matrix ring. -/
  | push (island : BitVec 2) (ring : BitVec 3) (st : BitVec 3) (bytes : BitVec 12)
  /-- ACCEPT (R205): Feeds a write run from a bound element output port, 16 tokens per line. -/
  | accept (st : BitVec 3) (port : BitVec 4)
  /-- SPCOPY (R204): Moves the lines of one read stream into one write stream. -/
  | spcopy (sta : BitVec 3) (stb : BitVec 3)
  /-- GALLOC (R207): Places guard granules around a scratchpad range, or raises SEQ_FAULT. -/
  | galloc (g : BitVec 6) (offset : BitVec 19) (bytes : BitVec 19)
  /-- GFREE (R207): Removes a guarded allocation's granules. -/
  | gfree (g : BitVec 6)
  /-- SBAR (R206): Waits until the masked streams' runs have taken effect and then raises any pending guard fault. -/
  | sbar (mask : Byte)
  /-- LOOP (R208): Opens a hardware loop, applying latched values, or skips the body for count 0. -/
  | loop (n : BitVec 1) (count : BitVec 16) (stop : BitVec 8)
  /-- LPSET (R209): Writes or latches a loop's count, start or end. -/
  | lpset (n : BitVec 1) (reg : BitVec 2) (value : BitVec 16)
  /-- SEGW (R202): Writes half of a sequencer segment register. -/
  | segw (n : BitVec 4) (half : BitVec 1) (value : Word)
  /-- QWAIT (R201): Waits for a queued command and executes it in place within the static program. -/
  | qwait
  /-- FUPD (R210): Checks a fused-update descriptor and updates parameter blocks, writing a status record at its end.
      -/
  | fupd (desc : BitVec 19)
  /-- NOTIFY (R206): Waits for the masked streams and sends a class-L shuttle that releases their writes. -/
  | notify (mask : Byte) (label : BitVec 7)
  /-- SSIG (R206): Sequencer semaphore signal on the bulkhead. -/
  | ssig (sem : BitVec 10) (n : BitVec 16)
  /-- SWAIT (R206): Sequencer semaphore wait that holds the sequencer until granted, retrying after SEM_BUSY. -/
  | swait (sem : BitVec 10) (n : BitVec 16)
  /-- MMA (R228): Control token multiplying ring tiles into an accumulator in 32-product chunks. -/
  | mma (acc : BitVec 2) (accum : BitVec 1) (ra : BitVec 3) (rb : BitVec 3) (fa : BitVec 4) (fb : BitVec 4) (m :
      BitVec 7) (n : BitVec 8) (k : BitVec 3)
  /-- ACCW (R230): Control token writing an accumulator region to scratchpad in a chosen format. -/
  | accw (acc : BitVec 2) (f : BitVec 4) (sat : BitVec 1) (oa : BitVec 16) (m : BitVec 7) (n : BitVec 8)
  /-- ACCL (R230): Control token loading an accumulator region from scratchpad. -/
  | accl (acc : BitVec 2) (oa : BitVec 16) (m : BitVec 7) (n : BitVec 8)
  /-- MSIG (R231): Control token that, after earlier tokens, replies, sends a shuttle or signals a semaphore as a
      release. -/
  | msig (kind : BitVec 2) (n : BitVec 16) (sem : BitVec 10)
  /-- RPOP (R231): Control token popping a ring's head tile unread. -/
  | rpop (ring : BitVec 3)
  /-- QINIT (R233): Control token initialising a reflector accumulator. -/
  | qinit (q : BitVec 1) (mode : BitVec 2) (n : BitVec 7) (oa : BitVec 16) (var : BitVec 2) (c : BitVec 7)
  /-- QADD (R233): Control token appending a Householder reflector, with the overflow rule at k = 64. -/
  | qadd (q : BitVec 1) (ring : BitVec 3) (p : BitVec 7)
  /-- QAPL (R235): Control token applying Q or its transpose from the left to a ring tile. -/
  | qapl (q : BitVec 1) (tr : BitVec 1) (ring : BitVec 3) (oa : BitVec 16) (c : BitVec 7)
  /-- QAPR (R235): Control token applying Q or its transpose from the right to a ring tile. -/
  | qapr (q : BitVec 1) (tr : BitVec 1) (ring : BitVec 3) (oa : BitVec 16) (r : BitVec 7)
  /-- QCNT (R236): Control token replying with a reflector accumulator's counts. -/
  | qcnt (q : BitVec 1)
  /-- QSPL (R236): Control token writing a spill image of a reflector accumulator. -/
  | qspl (q : BitVec 1) (oa : BitVec 16)
  /-- QLDV (R236): Control token loading a spill image into a reflector accumulator. -/
  | qldv (q : BitVec 1) (oa : BitVec 16)
  /-- GRAPH (R37): Queue command that starts a graph and holds its queue until the graph completes. -/
  | graph (wait : BitVec 16) (done : BitVec 16) (address : BitVec 64)
  /-- TASK (R40): Queue command delivered as a shuttle to the resident load, or completed with LAUNCH_FAULT. -/
  | task (wait : BitVec 16) (done : BitVec 16) (label : BitVec 7) (w0 : Word) (w1 : Word)
  /-- SETCTR (R37): Queue command writing a dependence counter and clearing UNDERFLOW and FAULTS. -/
  | setctr (wait : BitVec 16) (done : BitVec 16) (counter : BitVec 16) (value : BitVec 24)
  /-- ARRIVE_COMMAND (R37): Queue command decrementing a dependence counter. -/
  | arriveCommand (wait : BitVec 16) (done : BitVec 16) (counter : BitVec 16)
  /-- LOAD_NODE (R28): Graph node configuring and dispatching an image, with recompute-edge handling. -/
  | loadNode (arrive : BitVec 16) (succ : BitVec 16) (image : BitVec 57) (block : BitVec 64) (edge : BitVec 16)
  /-- COND_NODE (R27): Graph node reading a condition word and choosing a successor. -/
  | condNode (cmp : BitVec 4) (arrive : BitVec 16) (succA : BitVec 16) (succB : BitVec 16) (addr : BitVec 57) (value :
      BitVec 64) (mask : BitVec 64)
  /-- LOOP_NODE (R27): Graph node counting iterations and choosing a successor or EXHAUSTED exit. -/
  | loopNode (cmp : BitVec 4) (cap : BitVec 8) (arrive : BitVec 16) (succA : BitVec 16) (succB : BitVec 16) (addr :
      BitVec 57) (value : BitVec 64) (mask : BitVec 64)
  /-- SWITCH_NODE (R27): Graph node choosing one of up to four successors from a condition word field. -/
  | switchNode (arrive : BitVec 16) (succB : BitVec 16) (addr : BitVec 57) (shift : BitVec 6) (count : BitVec 8)
      (succs : BitVec 64)
  /-- END_NODE (R28): Graph node completing the graph. -/
  | endNode (arrive : BitVec 16)
  /-- SLOT_BREAKPOINT_HALT (R358): The picker chooses a slot whose SBP bit is set and the element halts before the
      fire. -/
  | slotBreakpointHalt (elem : Nat)
  /-- TOKEN_DELIVERY (R118): A token leaves an output port once every linked input port has room, or enters an
      exception sink. -/
  | tokenDelivery (elem : Nat) (port : Nat)
  /-- SEND_QUEUE_DRAIN (R110): The element's send queue releases a shuttle into class E of the shuttle network. -/
  | sendQueueDrain (elem : Nat)
  /-- SHUTTLE_ARRIVAL (R96): A shuttle enters a task inbox, or is discarded and counted in SHDROP when its bit has no
      set. -/
  | shuttleArrival (bh : Nat) (index : Nat)
  /-- HAND_OVER (R249): The head of a memory issue queue leaves for the wave reorder buffer or its target. -/
  | handOver (elem : Nat)
  /-- PERFORM_REQUEST (R199): A tile performs a performable request in wave order, reading a bank, buffering a store
      or sending to a home. -/
  | performRequest (tile : Nat) (index : Nat)
  /-- STORE_BUFFER_DRAIN (R248): The oldest store-buffer entry writes its bank or enters its home's arrival queue. -/
  | storeBufferDrain (tile : Nat)
  /-- HOME_SLICE_APPLY (R267): A home slice applies the request at the head of its arrival queue: read, write, atomic
      or semaphore. -/
  | homeSliceApply (slice : Nat)
  /-- REPLY_RETURN (R194): A read, atomic, semaphore or ARRIVE reply reaches its element and fills dst or the reserved
      entry, or raises its fault. -/
  | replyReturn (bh : Nat) (index : Nat)
  /-- PAGE_WALK (R169): A page-table walker completes a two-stage walk and installs a translation or reports a fault.
      -/
  | pageWalk (tile : Nat) (index : Nat)
  /-- RUN_AHEAD_PREFETCH (R188): A read stream issues a run-ahead prefetch into the last-level cache or drops it. -/
  | runAheadPrefetch (tile : Nat) (st : Nat)
  /-- FENCE_COMPLETE (R256): A fence's last predecessor becomes complete and its successors may become ready. -/
  | fenceComplete (elem : Nat)
  /-- FENCEH_REPLY (R258): The owner's marked store-buffer entries are applied and the fenceh reply OK is returned. -/
  | fencehReply (bh : Nat) (index : Nat)
  /-- PAGE_FETCH_INSTALL (R319): A setpg fetch returns and the page is validated and installed or rejected. -/
  | pageFetchInstall (elem : Nat)
  /-- ELEMENT_RETIRE (R345): An element that passed done has emptied its issue queue, replies and send queue and is
      retired. -/
  | elementRetire (elem : Nat)
  /-- FUPD_READ_PHASE (R351): fupd reads one block's inputs, translates its writes and computes into staging, or stops
      on a fault. -/
  | fupdReadPhase (tile : Nat)
  /-- FUPD_COMMIT (R351): fupd writes a block's new values and, after they are applied, the weight header granule. -/
  | fupdCommit (tile : Nat)
  /-- SWAIT_RETRY (R286): A swait refused with SEM_BUSY retries after 64 cycles. -/
  | swaitRetry (tile : Nat)
  /-- STREAM_LINE_ACCESS (R203): A stream issues or completes one line access of its run, delivering, pushing or
      accepting as its consumer requires. -/
  | streamLineAccess (tile : Nat) (st : Nat) (ahead : Nat)
  /-- RUN_COMPLETE (R203): A stream run completes, letting waiting stream and consumer commands proceed. -/
  | runComplete (tile : Nat) (st : Nat)
  /-- ENGINE_PORT_TAKE (R391): An engine takes tokens from a bound CMDQ, ACCEPT, STRM or CMD port after an unfixed
      latency. -/
  | enginePortTake (tile : Nat) (binding : Nat)
  /-- STRM_PAIR_MOVE (R243): The serving tile resolves a streamer descriptor address and moves the pair into the
      island queue, or raises the fault. -/
  | strmPairMove (tile : Nat) (binding : Nat)
  /-- STREAMER_COMMAND_START (R213): A streamer island starts a queued command and reads its descriptor once. -/
  | streamerCommandStart (streamer : Nat)
  /-- COPY (R214): Streamer command copying LEN bytes from SRC to DST. -/
  | copy (streamer : Nat) (run : Nat)
  /-- CRED (R214): Streamer command reducing SRC words into DST with FADD, ADD or FMAX. -/
  | cred (streamer : Nat) (run : Nat)
  /-- GATHER (R214): Streamer command gathering indexed elements into DST. -/
  | gather (streamer : Nat) (run : Nat)
  /-- SCATTER (R214): Streamer command scattering elements to indexed DST positions. -/
  | scatter (streamer : Nat) (run : Nat)
  /-- FILL (R214): Streamer command filling DST with the AUX word. -/
  | fill (streamer : Nat) (run : Nat)
  /-- XPOSE (R242): Streamer command transposing an MX tile and re-choosing block scales. -/
  | xpose (streamer : Nat) (run : Nat)
  /-- STREAMER_COMMAND_END (R215): A streamer command ends or faults, writes STATUS and then performs DONE. -/
  | streamerCommandEnd (streamer : Nat) (run : Nat)
  /-- CONTROL_TOKEN_TAKE (R220): A matrix island takes a whole control-token pair from its CMD port into its queue. -/
  | controlTokenTake (island : Nat)
  /-- TOKEN_RETIRE (R220): A control token's effect completes and it retires, popping the rings it read. -/
  | tokenRetire (island : Nat)
  /-- ISLAND_RESTART (R238): On resumption an island stores RSTW and sends its restart shuttle before taking tokens.
      -/
  | islandRestart (island : Nat)
  /-- CONTINUATION_LAUNCH_END (R275): An amoc launch ends when its shuttle enters the inbox or its enqueue is decided,
      and the amoc reply is sent. -/
  | continuationLaunchEnd (slice : Nat) (launch : Nat)
  /-- SEMW_WITHDRAW (R287): A sweep withdraws a pending semw from the home slice's waiter list. -/
  | semwWithdraw (elem : Nat) (id : Nat)
  /-- REMOTE_ATOMIC_APPLY (R280): A remote atomic from the target bulkhead's atomic command queue is applied at its
      home slice. -/
  | remoteAtomicApply (bh : Nat)
  /-- REMOTE_COMPLETION (R281): A remote atomic reply is written as a completion-queue record and RCQTAIL advances. -/
  | remoteCompletion (fn : Nat) (index : Nat) (status : Nat) (old : Nat)
  /-- PORTAL_COMPLETION (R283): A PCIe or UALink atomic completion returns through the portal to the element. -/
  | portalCompletion (bh : Nat) (index : Nat) (ok : Bool) (old : Nat)
  /-- PORTAL_TIMEOUT (R283): A portal request without completion within 50 ms returns PORTAL_FAULT. -/
  | portalTimeout (bh : Nat) (index : Nat)
  /-- ASK_DECIDE (R300): The hub decides one ask as accepted, refused, declined or failed. -/
  | askDecide (hub : Nat)
  /-- ASK_FRAME_DELIVERY (R307): The hub delivers an accepted ask's frame to its evaluator class port. -/
  | askFrameDelivery (hub : Nat)
  /-- ANSWER_ACCEPT (R309): The hub matches an answer, updates the EMA, writes the target-log record and frees the
      entry. -/
  | answerAccept (hub : Nat)
  /-- ASK_DUE (R304): An accepted ask reaches its deadline in WAIT and its token is fixed as SUB_LATE. -/
  | askDue (hub : Nat) (entry : Nat)
  /-- POOL_REFILL (R301): Every 4,096 cycles each pool with REFILL adds credit up to SIZE. -/
  | poolRefill (hub : Nat)
  /-- CONDITIONING_TOKEN (R303): A conditioning token whose kind is fixed enters its consumer port in site order. -/
  | conditioningToken (hub : Nat) (site : Nat)
  /-- HUB_REGISTER_WRITE (R305): A write to a pool or policy block is applied at step 6 of the hub cycle. -/
  | hubRegisterWrite (hub : Nat)
  /-- QDB (R34): Doorbell write that makes the queue engine read, check and accept commands up to the new tail. -/
  | qdb (fn : Nat) (index : Nat) (tail : Nat)
  /-- QCFG_WRITE (R32): Writes queue configuration, refusing enable with an invalid size and setting ERR. -/
  | qcfgWrite (fn : Nat) (index : Nat) (value : Word)
  /-- JOURNAL_WRITE (R43): A journal record leaves the on-chip tail for the function's journal ring. -/
  | journalWrite (fn : Nat)
  /-- COMMAND_DISPATCH (R39): The scheduler grants a ready command through time slice, weight and priority
      arbitration. -/
  | commandDispatch (bh : Nat)
  /-- COMMAND_COMPLETE (R37): A command completes, releases its quota slot and arrives on its done counter. -/
  | commandComplete (queue : Nat) (id : Nat)
  /-- RECOMPUTE_REPLAY (R354): The scheduler replays a dropped recompute edge's sub-graph before dispatching its LOAD
      node. -/
  | recomputeReplay (queue : Nat)
  /-- IMAGE_VALIDATION (R23): The loader validates an image and accepts it or rejects it with LOAD_REJECTED and
      LDSTAT. -/
  | imageValidation (bh : Nat)
  /-- RECONFIGURATION_SWEEP (R261): A reconfiguration sweep drains and passes the bulkhead before a new load. -/
  | reconfigurationSweep (bh : Nat)
  /-- SWEEP_COLUMN_PASS (R338): The sweep token passes a column once every tile in it is drained. -/
  | sweepColumnPass (bh : Nat)
  /-- CONFIGURATION_LOAD (R41): The bulkhead loads a validated image and the fabric load becomes resident. -/
  | configurationLoad (bh : Nat)
  /-- LOAD_RETIRE (R346): All active elements have retired or been killed, the bulkhead drains, RETSTAT.RET is set and
      the node completes. -/
  | loadRetire (bh : Nat)
  /-- FAULT_RECORD (R324): The fault controller walks one fault record through the containment levels and logs it. -/
  | faultRecord (bh : Nat)
  /-- KILL_SWEEP (R325): A kill sweep passes the bulkhead, discarding unreached requests. -/
  | killSweep (bh : Nat)
  /-- QUEUE_LEVEL_KILL (R337): A queue is disabled, its loads kill-swept, contexts deleted and commands completed with
      the kill code. -/
  | queueLevelKill (queue : Nat) (code : Nat)
  /-- QKILL (R336): Host write of GO that starts a queue-level kill. -/
  | qkill (fn : Nat) (index : Nat)
  /-- PARENT_KILL (R350): A queue whose head waits on a parent-kill counter is killed with the child's code. -/
  | parentKill (queue : Nat)
  /-- QMAP_WRITE (R44): Assigns a physical queue to a function and local index, ignored while the queue is enabled. -/
  | qmapWrite (queue : Nat) (value : Word)
  /-- BHCFG_WRITE (R48): Stages a bulkhead configuration that applies at the next reset's RELEASE. -/
  | bhcfgWrite (bh : Nat) (value : Word)
  /-- BHRST (R65): GO write that starts a single-bulkhead reset and kills queues using the bulkhead. -/
  | bhrst (bh : Nat) (value : Word)
  /-- GATE (R66): Reset state closing the gate and optionally flushing dirty lines. -/
  | gate (bh : Nat)
  /-- RAIL_OFF (R66): Reset state in which the core rail falls and is held off. -/
  | railOff (bh : Nat)
  /-- RAIL_UP (R66): Reset state ramping the rail to its set voltage. -/
  | railUp (bh : Nat)
  /-- PLL_LOCK (R66): Reset state in which the bulkhead clock relocks. -/
  | pllLock (bh : Nat)
  /-- RELEASE (R66): Reset state applying staged BHCFG and optionally zeroing memory. -/
  | release (bh : Nat)
  /-- READY (R66): Reset state raising READY and opening the gate. -/
  | ready (bh : Nat)
  /-- POOL_ENABLE (R53): EN rising on a pool searches POOLROT for a current entry. -/
  | poolEnable (pool : Nat) (value : Word)
  /-- GANG_SWITCH_TICK (R52): A pool tick decrements the slice and may change function, starting the end-of-slice
      sweep. -/
  | gangSwitchTick (pool : Nat)
  /-- END_OF_SLICE_SWEEP (R338): Stops engines, drains columns and saves state on every member of the pool. -/
  | endOfSliceSweep (bh : Nat)
  /-- CONTEXT_SAVE (R339): The context engine saves a drained unit and marks it SAVED. -/
  | contextSave (bh : Nat)
  /-- CONTEXT_RESTORE (R339): The context engine loads a unit for the incoming function from its image or blank. -/
  | contextRestore (bh : Nat)
  /-- SAVE_QUARANTINE (R342): A save write fault sends the whole image to the quarantine buffer, or kills with
      QUARANTINE_FULL. -/
  | saveQuarantine (bh : Nat)
  /-- SAVE_DEADLINE (R343): At T + 2·DL late dies' queues are killed with SAVE_OVERRUN and the incoming function
      starts. -/
  | saveDeadline (pool : Nat)
  /-- GANG_START (R343): The incoming function starts on every member once every die has saved. -/
  | gangStart (pool : Nat)
  /-- RESTORE_QUARANTINE (R342): QCTL command copying the quarantine buffer into the save area. -/
  | restoreQuarantine (bh : Nat)
  /-- DISCARD (R342): QCTL command killing the held context's queues. -/
  | discard (bh : Nat)
  /-- OVN_ENABLE (R56): Setting EN reserves slots on every router of the OVN or on none. -/
  | ovnEnable (ovn : Nat) (value : Word)
  /-- OVN_RELEASE (R56): After EN clears, slots are released once no packet of the OVN remains. -/
  | ovnRelease (ovn : Nat)
  /-- SPINE_PACKET_ARRIVAL (R58): A spine packet arrives at a router port or bulkhead gate and is key-checked: one of this
      device, or an atomic of another. -/
  | spinePacketArrival (packet : Arrival)
  /-- DROPCNT_CLEAR (R60): Writing bit 0 of DROPCNT clears the whole count. -/
  | dropcntClear (die : Nat) (value : Word)
  /-- WINDOW_GRANT_WRITE (R63): A WEXP or WIMP write moves the window state and checks the match. -/
  | windowGrantWrite (fn : Nat) (bh : Nat) (win : Nat) (importing : Bool) (value : BitVec 128)
  /-- WINDOW_CLOSE_COMPLETE (R63): A CLOSING window becomes CLOSED once accepted accesses complete. -/
  | windowCloseComplete (bh : Nat) (win : Nat)
  /-- SHOOTDOWN_PAGE (R266): SDCTL KIND 0 removes translations overlapping one page. -/
  | shootdownPage (fn : Nat) (pasid : Nat) (size : Nat) (wb : Bool)
  /-- SHOOTDOWN_PASID (R266): SDCTL KIND 1 removes every translation of a PASID. -/
  | shootdownPasid (fn : Nat) (pasid : Nat)
  /-- SHOOTDOWN_FUNCTION (R266): SDCTL KIND 2 removes every translation of the function. -/
  | shootdownFunction (fn : Nat)
  /-- S2_SHOOTDOWN_PAGE (R266): S2SDCTL KIND 0 removes stage-2 translations of one intermediate page. -/
  | s2ShootdownPage (tag : Nat) (size : Nat) (wb : Bool)
  /-- S2_SHOOTDOWN_TAG (R266): S2SDCTL KIND 1 removes every stage-2 translation of a tag. -/
  | s2ShootdownTag (tag : Nat)
  /-- S2_SHOOTDOWN_REGION (R266): S2SDCTL KIND 2 removes every translation whose output lies in a 1 GiB region. -/
  | s2ShootdownRegion (wb : Bool)
  /-- SHOOTDOWN_COMPLETE (R266): Accesses through removed entries complete, lines are written back if asked, and BUSY
      falls. -/
  | shootdownComplete (fn : Nat)
  /-- COUNTER_CLEAR (R191): Writing CLR zeroes an engine's counter block. -/
  | counterClear (fn : Nat) (bh : Nat) (engine : Nat) (value : Word)
  /-- SEMCNT_WRITE (R288): Replaces a semaphore count and grants waiters as sems does. -/
  | semcntWrite (fn : Nat) (bh : Nat) (sem : Nat) (value : Word)
  /-- SINKLOG_CLEAR (R329): Writing bit 0 of SINKCNT clears SINKLOG and SINKCNT. -/
  | sinklogClear (fn : Nat) (bh : Nat) (value : Word)
  /-- HALTLOG_CLEAR (R357): Writing bit 0 of HLOGCNT clears HALTLOG and HLOGCNT. -/
  | haltlogClear (fn : Nat) (bh : Nat) (value : Word)
  /-- DEBUG_RELEASE (R359): DBGREL GO releases a halted element. -/
  | debugRelease (fn : Nat) (bh : Nat) (elem : Nat)
  /-- DEBUG_STEP (R359): DBGREL GO with STEP lets the element fire one slot and halt again. -/
  | debugStep (fn : Nat) (bh : Nat) (elem : Nat)
  /-- DEBUG_RELEASE_ALL (R359): DBGREL GO with ALL releases every halted element. -/
  | debugReleaseAll (fn : Nat) (bh : Nat)
  /-- SAMPLE (R362): Each period the sampler records the next element's state or drops the sample. -/
  | sample (bh : Nat)
  /-- TRACE_RECORD (R363): The trace unit writes up to four enabled records per cycle and drops the rest. -/
  | traceRecord (bh : Nat)
  /-- FREEZE (R365): FRZCTL GO stops the clocks of the masked bulkheads, and optionally the spine. -/
  | freeze (value : Word)
  /-- THERMAL_EVALUATION (R375): Every 100 µs the management element adjusts throttle steps, trips hot bulkheads and
      resets on lost heartbeat. -/
  | thermalEvaluation (bh : Nat) (temp : Byte)
  /-- MSIX_UNMASK (R367): Unmasking a vector with its pending bit set sends one message. -/
  | msixUnmask (fn : Nat) (vector : Nat)
  /-- CXL_LINK_DOWN (R368): A CXL port link goes down; its ready bit falls and accesses complete with LINK_FAULT. -/
  | cxlLinkDown (port : Nat)
  /-- CXL_LINK_UP (R368): A CXL port link returns and retried write-backs proceed. -/
  | cxlLinkUp (port : Nat)
  /-- UALINK_PORT_FAIL (R369): A UALink port fails; its requests complete with LINK_FAULT and unsent ones move. -/
  | ualinkPortFail (port : Nat)
  /-- POWER_ON_BOOT (R377): The security block measures and verifies firmware and releases the management elements. -/
  | powerOnBoot (secOk : Bool) (mgmtOk : BitVec 4)
  /-- GET_VERSION (R379): SPDM request returning supported versions. -/
  | getVersion (request : List Byte)
  /-- GET_CAPABILITIES (R379): SPDM request returning capabilities. -/
  | getCapabilities (request : List Byte)
  /-- NEGOTIATE_ALGORITHMS (R379): SPDM request selecting ML-DSA-44 and SHA3-256. -/
  | negotiateAlgorithms (request : List Byte)
  /-- GET_DIGESTS (R379): SPDM request returning certificate digests. -/
  | getDigests (request : List Byte)
  /-- GET_CERTIFICATE (R379): SPDM request returning the device identity certificate. -/
  | getCertificate (request : List Byte)
  /-- CHALLENGE (R379): SPDM request answered with a signature by the device identity key. -/
  | challenge (request : List Byte)
  /-- GET_MEASUREMENTS (R379): SPDM request returning firmware, partition and image measurements. -/
  | getMeasurements (request : List Byte)
  /-- REGISTER_WRITE (R8): A write to a register with no row of its own, applied under its access kinds. -/
  | registerWrite (fn : Nat) (bar : Nat) (offset : Nat) (wide : Bool) (value : BitVec 64)
  /-- UALINK_PORT_READY (R369): A UALink port finishes training and becomes ready, setting its UALRDY bit so that
      traffic to peers may spread over it again. -/
  | ualinkPortReady (port : Nat)
  /-- SPINE_UNCORRECTABLE_ERROR (R68): An uncorrectable error arises in a spine router or die bridge, and the packets
      there complete with LINK_FAULT for the functions whose routes cross it. -/
  | spineUncorrectableError (bh : Nat)
  deriving DecidableEq, Repr

end Sys2Proof
end

