-- ==== Sys2Proof/Machine/Forms.lean ====
section
/-!
DEFINITION. The form of every element instruction: which operand fields it reads and writes, which operands each field
accepts (05 R72, R78), what it pushes, which queues it needs and which ordering class it carries (14 R244); and the
loader's checks of one slot that rest on them (02 R23, 05 R82).
-/
namespace Sys2Proof.Machine
open Sys2Proof

/-- The operands a field accepts (05 R78). -/
inductive Accept where
  /-- Every operand. -/
  | any
  /-- A binary64 value: an even d or c pair, an i or o port, z. -/
  | pair
  /-- The dst of an accumulating form: d0-d15, with i and o left to check 7. -/
  | register
  /-- The target of an engine command: o0-o7. -/
  | outPort
  /-- The dst of spawn: d0-d15 and o0-o7, with i and k left to check 7. -/
  | registerOrOut
  /-- b of answer: d0-d15. -/
  | firstRegister
  deriving DecidableEq, Repr

/-- One operand field of an instruction: the operand named, whether it is read and written, and what it accepts. -/
structure Field where
  op : Operand
  read : Bool
  write : Bool
  accept : Accept
  deriving DecidableEq, Repr

/-- The field carries a binary64 value: two tokens, two registers (05 R78). -/
def Field.wide (f : Field) : Bool := f.accept == .pair

/-- What one element instruction uses: its fields in the order they are read (05 R77), the tokens a beat pushes on its
written port, its classes (14 R244), and whether a fire needs room in the send queue or the memory issue queue. -/
structure Form where
  fields : List Field
  pushes : Nat := 1
  classes : BitVec 8 := 0
  sendQ : Bool := false
  issueQ : Bool := false
  isFence : Bool := false
  deriving DecidableEq, Repr

def Field.rd (o : Operand) : Field := { op := o, read := true, write := false, accept := .any }
def Field.rd2 (o : Operand) : Field := { op := o, read := true, write := false, accept := .pair }
def Field.wr (o : Operand) : Field := { op := o, read := false, write := true, accept := .any }
def Field.wr2 (o : Operand) : Field := { op := o, read := false, write := true, accept := .pair }

/-- R format: a and b read, dst written. -/
def Form.binary (d a b : Operand) : Form := { fields := [.rd a, .rd b, .wr d] }
/-- Unary R and S formats: a read, dst written. -/
def Form.unary (d a : Operand) : Form := { fields := [.rd a, .wr d] }
/-- L format: dst written. -/
def Form.writeOnly (d : Operand) : Form := { fields := [.wr d] }
/-- Accumulating forms: dst read and written. -/
def Form.accumulating (d a b : Operand) : Form :=
  { fields := [.rd a, .rd b, { op := d, read := true, write := true, accept := .register }] }
/-- Binary64 forms of two operands. -/
def Form.binary64 (d a b : Operand) : Form := { fields := [.rd2 a, .rd2 b, .wr2 d], pushes := 2 }
/-- fmac.f64: dst is a pair, read and written. -/
def Form.accumulating64 (d a b : Operand) : Form :=
  { fields := [.rd2 a, .rd2 b, { op := d, read := true, write := true, accept := .pair }], pushes := 2 }
def Form.unary64 (d a : Operand) : Form := { fields := [.rd2 a, .wr2 d], pushes := 2 }
/-- From 32 bits to a pair. -/
def Form.widen64 (d a : Operand) : Form := { fields := [.rd a, .wr2 d], pushes := 2 }
/-- From a pair to 32 bits. -/
def Form.narrow64 (d a : Operand) : Form := { fields := [.rd2 a, .wr d] }
/-- Binary64 compares: dst is an ordinary field (06 R103). -/
def Form.compare64 (d a b : Operand) : Form := { fields := [.rd2 a, .rd2 b, .wr d] }
/-- spawn (03 R38). -/
def Form.spawn (d a b : Operand) : Form :=
  { fields := [.rd a, .rd b, { op := d, read := false, write := true, accept := .registerOrOut }] }
/-- sendr: the label field [17:12] is read last. -/
def Form.sendr (l a b : Operand) : Form := { fields := [.rd a, .rd b, .rd l], pushes := 0, sendQ := true }
/-- send: the payload field [17:12] is read. -/
def Form.send (x : Operand) : Form := { fields := [.rd x], pushes := 0, sendQ := true }
/-- drop: a read and discarded. -/
def Form.drop (a : Operand) : Form := { fields := [.rd a], pushes := 0 }
/-- No operand field. -/
def Form.bare : Form := { fields := [], pushes := 0 }
/-- swr: [17:12] read. -/
def Form.readTop (v : Operand) : Form := { fields := [.rd v], pushes := 0 }
/-- Loads: address read, data written; class R (10 R192). -/
def Form.load (d a : Operand) (wide : Bool) : Form :=
  { fields := [.rd a, if wide then .wr2 d else .wr d], pushes := if wide then 2 else 1, classes := 0x01, issueQ := true }
/-- Stores: address read, then data; class W (10 R192). -/
def Form.store (d a : Operand) (wide : Bool) : Form :=
  { fields := [.rd a, if wide then .rd2 d else .rd d], pushes := 0, classes := 0x02, issueQ := true }
/-- pf: address read; class R. -/
def Form.prefetch (a : Operand) : Form := { fields := [.rd a], pushes := 0, classes := 0x01, issueQ := true }
/-- Class A through the issue queue (14 R249). -/
def Form.atomic (f : Form) : Form := { f with classes := 0x40, issueQ := true }
/-- Through the issue queue, of no class (14 R257, R258). -/
def Form.queued (f : Form) : Form := { f with issueQ := true }
/-- Class X through the issue queue (14 R249). -/
def Form.hub (f : Form) : Form := { f with classes := 0x80, issueQ := true }
/-- answer: a read, b names the first answer register (17 R308). -/
def Form.answer (a b : Operand) : Form :=
  { fields := [.rd a, { op := b, read := true, write := false, accept := .firstRegister }], pushes := 0 }
/-- Engine commands: a then b pushed on the target (10 R212, 12 R219). -/
def Form.command (t a b : Operand) (c : BitVec 8) : Form :=
  { fields := [.rd a, .rd b, { op := t, read := false, write := true, accept := .outPort }], pushes := 2, classes := c }
/-- fence (14 R256). -/
def Form.fence : Form := { fields := [], pushes := 0, isFence := true }

/-- The form of each element instruction (05 R72, R78, R80, 14 R244); `none` for a step of another part. -/
def formOf (i : Instr) : Option Form :=
  match i with
  | .macS32 _ d a b | .fmacF32 _ d a b | .fnmacF32 _ d a b | .fmacH16 _ d a b | .fdmacH16 _ d a b => some (.accumulating d a b)
  | .faddF64 _ d a b | .fsubF64 _ d a b | .fmulF64 _ d a b | .fdivF64 _ d a b | .fminF64 _ d a b
  | .fmaxF64 _ d a b => some (.binary64 d a b)
  | .fmacF64 _ d a b => some (.accumulating64 d a b)
  | .fsqrtF64 _ d a | .fabsF64 _ d a | .fnegF64 _ d a => some (.unary64 d a)
  | .cvtF64F32 _ d a | .cvtF64S32 _ d a => some (.widen64 d a)
  | .cvtF32F64 _ d a | .cvtS32F64 _ d a => some (.narrow64 d a)
  | .ceqF64 _ d a b | .cltF64 _ d a b | .cleF64 _ d a b | .cunF64 _ d a b => some (.compare64 d a b)
  | .spawn _ d a b => some (.spawn d a b)
  | .sendr _ l a b => some (.sendr l a b)
  | .send _ x _ => some (.send x)
  | .drop _ a => some (.drop a)
  | .done _ _ | .trap _ _ | .bkpt _ _ => some (.bare)
  | .setpg _ _ => some (.hub .bare)
  | .nop _ | .ifence _ => some (.bare)
  | .ldN32 _ d a _ | .ldS16 _ d a _ | .ldN16 _ d a _ | .ldS8 _ d a _ | .ldN8 _ d a _ => some (.load d a false)
  | .ldN64 _ d a _ => some (.load d a true)
  | .stN32 _ d a _ | .stN16 _ d a _ | .stN8 _ d a _ | .gstN32 _ d a _ | .gstN16 _ d a _ | .gstN8 _ d a _ => some (.store d a false)
  | .stN64 _ d a _ => some (.store d a true)
  | .pf _ a _ => some (.prefetch a)
  | .amo _ d a b _ | .amoc _ d a b _ => some (.atomic (.binary d a b))
  | .sems _ d a b | .semw _ d a b | .arrive _ d a b => some (.atomic (.binary d a b))
  | .fencel _ d a b | .fenceh _ d a b => some (.queued (.binary d a b))
  | .fence _ _ => some (.fence)
  | .mcmd _ t a b => some (.command t a b 0x30)
  | .scmd _ t a b | .qcmd _ t a b => some (.command t a b 0x0C)
  | .ask _ d a b => some (.hub (.binary d a b))
  | .answer _ a b => some (.hub (.answer a b))
  | .swr _ v _ => some (.readTop v)
  | .addS32 _ d a b | .addsS32 _ d a b | .subS32 _ d a b | .subsS32 _ d a b | .addS16 _ d a b | .addsS16 _ d a b
  | .subS16 _ d a b | .subsS16 _ d a b | .mulS32 _ d a b | .mulhS32 _ d a b | .mulhN32 _ d a b | .mulS16 _ d a b
  | .dotS8 _ d a b | .dotN8 _ d a b | .divS32 _ d a b | .divN32 _ d a b | .remS32 _ d a b | .remN32 _ d a b
  | .minS32 _ d a b | .maxS32 _ d a b | .minN32 _ d a b | .maxN32 _ d a b | .and _ d a b | .or _ d a b
  | .xor _ d a b | .shl _ d a b | .shr _ d a b | .sar _ d a b | .ceqS32 _ d a b | .cneS32 _ d a b
  | .cltS32 _ d a b | .cleS32 _ d a b | .cgtS32 _ d a b | .cgeS32 _ d a b | .cltN32 _ d a b | .cleN32 _ d a b
  | .cgtN32 _ d a b | .cgeN32 _ d a b | .ceqF32 _ d a b | .cneF32 _ d a b | .cltF32 _ d a b | .cleF32 _ d a b
  | .cunF32 _ d a b | .pand _ d a b | .por _ d a b | .pxor _ d a b | .tagv _ d a b | .faddF32 _ d a b
  | .fsubF32 _ d a b | .fmulF32 _ d a b | .fminF32 _ d a b | .fmaxF32 _ d a b | .fcpsgnF32 _ d a b
  | .faddH16 _ d a b | .fsubH16 _ d a b | .fmulH16 _ d a b | .fminH16 _ d a b | .fmaxH16 _ d a b
  | .fdotH16 _ d a b | .cvtH16F32 _ d a b | .cvtMx8e4F32 _ d a b | .cvtMx8e5F32 _ d a b | .cvtF32Mx8e4 _ d a b
  | .cvtF32Mx8e5 _ d a b | .cvtWf8F32 _ d a b | .cvtF32Wf8 _ d a b | .cvtWf5F32 _ d a b | .cvtF32Wf5 _ d a b
  | .cvtWf3F32 _ d a b | .cvtF32Wf3 _ d a b => some (.binary d a b)
  | .selPn _ _ d a b => some (.binary d a b)
  | .negS32 _ d a | .absS32 _ d a | .not _ d a | .clz _ d a | .ctz _ d a | .popc _ d a | .mov _ d a
  | .fabsF32 _ d a | .fnegF32 _ d a | .frsqsF32 _ d a | .frcpsF32 _ d a | .fex2sF32 _ d a | .flg2sF32 _ d a
  | .fclsF32 _ d a | .frndF32 _ d a | .cvtF32S32 _ d a | .cvtS32F32 _ d a | .cvtF32N32 _ d a | .cvtN32F32 _ d a
  | .cvtlF32H16 _ d a | .cvthF32H16 _ d a | .cvtS8F32 _ d a => some (.unary d a)
  | .addiS32 _ d a _ | .andi _ d a _ | .shli _ d a _ | .shri _ d a _ | .sari _ d a _ | .ctag _ d a _
  | .selv _ d a _ => some (.unary d a)
  | .ldi _ d _ | .ldhi _ d _ | .srd _ d _ => some (.writeOnly d)
  | .lit _ d _ => some (.writeOnly d)
  | _ => none

/-! ## Checks of one field (05 R78, R82) -/

/-- Check 7: a written i or k port, a read o port. -/
def Field.check7 (f : Field) : Bool :=
  match f.op with
  | .i _ => f.write
  | .k _ => f.write
  | .o _ => f.read
  | _ => false

/-- The operand lies in the accepted set of the field, cases that check 7 reports left to it; b of answer takes no other
operand than d0-d15 (17 R308). -/
def Field.accepts (f : Field) : Bool :=
  (f.check7 && f.accept != .firstRegister) || match f.accept with
  | .any => true
  | .pair =>
    match f.op with
    | .d n => n.val % 2 == 0
    | .c n => n.val % 2 == 0
    | .i _ => true
    | .o _ => true
    | .z => true
    | _ => false
  | .register =>
    match f.op with
    | .d _ => true
    | _ => false
  | .outPort =>
    match f.op with
    | .o _ => true
    | _ => false
  | .registerOrOut =>
    match f.op with
    | .d _ => true
    | .o _ => true
    | _ => false
  | .firstRegister =>
    match f.op with
    | .d _ => true
    | _ => false

/-- A field of the literal of amo or amoc (15 R268). -/
def litField (lit : Word) (lo n : Nat) : Nat := lit.toNat / 2 ^ lo % 2 ^ n

/-- The literal of amo passes check 5 (15 R268, R269). -/
def amoLitOk (lit : Word) : Bool :=
  let op := litField lit 0 4
  let size := litField lit 9 1
  let path := litField lit 10 2
  decide (op ≤ 10) && litField lit 4 5 == 0 && litField lit 28 4 == 0
    && (path == 1 || path == 3 || litField lit 24 4 == 0)
    && ((op == 10 && size == 1) || litField lit 20 4 == 0)
    && (size == 1 || litField lit 16 4 == 0)
    && (op == 10 || litField lit 12 4 == 0)
    && !(op == 1 && size == 1)

/-- The literal of amoc passes check 5 (15 R268, R269, R272). -/
def amocLitOk (lit : Word) : Bool :=
  let size := litField lit 9 1
  decide (litField lit 0 4 ≤ 2) && litField lit 4 5 == 0 && litField lit 10 2 == 0 && litField lit 24 4 == 0
    && (size == 1 || (litField lit 20 4 == 0 && litField lit 16 4 == 0))

/-- Check 9: the portal carries only ADD, SWAP and CAS (15 R269, R283). -/
def amoPortalOk (lit : Word) : Bool :=
  let op := litField lit 0 4
  decide (litField lit 10 2 < 2) || op == 0 || op == 9 || op == 10

/-- Immediates and literals in their range (05 R74, 15 R269): the part of check 5 beside the operand fields. -/
def immediateOk (i : Instr) : Bool :=
  match i with
  | .selv _ _ _ l => l != 0
  | .amo _ _ _ _ lit => amoLitOk lit
  | .amoc _ _ _ _ lit => amocLitOk lit
  | _ => true

/-- The kinds of elements, which differ in the opcodes that are assigned (05 R81, 24 R376). -/
inductive ElemKind where
  | loom | evaluator | management
  deriving DecidableEq, Repr

/-- The opcode of a slot word is assigned in an element of the kind, dashes of R79 apart (05 R81, 24 R376). -/
def ElemKind.hasOpcode (k : ElemKind) (op : Nat) : Bool :=
  match k with
  | .loom =>
    !(decide (0x55 ≤ op) && decide (op ≤ 0x58) || decide (0xB0 ≤ op) && decide (op ≤ 0xBD)
      || op == 0xCC || op == 0xCD || op == 0xE9 || op == 0xEA)
  | .evaluator => op != 0xE8
  | .management => op != 0xE8 && op != 0xE9

/-- Instructions of evaluator elements only (05 R81). -/
def evaluatorOnly (i : Instr) : Bool :=
  match i with
  | .ceqF64 .. | .cltF64 .. | .cleF64 .. | .cunF64 .. | .faddF64 .. | .fsubF64 .. | .fmulF64 .. | .fmacF64 ..
  | .fdivF64 .. | .fsqrtF64 .. | .fminF64 .. | .fmaxF64 .. | .cvtF64F32 .. | .cvtF32F64 .. | .cvtF64S32 ..
  | .cvtS32F64 .. | .fabsF64 .. | .fnegF64 .. | .ldN64 .. | .stN64 .. | .answer .. | .setpg .. => true
  | _ => false

/-- The instruction is assigned in an element of the kind (05 R81, 24 R376). -/
def ElemKind.has (k : ElemKind) (i : Instr) : Bool :=
  match i with
  | .ask .. => k == .loom
  | .answer .. => k == .evaluator
  | i => k != .loom || !evaluatorOnly i

/-- The lowest-numbered check of 02 R23 that one instruction of a slot fails in an element of the given kind: 4 not
assigned there, 5 a reserved value, 7 a port misused, 9 an operator the portal cannot carry. -/
def slotCheck (kind : ElemKind) (i : Instr) : Option Nat :=
  match formOf i with
  | none => none
  | some f =>
    if !kind.has i then some 4
    else if !(f.fields.all Field.accepts && immediateOk i) then some 5
    else if f.fields.any Field.check7 then some 7
    else match i with
      | .amo _ _ _ _ lit => if amoPortalOk lit then none else some 9
      | _ => none

end Sys2Proof.Machine
end

