-- ==== Sys2Proof/WellFormed.lean ====
section
/-!
DEFINITION. Well-formed instructions: those that the loader's checks 4, 5, 7 and 9 of one slot pass (02 R23, 05 R82), in a
loom, evaluator or management element (05 R81, 24 R376). Steps of other parts have no slot and no such check.
-/
namespace Sys2Proof

/-- The instruction may stand in a slot of an element of this kind. -/
abbrev Instr.wf (i : Instr) (kind : Machine.ElemKind) : Prop := Machine.slotCheck kind i = none

/-- The instruction may stand in a slot of some element of a bulkhead. -/
abbrev Instr.wellFormed (i : Instr) : Prop := i.wf .loom ∨ i.wf .evaluator

end Sys2Proof
end

