-- ==== Sys2Proof/Decode.lean ====
section
/-!
DEFINITION. The decoder, total on any bytes and rejecting by name, and after it the encoder, both written from the
encoding tables of spec/05_instruction_word.md (R69-R74, R76, R79, R80).
-/
namespace Sys2Proof

/-- Why bytes are not an instruction word (05 R82). -/
inductive Reject where
  /-- Fewer bytes than the instruction has. -/
  | truncated
  /-- Check 4: an opcode shown as a dash in 05 R79. -/
  | unassigned (opcode : Nat)
  /-- Check 5: a nonzero unused field, or an immediate out of its range. -/
  | reserved (opcode : Nat)
  deriving DecidableEq, Repr

/-- Bits [lo + n - 1 : lo] of a word. -/
def wordField (w : Word) (lo n : Nat) : Nat := w.toNat / 2 ^ lo % 2 ^ n

/-- The number of an operand (05 R76). -/
def Operand.toNat : Operand → Nat
  | .d n => n.val
  | .i n => 16 + n.val
  | .o n => 24 + n.val
  | .k n => 32 + n.val
  | .c n => 40 + n.val
  | .p n => 48 + n.val
  | .z => 56
  | .bt => 57
  | .tg => 58
  | .sk => 59
  | .fl => 60
  | .id => 61
  | .lf => 62
  | .hd => 63

/-- The operand of a number, of which the low six bits count (05 R76). -/
def Operand.ofNat (n : Nat) : Operand :=
  if n % 64 < 16 then .d (Fin.ofNat 16 n)
  else if n % 64 < 24 then .i (Fin.ofNat 8 n)
  else if n % 64 < 32 then .o (Fin.ofNat 8 n)
  else if n % 64 < 40 then .k (Fin.ofNat 8 n)
  else if n % 64 < 48 then .c (Fin.ofNat 8 n)
  else if n % 64 < 56 then .p (Fin.ofNat 8 n)
  else match n % 64 with
    | 56 => .z
    | 57 => .bt
    | 58 => .tg
    | 59 => .sk
    | 60 => .fl
    | 61 => .id
    | 62 => .lf
    | _ => .hd

/-- The fields of a slot word, and the word of the slot after it. -/
structure WordFields where
  w : Word
  lit : Word
  deriving DecidableEq, Repr

def WordFields.of (w lit : Word) : WordFields := { w := w, lit := lit }
def WordFields.t (f : WordFields) : Trig :=
  { set := Fin.ofNat 4 (wordField f.w 30 2), heddle := Fin.ofNat 16 (wordField f.w 26 4) }
def WordFields.opcode (f : WordFields) : Nat := wordField f.w 18 8
def WordFields.top (f : WordFields) : Operand := .ofNat (wordField f.w 12 6)
def WordFields.a (f : WordFields) : Operand := .ofNat (wordField f.w 6 6)
def WordFields.b (f : WordFields) : Operand := .ofNat (wordField f.w 0 6)
def WordFields.imm2 (f : WordFields) : BitVec 2 := .ofNat 2 (wordField f.w 0 2)
def WordFields.imm3 (f : WordFields) : BitVec 3 := .ofNat 3 (wordField f.w 0 3)
def WordFields.imm5 (f : WordFields) : BitVec 5 := .ofNat 5 (wordField f.w 0 5)
def WordFields.imm6 (f : WordFields) : BitVec 6 := .ofNat 6 (wordField f.w 0 6)
def WordFields.label (f : WordFields) : BitVec 7 := .ofNat 7 (wordField f.w 0 7)
def WordFields.imm12 (f : WordFields) : BitVec 12 := .ofNat 12 (wordField f.w 0 12)

/-- The instruction where bits [lo + n - 1 : lo] are 0, else a reserved field (05 R72, R74). -/
def WordFields.zero (f : WordFields) (lo n : Nat) (i : Instr) : Except Reject Instr :=
  if wordField f.w lo n == 0 then .ok i else .error (.reserved f.opcode)

def WordFields.noB (f : WordFields) (i : Instr) : Except Reject Instr := f.zero 0 6 i
def WordFields.noB5 (f : WordFields) (i : Instr) : Except Reject Instr := f.zero 5 1 i
def WordFields.noB53 (f : WordFields) (i : Instr) : Except Reject Instr := f.zero 3 3 i
def WordFields.noTop (f : WordFields) (i : Instr) : Except Reject Instr := f.zero 12 6 i
def WordFields.noImm12 (f : WordFields) (i : Instr) : Except Reject Instr := f.zero 0 12 i
def WordFields.noImm117 (f : WordFields) (i : Instr) : Except Reject Instr := f.zero 7 5 i
def WordFields.noLow (f : WordFields) (i : Instr) : Except Reject Instr := f.zero 0 18 i
def WordFields.noTopB (f : WordFields) (i : Instr) : Except Reject Instr :=
  if wordField f.w 12 6 == 0 then f.noB i else .error (.reserved f.opcode)
def WordFields.noTopImm112 (f : WordFields) (i : Instr) : Except Reject Instr := f.zero 2 16 i

/-- Opcodes 0x00-0x0F of 05 R79. -/
def decodeRow0 (col : Nat) (f : WordFields) : Except Reject Instr :=
  match col with
  | 0x1 => .ok (.addiS32 f.t f.top f.a f.imm6)
  | 0x2 => .ok (.addS32 f.t f.top f.a f.b)
  | 0x3 => .ok (.addsS32 f.t f.top f.a f.b)
  | 0x4 => .ok (.subS32 f.t f.top f.a f.b)
  | 0x5 => .ok (.subsS32 f.t f.top f.a f.b)
  | 0x6 => f.noB (.negS32 f.t f.top f.a)
  | 0x7 => f.noB (.absS32 f.t f.top f.a)
  | 0x8 => .ok (.addS16 f.t f.top f.a f.b)
  | 0x9 => .ok (.addsS16 f.t f.top f.a f.b)
  | 0xA => .ok (.subS16 f.t f.top f.a f.b)
  | 0xB => .ok (.subsS16 f.t f.top f.a f.b)
  | _ => .error (.unassigned (0x00 + col))

/-- Opcodes 0x10-0x1F of 05 R79. -/
def decodeRow1 (col : Nat) (f : WordFields) : Except Reject Instr :=
  match col with
  | 0x0 => .ok (.mulS32 f.t f.top f.a f.b)
  | 0x1 => .ok (.mulhS32 f.t f.top f.a f.b)
  | 0x2 => .ok (.mulhN32 f.t f.top f.a f.b)
  | 0x3 => .ok (.macS32 f.t f.top f.a f.b)
  | 0x4 => .ok (.mulS16 f.t f.top f.a f.b)
  | 0x5 => .ok (.dotS8 f.t f.top f.a f.b)
  | 0x6 => .ok (.dotN8 f.t f.top f.a f.b)
  | 0x8 => .ok (.divS32 f.t f.top f.a f.b)
  | 0x9 => .ok (.divN32 f.t f.top f.a f.b)
  | 0xA => .ok (.remS32 f.t f.top f.a f.b)
  | 0xB => .ok (.remN32 f.t f.top f.a f.b)
  | 0xC => .ok (.minS32 f.t f.top f.a f.b)
  | 0xD => .ok (.maxS32 f.t f.top f.a f.b)
  | 0xE => .ok (.minN32 f.t f.top f.a f.b)
  | 0xF => .ok (.maxN32 f.t f.top f.a f.b)
  | _ => .error (.unassigned (0x10 + col))

/-- Opcodes 0x20-0x2F of 05 R79. -/
def decodeRow2 (col : Nat) (f : WordFields) : Except Reject Instr :=
  match col with
  | 0x0 => .ok (.and f.t f.top f.a f.b)
  | 0x1 => .ok (.or f.t f.top f.a f.b)
  | 0x2 => .ok (.xor f.t f.top f.a f.b)
  | 0x6 => f.noB (.not f.t f.top f.a)
  | 0x7 => .ok (.andi f.t f.top f.a f.imm6)
  | 0x8 => .ok (.shl f.t f.top f.a f.b)
  | 0x9 => .ok (.shr f.t f.top f.a f.b)
  | 0xA => .ok (.sar f.t f.top f.a f.b)
  | 0xC => f.noB5 (.shli f.t f.top f.a f.imm5)
  | 0xD => f.noB5 (.shri f.t f.top f.a f.imm5)
  | 0xE => f.noB5 (.sari f.t f.top f.a f.imm5)
  | _ => .error (.unassigned (0x20 + col))

/-- Opcodes 0x30-0x3F of 05 R79. -/
def decodeRow3 (col : Nat) (f : WordFields) : Except Reject Instr :=
  match col with
  | 0x0 => f.noB (.clz f.t f.top f.a)
  | 0x1 => f.noB (.ctz f.t f.top f.a)
  | 0x2 => f.noB (.popc f.t f.top f.a)
  | 0x7 => .ok (.ldi f.t f.top f.imm12)
  | 0x8 => .ok (.ldhi f.t f.top f.imm12)
  | 0xF => f.noImm12 (.lit f.t f.top f.lit)
  | _ => .error (.unassigned (0x30 + col))

/-- Opcodes 0x40-0x4F of 05 R79. -/
def decodeRow4 (col : Nat) (f : WordFields) : Except Reject Instr :=
  match col with
  | 0x0 => .ok (.ceqS32 f.t f.top f.a f.b)
  | 0x1 => .ok (.cneS32 f.t f.top f.a f.b)
  | 0x2 => .ok (.cltS32 f.t f.top f.a f.b)
  | 0x3 => .ok (.cleS32 f.t f.top f.a f.b)
  | 0x4 => .ok (.cgtS32 f.t f.top f.a f.b)
  | 0x5 => .ok (.cgeS32 f.t f.top f.a f.b)
  | 0x6 => .ok (.cltN32 f.t f.top f.a f.b)
  | 0x7 => .ok (.cleN32 f.t f.top f.a f.b)
  | 0x8 => .ok (.cgtN32 f.t f.top f.a f.b)
  | 0x9 => .ok (.cgeN32 f.t f.top f.a f.b)
  | 0xA => .ok (.ceqF32 f.t f.top f.a f.b)
  | 0xB => .ok (.cneF32 f.t f.top f.a f.b)
  | 0xC => .ok (.cltF32 f.t f.top f.a f.b)
  | 0xD => .ok (.cleF32 f.t f.top f.a f.b)
  | 0xE => .ok (.cunF32 f.t f.top f.a f.b)
  | _ => .error (.unassigned (0x40 + col))

/-- Opcodes 0x50-0x5F of 05 R79. -/
def decodeRow5 (col : Nat) (f : WordFields) : Except Reject Instr :=
  match col with
  | 0x0 => .ok (.pand f.t f.top f.a f.b)
  | 0x1 => .ok (.por f.t f.top f.a f.b)
  | 0x2 => .ok (.pxor f.t f.top f.a f.b)
  | 0x5 => .ok (.ceqF64 f.t f.top f.a f.b)
  | 0x6 => .ok (.cltF64 f.t f.top f.a f.b)
  | 0x7 => .ok (.cleF64 f.t f.top f.a f.b)
  | 0x8 => .ok (.cunF64 f.t f.top f.a f.b)
  | 0x9 => f.noB53 (.ctag f.t f.top f.a f.imm3)
  | _ => .error (.unassigned (0x50 + col))

/-- Opcodes 0x60-0x6F of 05 R79. -/
def decodeRow6 (col : Nat) (f : WordFields) : Except Reject Instr :=
  match col with
  | 0x0 => f.noB (.mov f.t f.top f.a)
  | 0x1 => .ok (.tagv f.t f.top f.a f.b)
  | 0x2 => f.noB53 (.selv f.t f.top f.a f.imm3)
  | 0x3 => f.noTopB (.drop f.t f.a)
  | 0x8 => .ok (.selPn f.t 0 f.top f.a f.b)
  | 0x9 => .ok (.selPn f.t 1 f.top f.a f.b)
  | 0xA => .ok (.selPn f.t 2 f.top f.a f.b)
  | 0xB => .ok (.selPn f.t 3 f.top f.a f.b)
  | 0xC => .ok (.selPn f.t 4 f.top f.a f.b)
  | 0xD => .ok (.selPn f.t 5 f.top f.a f.b)
  | 0xE => .ok (.selPn f.t 6 f.top f.a f.b)
  | 0xF => .ok (.selPn f.t 7 f.top f.a f.b)
  | _ => .error (.unassigned (0x60 + col))

/-- Opcodes 0x70-0x7F of 05 R79. -/
def decodeRow7 (col : Nat) (f : WordFields) : Except Reject Instr :=
  match col with
  | 0x0 => f.noImm117 (.send f.t f.top f.label)
  | 0x1 => .ok (.sendr f.t f.top f.a f.b)
  | 0x2 => f.noTop (.done f.t f.imm12)
  | 0xC => .ok (.spawn f.t f.top f.a f.b)
  | _ => .error (.unassigned (0x70 + col))

/-- Opcodes 0x80-0x8F of 05 R79. -/
def decodeRow8 (col : Nat) (f : WordFields) : Except Reject Instr :=
  match col with
  | 0x0 => .ok (.faddF32 f.t f.top f.a f.b)
  | 0x1 => .ok (.fsubF32 f.t f.top f.a f.b)
  | 0x2 => .ok (.fmulF32 f.t f.top f.a f.b)
  | 0x3 => .ok (.fmacF32 f.t f.top f.a f.b)
  | 0x4 => .ok (.fnmacF32 f.t f.top f.a f.b)
  | 0x5 => .ok (.fminF32 f.t f.top f.a f.b)
  | 0x6 => .ok (.fmaxF32 f.t f.top f.a f.b)
  | 0x7 => f.noB (.fabsF32 f.t f.top f.a)
  | 0x8 => f.noB (.fnegF32 f.t f.top f.a)
  | 0x9 => .ok (.fcpsgnF32 f.t f.top f.a f.b)
  | 0xA => f.noB (.frsqsF32 f.t f.top f.a)
  | 0xB => f.noB (.frcpsF32 f.t f.top f.a)
  | 0xC => f.noB (.fex2sF32 f.t f.top f.a)
  | 0xD => f.noB (.flg2sF32 f.t f.top f.a)
  | 0xE => f.noB (.fclsF32 f.t f.top f.a)
  | 0xF => f.noB (.frndF32 f.t f.top f.a)
  | _ => .error (.unassigned (0x80 + col))

/-- Opcodes 0x90-0x9F of 05 R79. -/
def decodeRow9 (col : Nat) (f : WordFields) : Except Reject Instr :=
  match col with
  | 0x0 => .ok (.faddH16 f.t f.top f.a f.b)
  | 0x1 => .ok (.fsubH16 f.t f.top f.a f.b)
  | 0x2 => .ok (.fmulH16 f.t f.top f.a f.b)
  | 0x3 => .ok (.fmacH16 f.t f.top f.a f.b)
  | 0x4 => .ok (.fminH16 f.t f.top f.a f.b)
  | 0x5 => .ok (.fmaxH16 f.t f.top f.a f.b)
  | 0x6 => .ok (.fdotH16 f.t f.top f.a f.b)
  | 0x7 => .ok (.fdmacH16 f.t f.top f.a f.b)
  | 0x8 => f.noB (.cvtF32S32 f.t f.top f.a)
  | 0x9 => f.noB (.cvtS32F32 f.t f.top f.a)
  | 0xA => f.noB (.cvtF32N32 f.t f.top f.a)
  | 0xB => f.noB (.cvtN32F32 f.t f.top f.a)
  | 0xC => .ok (.cvtH16F32 f.t f.top f.a f.b)
  | 0xD => f.noB (.cvtlF32H16 f.t f.top f.a)
  | 0xE => f.noB (.cvthF32H16 f.t f.top f.a)
  | 0xF => f.noB (.cvtS8F32 f.t f.top f.a)
  | _ => .error (.unassigned (0x90 + col))

/-- Opcodes 0xA0-0xAF of 05 R79. -/
def decodeRowA (col : Nat) (f : WordFields) : Except Reject Instr :=
  match col with
  | 0x0 => .ok (.cvtMx8e4F32 f.t f.top f.a f.b)
  | 0x1 => .ok (.cvtMx8e5F32 f.t f.top f.a f.b)
  | 0x2 => .ok (.cvtF32Mx8e4 f.t f.top f.a f.b)
  | 0x3 => .ok (.cvtF32Mx8e5 f.t f.top f.a f.b)
  | 0x4 => .ok (.cvtWf8F32 f.t f.top f.a f.b)
  | 0x5 => .ok (.cvtF32Wf8 f.t f.top f.a f.b)
  | 0x6 => .ok (.cvtWf5F32 f.t f.top f.a f.b)
  | 0x7 => .ok (.cvtF32Wf5 f.t f.top f.a f.b)
  | 0x8 => .ok (.cvtWf3F32 f.t f.top f.a f.b)
  | 0x9 => .ok (.cvtF32Wf3 f.t f.top f.a f.b)
  | _ => .error (.unassigned (0xA0 + col))

/-- Opcodes 0xB0-0xBF of 05 R79. -/
def decodeRowB (col : Nat) (f : WordFields) : Except Reject Instr :=
  match col with
  | 0x0 => .ok (.faddF64 f.t f.top f.a f.b)
  | 0x1 => .ok (.fsubF64 f.t f.top f.a f.b)
  | 0x2 => .ok (.fmulF64 f.t f.top f.a f.b)
  | 0x3 => .ok (.fmacF64 f.t f.top f.a f.b)
  | 0x4 => .ok (.fdivF64 f.t f.top f.a f.b)
  | 0x5 => f.noB (.fsqrtF64 f.t f.top f.a)
  | 0x6 => .ok (.fminF64 f.t f.top f.a f.b)
  | 0x7 => .ok (.fmaxF64 f.t f.top f.a f.b)
  | 0x8 => f.noB (.cvtF64F32 f.t f.top f.a)
  | 0x9 => f.noB (.cvtF32F64 f.t f.top f.a)
  | 0xA => f.noB (.cvtF64S32 f.t f.top f.a)
  | 0xB => f.noB (.cvtS32F64 f.t f.top f.a)
  | 0xC => f.noB (.fabsF64 f.t f.top f.a)
  | 0xD => f.noB (.fnegF64 f.t f.top f.a)
  | _ => .error (.unassigned (0xB0 + col))

/-- Opcodes 0xC0-0xCF of 05 R79. -/
def decodeRowC (col : Nat) (f : WordFields) : Except Reject Instr :=
  match col with
  | 0x0 => .ok (.ldN32 f.t f.top f.a f.imm6)
  | 0x1 => .ok (.ldS16 f.t f.top f.a f.imm6)
  | 0x2 => .ok (.ldN16 f.t f.top f.a f.imm6)
  | 0x3 => .ok (.ldS8 f.t f.top f.a f.imm6)
  | 0x4 => .ok (.ldN8 f.t f.top f.a f.imm6)
  | 0x5 => .ok (.stN32 f.t f.top f.a f.imm6)
  | 0x6 => .ok (.stN16 f.t f.top f.a f.imm6)
  | 0x7 => .ok (.stN8 f.t f.top f.a f.imm6)
  | 0x8 => f.noTop (.pf f.t f.a f.imm6)
  | 0x9 => .ok (.gstN32 f.t f.top f.a f.imm6)
  | 0xA => .ok (.gstN16 f.t f.top f.a f.imm6)
  | 0xB => .ok (.gstN8 f.t f.top f.a f.imm6)
  | 0xC => .ok (.ldN64 f.t f.top f.a f.imm6)
  | 0xD => .ok (.stN64 f.t f.top f.a f.imm6)
  | _ => .error (.unassigned (0xC0 + col))

/-- Opcodes 0xD0-0xDF of 05 R79. -/
def decodeRowD (col : Nat) (f : WordFields) : Except Reject Instr :=
  match col with
  | 0x0 => .ok (.amo f.t f.top f.a f.b f.lit)
  | 0x1 => .ok (.amoc f.t f.top f.a f.b f.lit)
  | 0x2 => .ok (.sems f.t f.top f.a f.b)
  | 0x3 => .ok (.semw f.t f.top f.a f.b)
  | 0x4 => .ok (.arrive f.t f.top f.a f.b)
  | 0x8 => .ok (.fencel f.t f.top f.a f.b)
  | 0x9 => .ok (.fenceh f.t f.top f.a f.b)
  | 0xA => f.noLow (.fence f.t f.lit)
  | 0xB => f.noLow (.ifence f.t)
  | _ => .error (.unassigned (0xD0 + col))

/-- Opcodes 0xE0-0xEF of 05 R79. -/
def decodeRowE (col : Nat) (f : WordFields) : Except Reject Instr :=
  match col with
  | 0x0 => .ok (.mcmd f.t f.top f.a f.b)
  | 0x1 => .ok (.scmd f.t f.top f.a f.b)
  | 0x2 => .ok (.qcmd f.t f.top f.a f.b)
  | 0x8 => .ok (.ask f.t f.top f.a f.b)
  | 0x9 => f.noTop (.answer f.t f.a f.b)
  | 0xA => f.noTopImm112 (.setpg f.t f.imm2)
  | _ => .error (.unassigned (0xE0 + col))

/-- Opcodes 0xF0-0xFF of 05 R79. -/
def decodeRowF (col : Nat) (f : WordFields) : Except Reject Instr :=
  match col with
  | 0x0 => f.noLow (.nop f.t)
  | 0x1 => f.noTop (.trap f.t f.imm12)
  | 0x2 => f.noTop (.bkpt f.t f.imm12)
  | 0x3 => .ok (.srd f.t f.top f.imm12)
  | 0x4 => .ok (.swr f.t f.top f.imm12)
  | _ => .error (.unassigned (0xF0 + col))

/-- The instruction of a slot word and the word after it, which only an X-format instruction reads (05 R73, R79). -/
def decodeWord (w lit : Word) : Except Reject Instr :=
  let f := WordFields.of w lit
  let col := wordField w 18 4
  match wordField w 22 4 with
  | 0x0 => decodeRow0 col f
  | 0x1 => decodeRow1 col f
  | 0x2 => decodeRow2 col f
  | 0x3 => decodeRow3 col f
  | 0x4 => decodeRow4 col f
  | 0x5 => decodeRow5 col f
  | 0x6 => decodeRow6 col f
  | 0x7 => decodeRow7 col f
  | 0x8 => decodeRow8 col f
  | 0x9 => decodeRow9 col f
  | 0xA => decodeRowA col f
  | 0xB => decodeRowB col f
  | 0xC => decodeRowC col f
  | 0xD => decodeRowD col f
  | 0xE => decodeRowE col f
  | _ => decodeRowF col f

/-- X format: the word after it is its literal (05 R73). -/
def Instr.hasLiteral (i : Instr) : Bool :=
  match i with
  | .lit .. | .fence .. | .amo .. | .amoc .. => true
  | _ => false

/-- The little-endian word of four bytes. -/
def wordOfBytes (b0 b1 b2 b3 : Byte) : Word := b3 ++ b2 ++ b1 ++ b0

/-- Decodes the instruction that bytes begin with, and answers the bytes after it: four bytes, or eight where the
instruction has a literal. -/
def decode (bytes : List Byte) : Except Reject (Instr × List Byte) :=
  match bytes with
  | b0 :: b1 :: b2 :: b3 :: rest =>
    let w := wordOfBytes b0 b1 b2 b3
    match rest with
    | c0 :: c1 :: c2 :: c3 :: rest' =>
      match decodeWord w (wordOfBytes c0 c1 c2 c3) with
      | .error e => .error e
      | .ok i => if i.hasLiteral then .ok (i, rest') else .ok (i, rest)
    | _ =>
      match decodeWord w 0 with
      | .error e => .error e
      | .ok i => if i.hasLiteral then .error .truncated else .ok (i, rest)
  | _ => .error .truncated

/-- The lowest `n` bytes of a number, the first at the lowest address. -/
def bytesOfNat (w : Nat) : Nat → List Byte
  | 0 => []
  | n + 1 => BitVec.ofNat 8 w :: bytesOfNat (w / 256) n

/-- The instruction the decoder reads where the bits of w lie at the lowest addresses and the bits above are 0. -/
def decodeTableWord (nbits w : Nat) : Option Instr :=
  match decode (bytesOfNat (w % 2 ^ nbits) 8) with
  | .ok (i, _) => some i
  | .error _ => none

/-! ## The encoder -/

/-- R, S, M and E formats (05 R71). -/
def wordR (t : Trig) (opcode top a b : Nat) : Word :=
  BitVec.ofNat 32 (t.set.val * 2 ^ 30 + t.heddle.val * 2 ^ 26 + opcode * 2 ^ 18 + top * 2 ^ 12 + a * 2 ^ 6 + b)

/-- L format (05 R71). -/
def wordL (t : Trig) (opcode top imm12 : Nat) : Word :=
  BitVec.ofNat 32 (t.set.val * 2 ^ 30 + t.heddle.val * 2 ^ 26 + opcode * 2 ^ 18 + top * 2 ^ 12 + imm12)

/-- The words of an instruction of a slot: the slot word, then the literal of an X-format instruction (05 R71, R73). A
step of another part has none. -/
def encode (i : Instr) : List Word :=
  match i with
  | .addiS32 t d a i => [wordR t 0x01 d.toNat a.toNat i.toNat]
  | .addS32 t d a b => [wordR t 0x02 d.toNat a.toNat b.toNat]
  | .addsS32 t d a b => [wordR t 0x03 d.toNat a.toNat b.toNat]
  | .subS32 t d a b => [wordR t 0x04 d.toNat a.toNat b.toNat]
  | .subsS32 t d a b => [wordR t 0x05 d.toNat a.toNat b.toNat]
  | .negS32 t d a => [wordR t 0x06 d.toNat a.toNat 0]
  | .absS32 t d a => [wordR t 0x07 d.toNat a.toNat 0]
  | .addS16 t d a b => [wordR t 0x08 d.toNat a.toNat b.toNat]
  | .addsS16 t d a b => [wordR t 0x09 d.toNat a.toNat b.toNat]
  | .subS16 t d a b => [wordR t 0x0A d.toNat a.toNat b.toNat]
  | .subsS16 t d a b => [wordR t 0x0B d.toNat a.toNat b.toNat]
  | .mulS32 t d a b => [wordR t 0x10 d.toNat a.toNat b.toNat]
  | .mulhS32 t d a b => [wordR t 0x11 d.toNat a.toNat b.toNat]
  | .mulhN32 t d a b => [wordR t 0x12 d.toNat a.toNat b.toNat]
  | .macS32 t d a b => [wordR t 0x13 d.toNat a.toNat b.toNat]
  | .mulS16 t d a b => [wordR t 0x14 d.toNat a.toNat b.toNat]
  | .dotS8 t d a b => [wordR t 0x15 d.toNat a.toNat b.toNat]
  | .dotN8 t d a b => [wordR t 0x16 d.toNat a.toNat b.toNat]
  | .divS32 t d a b => [wordR t 0x18 d.toNat a.toNat b.toNat]
  | .divN32 t d a b => [wordR t 0x19 d.toNat a.toNat b.toNat]
  | .remS32 t d a b => [wordR t 0x1A d.toNat a.toNat b.toNat]
  | .remN32 t d a b => [wordR t 0x1B d.toNat a.toNat b.toNat]
  | .minS32 t d a b => [wordR t 0x1C d.toNat a.toNat b.toNat]
  | .maxS32 t d a b => [wordR t 0x1D d.toNat a.toNat b.toNat]
  | .minN32 t d a b => [wordR t 0x1E d.toNat a.toNat b.toNat]
  | .maxN32 t d a b => [wordR t 0x1F d.toNat a.toNat b.toNat]
  | .and t d a b => [wordR t 0x20 d.toNat a.toNat b.toNat]
  | .or t d a b => [wordR t 0x21 d.toNat a.toNat b.toNat]
  | .xor t d a b => [wordR t 0x22 d.toNat a.toNat b.toNat]
  | .not t d a => [wordR t 0x26 d.toNat a.toNat 0]
  | .andi t d a i => [wordR t 0x27 d.toNat a.toNat i.toNat]
  | .shl t d a b => [wordR t 0x28 d.toNat a.toNat b.toNat]
  | .shr t d a b => [wordR t 0x29 d.toNat a.toNat b.toNat]
  | .sar t d a b => [wordR t 0x2A d.toNat a.toNat b.toNat]
  | .shli t d a i => [wordR t 0x2C d.toNat a.toNat i.toNat]
  | .shri t d a i => [wordR t 0x2D d.toNat a.toNat i.toNat]
  | .sari t d a i => [wordR t 0x2E d.toNat a.toNat i.toNat]
  | .clz t d a => [wordR t 0x30 d.toNat a.toNat 0]
  | .ctz t d a => [wordR t 0x31 d.toNat a.toNat 0]
  | .popc t d a => [wordR t 0x32 d.toNat a.toNat 0]
  | .ldi t d i => [wordL t 0x37 d.toNat i.toNat]
  | .ldhi t d i => [wordL t 0x38 d.toNat i.toNat]
  | .lit t d lit => [wordL t 0x3F d.toNat 0, lit]
  | .ceqS32 t d a b => [wordR t 0x40 d.toNat a.toNat b.toNat]
  | .cneS32 t d a b => [wordR t 0x41 d.toNat a.toNat b.toNat]
  | .cltS32 t d a b => [wordR t 0x42 d.toNat a.toNat b.toNat]
  | .cleS32 t d a b => [wordR t 0x43 d.toNat a.toNat b.toNat]
  | .cgtS32 t d a b => [wordR t 0x44 d.toNat a.toNat b.toNat]
  | .cgeS32 t d a b => [wordR t 0x45 d.toNat a.toNat b.toNat]
  | .cltN32 t d a b => [wordR t 0x46 d.toNat a.toNat b.toNat]
  | .cleN32 t d a b => [wordR t 0x47 d.toNat a.toNat b.toNat]
  | .cgtN32 t d a b => [wordR t 0x48 d.toNat a.toNat b.toNat]
  | .cgeN32 t d a b => [wordR t 0x49 d.toNat a.toNat b.toNat]
  | .ceqF32 t d a b => [wordR t 0x4A d.toNat a.toNat b.toNat]
  | .cneF32 t d a b => [wordR t 0x4B d.toNat a.toNat b.toNat]
  | .cltF32 t d a b => [wordR t 0x4C d.toNat a.toNat b.toNat]
  | .cleF32 t d a b => [wordR t 0x4D d.toNat a.toNat b.toNat]
  | .cunF32 t d a b => [wordR t 0x4E d.toNat a.toNat b.toNat]
  | .pand t d a b => [wordR t 0x50 d.toNat a.toNat b.toNat]
  | .por t d a b => [wordR t 0x51 d.toNat a.toNat b.toNat]
  | .pxor t d a b => [wordR t 0x52 d.toNat a.toNat b.toNat]
  | .ceqF64 t d a b => [wordR t 0x55 d.toNat a.toNat b.toNat]
  | .cltF64 t d a b => [wordR t 0x56 d.toNat a.toNat b.toNat]
  | .cleF64 t d a b => [wordR t 0x57 d.toNat a.toNat b.toNat]
  | .cunF64 t d a b => [wordR t 0x58 d.toNat a.toNat b.toNat]
  | .ctag t d a i => [wordR t 0x59 d.toNat a.toNat i.toNat]
  | .mov t d a => [wordR t 0x60 d.toNat a.toNat 0]
  | .tagv t d a b => [wordR t 0x61 d.toNat a.toNat b.toNat]
  | .selv t d a i => [wordR t 0x62 d.toNat a.toNat i.toNat]
  | .drop t a => [wordR t 0x63 0 a.toNat 0]
  | .selPn t n d a b => [wordR t (0x68 + n.val) d.toNat a.toNat b.toNat]
  | .send t x l => [wordL t 0x70 x.toNat l.toNat]
  | .sendr t d a b => [wordR t 0x71 d.toNat a.toNat b.toNat]
  | .done t c => [wordL t 0x72 0 c.toNat]
  | .spawn t d a b => [wordR t 0x7C d.toNat a.toNat b.toNat]
  | .faddF32 t d a b => [wordR t 0x80 d.toNat a.toNat b.toNat]
  | .fsubF32 t d a b => [wordR t 0x81 d.toNat a.toNat b.toNat]
  | .fmulF32 t d a b => [wordR t 0x82 d.toNat a.toNat b.toNat]
  | .fmacF32 t d a b => [wordR t 0x83 d.toNat a.toNat b.toNat]
  | .fnmacF32 t d a b => [wordR t 0x84 d.toNat a.toNat b.toNat]
  | .fminF32 t d a b => [wordR t 0x85 d.toNat a.toNat b.toNat]
  | .fmaxF32 t d a b => [wordR t 0x86 d.toNat a.toNat b.toNat]
  | .fabsF32 t d a => [wordR t 0x87 d.toNat a.toNat 0]
  | .fnegF32 t d a => [wordR t 0x88 d.toNat a.toNat 0]
  | .fcpsgnF32 t d a b => [wordR t 0x89 d.toNat a.toNat b.toNat]
  | .frsqsF32 t d a => [wordR t 0x8A d.toNat a.toNat 0]
  | .frcpsF32 t d a => [wordR t 0x8B d.toNat a.toNat 0]
  | .fex2sF32 t d a => [wordR t 0x8C d.toNat a.toNat 0]
  | .flg2sF32 t d a => [wordR t 0x8D d.toNat a.toNat 0]
  | .fclsF32 t d a => [wordR t 0x8E d.toNat a.toNat 0]
  | .frndF32 t d a => [wordR t 0x8F d.toNat a.toNat 0]
  | .faddH16 t d a b => [wordR t 0x90 d.toNat a.toNat b.toNat]
  | .fsubH16 t d a b => [wordR t 0x91 d.toNat a.toNat b.toNat]
  | .fmulH16 t d a b => [wordR t 0x92 d.toNat a.toNat b.toNat]
  | .fmacH16 t d a b => [wordR t 0x93 d.toNat a.toNat b.toNat]
  | .fminH16 t d a b => [wordR t 0x94 d.toNat a.toNat b.toNat]
  | .fmaxH16 t d a b => [wordR t 0x95 d.toNat a.toNat b.toNat]
  | .fdotH16 t d a b => [wordR t 0x96 d.toNat a.toNat b.toNat]
  | .fdmacH16 t d a b => [wordR t 0x97 d.toNat a.toNat b.toNat]
  | .cvtF32S32 t d a => [wordR t 0x98 d.toNat a.toNat 0]
  | .cvtS32F32 t d a => [wordR t 0x99 d.toNat a.toNat 0]
  | .cvtF32N32 t d a => [wordR t 0x9A d.toNat a.toNat 0]
  | .cvtN32F32 t d a => [wordR t 0x9B d.toNat a.toNat 0]
  | .cvtH16F32 t d a b => [wordR t 0x9C d.toNat a.toNat b.toNat]
  | .cvtlF32H16 t d a => [wordR t 0x9D d.toNat a.toNat 0]
  | .cvthF32H16 t d a => [wordR t 0x9E d.toNat a.toNat 0]
  | .cvtS8F32 t d a => [wordR t 0x9F d.toNat a.toNat 0]
  | .cvtMx8e4F32 t d a b => [wordR t 0xA0 d.toNat a.toNat b.toNat]
  | .cvtMx8e5F32 t d a b => [wordR t 0xA1 d.toNat a.toNat b.toNat]
  | .cvtF32Mx8e4 t d a b => [wordR t 0xA2 d.toNat a.toNat b.toNat]
  | .cvtF32Mx8e5 t d a b => [wordR t 0xA3 d.toNat a.toNat b.toNat]
  | .cvtWf8F32 t d a b => [wordR t 0xA4 d.toNat a.toNat b.toNat]
  | .cvtF32Wf8 t d a b => [wordR t 0xA5 d.toNat a.toNat b.toNat]
  | .cvtWf5F32 t d a b => [wordR t 0xA6 d.toNat a.toNat b.toNat]
  | .cvtF32Wf5 t d a b => [wordR t 0xA7 d.toNat a.toNat b.toNat]
  | .cvtWf3F32 t d a b => [wordR t 0xA8 d.toNat a.toNat b.toNat]
  | .cvtF32Wf3 t d a b => [wordR t 0xA9 d.toNat a.toNat b.toNat]
  | .faddF64 t d a b => [wordR t 0xB0 d.toNat a.toNat b.toNat]
  | .fsubF64 t d a b => [wordR t 0xB1 d.toNat a.toNat b.toNat]
  | .fmulF64 t d a b => [wordR t 0xB2 d.toNat a.toNat b.toNat]
  | .fmacF64 t d a b => [wordR t 0xB3 d.toNat a.toNat b.toNat]
  | .fdivF64 t d a b => [wordR t 0xB4 d.toNat a.toNat b.toNat]
  | .fsqrtF64 t d a => [wordR t 0xB5 d.toNat a.toNat 0]
  | .fminF64 t d a b => [wordR t 0xB6 d.toNat a.toNat b.toNat]
  | .fmaxF64 t d a b => [wordR t 0xB7 d.toNat a.toNat b.toNat]
  | .cvtF64F32 t d a => [wordR t 0xB8 d.toNat a.toNat 0]
  | .cvtF32F64 t d a => [wordR t 0xB9 d.toNat a.toNat 0]
  | .cvtF64S32 t d a => [wordR t 0xBA d.toNat a.toNat 0]
  | .cvtS32F64 t d a => [wordR t 0xBB d.toNat a.toNat 0]
  | .fabsF64 t d a => [wordR t 0xBC d.toNat a.toNat 0]
  | .fnegF64 t d a => [wordR t 0xBD d.toNat a.toNat 0]
  | .ldN32 t d a w => [wordR t 0xC0 d.toNat a.toNat w.toNat]
  | .ldS16 t d a w => [wordR t 0xC1 d.toNat a.toNat w.toNat]
  | .ldN16 t d a w => [wordR t 0xC2 d.toNat a.toNat w.toNat]
  | .ldS8 t d a w => [wordR t 0xC3 d.toNat a.toNat w.toNat]
  | .ldN8 t d a w => [wordR t 0xC4 d.toNat a.toNat w.toNat]
  | .stN32 t d a w => [wordR t 0xC5 d.toNat a.toNat w.toNat]
  | .stN16 t d a w => [wordR t 0xC6 d.toNat a.toNat w.toNat]
  | .stN8 t d a w => [wordR t 0xC7 d.toNat a.toNat w.toNat]
  | .pf t a w => [wordR t 0xC8 0 a.toNat w.toNat]
  | .gstN32 t d a w => [wordR t 0xC9 d.toNat a.toNat w.toNat]
  | .gstN16 t d a w => [wordR t 0xCA d.toNat a.toNat w.toNat]
  | .gstN8 t d a w => [wordR t 0xCB d.toNat a.toNat w.toNat]
  | .ldN64 t d a w => [wordR t 0xCC d.toNat a.toNat w.toNat]
  | .stN64 t d a w => [wordR t 0xCD d.toNat a.toNat w.toNat]
  | .amo t d a b lit => [wordR t 0xD0 d.toNat a.toNat b.toNat, lit]
  | .amoc t d a b lit => [wordR t 0xD1 d.toNat a.toNat b.toNat, lit]
  | .sems t d a b => [wordR t 0xD2 d.toNat a.toNat b.toNat]
  | .semw t d a b => [wordR t 0xD3 d.toNat a.toNat b.toNat]
  | .arrive t d a b => [wordR t 0xD4 d.toNat a.toNat b.toNat]
  | .fencel t d a b => [wordR t 0xD8 d.toNat a.toNat b.toNat]
  | .fenceh t d a b => [wordR t 0xD9 d.toNat a.toNat b.toNat]
  | .fence t lit => [wordL t 0xDA 0 0, lit]
  | .ifence t => [wordL t 0xDB 0 0]
  | .mcmd t d a b => [wordR t 0xE0 d.toNat a.toNat b.toNat]
  | .scmd t d a b => [wordR t 0xE1 d.toNat a.toNat b.toNat]
  | .qcmd t d a b => [wordR t 0xE2 d.toNat a.toNat b.toNat]
  | .ask t d a b => [wordR t 0xE8 d.toNat a.toNat b.toNat]
  | .answer t a b => [wordR t 0xE9 0 a.toNat b.toNat]
  | .setpg t n => [wordL t 0xEA 0 n.toNat]
  | .nop t => [wordL t 0xF0 0 0]
  | .trap t c => [wordL t 0xF1 0 c.toNat]
  | .bkpt t c => [wordL t 0xF2 0 c.toNat]
  | .srd t d i => [wordL t 0xF3 d.toNat i.toNat]
  | .swr t d i => [wordL t 0xF4 d.toNat i.toNat]
  | _ => []

/-- The bytes of the words of an instruction, each word little-endian. -/
def encodeBytes (i : Instr) : List Byte := (encode i).flatMap fun w => bytesOfNat w.toNat 4

/-! ## Sequencer commands and control tokens (10 R202, 12 R226) -/

/-- The bits [lo + n - 1 : lo] of a 64-bit word. -/
def dwordField (c : DWord) (lo n : Nat) : Nat := c.toNat / 2 ^ lo % 2 ^ n

/-- The instruction, where every bit of a word outside [lo + n - 1 : lo] of its form is 0 as the form says. -/
def zeroField (c : DWord) (lo n : Nat) (i : Instr) : Option Instr := if dwordField c lo n == 0 then some i else none

/-- The sequencer command of 64 bits; `none` for an unassigned opcode, a reserved field that is not 0 or a reserved value
(10 R202). -/
def decodeSeq (c : DWord) : Option Instr :=
  let f (lo n : Nat) : Nat := dwordField c lo n
  let st : BitVec 3 := .ofNat 3 (f 56 3)
  match f 59 5 with
  | 0x00 => zeroField c 0 59 .halt
  | 0x01 => some (.streamRd st (.ofNat 32 (f 24 32)) (.ofNat 12 (f 12 12)) (.ofNat 12 (f 0 12)))
  | 0x02 => some (.streamWr st (.ofNat 32 (f 24 32)) (.ofNat 12 (f 12 12)) (.ofNat 12 (f 0 12)))
  | 0x03 => zeroField c 24 32 (.snextRd st (.ofNat 12 (f 12 12)) (.ofNat 12 (f 0 12)))
  | 0x04 => zeroField c 24 32 (.snextWr st (.ofNat 12 (f 12 12)) (.ofNat 12 (f 0 12)))
  | 0x05 => zeroField c 0 24 (.sadd st (.ofNat 32 (f 24 32)))
  | 0x06 => zeroField c 0 37 (.deliver st (.ofNat 4 (f 52 4)) (.ofNat 12 (f 40 12)) (.ofNat 3 (f 37 3)))
  | 0x07 => zeroField c 0 39 (.push (.ofNat 2 (f 54 2)) (.ofNat 3 (f 51 3)) st (.ofNat 12 (f 39 12)))
  | 0x08 => zeroField c 0 52 (.accept st (.ofNat 4 (f 52 4)))
  | 0x09 => zeroField c 0 53 (.spcopy st (.ofNat 3 (f 53 3)))
  | 0x0A => zeroField c 0 15 (.galloc (.ofNat 6 (f 53 6)) (.ofNat 19 (f 34 19)) (.ofNat 19 (f 15 19)))
  | 0x0B => zeroField c 0 53 (.gfree (.ofNat 6 (f 53 6)))
  | 0x0C => zeroField c 0 51 (.sbar (.ofNat 8 (f 51 8)))
  | 0x0D => zeroField c 0 34 (.loop (.ofNat 1 (f 58 1)) (.ofNat 16 (f 42 16)) (.ofNat 8 (f 34 8)))
  | 0x0E =>
    if f 56 2 == 3 then none
    else zeroField c 0 40 (.lpset (.ofNat 1 (f 58 1)) (.ofNat 2 (f 56 2)) (.ofNat 16 (f 40 16)))
  | 0x0F =>
    if f 55 4 == 0 then none
    else zeroField c 0 22 (.segw (.ofNat 4 (f 55 4)) (.ofNat 1 (f 54 1)) (.ofNat 32 (f 22 32)))
  | 0x10 => zeroField c 0 59 .qwait
  | 0x11 => zeroField c 0 40 (.fupd (.ofNat 19 (f 40 19)))
  | 0x12 => zeroField c 0 44 (.notify (.ofNat 8 (f 51 8)) (.ofNat 7 (f 44 7)))
  | 0x13 => zeroField c 0 33 (.ssig (.ofNat 10 (f 49 10)) (.ofNat 16 (f 33 16)))
  | 0x14 => zeroField c 0 33 (.swait (.ofNat 10 (f 49 10)) (.ofNat 16 (f 33 16)))
  | _ => none

/-- The instruction, where the bits of the two words of a control token under the masks are 0. -/
def zeroToken (w0 w1 : Word) (m0 m1 : Word) (i : Instr) : Option Instr :=
  if w0 &&& m0 == 0 && w1 &&& m1 == 0 then some i else none

/-- The control token of two words; `none` for a reserved opcode or a reserved field that is not 0 (12 R226). -/
def decodeToken (w0 w1 : Word) : Option Instr :=
  let f (lo n : Nat) : Nat := wordField w0 lo n
  let g (lo n : Nat) : Nat := wordField w1 lo n
  let m : BitVec 7 := .ofNat 7 (g 25 7)
  let q : BitVec 1 := .ofNat 1 (f 26 1)
  let tr : BitVec 1 := .ofNat 1 (f 25 1)
  let ring : BitVec 3 := .ofNat 3 (f 22 3)
  let oa : BitVec 16 := .ofNat 16 (f 0 16)
  match f 28 4 with
  | 0x0 => zeroToken w0 w1 0x000007FF 0x00003FFF
      (.mma (.ofNat 2 (f 26 2)) tr ring (.ofNat 3 (f 19 3)) (.ofNat 4 (f 15 4)) (.ofNat 4 (f 11 4)) m (.ofNat 8 (g 17 8))
        (.ofNat 3 (g 14 3)))
  | 0x1 => zeroToken w0 w1 0x001F0000 0x0001FFFF
      (.accw (.ofNat 2 (f 26 2)) (.ofNat 4 (f 22 4)) (.ofNat 1 (f 21 1)) oa m (.ofNat 8 (g 17 8)))
  | 0x2 => zeroToken w0 w1 0x03FF0000 0x0001FFFF (.accl (.ofNat 2 (f 26 2)) oa m (.ofNat 8 (g 17 8)))
  | 0x3 => zeroToken w0 w1 0x0FFFFFFF 0x3C000000
      (.msig (.ofNat 2 (g 30 2)) (.ofNat 16 (g 10 16)) (.ofNat 10 (g 0 10)))
  | 0x4 => zeroToken w0 w1 0x01FFFFFF 0xFFFFFFFF (.rpop (.ofNat 3 (f 25 3)))
  | 0x5 => zeroToken w0 w1 0x0801FFFF 0x0000007F
      (.qinit q (.ofNat 2 (f 24 2)) (.ofNat 7 (f 17 7)) (.ofNat 16 (g 16 16)) (.ofNat 2 (g 14 2)) (.ofNat 7 (g 7 7)))
  | 0x6 => zeroToken w0 w1 0x0A007FFF 0xFFFFFFFF (.qadd q ring (.ofNat 7 (f 15 7)))
  | 0x7 => zeroToken w0 w1 0x083F0000 0x01FFFFFF (.qapl q tr ring oa m)
  | 0x8 => zeroToken w0 w1 0x083F0000 0x01FFFFFF (.qapr q tr ring oa m)
  | 0x9 => zeroToken w0 w1 0x0BFFFFFF 0xFFFFFFFF (.qcnt q)
  | 0xA => zeroToken w0 w1 0x0BFF0000 0xFFFFFFFF (.qspl q oa)
  | 0xB => zeroToken w0 w1 0x0BFF0000 0xFFFFFFFF (.qldv q oa)
  | _ => none

/-- Fields of a command word: pairs of a value and the place of its lowest bit. -/
def packFields (l : List (Nat × Nat)) : Nat := l.foldl (fun n p => n + p.1 * 2 ^ p.2) 0

/-- The 64 bits of a sequencer command (10 R202). -/
def encodeSeq (i : Instr) : DWord :=
  let c (op : Nat) (l : List (Nat × Nat)) : DWord := .ofNat 64 (packFields ((op, 59) :: l))
  match i with
  | .halt => c 0x00 []
  | .streamRd st base n d => c 0x01 [(st.toNat, 56), (base.toNat, 24), (n.toNat, 12), (d.toNat, 0)]
  | .streamWr st base n d => c 0x02 [(st.toNat, 56), (base.toNat, 24), (n.toNat, 12), (d.toNat, 0)]
  | .snextRd st n d => c 0x03 [(st.toNat, 56), (n.toNat, 12), (d.toNat, 0)]
  | .snextWr st n d => c 0x04 [(st.toNat, 56), (n.toNat, 12), (d.toNat, 0)]
  | .sadd st d => c 0x05 [(st.toNat, 56), (d.toNat, 24)]
  | .deliver st p r e => c 0x06 [(st.toNat, 56), (p.toNat, 52), (r.toNat, 40), (e.toNat, 37)]
  | .push n r st b => c 0x07 [(st.toNat, 56), (n.toNat, 54), (r.toNat, 51), (b.toNat, 39)]
  | .accept st p => c 0x08 [(st.toNat, 56), (p.toNat, 52)]
  | .spcopy a b => c 0x09 [(a.toNat, 56), (b.toNat, 53)]
  | .galloc g o b => c 0x0A [(g.toNat, 53), (o.toNat, 34), (b.toNat, 15)]
  | .gfree g => c 0x0B [(g.toNat, 53)]
  | .sbar m => c 0x0C [(m.toNat, 51)]
  | .loop n k e => c 0x0D [(n.toNat, 58), (k.toNat, 42), (e.toNat, 34)]
  | .lpset n r v => c 0x0E [(n.toNat, 58), (r.toNat, 56), (v.toNat, 40)]
  | .segw n h v => c 0x0F [(n.toNat, 55), (h.toNat, 54), (v.toNat, 22)]
  | .qwait => c 0x10 []
  | .fupd d => c 0x11 [(d.toNat, 40)]
  | .notify m l => c 0x12 [(m.toNat, 51), (l.toNat, 44)]
  | .ssig m n => c 0x13 [(m.toNat, 49), (n.toNat, 33)]
  | .swait m n => c 0x14 [(m.toNat, 49), (n.toNat, 33)]
  | _ => 0

/-- A sequencer command, with the values that 10 R202 reserves left out. -/
def Instr.isSeq (i : Instr) : Bool :=
  match i with
  | .halt | .streamRd .. | .streamWr .. | .snextRd .. | .snextWr .. | .sadd .. | .deliver .. | .push .. | .accept .. => true
  | .spcopy .. | .galloc .. | .gfree .. | .sbar .. | .loop .. | .qwait | .fupd .. | .notify .. | .ssig .. | .swait .. => true
  | .lpset _ r _ => r != 3
  | .segw n _ _ => n != 0
  | _ => false

/-- The two words of a control token (12 R226). -/
def encodeToken (i : Instr) : Word × Word :=
  let c (op : Nat) (l m : List (Nat × Nat)) : Word × Word :=
    (.ofNat 32 (packFields ((op, 28) :: l)), .ofNat 32 (packFields m))
  match i with
  | .mma acc a ra rb fa fb m n k =>
    c 0x0 [(acc.toNat, 26), (a.toNat, 25), (ra.toNat, 22), (rb.toNat, 19), (fa.toNat, 15), (fb.toNat, 11)]
      [(m.toNat, 25), (n.toNat, 17), (k.toNat, 14)]
  | .accw acc f sat oa m n =>
    c 0x1 [(acc.toNat, 26), (f.toNat, 22), (sat.toNat, 21), (oa.toNat, 0)] [(m.toNat, 25), (n.toNat, 17)]
  | .accl acc oa m n => c 0x2 [(acc.toNat, 26), (oa.toNat, 0)] [(m.toNat, 25), (n.toNat, 17)]
  | .msig kind n sem => c 0x3 [] [(kind.toNat, 30), (n.toNat, 10), (sem.toNat, 0)]
  | .rpop r => c 0x4 [(r.toNat, 25)] []
  | .qinit q mode n oa var k =>
    c 0x5 [(q.toNat, 26), (mode.toNat, 24), (n.toNat, 17)] [(oa.toNat, 16), (var.toNat, 14), (k.toNat, 7)]
  | .qadd q r p => c 0x6 [(q.toNat, 26), (r.toNat, 22), (p.toNat, 15)] []
  | .qapl q t r oa k => c 0x7 [(q.toNat, 26), (t.toNat, 25), (r.toNat, 22), (oa.toNat, 0)] [(k.toNat, 25)]
  | .qapr q t r oa k => c 0x8 [(q.toNat, 26), (t.toNat, 25), (r.toNat, 22), (oa.toNat, 0)] [(k.toNat, 25)]
  | .qcnt q => c 0x9 [(q.toNat, 26)] []
  | .qspl q oa => c 0xA [(q.toNat, 26), (oa.toNat, 0)] []
  | .qldv q oa => c 0xB [(q.toNat, 26), (oa.toNat, 0)] []
  | _ => (0, 0)

/-- A control token. -/
def Instr.isToken (i : Instr) : Bool :=
  match i with
  | .mma .. | .accw .. | .accl .. | .msig .. | .rpop .. | .qinit .. | .qadd .. | .qapl .. | .qapr .. | .qcnt .. => true
  | .qspl .. | .qldv .. => true
  | _ => false

end Sys2Proof
end

