-- ==== Sys2Proof/Config.lean ====
section
/-!
DEFINITION. What the spec leaves open and what one device fixes: free values with no body, so that no proof can rest on
what they are. The log entries named beside each say where the spec leaves it open.
-/
namespace Sys2Proof.Config

/-- A free value, fresh at each use: the step applies it to the counter `State.fresh` and advances the counter (log 5). -/
opaque freeWord : Nat → Word

/-- Which agent moves next where `State.agenda` names none (14 R248: any enabled step may be taken; log 1), and which step
where the choice falls on a step of another part. -/
opaque freeChoice : Nat → Nat
opaque freeEvent : Nat → Option Instr

/-- ML-DSA-44 verification of a signature over a digest under the public key the image carries (02 R17, 24 R378): named
by the spec, not defined there (log 11). Arguments: key bytes, digest bytes, signature bytes. -/
opaque mldsaVerify : List Byte → List Byte → List Byte → Bool

/-- The number of this device in the pod (04 R61): given to no register, fixed for the device (log 13). -/
opaque deviceNumber : Nat

/-- How many requests beyond the first the arrival queue of a home slice holds (09 R190 cause 4, 14 R246): a size that the
spec does not give (log 130). -/
opaque arrivalDepth : Nat

/-- The slot words and kinds of the management firmware (24 R376), which the spec does not give: the firmware's number, the
die, the element, the page and the index of the word in the page (log 131). -/
opaque firmwareWord : Nat → Nat → Nat → Nat → Nat → Word

/-- The bytes of an SPDM 1.3 response to a request: the standard's format, which the spec does not give (24 R379; log 16).
Arguments: the request's code, its bytes, and the facts that the spec has the response carry. -/
opaque spdmMessage : Nat → List Byte → List Byte → List Byte

/-- The device identity certificate (24 R379), measurements 1 and 2 of a firmware, and signatures by the identity key (log 16). -/
opaque identityCertificate : List Byte
opaque firmwareDigest : Nat → Nat → List Byte
opaque identitySign : List Byte → List Byte

/-- How an area of a save image is laid out whose contents the spec names and whose layout it leaves open (19 R340): the bytes of
the contents, and the contents of bytes that have been changed since they were written (log 80). Arguments: the area, the
contents or the bytes. -/
opaque areaBytes {α : Type} (area : Nat) (contents : α) : List Byte
opaque areaContents {α : Type} [Inhabited α] (area : Nat) (bytes : List Byte) : α

end Sys2Proof.Config
end

