-- ==== Sys2Proof/Machine/Flags.lean ====
section
/-!
DEFINITION. Number formats, exact magnitudes, rounding and the flags that record what rounding lost (07 R120-R138, and
the seed tables of 08 R161-R165). Every floating-point result of the device is computed here from exact values.
-/
namespace Sys2Proof.Machine
open Sys2Proof

/-! ## The sticky flags (07 R132) -/

/-- The flags of `fl`: bit 5 SAT, 4 NV, 3 DZ, 2 OF, 1 UF, 0 NX (07 R132). -/
abbrev Flags := BitVec 6

def flagSAT : Flags := 0x20#6
def flagNV : Flags := 0x10#6
def flagDZ : Flags := 0x08#6
def flagOF : Flags := 0x04#6
def flagUF : Flags := 0x02#6
def flagNX : Flags := 0x01#6

/-- The flag when the condition holds, no flag otherwise. -/
def flagIf (c : Bool) (f : Flags) : Flags := if c then f else 0

/-- True when a floating-point flag is among them: SAT is none and sets no exception bit (07 R132). -/
def Flags.isFloat (f : Flags) : Bool := f &&& 0x1F#6 != 0

/-! ## Rounding modes (07 R127) -/

/-- The rounding modes RNE, RTZ, RDN, RUP and SR, codes 0-4 (02 R20, 07 R127). -/
inductive RMode where
  | rne | rtz | rdn | rup | sr
  deriving DecidableEq, Repr

/-- The rounding mode of a code; codes 5-7 are rejected by check 5 of 02 R23 and read as RNE here. -/
def RMode.ofCode (n : Nat) : RMode :=
  match n with
  | 1 => .rtz
  | 2 => .rdn
  | 3 => .rup
  | 4 => .sr
  | _ => .rne

/-- One step of the generator lf (05 R76). -/
def lfStep (x : Word) : Word :=
  let x := x ^^^ (x <<< 13)
  let x := x ^^^ (x >>> 17)
  x ^^^ (x <<< 5)

/-! ## Exact values -/

/-- A binary floating-point format: fraction bits, bias, and the code of its largest finite magnitude (07 R120, R122). -/
structure Fmt where
  frac : Nat
  bias : Nat
  ebits : Nat
  deriving DecidableEq, Repr

def fmt64 : Fmt := { frac := 52, bias := 1023, ebits := 11 }
def fmt32 : Fmt := { frac := 23, bias := 127, ebits := 8 }
def fmtFP16 : Fmt := { frac := 10, bias := 15, ebits := 5 }
def fmtBF16 : Fmt := { frac := 7, bias := 127, ebits := 8 }

/-- Width of a code in bits. -/
def Fmt.width (f : Fmt) : Nat := f.frac + f.ebits + 1
/-- The magnitude code of infinity (07 R121). -/
def Fmt.infMag (f : Fmt) : Nat := (2 ^ f.ebits - 1) * 2 ^ f.frac
/-- The code of the sign bit. -/
def Fmt.signBit (f : Fmt) : Nat := 2 ^ (f.frac + f.ebits)
/-- The default NaN: positive, quiet, all other fraction bits 0 (07 R121). -/
def Fmt.defaultNaN (f : Fmt) : Nat := f.infMag + 2 ^ (f.frac - 1)

/-- What a code stands for: a NaN with its fraction and the fraction's width, an infinity, or the exact number
(-1)^neg * num * 2^exp. -/
inductive FVal where
  | nan (neg signalling : Bool) (frac width : Nat)
  | inf (neg : Bool)
  | fin (neg : Bool) (num : Nat) (exp : Int)
  deriving DecidableEq, Repr

/-- The value of a code of an IEEE format or BF16 (07 R121). -/
def Fmt.decode (f : Fmt) (code : Nat) : FVal :=
  let neg := code / f.signBit % 2 == 1
  let mag := code % f.signBit
  let e := mag / 2 ^ f.frac
  let m := mag % 2 ^ f.frac
  if e == 2 ^ f.ebits - 1 then
    if m == 0 then .inf neg else .nan neg (m / 2 ^ (f.frac - 1) == 0) m f.frac
  else if e == 0 then .fin neg m (1 - (f.bias : Int) - f.frac)
  else .fin neg (2 ^ f.frac + m) ((e : Int) - f.bias - f.frac)

def FVal.isNaN : FVal → Bool
  | .nan .. => true
  | _ => false
def FVal.isSignalling : FVal → Bool
  | .nan _ s _ _ => s
  | _ => false
def FVal.isInf : FVal → Bool
  | .inf _ => true
  | _ => false
def FVal.isZero : FVal → Bool
  | .fin _ n _ => n == 0
  | _ => false
def FVal.neg : FVal → Bool
  | .nan n _ _ _ => n
  | .inf n => n
  | .fin n _ _ => n
/-- The value with its sign inverted. -/
def FVal.negate : FVal → FVal
  | .nan n s f w => .nan n s f w
  | .inf n => .inf (!n)
  | .fin n m e => .fin (!n) m e

/-- A NaN quietened into a format: sign and high fraction bits kept, top fraction bit set (07 R130). -/
def Fmt.quiet (f : Fmt) (neg : Bool) (frac width : Nat) : Nat :=
  let m := if width ≤ f.frac then frac * 2 ^ (f.frac - width) else frac / 2 ^ (width - f.frac)
  let top := 2 ^ (f.frac - 1)
  (if neg then f.signBit else 0) + f.infMag + top + m % top

/-! ## Rounding (07 R127, R128) -/

/-- Rounds num * 2^exp (a little more when `sticky`) to a multiple of 2^u: the multiple, and whether it differs. `r` is
the generator's new state in SR mode (07 R128). -/
def quantize (mode : RMode) (r : Nat) (neg : Bool) (num : Nat) (exp : Int) (sticky : Bool) (u : Int) : Nat × Bool :=
  if exp ≥ u then (num * 2 ^ (exp - u).toNat, sticky)
  else
    let sh := (u - exp).toNat
    let big := 2 ^ sh
    let q := num / big
    let rem := num % big
    let inexact := sticky || rem != 0
    let up := inexact && match mode with
      | .rne => decide (2 * rem > big) || (2 * rem == big && (sticky || q % 2 == 1))
      | .rtz => false
      | .rdn => neg
      | .rup => !neg
      | .sr => decide (r ≤ rem * 2 ^ 32 / big)
    (if up then q + 1 else q, inexact)

/-- What a rounding gives: the magnitude code with an unbounded exponent, and whether it lost anything. -/
structure Rounded where
  mag : Nat
  inexact : Bool
  tiny : Bool
  deriving DecidableEq, Repr

/-- The value rounded with an unbounded exponent lies below the smallest normal magnitude 2^emin (07 R131; log 7): at the
precision of the format it does not round up to 2^emin. `e` is the exponent of the leading bit of num * 2^exp. -/
def roundsTiny (f : Fmt) (mode : RMode) (r : Nat) (neg : Bool) (num : Nat) (exp : Int) (sticky : Bool) (e emin : Int) :
    Bool :=
  decide (e + 1 < emin)
    || (decide (e < emin) && decide ((quantize mode r neg num exp sticky (e - f.frac)).1 < 2 ^ (f.frac + 1)))

/-- Rounds an exact magnitude into the codes of a format whose exponent has no upper end (07 R127, R131). -/
def roundMag (f : Fmt) (mode : RMode) (r : Nat) (neg : Bool) (num : Nat) (exp : Int) (sticky : Bool) : Rounded :=
  if num == 0 then { mag := 0, inexact := sticky, tiny := sticky }
  else
    let e : Int := Nat.log2 num + exp
    let emin : Int := 1 - (f.bias : Int)
    let e' := if e < emin then emin else e
    let q := quantize mode r neg num exp sticky (e' - f.frac)
    { mag := q.1 + (e' - emin).toNat * 2 ^ f.frac, inexact := q.2,
      tiny := roundsTiny f mode r neg num exp sticky e emin }

/-- A floating-point result: the code written, the flags raised, and whether it is a zero that underflowed (the result
a sparse port suppresses, 07 R136). -/
structure FRes where
  bits : Nat
  flags : Flags
  ufZero : Bool := false
  deriving DecidableEq, Repr

/-- A result without flags. -/
def FRes.exact (n : Nat) : FRes := { bits := n, flags := 0 }

/-- Rounds an exact number into an IEEE format or BF16, overflow by mode (07 R127; log 8). -/
def Fmt.round (f : Fmt) (mode : RMode) (r : Nat) (neg : Bool) (num : Nat) (exp : Int) (sticky : Bool) : FRes :=
  let x := roundMag f mode r neg num exp sticky
  let s := if neg then f.signBit else 0
  if x.mag ≥ f.infMag then
    let toMax := match mode with
      | .rtz => true
      | .rdn => !neg
      | .rup => neg
      | _ => false
    { bits := s + (if toMax then f.infMag - 1 else f.infMag), flags := flagOF ||| flagNX }
  else
    { bits := s + x.mag,
      flags := flagIf x.inexact flagNX ||| flagIf (x.inexact && x.tiny) flagUF,
      ufZero := x.inexact && x.tiny && x.mag == 0 }

/-! ## Sums and products (07 R127, R130, R137) -/

/-- The exact product of two values, and whether it is the invalid 0 times infinity. A NaN operand gives a NaN term. -/
def mulFVal (a b : FVal) : FVal × Bool :=
  match a, b with
  | .nan n s f w, _ => (.nan n s f w, false)
  | _, .nan n s f w => (.nan n s f w, false)
  | .inf n, .inf m => (.inf (n != m), false)
  | .inf n, .fin m k _ => (.inf (n != m), k == 0)
  | .fin n k _, .inf m => (.inf (n != m), k == 0)
  | .fin n k e, .fin m l g => (.fin (n != m) (k * l) (e + g), false)

/-- The least exponent among finite terms, or `d`. -/
def leastExp (d : Int) : List FVal → Int
  | [] => d
  | .fin _ k e :: ts => if k != 0 && decide (e < d) then leastExp e ts else leastExp d ts
  | _ :: ts => leastExp d ts

/-- The exact sum of finite terms as a multiple of 2^u. -/
def sumAt (u : Int) : List FVal → Int
  | [] => 0
  | .fin n k e :: ts =>
    let m : Int := if k == 0 then 0 else (k * 2 ^ (e - u).toNat : Nat)
    (if n then -m else m) + sumAt u ts
  | _ :: ts => sumAt u ts

/-- Infinities of both signs among the terms. -/
def oppositeInf (ts : List FVal) : Bool := ts.any (· == .inf true) && ts.any (· == .inf false)

/-- The rounded exact sum of terms: NaN selection from `nans` in order (07 R130), the sign of an exact zero (07 R127), one
rounding (07 R137). `invalid` says that a product was 0 times infinity. -/
def sumRound (f : Fmt) (mode : RMode) (r : Nat) (nans terms : List FVal) (invalid : Bool) : FRes :=
  let bad := invalid || oppositeInf terms
  match nans.find? FVal.isNaN with
  | some (.nan n _ fr w) => { bits := f.quiet n fr w, flags := flagIf (bad || nans.any FVal.isSignalling) flagNV }
  | _ =>
    if bad then { bits := f.defaultNaN, flags := flagNV }
    else match terms.find? FVal.isInf with
      | some t => .exact ((if t.neg then f.signBit else 0) + f.infMag)
      | none =>
        let u := leastExp 4096 terms
        let m := sumAt u terms
        if m == 0 then
          let neg := if terms.all (fun t => t.isZero && t.neg) then true
            else if terms.all (fun t => t.isZero && !t.neg) then false
            else mode == .rdn
          .exact (if neg then f.signBit else 0)
        else f.round mode r (decide (m < 0)) m.natAbs u false

/-- a + b (08 R148). -/
def fadd (f : Fmt) (mode : RMode) (r : Nat) (a b : Nat) : FRes :=
  let x := f.decode a
  let y := f.decode b
  sumRound f mode r [x, y] [x, y] false

/-- a - b (08 R148). -/
def fsub (f : Fmt) (mode : RMode) (r : Nat) (a b : Nat) : FRes :=
  let x := f.decode a
  let y := f.decode b
  sumRound f mode r [x, y] [x, y.negate] false

/-- a * b (08 R148). The sign of a zero product is the exclusive or of the signs. -/
def fmul (f : Fmt) (mode : RMode) (r : Nat) (a b : Nat) : FRes :=
  let x := f.decode a
  let y := f.decode b
  let p := mulFVal x y
  match p.1 with
  | .fin n 0 _ => .exact (if n then f.signBit else 0)
  | _ => sumRound f mode r [x, y] [p.1] p.2

/-- dst + a * b with one rounding, or dst - a * b when `minus` (08 R148). -/
def fmac (f : Fmt) (mode : RMode) (r : Nat) (minus : Bool) (a b dst : Nat) : FRes :=
  let x := f.decode a
  let y := f.decode b
  let z := f.decode dst
  let p := mulFVal x y
  sumRound f mode r [x, y, z] [z, if minus then p.1.negate else p.1] p.2

/-- a0 * b0 + a1 * b1 (+ dst) in half format `h`, rounded once to binary32 (08 R154). -/
def fdot (h : Fmt) (mode : RMode) (r : Nat) (a b : Nat) (dst : Option Nat) : FRes :=
  let a0 := h.decode (a % 65536)
  let b0 := h.decode (b % 65536)
  let a1 := h.decode (a / 65536 % 65536)
  let b1 := h.decode (b / 65536 % 65536)
  let p := mulFVal a0 b0
  let q := mulFVal a1 b1
  let d := (dst.map fmt32.decode).toList
  sumRound fmt32 mode r ([a0, b0, a1, b1] ++ d) ([p.1, q.1] ++ d) (p.2 || q.2)

/-! ## Minimum, maximum, classes and comparisons (08 R149-R151, 06 R103) -/

/-- The order of the codes of one format, the two zeros apart (-0 below +0). -/
def Fmt.key (f : Fmt) (code : Nat) : Int :=
  if code / f.signBit % 2 == 1 then -((code % f.signBit : Nat) : Int) - 1 else (code % f.signBit : Nat)

/-- The lesser (or, when `greater`, the greater) of two codes (08 R149). -/
def fminmax (f : Fmt) (greater : Bool) (a b : Nat) : FRes :=
  let x := f.decode a
  let y := f.decode b
  let nv := flagIf (x.isSignalling || y.isSignalling) flagNV
  match x, y with
  | .nan n _ fr w, .nan .. => { bits := f.quiet n fr w, flags := nv }
  | .nan .., _ => { bits := b, flags := nv }
  | _, .nan .. => { bits := a, flags := nv }
  | _, _ => { bits := if decide (f.key a < f.key b) != greater then a else b, flags := nv }

/-- The comparisons of 06 R103. -/
inductive Cmp where
  | eq | ne | lt | le | un
  deriving DecidableEq, Repr

/-- A floating-point comparison: its truth, and NV as the last column of 06 R103 gives it. -/
def fcmp (f : Fmt) (c : Cmp) (a b : Nat) : Bool × Flags :=
  let x := f.decode a
  let y := f.decode b
  let nan := x.isNaN || y.isNaN
  let sig := x.isSignalling || y.isSignalling
  let zz := x.isZero && y.isZero
  let eq := !nan && (zz || f.key a == f.key b)
  let lt := !nan && !zz && decide (f.key a < f.key b)
  match c with
  | .eq => (eq, flagIf sig flagNV)
  | .ne => (!eq, flagIf sig flagNV)
  | .lt => (lt, flagIf nan flagNV)
  | .le => (lt || eq, flagIf nan flagNV)
  | .un => (nan, flagIf sig flagNV)

/-- The one-hot class mask of a binary32 code (08 R151). -/
def fclass (a : Nat) : Nat :=
  match fmt32.decode a with
  | .nan _ s _ _ => if s then 2 ^ 8 else 2 ^ 9
  | .inf n => if n then 2 ^ 0 else 2 ^ 7
  | .fin n k _ =>
    if k == 0 then (if n then 2 ^ 3 else 2 ^ 4)
    else if k < 2 ^ 23 then (if n then 2 ^ 2 else 2 ^ 5)
    else (if n then 2 ^ 1 else 2 ^ 6)

/-- Rounding to an integral binary32 value (08 R152). -/
def frnd (mode : RMode) (r : Nat) (a : Nat) : FRes :=
  match fmt32.decode a with
  | .nan n s fr w => { bits := fmt32.quiet n fr w, flags := flagIf s flagNV }
  | .inf _ => .exact a
  | .fin n k e =>
    let q := quantize mode r n k e false 0
    if q.2 then { bits := (fmt32.round .rtz 0 n q.1 0 false).bits, flags := flagNX } else .exact a

/-! ## Division and square root (08 R159) -/

/-- Newton's iteration from above for the integer square root. -/
def isqrtFrom : Nat → Nat → Nat → Nat
  | 0, _, x => x
  | k + 1, n, x =>
    let y := (x + n / x) / 2
    if y < x then isqrtFrom k n y else x

/-- The integer square root. -/
def isqrt (n : Nat) : Nat := if n == 0 then 0 else isqrtFrom 600 n (2 ^ (Nat.log2 n / 2 + 1))

/-- a / b, correctly rounded (08 R159). -/
def fdiv (f : Fmt) (mode : RMode) (r : Nat) (a b : Nat) : FRes :=
  let x := f.decode a
  let y := f.decode b
  let s := if x.neg != y.neg then f.signBit else 0
  let nan : FRes := { bits := f.defaultNaN, flags := flagNV }
  match x, y with
  | .nan n _ fr w, _ => { bits := f.quiet n fr w, flags := flagIf (x.isSignalling || y.isSignalling) flagNV }
  | _, .nan n _ fr w => { bits := f.quiet n fr w, flags := flagIf y.isSignalling flagNV }
  | .inf _, .inf _ => nan
  | .inf _, .fin .. => .exact (s + f.infMag)
  | .fin .., .inf _ => .exact s
  | .fin _ k e, .fin _ l g =>
    if l == 0 then (if k == 0 then nan else { bits := s + f.infMag, flags := flagDZ })
    else if k == 0 then .exact s
    else
      let big := k * 2 ^ 220
      f.round mode r (x.neg != y.neg) (big / l) (e - g - 220) (big % l != 0)

/-- The square root, correctly rounded (08 R159). -/
def fsqrt (f : Fmt) (mode : RMode) (r : Nat) (a : Nat) : FRes :=
  match f.decode a with
  | .nan n s fr w => { bits := f.quiet n fr w, flags := flagIf s flagNV }
  | .inf n => if n then { bits := f.defaultNaN, flags := flagNV } else .exact a
  | .fin n k e =>
    if k == 0 then .exact a
    else if n then { bits := f.defaultNaN, flags := flagNV }
    else
      let m := if e % 2 == 0 then k * 2 ^ 240 else k * 2 ^ 241
      let e' := if e % 2 == 0 then e else e - 1
      let q := isqrt m
      f.round mode r false q (e' / 2 - 120) (q * q != m)

/-! ## Conversions (07 R133, 08 R155-R160) -/

/-- From one IEEE format to another (or BF16): widening is exact, narrowing rounds (07 R130, R133). -/
def fconv (src dst : Fmt) (mode : RMode) (r : Nat) (a : Nat) : FRes :=
  match src.decode a with
  | .nan n s fr w => { bits := dst.quiet n fr w, flags := flagIf s flagNV }
  | .inf n => .exact ((if n then dst.signBit else 0) + dst.infMag)
  | .fin n k e => if k == 0 then .exact (if n then dst.signBit else 0) else dst.round mode r n k e false

/-- From an integer to a format (08 R155). -/
def intToF (dst : Fmt) (mode : RMode) (r : Nat) (v : Int) : FRes :=
  if v == 0 then .exact 0 else dst.round mode r (decide (v < 0)) v.natAbs 0 false

/-- From a format to an integer in [lo, hi]: NaN gives 0 with NV, beyond the range saturates with NV (07 R133). The
result is the two's complement of the value in 32 bits. -/
def fToInt (src : Fmt) (mode : RMode) (r : Nat) (lo hi : Int) (a : Nat) : FRes :=
  let word (v : Int) : Nat := (v % 4294967296).toNat
  match src.decode a with
  | .nan .. => { bits := 0, flags := flagNV }
  | .inf n => { bits := word (if n then lo else hi), flags := flagNV }
  | .fin n k e =>
    let q := quantize mode r n k e false 0
    let v : Int := if n then -(q.1 : Int) else q.1
    if v < lo then { bits := word lo, flags := flagNV }
    else if v > hi then { bits := word hi, flags := flagNV }
    else { bits := word v, flags := flagIf q.2 flagNX }

/-! ## Microscaling and weft codes (07 R122-R126, R133, 08 R156-R158) -/

/-- The element formats of the block-scaled types. -/
inductive BFmt where
  | mx8e4 | mx8e5 | mx6e2 | mx6e3 | mx4 | mxi8 | wf8 | wf5 | wf3
  deriving DecidableEq, Repr

/-- Width of a code in bits (07 R122, R125). -/
def BFmt.width : BFmt → Nat
  | .mx8e4 => 8 | .mx8e5 => 8 | .mx6e2 => 6 | .mx6e3 => 6 | .mx4 => 4 | .mxi8 => 8 | .wf8 => 8 | .wf5 => 5 | .wf3 => 3

/-- emax of scale selection (07 R122, R125). -/
def BFmt.emax : BFmt → Nat
  | .mx8e4 => 8 | .mx8e5 => 15 | .mx6e2 => 2 | .mx6e3 => 4 | .mx4 => 2 | .mxi8 => 0 | .wf8 => 0 | .wf5 => 0 | .wf3 => 0

/-- q of a weft format: its magnitude has q + 1 bits (07 R125); 6 for mxi8, whose step is 2^-6. -/
def BFmt.q : BFmt → Nat
  | .wf8 => 6 | .wf5 => 3 | .wf3 => 1 | .mxi8 => 6 | _ => 0

def BFmt.isWeft : BFmt → Bool
  | .wf8 => true | .wf5 => true | .wf3 => true | _ => false

/-- The layout of an MX floating-point format as a format of exponent and fraction (07 R122). -/
def BFmt.fmt : BFmt → Fmt
  | .mx8e4 => { frac := 3, bias := 7, ebits := 4 }
  | .mx8e5 => { frac := 2, bias := 15, ebits := 5 }
  | .mx6e2 => { frac := 3, bias := 1, ebits := 2 }
  | .mx6e3 => { frac := 2, bias := 3, ebits := 3 }
  | _ => { frac := 1, bias := 1, ebits := 2 }

/-- The magnitude code of the largest finite value (07 R122). -/
def BFmt.maxMag : BFmt → Nat
  | .mx8e4 => 0x7E | .mx8e5 => 0x7B | .mx6e2 => 0x1F | .mx6e3 => 0x1F | .mx4 => 0x7 | .mxi8 => 0x7F
  | .wf8 => 0x7F | .wf5 => 0xF | .wf3 => 0x3

/-- Formats with no NaN code of their own: a NaN makes the whole block NaN through its scale (07 R133, R134). -/
def BFmt.noNaN : BFmt → Bool
  | .mx6e2 => true | .mx6e3 => true | .mx4 => true | .mxi8 => true | _ => false

/-- The NaN code of a format that has one, NaR for weft (07 R122, R125). -/
def BFmt.nanCode (b : BFmt) (neg : Bool) : Nat :=
  match b with
  | .mx8e4 | .mx8e5 => if neg then 0xFF else 0x7F
  | .wf8 => 0x80
  | .wf5 => 0x10
  | .wf3 => 0x4
  | _ => 0

/-- The exact value of a code under scale X and micro-exponent mu; `none` where it is a NaN (07 R122, R123, R125). An
infinity only of mx8e5. -/
def BFmt.decode (b : BFmt) (code x mu : Nat) : FVal :=
  let nan : FVal := .nan false false (2 ^ 22) 23
  let sc : Int := (x : Int) - 127
  let code := code % 2 ^ b.width
  if x == 0xFF then nan
  else if b.isWeft then
    let s := code / 2 ^ (b.width - 1) == 1
    let m := code % 2 ^ (b.width - 1)
    if m == 0 then (if s then nan else .fin false 0 0) else .fin s m (sc - b.q - mu)
  else if b == .mxi8 then
    if code ≥ 128 then .fin true (256 - code) (sc - 6) else .fin false code (sc - 6)
  else
    let f := b.fmt
    let neg := code / f.signBit % 2 == 1
    let mag := code % f.signBit
    let e := mag / 2 ^ f.frac
    let m := mag % 2 ^ f.frac
    if b == .mx8e4 && mag == 0x7F then nan
    else if b == .mx8e5 && mag == 0x7C then .inf neg
    else if b == .mx8e5 && mag > 0x7C then nan
    else if e == 0 then .fin neg m (1 - (f.bias : Int) - f.frac + sc)
    else .fin neg (2 ^ f.frac + m) ((e : Int) - f.bias - f.frac + sc)

/-- Encodes a value into an element code under scale X (and mu), always RNE (07 R129, R133, 08 R157). `sat` is the
saturating mode. A format without NaN gives code 0 with NV for a NaN; its block scale becomes 0xFF (07 R134). -/
def BFmt.encode (b : BFmt) (sat : Bool) (x mu : Nat) (v : FVal) : FRes :=
  let sc : Int := (x : Int) - 127
  if x == 0xFF then { bits := b.nanCode v.neg, flags := flagNV }
  else if b.isWeft then
    match v with
    | .fin n k e =>
      let q := quantize .rne 0 n k (e - sc + b.q + mu) false 0
      let m := if q.1 > b.maxMag then b.maxMag else q.1
      { bits := if m == 0 then 0 else (if n then 2 ^ (b.width - 1) else 0) + m,
        flags := flagIf (q.1 > b.maxMag) (flagOF ||| flagNX) ||| flagIf q.2 flagNX
          ||| flagIf (m == 0 && k != 0) (flagUF ||| flagNX),
        ufZero := m == 0 && k != 0 }
    | _ => { bits := b.nanCode false, flags := flagNV }
  else if b == .mxi8 then
    match v with
    | .nan .. => { bits := 0, flags := flagNV }
    | .inf n => { bits := if n then 0x81 else 0x7F, flags := flagNV }
    | .fin n k e =>
      let q := quantize .rne 0 n k (e - sc + 6) false 0
      let m := if q.1 > 127 then 127 else q.1
      { bits := if n then (256 - m) % 256 else m,
        flags := flagIf (q.1 > 127) (flagOF ||| flagNX) ||| flagIf q.2 flagNX
          ||| flagIf (m == 0 && k != 0) (flagUF ||| flagNX),
        ufZero := m == 0 && k != 0 }
  else
    let f := b.fmt
    let s (n : Bool) : Nat := if n then f.signBit else 0
    match v with
    | .nan n sig _ _ => { bits := b.nanCode n, flags := flagIf (sig || b.noNaN) flagNV }
    | .inf n =>
      if b.noNaN then { bits := s n + b.maxMag, flags := flagNV }
      else if sat then { bits := s n + b.maxMag, flags := flagOF }
      else if b == .mx8e5 then .exact (s n + 0x7C)
      else { bits := b.nanCode n, flags := flagNV }
    | .fin n k e =>
      let y := roundMag f .rne 0 n k (e - sc) false
      if y.mag > b.maxMag then { bits := s n + b.maxMag, flags := flagOF ||| flagNX }
      else { bits := s n + y.mag,
             flags := flagIf y.inexact flagNX ||| flagIf (y.inexact && y.tiny) flagUF,
             ufZero := y.inexact && y.tiny && y.mag == 0 }

/-- The encoding forms of an element (08 R157): NV for a signalling NaN in every form. -/
def encodeElem (b : BFmt) (a scale : Nat) : FRes :=
  let x := scale % 256
  let bit8 := scale / 256 % 2
  let v := fmt32.decode a
  let y := b.encode (bit8 == 1) x bit8 v
  { y with flags := y.flags ||| flagIf v.isSignalling flagNV }

/-- The decoding forms of an element (08 R158): rounded only beyond the binary32 range, by mode, SR as RNE. -/
def decodeElem (b : BFmt) (mode : RMode) (a scale : Nat) : FRes :=
  match b.decode a (scale % 256) (scale / 256 % 2) with
  | .nan .. => .exact fmt32.defaultNaN
  | .inf n => .exact ((if n then fmt32.signBit else 0) + fmt32.infMag)
  | .fin n k e =>
    if k == 0 then .exact (if n then fmt32.signBit else 0)
    else fmt32.round (if mode == .sr then .rne else mode) 0 n k e false

/-! ## Scale selection (07 R134, R135) -/

/-- floor(log2 |v|) of a finite nonzero value. -/
def FVal.log2? : FVal → Option Int
  | .fin _ k e => if k == 0 then none else some (Nat.log2 k + e)
  | _ => none

/-- The largest of the logarithms of the finite nonzero values: that of amax. -/
def maxLog2 : List FVal → Option Int
  | [] => none
  | v :: vs =>
    match v.log2?, maxLog2 vs with
    | none, m => m
    | some l, none => some l
    | some l, some m => some (if l > m then l else m)

/-- The MX or weft scale X of a block, before a NaN forces it to 0xFF (07 R134). -/
def selectScale (b : BFmt) (vs : List FVal) : Nat :=
  match maxLog2 vs with
  | none => 0x7F
  | some l =>
    let x := l - b.emax + 127
    if x < 0 then 0 else if x > 254 then 254 else x.toNat

/-- The scale of an MX block with the NaN rule of the formats that hold no NaN (07 R134). -/
def blockScale (b : BFmt) (vs : List FVal) : Nat :=
  if b.noNaN && vs.any FVal.isNaN then 0xFF else selectScale b vs

/-- The micro-exponent of a pair (07 R135). -/
def microExp (b : BFmt) (x : Nat) (v w : FVal) : Nat :=
  let m (u : FVal) : Nat := match u with
    | .fin _ k e => (quantize .rne 0 false k (e - ((x : Int) - 127) + b.q + 1) false 0).1
    | _ => 0
  if m v ≤ b.maxMag && m w ≤ b.maxMag then 1 else 0

/-! ## Seeds (08 R161-R165) -/

/-- A finite nonzero binary32 value normalised to m * 2^e with m in [1, 2): the 23 fraction bits of m, and e. -/
def normalise (k : Nat) (e : Int) : Nat × Int :=
  let l := Nat.log2 k
  (if l ≤ 23 then k * 2 ^ (23 - l) % 2 ^ 23 else k / 2 ^ (l - 23) % 2 ^ 23, l + e)

/-- frsqs.f32 (08 R162). -/
def frsqs (a : Nat) : FRes :=
  match fmt32.decode a with
  | .nan n s fr w => { bits := fmt32.quiet n fr w, flags := flagIf s flagNV }
  | .inf n => if n then { bits := fmt32.defaultNaN, flags := flagNV } else .exact 0
  | .fin n k e =>
    if k == 0 then { bits := (if n then fmt32.signBit else 0) + fmt32.infMag, flags := flagDZ }
    else if n then { bits := fmt32.defaultNaN, flags := flagNV }
    else
      let (fr, x) := normalise k e
      let f := fr / 2 ^ 12
      if x % 2 == 0 then
        if fr == 0 then .exact (fmt32.round .rne 0 false 1 (-(x / 2)) false).bits
        else
          let q := (isqrt (2 ^ 42 / (4096 + 2 * f + 1)) + 1) / 2
          .exact (fmt32.round .rne 0 false q (-14 - x / 2) false).bits
      else
        let q := (isqrt (2 ^ 41 / (4096 + 2 * f + 1)) + 1) / 2
        .exact (fmt32.round .rne 0 false q (-14 - (x - 1) / 2) false).bits

/-- frcps.f32 (08 R163). -/
def frcps (a : Nat) : FRes :=
  match fmt32.decode a with
  | .nan n s fr w => { bits := fmt32.quiet n fr w, flags := flagIf s flagNV }
  | .inf n => .exact (if n then fmt32.signBit else 0)
  | .fin n k e =>
    if k == 0 then { bits := (if n then fmt32.signBit else 0) + fmt32.infMag, flags := flagDZ }
    else
      let (fr, x) := normalise k e
      let d := 8192 + 2 * (fr / 2 ^ 11) + 1
      if fr == 0 then fmt32.round .rne 0 n 1 (-x) false
      else fmt32.round .rne 0 n ((2 ^ 28 + d) / (2 * d)) (-14 - x) false

/-- The largest q of [lo, lo + 2^k) for which (2q - 1)^8192 is at most `bound`, by bisection from the top bit. -/
def ex2Search : Nat → Nat → Nat → Nat
  | 0, _, lo => lo
  | k + 1, bound, lo =>
    let q := lo + 2 ^ k
    ex2Search k bound (if (2 * q - 1) ^ 8192 ≤ bound then q else lo)

/-- fex2s.f32 (08 R164). -/
def fex2s (a : Nat) : FRes :=
  match fmt32.decode a with
  | .nan n s fr w => { bits := fmt32.quiet n fr w, flags := flagIf s flagNV }
  | .inf n => .exact (if n then 0 else fmt32.infMag)
  | .fin n k e =>
    if k == 0 then .exact 0x3F800000
    else
      -- a as a multiple of 2^-149, and its floor
      let m : Int := (k * 2 ^ (e + 149).toNat : Nat)
      let v := if n then -m else m
      let fl := v / 2 ^ 149
      let f := (v % 2 ^ 149).toNat
      if fl ≥ 128 then { bits := fmt32.infMag, flags := flagOF ||| flagNX }
      else
        let fl := if fl < -1000 then -1000 else fl
        if f == 0 then fmt32.round .rne 0 false 1 fl false
        else
          let j := 2 * (f / 2 ^ 137) + 1
          let q := ex2Search 13 (2 ^ (14 * 8192 + j)) 8192
          fmt32.round .rne 0 false q (fl - 13) false

/-- flg2s.f32 (08 R165). -/
def flg2s (a : Nat) : FRes :=
  match fmt32.decode a with
  | .nan n s fr w => { bits := fmt32.quiet n fr w, flags := flagIf s flagNV }
  | .inf n => if n then { bits := fmt32.defaultNaN, flags := flagNV } else .exact fmt32.infMag
  | .fin n k e =>
    if k == 0 then { bits := fmt32.signBit + fmt32.infMag, flags := flagDZ }
    else if n then { bits := fmt32.defaultNaN, flags := flagNV }
    else
      let (fr, x) := normalise k e
      let t : Nat := if fr == 0 then 0
        else (Nat.log2 ((8193 + 2 * (fr / 2 ^ 11)) ^ 131072) - 13 * 131072 + 1) / 2
      let v : Int := x * 65536 + t
      if v == 0 then .exact 0 else .exact (fmt32.round .rne 0 (decide (v < 0)) v.natAbs (-16) false).bits

end Sys2Proof.Machine
end

