-- ==== Sys2Proof/Machine/State.lean ====
section
/-!
DEFINITION. The state of one GZ3, plain data, and the state right after power-on. Every piece of state the spec names
stands here; INVENTORY.md lists each with its rule and its reset value. A table (`Tab`) lists only what differs from
what its reader takes for an unlisted key; memory lists only bytes that are not 0 (log 3).
-/
namespace Sys2Proof.Machine
open Sys2Proof

/-! ## Memory and tokens -/

/-- Memory by address: cells in strictly rising order of address, none of them 0; an unlisted byte reads 0 (log 3). -/
abbrev Mem := List Host.Cell

/-- A token: data, tag (bit 3 exception, bits 2-0 selvage level), and the skip count of a sparse link (06 R84, 07 R136). -/
structure Token where
  data : Word
  tag : BitVec 4 := 0
  skip : Byte := 0
  sparse : Bool := false
  deriving DecidableEq, Repr

/-- The zero data token. -/
def Token.zero : Token := { data := 0 }

/-- One of the four entries of an output port (06 R87, 10 R194): a token, half of an engine command with the number it
completes under, or an entry reserved for the reply to a request, with the token it fills, and the pending exception bit
that its port handed to it with the skip count (07 R136). -/
inductive OutEntry where
  | token (t : Token)
  | command (t : Token) (id : Nat)
  | reserved (id : Nat) (t : Token) (carried : Bool := false)
  deriving DecidableEq, Repr

/-- A shuttle in a network or a send queue (06 R96): its class, who sent it, its route label and payload; a launch of a
home slice has the number of its launch slot (15 R275). -/
structure Shuttle where
  classL : Bool
  source : Nat
  label : Nat
  w0 : Word
  w1 : Word
  launch : Option (Nat × Nat) := none
  deriving DecidableEq, Repr

/-- An entry of a task inbox (06 R96, R100): the handler bit, the payload words, the class, how many words were read. -/
structure InboxEntry where
  bit : Nat
  w0 : Word
  w1 : Word
  classL : Bool
  reads : Nat := 0
  deriving DecidableEq, Repr

/-! ## Requests -/

/-- Where a reply is written (10 R194): nowhere, the reserved entry of an output port, or an operand of the beat that
holds for it. -/
inductive Dest where
  | none
  | port (p : Nat)
  | operand (o : Operand)
  deriving DecidableEq, Repr

/-- What a request of an element asks (10 R192, 14 R249, R257, R258, 15 R268-R289, 17 R297-R319). -/
inductive ReqKind where
  | load (size : Nat) (signed : Bool)
  | store (size : Nat) (data : Nat)
  /-- A guarded store whose guard was not 1 (10 R198). -/
  | skipped
  | prefetch
  | fencelMark
  | fenceh (owner : Nat) (bad : Bool)
  | amo (op size : Nat) (v c : Nat) (path rank ticket : Nat)
  | amoc (op size : Nat) (v c : Nat) (desc : Word)
  | sems (bulkhead sem n : Nat)
  | semw (bulkhead sem n : Nat)
  | arrive (a b : Word)
  | ask (site : Nat) (words : List Token) (est : Word) (estExc : Bool) (feature : Word)
  | answer (header : Word) (words : List Word)
  /-- Page, address word, virtual address, the code of a check that failed at fire or 0, class and reads (17 R319). -/
  | setpg (page : Nat) (pga : Word) (va bad cls reads : Nat)
  | hubRead (index : Nat)
  | hubWrite (index : Nat) (value : Word)
  deriving DecidableEq, Repr

/-- A request in a memory issue queue, a wave reorder buffer or a store buffer (10 R193): its number, the element, the
wave number, the beat, the last-beat mark, the address word and the virtual address it named when it fired, the tensor
class and remaining-reads count of its segment. -/
structure Req where
  id : Nat
  elem : Nat
  kind : ReqKind
  slot : Nat
  wave : Nat := 0
  beat : Nat := 0
  last : Bool := true
  addr : Word := 0
  va : Nat := 0
  cls : Nat := 0
  reads : Nat := 15
  /-- The code that the walk of its translation met (09 R173). -/
  walked : Option Nat := none
  deriving DecidableEq, Repr

/-- An issue in progress (06 R93): slot, words, heddle, N, the beat that runs next or holds, and the request whose reply
the beat holds for (10 R194). -/
structure Issue where
  slot : Nat
  word : Word
  lit : Word
  heddle : DWord
  n : Nat
  beat : Nat
  wait : Option Nat := none
  /-- The semw of its beat has been withdrawn by an end-of-slice sweep: it goes on after restoration (15 R287, 06 R94). -/
  withdrawn : Bool := false
  /-- Its beat has been attempted, and held (06 R94); the spine cycle of the first attempt, in which an enqueue reaches its queue
  (03 R36). -/
  held : Bool := false
  since : Nat := 0
  deriving DecidableEq, Repr

/-- What a withdrawn semw puts back (15 R287): tg, sk, lf, the inbox, its pointers and exposed bits as they stood before the
fire, and tg, sk, lf, the inbox and the pointers as the fire left them. -/
structure Undo where
  tg : BitVec 4
  sk : Byte
  lf : Word
  inbox : List InboxEntry
  ptr : List Nat
  shown : List (Option Nat)
  tgAfter : BitVec 4
  skAfter : Byte
  lfAfter : Word
  inboxAfter : List InboxEntry
  ptrAfter : List Nat
  /-- The beat that fires again. -/
  issue : Issue
  deriving DecidableEq, Repr

/-- A request of an element that is not complete, kept until its reply is written or its write is applied (14 R251):
what it asks, its classes (14 R244), whether it has been performed, whether it is a store to segment 0, where its reply goes, the
exception bit its token starts from, the tokens its fire popped, which a withdrawn semw returns (15 R287), and the
stores an engine command releases (14 R252). -/
structure Pending where
  id : Nat
  kind : ReqKind := .skipped
  classes : BitVec 8
  performed : Bool := false
  left : Bool := false
  handedOver : Bool := false
  isStore : Bool := false
  seg0 : Bool := false
  barrier : Bool := false
  slot : Nat := 0
  wave : Nat := 0
  dest : Dest := .none
  exc : Bool := false
  wide : Bool := false
  /-- It holds a miss-tracking entry of its tile (09 R189). -/
  miss : Bool := false
  /-- The window slot of its exporter that it was accepted through, 8 * bulkhead + slot (04 R64, 14 R266). -/
  via : Option Nat := none
  popped : List (Nat × Token) := []
  covers : List Nat := []
  /-- A semw whose withdrawal has been sent (15 R287). -/
  withdrawn : Bool := false
  /-- What its withdrawal puts back, of a semw (15 R287). -/
  undo : Option Undo := none
  /-- Of a setpg, where the pieces of its page lie, as its hand-over translated them (14 R249). -/
  pieces : List Nat := []
  /-- Its element has been killed or re-run since: its reply is discarded and writes nothing (19 R324, R325). -/
  void : Bool := false
  deriving DecidableEq, Repr

/-- An incomplete fence (14 R256): its predecessor classes and its predecessors by number, its successor classes, its scope. -/
structure Fence where
  pred : BitVec 8
  preds : List Nat
  succ : BitVec 8
  scope : Nat
  deriving DecidableEq, Repr

/-! ## Elements -/

/-- Slots, kinds and heddles of one page (02 R20, 17 R317). -/
structure Page where
  kinds : DWord := 0
  hmap : BitVec 16 := 0
  heddles : List DWord := List.replicate 16 0
  slots : List Word := List.replicate 32 0
  deriving DecidableEq, Repr

/-- An element record (02 R20), kept for the element re-run of 19 R324. -/
structure ElemRecord where
  policy : Nat := 0
  retryLimit : Nat := 0
  mode : RMode := .rne
  fp16 : Bool := false
  preds : Byte := 0
  seed : Word := 1
  consts : List Word := List.replicate 8 0
  regs : List Word := List.replicate 16 0
  page : Page := {}
  deriving DecidableEq, Repr

/-- Stall, issue and idle counters (09 R190, R191); `upTo` is the first cycle that they have not counted, and `fire` the slot and
beat that an element counted last as ISSUE. -/
structure Counters where
  stall : List Word := List.replicate 10 0
  issue : Word := 0
  idle : Word := 0
  pfdrop : Word := 0
  cmiss : Word := 0
  frz : Bool := false
  upTo : Nat := 0
  fire : Nat × Nat := (0, 0)
  deriving DecidableEq, Repr

/-- One element of a loom or of an evaluator tile. -/
structure Elem where
  record : ElemRecord := {}
  regs : List Word := List.replicate 16 0
  consts : List Word := List.replicate 8 0
  preds : List Bool := List.replicate 8 false
  lf : Word := 1
  fl : Flags := 0
  pages : List (Option Page) := [some {}, none, none, none]
  sel : Nat := 0
  stale : BitVec 4 := 0
  inp : List (List Token) := List.replicate 8 []
  out : List (List OutEntry) := List.replicate 8 []
  sparseCount : List Nat := List.replicate 8 0
  sparseExc : List Bool := List.replicate 8 false
  inbox : List InboxEntry := []
  ptr : List Nat := List.replicate 4 0
  /-- The exposed bit of each set, which stays exposed until a take removes one of its entries (06 R99, R116). -/
  shown : List (Option Nat) := List.replicate 4 none
  tg : BitVec 4 := 0
  sk : Byte := 0
  sendq : List Shuttle := []
  issueq : List Req := []
  pending : List Pending := []
  issue : Option Issue := none
  /-- Beats whose semw an end-of-slice sweep has withdrawn while another issue runs: they fire again after restoration
  (15 R287). -/
  again : List Issue := []
  fence : Option Fence := none
  retries : Nat := 0
  killed : Bool := false
  done : Bool := false
  retired : Bool := false
  swept : Bool := false
  /-- A fault of the element is waiting for its walk (19 R323). -/
  stopped : Bool := false
  /-- Halted by bkpt (DBGCTL.HALT), by a watchpoint or by a slot breakpoint (19 R334, 23 R358). -/
  halted : Bool := false
  /-- The cycle of its last halt (23 R359). -/
  haltAt : Option Nat := none
  /-- A watchpoint halts it at the end of this cycle: slot, address word, wave number (23 R361). -/
  haltNext : Option (Nat × Word × Nat) := none
  /-- One fire, then halt again (23 R359). -/
  stepping : Bool := false
  /-- The first fire after a release passes the slot breakpoints (23 R359). -/
  skipBreak : Bool := false
  shdrop : BitVec 16 := 0
  astat : Byte := 0
  aold : Word := 0
  aohi : Word := 0
  flt : Word := 0
  fltaddr : Word := 0
  bkcode : BitVec 12 := 0
  bken : Bool := false
  bkhalt : Bool := false
  /-- A soft error stands in what the next fire reads (19 R332; log 15). -/
  parity : Bool := false
  pga : List Word := List.replicate 4 0
  pgcause : BitVec 4 := 0
  pgslot : BitVec 5 := 0
  pgpage : BitVec 2 := 0
  sitesel : Byte := 0
  deriving DecidableEq, Repr, Inhabited

/-! ## Translation (09 R169-R173) -/

/-- A cached combined translation: tag of function and process, the page's base and size, its physical base, the combined
permissions and attributes; the intermediate base it goes through. A stage-2 entry has no process. -/
structure TlbEntry where
  fn : Nat
  pasid : Option Nat
  base : Nat
  log2 : Nat
  ipa : Nat
  pa : Nat
  rd : Bool
  wr : Bool
  exe : Bool
  np : Bool
  ns : Bool
  /-- A soft error stands in the entry (19 R332; log 15). -/
  parity : Bool := false
  deriving DecidableEq, Repr

/-! ## Memory tiles and evaluator tiles -/

/-- A store in a store buffer (10 R199, 14 R246): who stored, the request's number, the target (scratchpad offset or
physical address), how many bytes, the data, and the class and reads of its segment. -/
structure StoreEntry where
  elem : Nat
  id : Nat
  scratch : Bool
  addr : Nat
  size : Nat
  data : Nat
  cls : Nat
  reads : Nat
  word : Word
  slot : Nat
  /-- The window slot of its exporter that it was accepted through, 8 * bulkhead + slot (04 R63, R64). -/
  via : Option Nat := none
  deriving DecidableEq, Repr

/-- Wave-table entry (10 R199, R200): PRED and SUCC, 0-63, 64 ANY, 65 NONE. -/
structure WaveEntry where
  pred : Nat
  succ : Nat
  deriving DecidableEq, Repr

/-- A run of a stream (10 R203): direction, the segment registers read at its start, base address word, stride in lines,
lines, how many its consumer has taken or its feeder written, the lines read and waiting, the line that met a fault with
its code, the next line of its prefetches, and the queued command it completes. -/
structure StreamRun where
  write : Bool
  segs : Tab DWord
  base : Word
  stride : Int
  count : Nat
  taken : Nat := 0
  /-- Lines read and not consumed: index, the 64 bytes little-endian, poison mark. -/
  window : List (Nat × Nat × Bool) := []
  fault : Option (Nat × Nat) := none
  prefetched : Nat := 0
  owner : Option (Nat × Nat) := none
  deriving DecidableEq, Repr

/-- What consumes a read run or feeds a write run (10 R204, R205). -/
inductive StreamUser where
  /-- Lines still to push, lines of the next tile written. -/
  | push (island ring lines filled : Nat)
  /-- Tokens of the row sent, tokens waiting for the port. -/
  | deliver (binding row endLevel sent : Nat) (queue : List Token)
  | copyTo (st : Nat)
  | copyFrom (st : Nat)
  | accept (binding : Nat) (words : List Word)
  deriving DecidableEq, Repr

/-- A consumer or feeder command, and the queued command it completes. -/
structure StreamJob where
  what : StreamUser
  owner : Option (Nat × Nat) := none
  deriving DecidableEq, Repr

/-- One address-generator stream: next-base register, run in progress, its consumer or feeder, and the consumer and the
feeder that wait for a run of their kind. -/
structure Stream where
  nb : Word := 0
  run : Option StreamRun := none
  user : Option StreamJob := none
  waiting : Option StreamJob := none
  feed : Option StreamJob := none
  deriving DecidableEq, Repr

/-- A hardware loop (10 R208, R209). -/
structure HwLoop where
  isOpen : Bool := false
  rc : Nat := 0
  start : Nat := 0
  stop : Nat := 0
  latchCount : Option Nat := none
  latchStart : Option Nat := none
  latchEnd : Option Nat := none
  deriving DecidableEq, Repr

/-- A fused update in progress (10 R210, 21 R351): descriptor words, block, counts, flags, and the staged block: header,
weights, momenta, variances; and where the weight, momentum and variance blocks lie, in scratchpad or not. -/
structure FusedUpdate where
  desc : List Word
  index : Nat := 0
  committed : Nat := 0
  skipped : Nat := 0
  flags : Flags := 0
  staged : Option (List Word × List Word × List Word) := none
  targets : List (Bool × Nat) := []
  deriving DecidableEq, Repr

/-- A command of a sequencer that holds it (10 R204): the index it came from, or a queued command. -/
inductive SeqHold where
  | none
  /-- A swait in the waiter list under a number, refused with SEM_BUSY until a cycle, and granted (15 R286). -/
  | swait (sem n id : Nat)
  | swaitBusy (sem n cycle : Nat)
  | granted
  /-- An sbar whose wait has been traced (23 R364). -/
  | bar
  | fupd (u : FusedUpdate)
  deriving DecidableEq, Repr

/-- An engine command waiting in a queue: its 64 bits or two words, who pushed it, the number it completes under. -/
structure EngineCmd where
  hi : Word
  lo : Word
  elem : Nat
  id : Nat
  /-- Where the descriptor word of a streamer command resolved to when it was taken: a virtual address, or an offset of the
  scratchpad of a tile. -/
  va : Nat := 0
  tile : Option Nat := none
  deriving DecidableEq, Repr

/-- A binding of an engine port (10 R211): element, port, kind 0-3, island. -/
structure Binding where
  elem : Nat
  port : Nat
  kind : Nat
  island : Nat
  deriving DecidableEq, Repr

/-! ## Accesses of engines (14 R246-R248) -/

/-- Where an access of an engine lies: in a scratchpad, at a virtual address, at a physical one that is translated already,
or at a virtual address of an endpoint of the pod. -/
inductive Place where
  | scratch (tile off : Nat)
  | va (a : Nat)
  | phys (a : Nat)
  | rank (r a : Nat)
  deriving DecidableEq, Repr

/-- What an engine's access needs of a page (09 R170). -/
inductive Need where
  | read | write | update | exec
  deriving DecidableEq, Repr

/-- One access of an engine: its place, bytes, what it needs of its page; for a write the value and its mark; class and
reads of its segment, and the kind of requester that a guard record keeps (09 R182). -/
structure Access where
  place : Place
  size : Nat
  need : Need := .read
  value : Nat := 0
  mark : Bool := false
  cls : Nat := 0
  reads : Nat := 15
  kind : Nat := 0
  /-- Its address word, and its address as the watchpoints of its tile see it (23 R361). -/
  word : Word := 0
  seen : Nat := 0
  deriving DecidableEq, Repr

/-- What an access came to: the value read, its poison, the code it met. -/
structure Answer where
  value : Nat := 0
  poison : Bool := false
  status : Nat := 0
  deriving DecidableEq, Repr

/-- The accesses of an unfinished step of an engine (14 R248): the engine of 09 R191, its place in the order of a bank (09
R181), what its accesses have answered so far, and the access under way: the line of device memory it holds a miss-tracking
entry for, the lines of a scratchpad that their banks have accepted, the pieces not applied yet, and what those applied gave. -/
structure Work where
  /-- The number that its requests carry. -/
  serial : Nat
  bh : Nat
  engine : Nat
  rank : Nat
  answers : List Answer := []
  now : Option Access := none
  line : Option Nat := none
  accepted : List Nat := []
  left : List Nat := []
  got : Answer := {}
  /-- The stall cause of what it waits for: 2 a walker, 3 a miss-tracking entry, 4 a full arrival queue, 5 a bank; 0 none (09
  R190). -/
  waits : Nat := 0
  /-- Of a read at an endpoint of another device: the UALink port that its request is on (24 R369). -/
  port : Option Nat := none
  deriving DecidableEq, Repr

/-- A watchpoint of a memory tile (23 R361). -/
structure Watchpoint where
  addr : Nat := 0
  ctl : Word := 0
  log2 : Nat := 2
  count : Word := 0
  deriving DecidableEq, Repr

/-- The record of the first touch of a guard granule (09 R182). -/
structure GuardRec where
  bank : Nat
  offset : Nat
  kind : Nat
  later : Nat := 0
  deriving DecidableEq, Repr

/-- The tile level of a compute tile (02 R15, R18): its policy, retry limit and count, and whether it has been killed. -/
structure TileLevel where
  policy : Nat := 3
  retryLimit : Nat := 0
  retries : Nat := 0
  killed : Bool := false
  deriving DecidableEq, Repr

/-- A memory tile (0-31 of a bulkhead) or an evaluator tile (32, 33): scratchpad, segments, TLB, wave tables, buffers,
sequencer, streams, watchpoints, counters. -/
structure Tile where
  scratch : Mem := []
  poison : List Nat := []
  policy : Nat := 3
  retryLimit : Nat := 0
  retries : Nat := 0
  killed : Bool := false
  drained : Bool := false
  segs : Tab DWord := []
  tlb : List TlbEntry := []
  waves : Tab WaveEntry := []
  waveL : Tab Nat := []
  wrb : List Req := []
  sbuf : List StoreEntry := []
  streams : Tab Stream := []
  loops : Tab HwLoop := []
  program : List DWord := []
  index : Nat := 0
  halted : Bool := false
  /-- The queued command a qwait or the halted sequencer is executing. -/
  current : Option EngineCmd := none
  cmdq : List EngineCmd := []
  hold : SeqHold := .none
  /-- The first cycle in which its sequencer executes another command (10 R201). -/
  seqAt : Nat := 0
  guards : Tab (Nat × Nat) := []
  guardRec : Option GuardRec := none
  bindings : List Binding := []
  watch : Tab Watchpoint := []
  /-- For each bank that has accepted an access, the first cycle in which it accepts another (09 R181). -/
  banks : Tab Nat := []
  /-- Scratchpad granules in which a correctable, and an uncorrectable, soft error stands (19 R330; log 15). -/
  softC : List Nat := []
  softU : List Nat := []
  lastDemand : Tab Nat := []
  deriving DecidableEq, Repr, Inhabited

/-! ## Home slices (09 R183, 15 R267-R288) -/

/-- Who sent a request to a home slice: an element, or an engine of the index of 09 R191. -/
inductive Source where
  | elem (key : Nat)
  | engine (bulkhead index : Nat)
  /-- A remote atomic: its element, the device it came from if not this one, its ticket and function (15 R280). -/
  | remote (elem : Nat) (peer : Option Nat) (ticket fn : Nat)
  deriving DecidableEq, Repr

/-- What a request asks of a home slice. -/
inductive HomeOp where
  /-- Size, sign extension, and the bytes forwarded from the store buffer: mask and data (10 R199). -/
  | read (size : Nat) (signed : Bool) (mask fwd : Nat)
  | write (size data : Nat)
  | amo (op size v c : Nat)
  | amoc (op size v c : Nat) (desc : Word)
  | sems (sem n : Nat)
  | semw (sem n : Nat)
  /-- Withdrawal of a semw (15 R287). -/
  | withdraw (sem : Nat)
  | prefetch
  deriving DecidableEq, Repr

/-- A request in an arrival queue: its source, number, physical address, operation, class and reads, the address word. -/
structure HomeReq where
  src : Source
  id : Nat
  pa : Nat
  op : HomeOp
  cls : Nat
  reads : Nat
  word : Word
  /-- The function it belongs to, which travels with it (15 R273). -/
  fn : Nat := 0
  /-- Of a piece of an engine's access (14 R247): where it lies in the access, whether it counts as the access's one hit, and
  whether the access covers its granule or carries a mark (19 R331). -/
  piece : Nat := 0
  counts : Bool := true
  whole : Bool := false
  mark : Bool := false
  /-- The window slot of its exporter that it was accepted through, 8 * bulkhead + slot (04 R63, R64). -/
  via : Option Nat := none
  deriving DecidableEq, Repr

/-- A line of a last-level cache (09 R183, R176): line number, its bytes, poison marks of its four granules, dirty,
tensor class, remaining reads, tier. The list of a set runs from the least to the most recently used. -/
structure CacheLine where
  line : Nat
  data : Mem
  poison : List Nat := []
  dirty : Bool
  cls : Nat
  reads : Nat
  cxl : Bool
  /-- Who has written it since it was last clean (14 R251). -/
  writers : List Source := []
  deriving DecidableEq, Repr

/-- A continuation launch in progress (15 R274, R275). -/
structure Launch where
  src : Source
  id : Nat
  desc : Word
  word : Word
  /-- The function of the requester (15 R275). -/
  fn : Nat
  old : Nat
  size : Nat
  /-- How a label launch ended: the status of the reply, and the cause of its log record, 0 where none is written. -/
  ended : Option (Nat × Nat) := none
  /-- The spine cycle in which a queue launch reached its queue (03 R36). -/
  since : Nat := 0
  deriving DecidableEq, Repr

/-- A waiter of a semaphore (15 R285). -/
structure Waiter where
  sem : Nat
  src : Source
  id : Nat
  n : Nat
  deriving DecidableEq, Repr

/-- A record of a launch log (15 R278). -/
structure LaunchRec where
  time : Word
  addr : Word
  desc : Word
  status : Byte
  cause : Byte
  elem : BitVec 16
  deriving DecidableEq, Repr

/-- A home slice of a bulkhead. -/
structure Slice where
  arrivals : List HomeReq := []
  cache : List CacheLine := []
  launches : Tab Launch := []
  sems : Tab Nat := []
  waiters : List Waiter := []
  log : List LaunchRec := []
  logCount : Nat := 0
  deriving DecidableEq, Repr

/-- A reply on its way to an element (10 R194, 15 R279): status, value, flags raised, poison. -/
structure Reply where
  elem : Nat
  id : Nat
  status : Nat
  value : Nat
  flags : Flags := 0
  wide : Bool := false
  atomic : Bool := false
  addr : Word := 0
  /-- The point of coherence it comes from (14 R250). -/
  point : Option Nat := none
  /-- A reply to an engine: its element number is the engine's, the piece it answers lies here (14 R247). -/
  piece : Option Nat := none
  deriving DecidableEq, Repr

/-- A fenceh waiting for the marked stores of its owner (14 R258). -/
structure FencehWait where
  elem : Nat
  id : Nat
  marked : List (Nat × Nat)
  status : Nat
  deriving DecidableEq, Repr

/-! ## Faults (19 R322-R337) -/

/-- The levels of containment (02 R14, 19 R328). -/
inductive Level where
  | element | tile | load | graph | queue | none
  deriving DecidableEq, Repr

/-- The unit that raised a fault (19 R328): an element, an engine by the index of 09 R191, or a graph of a queue. -/
inductive FaultUnit where
  | elem (addr : Nat)
  | engine (index : Nat)
  | graph (queue : Nat)
  deriving DecidableEq, Repr

/-- A fault record waiting for the fault controller (19 R322, R328). -/
structure FaultRec where
  unit : FaultUnit
  start : Level
  code : Nat
  imprecise : Bool := false
  detail : Nat := 0
  addr : Nat := 0
  ident : Word := 0
  queue : Nat := 0
  /-- The function that its log record is for (19 R329, 24 R367), none where the physical function alone sees it. -/
  fn : Option Nat := none
  logOnly : Bool := false
  /-- The load that it came from has been swept since (19 R326). -/
  gone : Bool := false
  /-- The cycle in which it was raised (19 R322). -/
  since : Nat := 0
  deriving DecidableEq, Repr

/-- A record of a fault log (19 R328). -/
structure FaultLogRec where
  seq : Word
  ident : Word
  code : Byte
  levels : Byte
  action : Byte
  retries : Byte
  unit : BitVec 16
  queue : BitVec 16
  detail : Word
  time : Word
  addr : DWord
  deriving DecidableEq, Repr

/-- A record of an exception sink (19 R333). -/
structure SinkRec where
  elem : BitVec 16
  tag : BitVec 4
  data : Word
  more : Word
  time : Word
  deriving DecidableEq, Repr

/-! ## Bulkheads -/

/-- A link (02 R18): producer and consumer, element address and port. -/
structure Link where
  prod : Nat
  prodPort : Nat
  cons : Nat
  consPort : Nat
  sparse : Bool
  deriving DecidableEq, Repr

/-- A route (02 R18): label, element, handler bit. -/
structure Route where
  label : Nat
  elem : Nat
  bit : Nat
  deriving DecidableEq, Repr

/-- A resident fabric load (02 R14, R17, R21). -/
structure Load where
  fn : Nat
  queue : Nat
  pasid : Nat
  ident : Word
  policy : Nat
  retryLimit : Nat
  image : Nat
  training : Bool
  digest : List Byte := []
  since : Nat := 0
  /-- The queue command it runs for. -/
  command : Nat := 0
  /-- Its bulkheads, in ascending order. -/
  members : List Nat := []
  deriving DecidableEq, Repr

/-- The kinds of a sweep (14 R261, 19 R325, R338). -/
inductive SweepKind where
  | reconfigure | kill | endOfSlice
  deriving DecidableEq, Repr

/-- The sweep of a bulkhead: its kind, and the column its token enters next; 12 stands for the edges, 13 once it has passed
them. -/
structure Sweep where
  kind : SweepKind
  column : Nat
  deriving DecidableEq, Repr

/-- One of the two registers of a window slot (04 R62): the fields a write sets, and MISM. -/
structure WindowReg where
  en : Bool := false
  base : Nat := 0
  log2 : Nat := 16
  perms : Nat := 0
  peer : Nat := 0
  expBh : Nat := 0
  expWin : Nat := 0
  state : Nat := 0
  mism : Bool := false
  deriving DecidableEq, Repr

/-- A window slot: its grant as exporter and as importer (04 R62, R63). -/
structure Window where
  exp : WindowReg := {}
  imp : WindowReg := {}
  err : Bool := false
  deriving DecidableEq, Repr

/-! ## Matrix islands and streamer islands -/

/-- A reflector accumulator (12 R232): row count, overflow mode, OA, VAR, c, spill count, pivots, the columns of V as
stored below their pivots, the columns of T. -/
structure Reflector where
  init : Bool := false
  n : Nat := 1
  mode : Nat := 0
  oa : Nat := 0
  var : Nat := 0
  c : Nat := 1
  spills : Nat := 0
  pivots : List Nat := []
  v : List (List Word) := []
  t : List (List Word) := []
  deriving DecidableEq, Repr

/-- A scratchpad ring of a matrix island (12 R221, R222): its binding and its head, tail and count. -/
structure Ring where
  mcol : Nat := 0
  rsel : Nat := 0
  base : Nat := 0
  depth : Nat := 1
  tlines : Nat := 0
  bound : Bool := false
  head : Nat := 0
  tail : Nat := 0
  count : Nat := 0
  deriving DecidableEq, Repr

/-- A matrix island (12 R217-R240). An accumulator lists the entries that are not +0, by 256 * row + column. -/
structure Island where
  configured : Bool := false
  rpe : Bool := false
  rport : Nat := 0
  relem : Nat := 0
  rlab : Nat := 0
  re : Bool := false
  cport : Nat := 0
  celem : Nat := 0
  rings : Tab Ring := []
  queue : List EngineCmd := []
  /-- The token in execution, whose effect has been applied, and the rings it pops when it retires. -/
  exec : Option (EngineCmd × List Nat) := none
  /-- The token at the head had started when an end-of-slice sweep began (12 R220, R237). -/
  started : Bool := false
  acc : Tab (Tab Word) := []
  qa : Tab Reflector := []
  flags : Flags := 0
  retired : BitVec 16 := 0
  sub : Nat := 0
  lost : BitVec 6 := 0
  rstw : Word := 0
  discarded : Nat := 0
  /-- Restored after a pre-emption, and not yet restarted (12 R238). -/
  restart : Bool := false
  deriving DecidableEq, Repr, Inhabited

/-- A streamer command that runs (10 R213-R215): the command, the descriptor's words, the next step, its status. -/
structure StreamerRun where
  cmd : EngineCmd
  /-- Its number among the running commands of its island. -/
  id : Nat := 0
  desc : List Word
  next : Nat := 0
  status : Nat := 0
  ended : Bool := false
  /-- The address that met the fault of its status. -/
  addr : Nat := 0
  deriving DecidableEq, Repr

/-- A streamer island. -/
structure Streamer where
  queue : List EngineCmd := []
  running : List StreamerRun := []
  retired : BitVec 16 := 0
  flags : Flags := 0
  edge : Bool := false
  nans : Bool := false
  tlb : List TlbEntry := []
  deriving DecidableEq, Repr, Inhabited

/-! ## The ask hub (17) -/

/-- A site and its policy block of 32 words (17 R295, R314). -/
structure Site where
  elem : Nat
  slot : Nat
  qport : Nat
  q : Nat
  cons : Nat
  consPort : Nat
  pool : Nat
  cls : Nat
  dl : Nat
  policy : List Word
  /-- The words of its policy block in which a soft error stands (17 R315); soft errors come from outside (log 15). -/
  parity : List Nat := []
  deriving DecidableEq, Repr

/-- A pool of the hub (17 R301, R316). -/
structure AskPool where
  size : Nat := 0
  refill : Nat := 0
  credit : Nat := 0
  out : Nat := 0
  deriving DecidableEq, Repr

/-- A class word of the hub: evaluator element, port, V (17 R295). -/
structure AskClass where
  elem : Nat := 0
  port : Nat := 0
  valid : Bool := false
  deriving DecidableEq, Repr

/-- States of an answer-table entry (17 R300, R304, R306). -/
inductive AskState where
  | wait | late
  deriving DecidableEq, Repr

/-- An allocated entry of the answer table (17 R300). -/
structure AskEntry where
  site : Nat
  elem : Nat
  estimate : Word
  estExc : Bool
  feature : Word
  words : List Token
  bin : Nat
  forced : Bool
  cycle : Nat
  state : AskState
  orphan : Bool := false
  /-- The evaluator element its frame went to, once delivered. -/
  evaluator : Option Nat := none
  deriving DecidableEq, Repr

/-- A conditioning token of a site, in the order of decisions: the token once fixed; `askid` while it is not, and until
its record is complete (17 R303, R309). -/
structure CondToken where
  site : Nat
  askid : Option Nat
  token : Option Token
  deriving DecidableEq, Repr

/-- What waits in the hub queue (14 R246): an ask or an answer, with the request it belongs to. -/
inductive HubMsg where
  | ask (elem id site : Nat) (words : List Token) (estimate : Word) (estExc : Bool) (feature : Word)
  | answer (elem id askid : Nat) (words : List Word)
  deriving DecidableEq, Repr

/-- A write to a pool or policy word waiting for step 6 of 17 R305: word index of the hub block, value. -/
structure HubWrite where
  index : Nat
  site : Nat
  value : Word
  deriving DecidableEq, Repr

/-- The ask hub of a bulkhead. -/
structure Hub where
  sites : List Site := []
  pools : Tab AskPool := []
  classes : Tab AskClass := []
  table : Tab AskEntry := []
  /-- Frames to deliver in acceptance order: the entry, and the tokens still to enter the class port. -/
  frames : List (Nat × List Token) := []
  queue : List HubMsg := []
  cond : List CondToken := []
  writes : List HubWrite := []
  tlbase : Nat := 0
  tlen : Bool := false
  tlerr : Bool := false
  tllog2 : Nat := 4
  tltail : Nat := 0
  tlhead : Nat := 0
  seq : Nat := 0
  stray : Word := 0
  tldrop : Word := 0
  perrcnt : Word := 0
  refilled : Nat := 0
  /-- The last event of the cycle `stageAt`, as 17 R305 numbers them. -/
  stage : Nat := 0
  stageAt : Nat := 0
  deriving DecidableEq, Repr, Inhabited

/-! ## Debug, sampling and trace (23) -/

/-- A halt record (23 R360). -/
structure HaltRec where
  time : Word
  detail : Word
  wave : Nat
  cause : Nat
  slot : Nat
  elem : BitVec 16
  deriving DecidableEq, Repr

/-- A trace record (23 R364). -/
structure TraceRec where
  time : Word
  a : Word
  b : Word
  kind : Nat
  sub : Nat
  unit : BitVec 16
  deriving DecidableEq, Repr

/-- The debug block of a bulkhead: slot breakpoints, halt log, sampler, trace unit (23 R357-R364). -/
structure Debug where
  sbp : Tab Word := []
  haltLog : List HaltRec := []
  hlogcnt : Word := 0
  smpbase : Nat := 0
  smpen : Bool := false
  smplog2p : Nat := 12
  smplog2 : Nat := 4
  smptail : Nat := 0
  smphead : Nat := 0
  smpdrop : Word := 0
  smpnext : Nat := 0
  smpat : Nat := 0
  tren : Bool := false
  trwrap : Bool := false
  trmask : Byte := 0
  trptr : Nat := 0
  trfull : Bool := false
  trdrop : Word := 0
  trace : Tab TraceRec := []
  events : List TraceRec := []
  deriving DecidableEq, Repr

/-! ## Commands, graphs and functions (02 R25-R29, 03) -/

/-- A queue command (03 R33). -/
structure QCommand where
  kind : Nat
  wait : Nat := 0xFFFF
  done : Nat := 0xFFFF
  label : Nat := 0
  address : Nat := 0
  w0 : Word := 0
  w1 : Word := 0
  deriving DecidableEq, Repr

/-- Where a command came from (03 R43). -/
inductive CmdSource where
  | doorbell | spawn | continuation
  deriving DecidableEq, Repr

/-- An accepted command that is not complete: its number, the place of its ring entry (a doorbell command), whether it
has been dispatched. -/
structure Accepted where
  id : Nat
  cmd : QCommand
  source : CmdSource
  entry : Option Nat := none
  dispatched : Bool := false
  status : Option Nat := none
  /-- Completion carries FAULT = 1 at the join (21 R349). -/
  faulted : Bool := false
  /-- The stores of the element that spawned it, which must be complete before it dispatches (14 R252). -/
  owner : Nat := 0
  covers : List Nat := []
  /-- The function it was accepted for, whose quota slot it holds (03 R35, R44). -/
  fn : Nat := 0
  /-- As it was dispatched: the bulkhead it goes to, and the join status word of its wait counter (15 R289, 22 R356). -/
  target : Nat := 0
  join : Word := 0
  deriving DecidableEq, Repr

/-- A node descriptor (02 R26): its four words. -/
structure Node where
  w0 : DWord
  w1 : DWord
  w2 : DWord
  w3 : DWord
  deriving DecidableEq, Repr

/-- A recompute edge (02 R29). -/
structure Edge where
  first : Nat
  last : Nat
  watermark : Nat
  buffer : Nat
  word : Nat
  deriving DecidableEq, Repr

/-- A replay in progress (21 R354): the edge, the node that named it, the node being run. -/
structure Replay where
  edge : Nat
  owner : Nat
  loops : Tab Nat := []
  deriving DecidableEq, Repr

/-- Where a running graph stands at its current node. -/
inductive NodeState where
  /-- The node may be evaluated or dispatched. -/
  | ready
  /-- A LOAD node whose edge reads DROPPED, which its replay must refill (02 R29). -/
  | dropped
  /-- A LOAD node whose edge has been honoured, or that is dispatched again. -/
  | honoured
  /-- A LOAD node waits for its image to be validated and loaded, or runs. -/
  | running
  /-- A graph-level fault waits for its walk (19 R324). -/
  | faulted
  deriving DecidableEq, Repr

/-- What follows the kill sweep of a graph's running load (19 R324): the image is dispatched again, the LOAD node completes as
faulted, the graph restarts, or its command completes with a code. -/
inductive KillEnd where
  | redispatch
  | faulted
  | restart
  | complete (code : Nat)
  deriving DecidableEq, Repr

/-- The graph that a GRAPH command of a queue runs. Its status EXHAUSTED (02 R27) is a bit here, which no register shows and which ends
with the command (log 136, DESIGN CHOICE). -/
structure Graph where
  command : Nat
  policy : Nat
  retryLimit : Nat
  retries : Nat := 0
  entry : Nat
  nodes : List Node
  edges : List Edge
  current : Nat
  state : NodeState := .ready
  loops : Tab Nat := []
  prev : Option Nat := none
  exhausted : Bool := false
  replays : List Replay := []
  loadRetries : Nat := 0
  killEnd : Option KillEnd := none
  /-- The fault it waits for was met after a node had completed, in the sampling of an edge (02 R29). -/
  past : Bool := false
  deriving DecidableEq, Repr

/-- A hardware queue (03 R30-R35, 19 R336). -/
structure HwQueue where
  qmapV : Bool := false
  qmapTag : Nat := 0
  qmapLocal : Nat := 0
  base : Nat := 0
  en : Bool := false
  prio : Nat := 0
  log2 : Nat := 0
  pasid : Nat := 0
  head : Nat := 0
  tail : Nat := 0
  err : Bool := false
  gtab : Tab Nat := []
  killBusy : Bool := false
  killCode : Nat := 0
  /-- The code of the kill in progress, which CODE takes as it ends (19 R337). -/
  killNext : Nat := 0
  /-- A kill reached through KILL_PARENT at the graph level: the marked counters (21 R350). -/
  parentKill : Bool := false
  /-- The fault whose walk led to the kill, with its bulkhead: the record of the kill (19 R337 step 5). -/
  killRecord : Option (Nat × FaultRec) := none
  accepted : List Accepted := []
  graph : Option Graph := none
  /-- The spine cycle in which its engine last accepted an enqueue, and that of the doorbell write whose commands it reads (03
  R36). -/
  takenAt : Option Nat := none
  rungAt : Nat := 0
  deriving DecidableEq, Repr

/-- A dependence counter (03 R37, 15 R289, 21 R350): its count, UNDERFLOW, FAULTS, and the parent-kill mark with its
code. -/
structure DepCounter where
  count : Nat := 0
  underflow : Bool := false
  faults : Nat := 0
  parentKill : Option Nat := none
  deriving DecidableEq, Repr

/-- A journal record (03 R43). -/
structure JournalRec where
  seq : Nat
  kind : Nat
  source : CmdSource
  queue : Nat
  time : Word
  digest : List Byte
  /-- It was accepted while JCFG.EN was 1, and goes to the ring (03 R44). -/
  ring : Bool
  deriving DecidableEq, Repr

/-- A remote atomic of a function in flight (15 R280, R281): its ticket, the requester and the number of its request,
the process and bulkhead whose translation writes its record, and the reply once it has come. -/
structure RemoteRec where
  ticket : Nat
  elem : Nat
  id : Nat
  pasid : Nat
  /-- Its request has left its element (15 R280), on a UALink port where it goes to another device (24 R369). -/
  sent : Bool := false
  port : Option Nat := none
  reply : Option (Nat × Nat) := none
  deriving DecidableEq, Repr

/-- An access already translated, which a shootdown waits for (14 R266): a request of an element by its number; an access of an
engine by the number of its work and of the answers before it; a block of a fused update by its tile and index; a remote
atomic. -/
inductive Translated where
  | request (id : Nat)
  | access (serial answered : Nat)
  | block (tile index : Nat)
  | remote (src : Source)
  deriving DecidableEq, Repr

/-- What the spec keeps for each function, tags 0-64. -/
structure Function where
  fkey : BitVec 16 := 0
  gzbase : Nat := 0
  gzcount : Nat := 0
  qslots : Nat := 0
  ctrs : Nat := 0
  used : Nat := 0
  jbase : Nat := 0
  jen : Bool := false
  jlog2 : Nat := 6
  jerr : Bool := false
  jtail : List JournalRec := []
  jseq : Nat := 0
  jnext : Nat := 0
  pwt : Tab Word := []
  counters : Tab DepCounter := []
  s2root : Nat := 0
  s2v : Bool := false
  pctx : Nat := 0
  pctxLog2 : Nat := 0
  freemem : Word := 0
  sdaddr : Nat := 0
  sdctl : Word := 0
  sdbusy : Bool := false
  sderr : Bool := false
  /-- What a running shootdown waits for (14 R266). -/
  sdwait : List Translated := []
  /-- The physical ranges it writes back: base and length (14 R266). -/
  sdlines : List (Nat × Nat) := []
  saveV : Bool := false
  saveBase : Nat := 0
  savePasid : Nat := 0
  rcqbase : Nat := 0
  rcqen : Bool := false
  rcqlog2 : Nat := 0
  rcqtail : Nat := 0
  rcqhead : Nat := 0
  /-- Records written that software has not read (15 R281). -/
  rcqunread : Nat := 0
  ticket : BitVec 16 := 0
  remote : List RemoteRec := []
  msiMask : BitVec 4 := 0
  msiPending : BitVec 4 := 0
  msiSent : List Nat := []
  visiting : Nat := 0
  visits : Nat := 0
  lastQueue : Tab Nat := []
  deriving DecidableEq, Repr

/-! ## Bulkheads -/

/-- An image being validated or loaded (02 R22). -/
structure Loading where
  queue : Nat
  image : Nat
  block : Nat
  /-- Validation has passed: the sweep and the load follow. -/
  valid : Bool := false
  bytes : List Byte := []
  deriving DecidableEq, Repr

/-- A request at the compatibility portal (15 R282). -/
structure PortalReq where
  elem : Nat
  id : Nat
  ualink : Bool
  rank : Nat
  fn : Nat
  va : Nat
  op : Nat
  size : Nat
  v : Nat
  c : Nat
  since : Nat
  /-- The process of its PASID prefix, and the key of its gazetteer entry (15 R282). -/
  pasid : Nat := 0
  key : BitVec 16 := 0
  /-- The UALink port that it is on, of PATH 3 (24 R369). -/
  port : Option Nat := none
  deriving DecidableEq, Repr

/-- A remote atomic in an atomic command queue (15 R280). -/
structure RemoteAtomic where
  word : Word := 0
  cls : Nat := 0
  reads : Nat := 15
  /-- The device it came from, `none` this one. -/
  peer : Option Nat := none
  va : Nat
  op : Nat
  size : Nat
  v : Nat
  c : Nat
  key : BitVec 16
  srcFn : Nat
  ticket : Nat
  elem : Nat
  deriving DecidableEq, Repr

/-- One bulkhead: the resident load and its links, networks, fault controller, windows, debug block, reset and power
state. -/
structure Bulkhead where
  load : Option Load := none
  links : List Link := []
  routes : List Route := []
  /-- The tile level of the compute tiles that have a record, by 8 * column + row. -/
  levels : Tab TileLevel := []
  shuttles : List Shuttle := []
  replies : List Reply := []
  fencehs : List FencehWait := []
  tlb2 : List TlbEntry := []
  /-- Soft errors that stand in the walker caches (19 R332; log 15). -/
  walkParity : Nat := 0
  /-- Requests whose page walk is in progress, at most 32 (09 R173). -/
  walks : List Nat := []
  mode : Nat := 0
  pool : Nat := 0
  ovn : Nat := 0
  owner : Nat := 0
  staged : Word := 0
  flush : Bool := false
  zero : Bool := false
  state : Nat := 6
  stateSince : Nat := 0
  ldstat : Word := 0
  ret : Bool := false
  retKilled : Bool := false
  retCode : BitVec 12 := 0
  /-- 0 not retiring, 1 passive elements stopped, draining. -/
  retiring : Nat := 0
  sweep : Option Sweep := none
  loading : List Loading := []
  faults : List FaultRec := []
  fltlog : List FaultLogRec := []
  fltcnt : Word := 0
  cecnt : Word := 0
  uecnt : Word := 0
  parcnt : Word := 0
  sink : List SinkRec := []
  sinkcnt : Word := 0
  windows : Tab Window := []
  dbg : Debug := {}
  frozen : Bool := false
  temp : Byte := 0
  step : Nat := 0
  nextStep : Nat := 0
  floor : Nat := 0
  trip : Bool := false
  /-- The heartbeat as it stood in a spine cycle, that of the last start or stop of the clock (24 R375). -/
  heart : Nat := 0
  heartAt : Nat := 0
  /-- Its clock has failed, which comes from outside (24 R375; log 15). -/
  clockFailed : Bool := false
  /-- The cycle of the last change of step, and of the next thermal evaluation. -/
  stepSince : Nat := 0
  evalAt : Nat := 0
  released : Nat := 0
  sigreq : Bool := false
  sigkeys : BitVec 4 := 0
  qbufBase : Nat := 0
  qbufV : Bool := false
  qbusy : Bool := false
  qerr : Bool := false
  qfull : Bool := false
  qcause : Nat := 0
  qtag : Nat := 0
  atomics : List RemoteAtomic := []
  portal : List PortalReq := []
  /-- A member of a pool takes part in its ticks (04 R54). -/
  joined : Bool := false
  /-- In a change of function: the save, quarantine or kill has ended; the incoming function has been loaded; why the
  save met a fault, 0 if it did not (19 R342, R343). -/
  saved : Bool := false
  restored : Bool := false
  saveFault : Nat := 0
  /-- The units that the context engine has marked SAVED (19 R339, R340). -/
  units : List Nat := []
  /-- On a die that had not saved as its grace period expired: loaded blank (19 R343). -/
  late : Bool := false
  /-- Loaded for an incoming function that has not started: nothing of it fires (19 R339). -/
  parked : Bool := false
  /-- The staged BHCFG as the reset entered RELEASE, and whether it has been applied (04 R48, R66). -/
  entering : Word := 0
  applied : Bool := false
  deriving DecidableEq, Repr

/-! ## The device -/

/-- A change of function of a pool (04 R52, 19 R343): the incoming entry, its function and slice, the cycle of the tick. -/
structure Switch where
  entry : Nat
  fn : Nat
  slice : Nat
  since : Nat
  deriving DecidableEq, Repr

/-- A pool of bulkheads (04 R50-R53, 19 R343). -/
structure SharedPool where
  en : Bool := false
  ovn : Nat := 0
  tick : Nat := 100
  rot : Tab Word := []
  /-- The rotation in force: as written at the last tick that changed function (04 R52). -/
  inForce : Tab Word := []
  dl : Nat := 40
  current : Option Nat := none
  fn : Nat := 0
  left : Nat := 0
  /-- The cycle of the next tick. -/
  nextTick : Nat := 0
  /-- A change of function in progress. -/
  switching : Option Switch := none
  /-- Ticks so far, the sequence that a save header names (19 R340). -/
  ticks : Nat := 0
  deriving DecidableEq, Repr

/-- An owned virtual network (04 R56). -/
structure Ovn where
  en : Bool := false
  slots : Nat := 0
  members : BitVec 16 := 0
  noslot : Bool := false
  on : Bool := false
  deriving DecidableEq, Repr

/-- A record of a drop log (04 R60). -/
structure DropRec where
  time : DWord
  seen : BitVec 16
  want : BitVec 16
  vc : Nat
  port : Nat
  deriving DecidableEq, Repr

/-- A spine packet in flight to a bulkhead gate (04 R58): its key, network, source function. -/
structure Packet where
  key : BitVec 16
  vc : Nat
  target : Nat
  port : Nat
  fn : Nat
  /-- The remote atomic it carries, if it is one (15 R280). -/
  atomic : Option RemoteAtomic := none
  deriving DecidableEq, Repr

/-- A request that has left the device (04 R61, 15 R280, R282, 10 R214): its path, 0 a read of a streamer command; the rank,
virtual address, operation, size and operands; the key of the gazetteer entry; the function, process and ticket. -/
structure SentReq where
  path : Nat
  rank : Nat
  va : Nat
  op : Nat := 0
  size : Nat := 8
  v : Nat := 0
  c : Nat := 0
  key : BitVec 16 := 0
  fn : Nat := 0
  pasid : Nat := 0
  ticket : Nat := 0
  deriving DecidableEq, Repr

/-- A reply to a remote atomic of another device (15 R280): the device, its ticket, status and old value. -/
structure PeerReply where
  device : Nat
  ticket : Nat
  status : Nat
  old : Nat
  deriving DecidableEq, Repr

/-- A gazetteer entry (04 R61). -/
structure Gazette where
  valid : Bool := false
  device : Nat := 0
  bh : Nat := 0
  key : BitVec 16 := 0
  deriving DecidableEq, Repr

/-- The saved context of one bulkhead of a pool (19 R339-R341), as the parts it restores. -/
structure Context where
  fn : Nat
  bulkhead : Nat
  quarantined : Bool
  /-- The sequence of the tick that ended its slice, and the retry counts of the load and of its graph (19 R340). -/
  tick : Nat := 0
  counts : List Nat := []
  body : Bulkhead
  elems : Tab Elem
  tiles : Tab Tile
  islands : Tab Island
  streamers : Tab Streamer
  hub : Hub
  /-- Semaphore counts, waiters and launch logs of the eight home slices. -/
  sems : Tab (Tab Nat)
  waiters : Tab (List Waiter)
  logs : Tab (List LaunchRec × Nat)
  deriving DecidableEq, Repr

/-- Which agent an instruction runs for: an element's slot with its words, a sequencer, an island. -/
inductive Focus where
  | none
  | elem (key slot : Nat) (word lit : Word)
  | sequencer (tile : Nat)
  | island (key : Nat)
  | streamer (key run : Nat)
  | queue (q : Nat)
  deriving DecidableEq, Repr

/-- One turn of the agenda: cycles pass, an agent moves, or a step of another part is taken (14 R248; log 1). -/
inductive Turn where
  | cycles (n : Nat)
  | elem (key : Nat)
  | sequencer (tile : Nat)
  | island (key : Nat)
  | queue (q : Nat)
  | event (i : Instr)
  deriving DecidableEq, Repr

/-- The state of the device. -/
structure State where
  /-- The model's own: the turns to come. -/
  agenda : List Turn := []
  /-- The model's own: while a step of an engine runs, the answers of its accesses and the access it asks for beyond them. -/
  asking : Option (List Answer × Option Access) := none
  /-- The model's own: numbers free values (log 5). -/
  fresh : Nat := 0
  /-- The model's own: whom the running instruction belongs to. -/
  focus : Focus := .none
  /-- Arithmetic cycles since power-on (log 6). -/
  cycle : Nat := 0
  /-- The model's own: numbers requests. -/
  nextId : Nat := 1
  /-- Device memory by physical address: direct view, and CXL memory. -/
  mem : Mem := []
  /-- Poisoned granules of device memory, by address div 64, rising. -/
  poison : List Nat := []
  /-- Granules of device memory, by address div 64, in which a correctable, and an uncorrectable, soft error stands (19 R330;
  log 15). -/
  softC : List Nat := []
  softU : List Nat := []
  /-- Elements by 65536 * bulkhead + element address. -/
  elems : Tab Elem := []
  /-- Tiles by 64 * bulkhead + engine index (0-31 memory tiles, 32 and 33 evaluator tiles). -/
  tiles : Tab Tile := []
  /-- Home slices by 8 * bulkhead + slice. -/
  slices : Tab Slice := []
  /-- Matrix islands by 4 * bulkhead + n. -/
  islands : Tab Island := []
  /-- Streamer islands by 2 * bulkhead + n. -/
  streamers : Tab Streamer := []
  hubs : Tab Hub := []
  bhs : Tab Bulkhead := []
  fns : Tab Function := []
  queues : Tab HwQueue := []
  pools : Tab SharedPool := []
  ovns : Tab Ovn := []
  cxlmap : Tab Word := []
  /-- Counters of engines by 64 * bulkhead + engine index (09 R191), and of elements by 65536 * bulkhead + address; an
  unlisted block has counted every cycle as IDLE since the cycle in `zeroed` of its bulkhead. -/
  engineCounts : Tab Counters := []
  elemCounts : Tab Counters := []
  zeroed : Tab Nat := []
  gazetteer : Tab Gazette := []
  drops : Tab (List DropRec) := []
  dropcnt : Tab Nat := []
  /-- Unfinished steps of engines, by the number of their work. -/
  works : Tab Work := []
  packets : List Packet := []
  contexts : List Context := []
  s2sdaddr : Nat := 0
  s2sdctl : Word := 0
  s2busy : Bool := false
  s2err : Bool := false
  s2wait : List Translated := []
  s2lines : List (Nat × Nat) := []
  frzspine : Bool := false
  frzmask : BitVec 16 := 0
  spineFrozen : Bool := false
  sec : Bool := false
  mgmt : BitVec 4 := 0
  cxl : BitVec 2 := 0
  doe : Bool := false
  isl : BitVec 3 := 0
  ualrdy : BitVec 16 := 0
  /-- The firmware in force (24 R377), by number (log 131). -/
  firmware : Nat := 0
  keydg : Tab (List Byte) := []
  /-- SPDM responses sent, oldest first: the request's code and the response (24 R379). -/
  spdm : List (Nat × List Byte) := []
  /-- Requests sent to other devices, and replies to theirs (15 R280, 24 R369). -/
  sent : List SentReq := []
  replied : List PeerReply := []
  /-- Uncorrectable errors of spine routers and bridges as the physical function sees them (04 R68): the bulkhead of the
  router and the spine time. -/
  spineErrors : List (Nat × Word) := []
  deriving DecidableEq, Repr

/-- The state right after power-on: nothing is configured, every bulkhead is unassigned and READY (04 R65), memory lists
nothing, and the security block has not yet started the boot (24 R370, R377). -/
def State.reset : State := {}

/-- Why the machine stops with a fault. -/
inductive Fault where
  /-- An instruction ran with no agent in focus that could run it: no such element, sequencer or island is configured.
  Raised by the meanings of element instructions, sequencer commands and control tokens; safe: no run of `step` gives an
  instruction to an agent that does not exist. -/
  | noAgent
  deriving DecidableEq, Repr

/-- Why the model gives an instruction no next state. -/
inductive Refusal where
  /-- An instruction that has no meaning yet. Raised by the arms of `exec` only; safe. -/
  | notModelled (mnemonic : String)
  /-- An instruction that the loader never lets into a slot, with the check of 02 R23 it fails. Raised by the meanings
  of element instructions; safe: the spec gives such a word no effect at fire (05 R82). -/
  | illFormed (check : Nat)
  deriving DecidableEq, Repr

end Sys2Proof.Machine
end

