-- ==== Sys2Proof/Machine/Ops.lean ====
section
/-!
DEFINITION. The named operations over the state that the meanings share: tables, memory, the parts of the device by key,
requests and free values, logs, and taking and returning from an exception (19 R322-R326).
-/
namespace Sys2Proof.Machine
open Sys2Proof

/-! ## Tables and lists -/

/-- The entry of a key, if it is listed. -/
def tget? {α : Type} : Tab α → Nat → Option α
  | [], _ => none
  | (k, v) :: t, n => if k = n then some v else tget? t n

/-- The entry of a key, `d` where it is not listed. -/
def tget {α : Type} (t : Tab α) (n : Nat) (d : α) : α := (tget? t n).getD d

/-- The table with the entry of a key replaced, or put in its place in rising order. -/
def tset {α : Type} : Tab α → Nat → α → Tab α
  | [], n, x => [(n, x)]
  | (k, v) :: t, n, x =>
    if k = n then (n, x) :: t
    else if n < k then (n, x) :: (k, v) :: t
    else (k, v) :: tset t n x

/-- The table without a key. -/
def tdel {α : Type} (t : Tab α) (n : Nat) : Tab α := t.filter fun p => p.1 != n

/-- Every listed entry changed. -/
def tmap {α : Type} (t : Tab α) (f : Nat → α → α) : Tab α := t.map fun p => (p.1, f p.1 p.2)

/-- The list without its entry at an index. -/
def removeAt {α : Type} (l : List α) (n : Nat) : List α := l.take n ++ l.drop (n + 1)

/-- The entry at an index changed. -/
def modifyAt {α : Type} (l : List α) (n : Nat) (f : α → α) : List α :=
  match l, n with
  | [], _ => []
  | x :: xs, 0 => f x :: xs
  | x :: xs, n + 1 => x :: modifyAt xs n f

/-- A number inserted in a rising list without repeats. -/
def insertNat (n : Nat) : List Nat → List Nat
  | [] => [n]
  | x :: xs => if n = x then x :: xs else if n < x then n :: x :: xs else x :: insertNat n xs

/-- The last `n` entries. -/
def lastN {α : Type} (n : Nat) (l : List α) : List α := l.drop (l.length - n)

/-- The bits [lo + n - 1 : lo] of a number. -/
def bits (w lo n : Nat) : Nat := w / 2 ^ lo % 2 ^ n

/-- One bit of a number. -/
def bit (w n : Nat) : Bool := w / 2 ^ n % 2 == 1

/-- The number read as a two's complement of `n` bits. -/
def signed (w n : Nat) : Int := if bit w (n - 1) then (w % 2 ^ n : Nat) - (2 ^ n : Nat) else (w % 2 ^ n : Nat)

/-- A Bool as a bit. -/
def b2n (b : Bool) : Nat := if b then 1 else 0

/-! ## Memory (log 3) -/

/-- The byte at an address. -/
def Mem.get (m : Mem) (a : Nat) : Byte := tget m a 0

/-- The memory with one byte written, in its canonical form: a byte of 0 is not listed. -/
def Mem.set (m : Mem) (a : Nat) (b : Byte) : Mem := if b = 0 then tdel m a else tset m a b

/-- The canonical form: rising addresses, no byte of 0 listed. -/
def Mem.wf : Mem → Bool
  | [] => true
  | [c] => c.2 != 0
  | c :: d :: m => c.2 != 0 && decide (c.1 < d.1) && Mem.wf (d :: m)

/-- The little-endian number of `n` bytes from an address. -/
def Mem.read (m : Mem) (a : Nat) : Nat → Nat
  | 0 => 0
  | n + 1 => (m.get a).toNat + 256 * m.read (a + 1) n

/-- The low `n` bytes of a number written from an address, little-endian. -/
def Mem.write (m : Mem) (a v : Nat) : Nat → Mem
  | 0 => m
  | n + 1 => (m.set a (BitVec.ofNat 8 v)).write (a + 1) (v / 256) n

/-- The cells of [a, a + n). -/
def Mem.slice (m : Mem) (a n : Nat) : Mem := m.filter fun c => decide (a ≤ c.1) && decide (c.1 < a + n)

/-- The memory with [a, a + n) replaced by the cells given for it. -/
def Mem.splice (m : Mem) (a n : Nat) (cells : Mem) : Mem :=
  m.filter (fun c => decide (c.1 < a)) ++ cells.slice a n ++ m.filter (fun c => decide (a + n ≤ c.1))

/-! ## The parts of the device by key -/

def bhOf (key : Nat) : Nat := key / 65536
def addrOf (key : Nat) : Nat := key % 65536
def elemKey (bh addr : Nat) : Nat := bh * 65536 + addr % 65536

/-- An element of a management element (24 R376): the model keeps those of die d under bulkhead number 16 + d (log 14). -/
def isMgmt (key : Nat) : Bool := decide (16 ≤ bhOf key)

/-- The EV bit of an element address (02 R19); a management element is an evaluator-kind element (24 R376). -/
def isEv (key : Nat) : Bool := isMgmt key || bit key 15

/-- The kind of an element (05 R81, 24 R376). -/
def elemKind (key : Nat) : ElemKind := if isMgmt key then .management else if isEv key then .evaluator else .loom

def colOf (key : Nat) : Nat := bits key 11 4
def rowOf (key : Nat) : Nat := bits key 8 3

/-- The tile that serves an element: the memory tile of its row, or its evaluator tile (09 R178, 14 R246). -/
def servingTile (key : Nat) : Nat :=
  64 * bhOf key + if isEv key then 32 + colOf key else colOf key / 3 * 8 + rowOf key

def State.elem? (s : State) (key : Nat) : Option Elem := tget? s.elems key
def State.setElem (s : State) (key : Nat) (e : Elem) : State := { s with elems := tset s.elems key e }
def State.tile (s : State) (k : Nat) : Tile := tget s.tiles k {}
def State.setTile (s : State) (k : Nat) (t : Tile) : State := { s with tiles := tset s.tiles k t }
def State.slice (s : State) (k : Nat) : Slice := tget s.slices k {}
def State.setSlice (s : State) (k : Nat) (x : Slice) : State := { s with slices := tset s.slices k x }
def State.island (s : State) (k : Nat) : Island := tget s.islands k {}
def State.setIsland (s : State) (k : Nat) (x : Island) : State := { s with islands := tset s.islands k x }
def State.streamer (s : State) (k : Nat) : Streamer := tget s.streamers k {}
def State.setStreamer (s : State) (k : Nat) (x : Streamer) : State := { s with streamers := tset s.streamers k x }
def State.hub (s : State) (k : Nat) : Hub := tget s.hubs k {}
def State.setHub (s : State) (k : Nat) (x : Hub) : State := { s with hubs := tset s.hubs k x }
def State.bh (s : State) (k : Nat) : Bulkhead := tget s.bhs k {}
def State.setBh (s : State) (k : Nat) (x : Bulkhead) : State := { s with bhs := tset s.bhs k x }
def State.fn (s : State) (k : Nat) : Function := tget s.fns k {}
def State.setFn (s : State) (k : Nat) (x : Function) : State := { s with fns := tset s.fns k x }
def State.queue (s : State) (k : Nat) : HwQueue := tget s.queues k {}
def State.setQueue (s : State) (k : Nat) (x : HwQueue) : State := { s with queues := tset s.queues k x }
def State.pool (s : State) (k : Nat) : SharedPool := tget s.pools k {}
def State.setPool (s : State) (k : Nat) (x : SharedPool) : State := { s with pools := tset s.pools k x }
def State.ovnOf (s : State) (k : Nat) : Ovn := tget s.ovns k {}
def State.setOvn (s : State) (k : Nat) (x : Ovn) : State := { s with ovns := tset s.ovns k x }

def State.modElem (s : State) (key : Nat) (f : Elem → Elem) : State :=
  match s.elem? key with
  | none => s
  | some e => s.setElem key (f e)
def State.modTile (s : State) (k : Nat) (f : Tile → Tile) : State := s.setTile k (f (s.tile k))
def State.modSlice (s : State) (k : Nat) (f : Slice → Slice) : State := s.setSlice k (f (s.slice k))
def State.modIsland (s : State) (k : Nat) (f : Island → Island) : State := s.setIsland k (f (s.island k))
def State.modStreamer (s : State) (k : Nat) (f : Streamer → Streamer) : State := s.setStreamer k (f (s.streamer k))
def State.modHub (s : State) (k : Nat) (f : Hub → Hub) : State := s.setHub k (f (s.hub k))
def State.modBh (s : State) (k : Nat) (f : Bulkhead → Bulkhead) : State := s.setBh k (f (s.bh k))
def State.modFn (s : State) (k : Nat) (f : Function → Function) : State := s.setFn k (f (s.fn k))
def State.modQueue (s : State) (k : Nat) (f : HwQueue → HwQueue) : State := s.setQueue k (f (s.queue k))
def State.modPool (s : State) (k : Nat) (f : SharedPool → SharedPool) : State := s.setPool k (f (s.pool k))
def State.modOvn (s : State) (k : Nat) (f : Ovn → Ovn) : State := s.setOvn k (f (s.ovnOf k))

/-- The elements of a bulkhead, by rising address. -/
def State.elemsOf (s : State) (bh : Nat) : List (Nat × Elem) := s.elems.filter fun p => bhOf p.1 == bh

/-- Every element of a bulkhead that a test holds of, changed. -/
def State.mapElems (s : State) (bh : Nat) (f : Nat → Elem → Elem) : State :=
  { s with elems := tmap s.elems fun k e => if bhOf k == bh then f k e else e }

/-- Every tile of a bulkhead changed. -/
def State.mapTiles (s : State) (bh : Nat) (f : Nat → Tile → Tile) : State :=
  { s with tiles := tmap s.tiles fun k t => if k / 64 == bh then f k t else t }

/-- Segment register n of a tile; one that nothing has set has its reset value, READS 15 and LOG2LEN 12 (09 R179). -/
def Tile.seg (t : Tile) (n : Nat) : DWord := tget t.segs n 0x0F0C

/-- Low 32 bits of the arithmetic-cycle count. -/
def State.time (s : State) : Word := BitVec.ofNat 32 s.cycle
/-- The spine-clock count: half the arithmetic one (00 R5). -/
def State.spine (s : State) : Nat := s.cycle / 2
def State.spineTime (s : State) : Word := BitVec.ofNat 32 s.spine

/-- A free value, and the state that has used it up (log 5). -/
def State.takeFree (s : State) : Word × State := (Config.freeWord s.fresh, { s with fresh := s.fresh + 1 })

/-- The number of a new request. -/
def State.newId (s : State) : Nat × State := (s.nextId, { s with nextId := s.nextId + 1 })

/-! ## Who holds a bulkhead (04 R46, R51-R53) -/

/-- The function that holds a bulkhead: its owner, or the function of its pool's current entry (04 R46, R51). -/
def holder (s : State) (bh : Nat) : Option Nat :=
  let b := s.bh bh
  if b.mode == 1 then some b.owner
  else if b.mode == 2 then (s.pool b.pool).current.map fun _ => (s.pool b.pool).fn
  else none

/-- A function owns a bulkhead. -/
def owns (s : State) (fn bh : Nat) : Bool := holder s bh == some fn

/-- The rotation that a pool runs by: as written while it has no current entry, and as the last tick that changed function
found it from then on (04 R52, R53). -/
def SharedPool.rotation (x : SharedPool) : Tab Word := if x.current.isNone then x.rot else x.inForce

/-- A rotation names a function in a valid entry (04 R51). -/
def names (rot : Tab Word) (fn : Nat) : Bool := rot.any fun p => bit p.2.toNat 15 && bits p.2.toNat 0 7 == fn

/-- The bulkheads that a function's queues run on, where pool p runs by a rotation (04 R46): dedicated to it, or members of a
pool whose rotation names it. -/
def membersUnder (s : State) (p : Nat) (rot : Tab Word) (fn : Nat) : List Nat :=
  (List.range 16).filter fun bh =>
    let b := s.bh bh
    (b.mode == 1 && b.owner == fn) || (b.mode == 2 && names (if b.pool == p then rot else (s.pool b.pool).rotation) fn)

/-- The bulkheads that a function's queues run on. -/
def membersFor (s : State) (fn : Nat) : List Nat :=
  (List.range 16).filter fun bh =>
    let b := s.bh bh
    (b.mode == 1 && b.owner == fn) || (b.mode == 2 && names (s.pool b.pool).rotation fn)

/-- The lowest-numbered bulkhead of a function, where its graph scheduler keeps its counters (15 R289). -/
def firstMember (s : State) (fn : Nat) : Nat := (membersFor s fn).headD 0

/-! ## Counters, interrupts and logs -/

/-- A block that nothing has counted: IDLE in every cycle since its bulkhead's counters were zeroed (09 R190). -/
def State.idleCounts (s : State) (bh : Nat) : Counters :=
  { idle := BitVec.ofNat 32 (s.cycle - tget s.zeroed bh 0), upTo := s.cycle }

/-- The counters of an engine, by 64 * bulkhead + its index of 09 R191, and of an element by its key. -/
def State.engineCount (s : State) (k : Nat) : Counters := tget s.engineCounts k (s.idleCounts (k / 64))
def State.elemCount (s : State) (key : Nat) : Counters := tget s.elemCounts key (s.idleCounts (bhOf key))
def State.modEngineCount (s : State) (k : Nat) (f : Counters → Counters) : State :=
  { s with engineCounts := tset s.engineCounts k (f (s.engineCount k)) }
def State.modElemCount (s : State) (key : Nat) (f : Counters → Counters) : State :=
  { s with elemCounts := tset s.elemCounts key (f (s.elemCount key)) }

/-- A change of a block that counts, which FRZ stops (09 R191). -/
def Counters.count (c : Counters) (f : Counters → Counters) : Counters := if c.frz then c else f c

/-- The cycle is counted already: in every cycle an engine counts exactly one of ISSUE, IDLE and the causes (09 R190). -/
def Counters.counted (c : Counters) (cycle : Nat) : Bool := decide (cycle < c.upTo)

/-- The cycle counts as ISSUE, unless it has been counted. -/
def Counters.issued (c : Counters) (cycle : Nat) : Counters :=
  if c.counted cycle then c else { c.count (fun c => { c with issue := c.issue + 1 }) with upTo := cycle + 1 }

/-- n cycles count as a stall of a cause, or as IDLE. -/
def Counters.stalled (c : Counters) (cause n : Nat) : Counters :=
  c.count fun c => { c with stall := modifyAt c.stall cause (· + BitVec.ofNat 32 n) }
def Counters.idled (c : Counters) (n : Nat) : Counters := c.count fun c => { c with idle := c.idle + BitVec.ofNat 32 n }

/-- The engine, or the element, issues in this cycle (09 R190). -/
def State.countIssue (s : State) (k : Nat) : State := s.modEngineCount k (·.issued s.cycle)
def State.countFire (s : State) (key slot beat : Nat) : State :=
  s.modElemCount key fun c => { c.issued s.cycle with fire := (slot, beat) }

/-- The indices of the engines of 09 R191: memory tiles as tiles are numbered, islands, streamers, home slices. -/
def islandEngine (k : Nat) : Nat := 64 * (k / 4) + 32 + k % 4
def streamerEngine (k : Nat) : Nat := 64 * (k / 2) + 36 + k % 2
def evEngine (k : Nat) : Nat := 64 * (k / 64) + 38 + (k % 64 - 32)
def sliceEngine (k : Nat) : Nat := 64 * (k / 8) + 40 + k % 8
/-- The engine of a tile: of a memory tile its own number, of an evaluator tile EV0 or EV1. -/
def tileEngine (k : Nat) : Nat := if k % 64 < 32 then k else evEngine k

/-- An MSI-X event (24 R367): one message, or the pending bit where the vector is masked. -/
def State.raiseMsi (s : State) (fn vector : Nat) : State :=
  s.modFn fn fun f =>
    if bit f.msiMask.toNat vector then { f with msiPending := f.msiPending ||| BitVec.ofNat 4 (2 ^ vector) }
    else { f with msiSent := f.msiSent ++ [vector] }

/-- An event for the trace unit, kept while its kind is enabled (23 R363, R364). -/
def State.trace (s : State) (bh kind sub unit : Nat) (a b : Word) : State :=
  s.modBh bh fun x =>
    if x.dbg.tren && bit x.dbg.trmask.toNat kind then
      { x with dbg := { x.dbg with events := x.dbg.events ++
          [{ time := s.time, a := a, b := b, kind := kind, sub := sub, unit := BitVec.ofNat 16 unit }] } }
    else x

/-- Halts an element with a halt record and its trace event (23 R358, R360). -/
def State.haltElem (s : State) (key cause slot : Nat) (detail : Word) (wave : Nat) : State :=
  let s := s.modElem key fun e => { e with halted := true, haltAt := some s.cycle, stepping := false }
  let r : HaltRec :=
    { time := s.time, detail := detail, wave := wave, cause := cause, slot := slot, elem := BitVec.ofNat 16 key }
  let s := s.modBh (bhOf key) fun b =>
    { b with dbg := { b.dbg with haltLog := lastN 16 (b.dbg.haltLog ++ [r]), hlogcnt := b.dbg.hlogcnt + 1 } }
  s.trace (bhOf key) 5 cause (addrOf key) detail
    (BitVec.ofNat 32 (wave * 2 ^ 24 % 2 ^ 30 + cause * 2 ^ 21 + slot * 2 ^ 16))

/-! ## Taking an exception (19 R322, R323, R335) -/

/-- FLT after a fault (19 R335): CODE, SLOT, IMP, COUNT of faults saturating at 31, low bits of the detail. -/
def fltAfter (old : Word) (code slot : Nat) (imprecise : Bool) (detail : Nat) : Word :=
  let c := bits old.toNat 12 5
  BitVec.ofNat 32 (code % 256 * 2 ^ 24 + slot % 32 * 2 ^ 19 + b2n imprecise * 2 ^ 18
    + (if c < 31 then c + 1 else 31) * 2 ^ 12 + detail % 4096)

/-- The element after its fault: FLT and FLTADDR written, and it fires nothing until its walk has decided. -/
def Elem.afterFault (e : Elem) (code slot : Nat) (imprecise : Bool) (detail addr : Nat) : Elem :=
  { e with flt := fltAfter e.flt code slot imprecise detail, fltaddr := BitVec.ofNat 32 addr, stopped := true }

/-- The place of a unit among the faults of one cycle: elements by address, engines by index, graphs (19 R322). -/
def FaultUnit.rank : FaultUnit → Nat
  | .elem a => a
  | .engine n => 0x10000 + n
  | .graph q => 0x20000 + q

/-- A fault record enters the controller behind those of earlier cycles, and among those of its own cycle by the place of
its unit (19 R322). -/
def insertFault (r : FaultRec) : List FaultRec → List FaultRec
  | [] => [r]
  | x :: l => if x.since == r.since && decide (r.unit.rank < x.unit.rank) then r :: x :: l else x :: insertFault r l

/-- A queue number that no queue has: that of a record which no load is resident for. -/
def noQueue : Nat := 4096

/-- A fault record enters the fault controller of a bulkhead (19 R322); one of a load that a kill sweep is passing is superseded
(19 R326). Its log record is for the function of the resident load, or, where none is resident, for the one that holds the
bulkhead (19 R329). -/
def State.postFault (s : State) (bh : Nat) (r : FaultRec) : State :=
  let fn := ((s.bh bh).load.map Load.fn).orElse fun _ => holder s bh
  s.modBh bh fun b =>
    let r :=
      { r with ident := (b.load.map Load.ident).getD 0, queue := (b.load.map Load.queue).getD noQueue, fn := fn, since := s.cycle,
               gone := b.sweep.any (·.kind == .kill) }
    { b with faults := insertFault r b.faults }

/-- TAKING THE EXCEPTION of an element: its registers are written, it stops, and its record enters the fault
controller. A fault of a killed element is discarded (19 R326). -/
def State.raiseElem (s : State) (key slot code : Nat) (imprecise : Bool) (detail addr : Nat) : State :=
  match s.elem? key with
  | none => s
  | some e =>
    if e.killed then s
    else (s.setElem key (e.afterFault code slot imprecise detail addr)).postFault (bhOf key)
      { unit := .elem (addrOf key), start := .element, code := code, imprecise := imprecise, detail := detail,
        addr := addr }

/-- The fault of an engine, whose walk starts at the tile or at the fabric load (19 R322, R327). A fault of a killed tile is
discarded (19 R326). -/
def State.raiseEngine (s : State) (bh index : Nat) (start : Level) (code detail addr : Nat) (imprecise : Bool) :
    State :=
  if index < 32 && (s.tile (64 * bh + index)).killed then s
  else s.postFault bh
    { unit := .engine index, start := start, code := code, imprecise := imprecise, detail := detail, addr := addr }

end Sys2Proof.Machine
end

