-- ==== Sys2Proof/Machine/Operands.lean ====
section
/-!
DEFINITION. Operands, heddles and beats: how a slot becomes ready (06 R89), how a beat reads its fields, computes and
writes (05 R76, R77), how an issue runs its beats (06 R93-R95), and how tokens leave a port (06 R87, R118).
-/
namespace Sys2Proof.Machine
open Sys2Proof

/-! ## Tokens -/

/-- The selvage level of a token (06 R84). -/
def Token.level (t : Token) : Nat := t.tag.toNat % 8
/-- The exception bit of a token (06 R84). -/
def Token.exc (t : Token) : Bool := bit t.tag.toNat 3
/-- A tag of a level and an exception bit. -/
def mkTag (level : Nat) (exc : Bool) : BitVec 4 := BitVec.ofNat 4 (level % 8 + 8 * b2n exc)

/-! ## Slots and heddles (05 R69, R75) -/

/-- The selected page (17 R317). -/
def Elem.page (e : Elem) : Page := (e.pages.getD e.sel none).getD {}

/-- The kind of a slot: 0 empty, 1 instruction, 2 literal (02 R20). -/
def Page.kind (p : Page) (slot : Nat) : Nat := bits p.kinds.toNat (2 * slot) 2
def Page.heddle (p : Page) (n : Nat) : DWord := p.heddles.getD n 0
def Page.slot (p : Page) (n : Nat) : Word := p.slots.getD n 0

/-- Fields of a heddle descriptor (05 R75). -/
def heddleTake (h : DWord) : Bool := bit h.toNat 48
def heddleCen (h : DWord) : Bool := bit h.toNat 47
/-- N: the beats the slot issues, and the tokens its count test needs. -/
def heddleN (h : DWord) : Nat := if heddleCen h then bits h.toNat 43 4 + 1 else 1
def heddleCport (h : DWord) : Nat := bits h.toNat 40 3
def heddleTneg (h : DWord) : Bool := bit h.toNat 39
def heddleTen (h : DWord) : Bool := bit h.toNat 38
def heddleTlvl (h : DWord) : Nat := bits h.toNat 35 3
def heddleTport (h : DWord) : Nat := bits h.toNat 32 3
def heddleReq (h : DWord) (j : Nat) : Bool := bit h.toNat (16 + j)
def heddleMask (h : DWord) (j : Nat) : Bool := bit h.toNat j

/-- The heddle tests handler bit j at 1. -/
def heddleTests (h : DWord) (j : Nat) : Bool := heddleMask h (8 + j) && heddleReq h (8 + j)

/-! ## Handler bits (06 R98-R100) -/

/-- The set of a handler bit: that of the lowest instruction slot whose heddle tests it at 1 (06 R98). -/
def handlerSetFrom (p : Page) (j : Nat) : Nat → Nat → Option Nat
  | 0, _ => none
  | k + 1, slot =>
    let w := p.slot slot
    if p.kind slot == 1 && heddleTests (p.heddle (wordField w 26 4)) j then some (wordField w 30 2)
    else handlerSetFrom p j k (slot + 1)

def handlerSet (p : Page) (j : Nat) : Option Nat := handlerSetFrom p j 32 0

/-- The inbox holds an entry of the bit (06 R99). -/
def Elem.pendingBit (e : Elem) (j : Nat) : Bool := e.inbox.any (·.bit == j)

/-- The first pending bit of a set in circular order from a bit (06 R99). -/
def exposedFrom (e : Elem) (set : Nat) : Nat → Nat → Option Nat
  | 0, _ => none
  | k + 1, j =>
    if e.pendingBit (j % 8) && handlerSet e.page (j % 8) == some set then some (j % 8)
    else exposedFrom e set k (j + 1)

/-- The exposed bit of a set: the one that is exposed already, until a take removes an entry of it (06 R116), else the first
pending one from the set's pointer (06 R99; log 110). -/
def Elem.exposed (e : Elem) (set : Nat) : Option Nat :=
  match e.shown.getD set none with
  | none => exposedFrom e set 8 (e.ptr.getD set 0)
  | some j =>
    if e.pendingBit j && handlerSet e.page j == some set then some j else exposedFrom e set 8 (e.ptr.getD set 0)

/-- The exposed bits kept, after the inbox or the selected page has changed. -/
def Elem.expose (e : Elem) : Elem := { e with shown := (List.range 4).map e.exposed }

/-- hj as heddles read it (06 R99). -/
def Elem.visible (e : Elem) (j : Nat) : Bool :=
  match handlerSet e.page j with
  | none => false
  | some set => e.exposed set == some j

/-- The lowest bit a heddle tests at 1 whose inbox entry is the current shuttle (06 R100). -/
def lowestTested (h : DWord) : Nat → Nat → Option Nat
  | 0, _ => none
  | k + 1, j => if heddleTests h j then some j else lowestTested h k (j + 1)

def currentBit (h : DWord) : Option Nat := lowestTested h 8 0

/-! ## When a heddle holds (05 R75) -/

/-- The bit that MASK bit j tests: pj, or the handler bit. -/
def testedBit (e : Elem) (j : Nat) : Bool := if j < 8 then e.preds.getD j false else e.visible (j - 8)

def maskHolds (e : Elem) (h : DWord) : Bool :=
  (List.range 16).all fun j => !heddleMask h j || testedBit e j == heddleReq h j

def tagHolds (e : Elem) (h : DWord) : Bool :=
  !heddleTen h || match (e.inp.getD (heddleTport h) []).head? with
    | none => false
    | some t => (t.level == heddleTlvl h) != heddleTneg h

def countHolds (e : Elem) (h : DWord) : Bool :=
  !heddleCen h || decide (heddleN h ≤ (e.inp.getD (heddleCport h) []).length)

/-- Every enabled test of the heddle holds at once. -/
def heddleHolds (e : Elem) (h : DWord) : Bool := maskHolds e h && tagHolds e h && countHolds e h

/-! ## Reading the fields of a beat (05 R76, R77) -/

/-- What a field read gave: the value (high word of a pair), and the tokens read with it. -/
structure RdVal where
  lo : Word
  hi : Word := 0
  toks : List Token := []
  deriving DecidableEq, Repr

/-- A beat after its fields are read: the element with its pops, lf and hd stepped; the values in the order read; the OR
of the exception bits; the tokens popped, for a withdrawal; beat index and N. -/
structure Reads where
  e : Elem
  vals : List RdVal
  exc : Bool
  popped : List (Nat × Token)
  beat : Nat
  n : Nat
  slot : Nat
  heddle : DWord
  deriving DecidableEq, Repr

/-- The value read of field number n, 0 where there is none. -/
def Reads.val (r : Reads) (n : Nat) : Word := (r.vals.getD n { lo := 0 }).lo
/-- The 64-bit value of a pair. -/
def Reads.pair (r : Reads) (n : Nat) : Nat :=
  (r.vals.getD n { lo := 0 }).lo.toNat + 2 ^ 32 * (r.vals.getD n { lo := 0 }).hi.toNat
/-- The first token read through field n. -/
def Reads.tok? (r : Reads) (n : Nat) : Option Token := (r.vals.getD n { lo := 0 }).toks.head?

/-- The value of a pair as its two words. -/
def loWord (n : Nat) : Word := BitVec.ofNat 32 n
def hiWord (n : Nat) : Word := BitVec.ofNat 32 (n / 2 ^ 32)

/-- Reads the next payload word of the current shuttle (06 R100). -/
def readHd (e : Elem) (h : DWord) : Word × Elem :=
  match currentBit h with
  | none => (0, e)
  | some j =>
    match e.inbox.findIdx? (·.bit == j) with
    | none => (0, e)
    | some k =>
      let x := e.inbox.getD k { bit := j, w0 := 0, w1 := 0, classL := false }
      (if x.reads == 0 then x.w0 else if x.reads == 1 then x.w1 else 0,
       { e with inbox := modifyAt e.inbox k fun y => { y with reads := y.reads + 1 } })

/-- Reads one operand, pops left to the end of the beat. `e0` is the element at the start of the beat, `e` as the reads
before have left it (05 R76). -/
def readOperand (key : Nat) (h : DWord) (beat : Nat) (e0 e : Elem) (f : Field) : RdVal × Elem :=
  let port (n : Nat) : RdVal :=
    match e0.inp.getD n [] with
    | [] => { lo := 0 }
    | [t] => { lo := t.data, toks := [t] }
    | t :: u :: _ => if f.wide then { lo := t.data, hi := u.data, toks := [t, u] } else { lo := t.data, toks := [t] }
  match f.op with
  | .d n => ({ lo := e0.regs.getD n.val 0, hi := if f.wide then e0.regs.getD (n.val + 1) 0 else 0 }, e)
  | .i n => (port n.val, e)
  | .k n => (port n.val, e)
  | .c n => ({ lo := e0.consts.getD n.val 0, hi := if f.wide then e0.consts.getD (n.val + 1) 0 else 0 }, e)
  | .p n => ({ lo := if e0.preds.getD n.val false then 1 else 0 }, e)
  | .bt => ({ lo := BitVec.ofNat 32 beat }, e)
  | .tg => ({ lo := BitVec.ofNat 32 e0.tg.toNat }, e)
  | .sk => ({ lo := BitVec.ofNat 32 e0.sk.toNat }, e)
  | .fl => ({ lo := BitVec.ofNat 32 e0.fl.toNat }, e)
  | .id => ({ lo := BitVec.ofNat 32 (addrOf key) }, e)
  | .lf => let x := lfStep e.lf; ({ lo := x }, { e with lf := x })
  | .hd => let (x, e) := readHd e h; ({ lo := x }, e)
  | .o _ => ({ lo := 0 }, e)
  | .z => ({ lo := 0 }, e)

/-- Reads every read field in order. -/
def readAll (key : Nat) (h : DWord) (beat : Nat) (e0 : Elem) : Elem → List Field → List RdVal × Elem
  | e, [] => ([], e)
  | e, f :: fs =>
    if f.read then
      let (v, e) := readOperand key h beat e0 e f
      let (vs, e) := readAll key h beat e0 e fs
      (v :: vs, e)
    else readAll key h beat e0 e fs

/-- How many tokens the fields pop from an input port: one, two for a binary64 field, once whatever the number of
fields that name it (05 R77). -/
def popCount (fs : List Field) (p : Nat) : Nat :=
  fs.foldl (fun n f => match f.op with
    | .i q => if f.read && q.val == p then max n (if f.wide then 2 else 1) else n
    | _ => n) 0

/-- The ports popped, in the order of the fields that pop them. -/
def popOrder (fs : List Field) : List Nat :=
  fs.foldl (fun l f => match f.op with
    | .i q => if f.read then l.filter (· != q.val) ++ [q.val] else l
    | _ => l) []

/-- Pops a number of tokens from a port: tg and sk take the last (06 R106). -/
def Elem.pop (e : Elem) (p n : Nat) : Elem :=
  let q := e.inp.getD p []
  match (q.take n).getLast? with
  | none => e
  | some t => { e with inp := e.inp.set p (q.drop n), tg := t.tag, sk := if t.sparse then t.skip else 0 }

/-- The element after the pops of a beat. -/
def popAll (fs : List Field) (e : Elem) : Elem := (popOrder fs).foldl (fun e p => e.pop p (popCount fs p)) e

/-- The tokens a beat pops, with their ports. -/
def poppedTokens (fs : List Field) (e : Elem) : List (Nat × Token) :=
  (popOrder fs).flatMap fun p => ((e.inp.getD p []).take (popCount fs p)).map fun t => (p, t)

/-- A beat's reads (05 R77): every read field in order, pops at the end of the beat. -/
def readFields (key slot : Nat) (h : DWord) (beat n : Nat) (fs : List Field) (e : Elem) : Reads :=
  let (vs, e1) := readAll key h beat e e fs
  { e := popAll fs e1, vals := vs, exc := vs.any fun v => v.toks.any Token.exc, popped := poppedTokens fs e,
    beat := beat, n := n, slot := slot, heddle := h }

/-! ## Writing (05 R76, 06 R85, 07 R132, R136) -/

/-- The ports of an element whose link is marked sparse (02 R18, 07 R136). -/
def sparsePorts (s : State) (key : Nat) : List Nat :=
  ((s.bh (bhOf key)).links.filter fun l => l.sparse && l.prod == addrOf key).map Link.prodPort

/-- Pushes a token on an output port; on a sparse port a zero that underflowed is counted instead (07 R136). -/
def Elem.push (e : Elem) (sparse : List Nat) (p : Nat) (t : Token) (ufZero : Bool) : Elem :=
  if sparse.contains p then
    let c := e.sparseCount.getD p 0
    let x := e.sparseExc.getD p false
    if ufZero && decide (c < 255) then
      { e with sparseCount := e.sparseCount.set p (c + 1), sparseExc := e.sparseExc.set p (x || t.exc) }
    else
      let t' : Token := { t with tag := mkTag t.level (t.exc || x), skip := BitVec.ofNat 8 c, sparse := true }
      let out := modifyAt e.out p (· ++ [OutEntry.token t'])
      { e with out := out, sparseCount := e.sparseCount.set p 0, sparseExc := e.sparseExc.set p false }
  else { e with out := modifyAt e.out p (· ++ [.token t]) }

/-- Writes a value to an operand: a register, a predicate, a port with the tag given, fl or lf; every other operand
discards it. -/
def Elem.write (e : Elem) (sparse : List Nat) (o : Operand) (v : Word) (tag : BitVec 4) (ufZero : Bool) : Elem :=
  match o with
  | .d n => { e with regs := e.regs.set n.val v }
  | .o n => e.push sparse n.val { data := v, tag := tag } ufZero
  | .p n => { e with preds := e.preds.set n.val (v != 0) }
  | .fl => { e with fl := BitVec.ofNat 6 v.toNat }
  | .lf => { e with lf := if v == 0 then 1 else v }
  | _ => e

/-- Writes a pair: an even register and the next, or two tokens with the low word first (05 R78) and the same exception bit
(08 R159), into which a sparse port puts its pending one. -/
def Elem.write2 (e : Elem) (sparse : List Nat) (o : Operand) (v : Nat) (tag : BitVec 4) (ufZero : Bool) : Elem :=
  match o with
  | .d n => { e with regs := (e.regs.set n.val (loWord v)).set (n.val + 1) (hiWord v) }
  | .o n =>
    if ufZero && sparse.contains n.val && decide (e.sparseCount.getD n.val 0 < 255) then
      e.push sparse n.val { data := loWord v, tag := tag } true
    else
      let tag := mkTag (tag.toNat % 8) (bit tag.toNat 3 || (sparse.contains n.val && e.sparseExc.getD n.val false))
      (e.push sparse n.val { data := loWord v, tag := tag } false).push sparse n.val { data := hiWord v, tag := tag } false
  | _ => e

/-- ORs flags into the sticky flags, after any write of fl by the same beat (07 R132). -/
def Elem.orFlags (e : Elem) (f : Flags) : Elem := { e with fl := e.fl ||| f }

/-! ## Readiness (06 R89, 14 R256) -/

/-- Tokens wait on every port the fields read: N (2N for a binary64 field) on a popped one, one on a peeked one. -/
def inputsReady (e : Elem) (n : Nat) (fs : List Field) : Bool :=
  fs.all fun f => !f.read || match f.op with
    | .i p => decide (n * popCount fs p.val ≤ (e.inp.getD p.val []).length)
    | .k p => decide (1 ≤ (e.inp.getD p.val []).length)
    | _ => true

/-- Room on every written port for what one beat pushes. -/
def outputsReady (e : Elem) (f : Form) : Bool :=
  f.fields.all fun x => !x.write || match x.op with
    | .o p => decide ((e.out.getD p.val []).length + f.pushes ≤ 4)
    | _ => true

/-- Room in the queues a beat puts something in, and no incomplete fence that holds it back (14 R256). -/
def queuesReady (e : Elem) (f : Form) : Bool :=
  (!f.sendQ || decide (e.sendq.length < 2)) && (!f.issueQ || decide (e.issueq.length < 4))
    && match e.fence with
      | none => true
      | some x => !f.isFence && x.succ &&& f.classes == 0

/-- The form of an issue's instruction, with the instruction. -/
def Issue.instr (x : Issue) : Option (Instr × Form) :=
  match decodeWord x.word x.lit with
  | .error _ => none
  | .ok i => (formOf i).map fun f => (i, f)

/-- What a beat puts somewhere has room there. -/
def roomFor (e : Elem) (f : Form) : Bool :=
  outputsReady e f && (!f.sendQ || decide (e.sendq.length < 2)) && (!f.issueQ || decide (e.issueq.length < 4))

/-- A beat of the element has begun and holds (06 R94). -/
def Elem.beatHeld (e : Elem) : Bool := e.issue.any Issue.held

/-- The element may fire or advance a beat (06 R114): not killed, done or retired, no walk of its fault, not halted, not
passed by a sweep, its bulkhead not frozen nor in reset, and its load not retiring, but for a beat in progress (21 R346). -/
def elemRuns (s : State) (key : Nat) (e : Elem) : Bool :=
  !e.killed && !e.done && !e.retired && !e.stopped && !e.halted && !e.swept && !(s.bh (bhOf key)).frozen
    && !(s.bh (bhOf key)).parked && (s.bh (bhOf key)).state == 6 && ((s.bh (bhOf key)).retiring == 0 || e.beatHeld)
    && (!isMgmt key || bit s.mgmt.toNat (bhOf key - 16))

/-- The sweep token has reached an element: it is in its column, or in the edges for an evaluator element. -/
def reached (s : State) (key : Nat) : Bool :=
  match (s.bh (bhOf key)).sweep with
  | none => false
  | some w => if isEv key then decide (12 ≤ w.column) else decide (colOf key ≤ w.column)

/-! ## What a sweep waits for in an element (14 R261, 19 R338) -/

def Elem.pending? (e : Elem) (id : Nat) : Option Pending := e.pending.find? (·.id == id)

/-- A request stands in its issue queue or in a reorder buffer. -/
def inQueue (e : Elem) (id : Nat) : Bool := e.issueq.any (·.id == id)
def inBuffer (s : State) (key id : Nat) : Bool := (s.tile (servingTile key)).wrb.any (·.id == id)

/-- A semw of an element has not been withdrawn yet. -/
def semwPending (e : Elem) : Bool :=
  e.pending.any fun p => match p.kind with
    | .semw .. => true
    | _ => false

/-- A command that an engine has not ended. -/
def isCommand (p : Pending) : Bool := p.kind == .skipped && p.performed

/-- An answer on its way to the hub, which accepts none during an end-of-slice sweep (17 R306). -/
def isAnswer (p : Pending) : Bool :=
  p.handedOver && match p.kind with
    | .answer .. => true
    | _ => false

/-- A halt, the retirement of its load or a withdrawn semw suspends the issue of an element (06 R94, 15 R287, 21 R346). -/
def suspended (s : State) (key : Nat) (e : Elem) : Bool :=
  e.halted || (s.bh (bhOf key)).retiring != 0 || e.issue.any Issue.withdrawn

/-- An element is drained; of a killed one, what it had sent has come to its end. Reconfiguration: every request that left its queue
and waits in no reorder buffer has returned, and the issue in progress, if any, is suspended or waits for a request that is
discarded. End of slice: its issue has ended or is suspended, its queue has handed over, and only requests of the reorder
buffer are left. -/
def elemDrained (s : State) (k : SweepKind) (key : Nat) (e : Elem) : Bool :=
  let waits (id : Nat) : Bool := inQueue e id || inBuffer s key id
  if e.killed then e.pending.all fun p => isCommand p || (k == .endOfSlice && isAnswer p)
  else !semwPending e && match k with
    | .endOfSlice =>
      (e.issue.isNone || suspended s key e) && e.issueq.isEmpty
        && e.pending.all fun p => isCommand p || isAnswer p || inBuffer s key p.id
    | _ =>
      (e.pending.all fun p => isCommand p || waits p.id) && match e.issue with
        | none => true
        | some x => suspended s key e || x.wait.any waits

/-- The elements of the compute or evaluator tile of an element (02 R19). -/
def State.tileElems (s : State) (key : Nat) : List (Nat × Elem) := s.elems.filter fun p => p.1 / 256 == key / 256

/-- A sweep keeps an element from starting an issue: a reconfiguration or kill sweep that has reached it, and an end-of-slice
sweep that has drained its tile (06 R114, 19 R338). -/
def sweepHolds (s : State) (key : Nat) : Bool :=
  reached s key && match (s.bh (bhOf key)).sweep with
    | none => false
    | some w => w.kind != .endOfSlice || (s.tileElems key).all fun p => elemDrained s .endOfSlice p.1 p.2

/-- The site of an ask slot (17 R295). -/
def siteOf (s : State) (key slot : Nat) : Option Nat :=
  (s.hub (bhOf key)).sites.findIdx? fun x => x.elem == addrOf key && x.slot == slot

/-- A special-register index that reaches the ask hub (17 R316, 19 R335). -/
def isHubIndex (x : Nat) : Bool := x == 0x100 || (decide (0x120 ≤ x) && decide (x ≤ 0x15F))

/-- What an instruction needs beside its form: the query tokens of an ask (17 R298), a free place in the issue queue for
a hub register (19 R334). -/
def extraReady (s : State) (key slot n : Nat) (e : Elem) (i : Instr) : Bool :=
  match i with
  | .ask .. =>
    match siteOf s key slot with
    | none => false
    | some k =>
      match (s.hub (bhOf key)).sites[k]? with
      | none => false
      | some x => decide (n * x.q ≤ (e.inp.getD x.qport []).length)
  | .srd _ _ x => !isHubIndex x.toNat || decide (e.issueq.length < 4)
  | .swr _ _ x => !isHubIndex x.toNat || decide (e.issueq.length < 4)
  | _ => true

/-- A slot is ready (06 R89). -/
def slotReady (s : State) (key slot : Nat) (e : Elem) (h : DWord) (i : Instr) (f : Form) : Bool :=
  e.issue.isNone && heddleHolds e h && inputsReady e (heddleN h) f.fields && outputsReady e f && queuesReady e f
    && extraReady s key slot (heddleN h) e i

/-! ## Links (06 R87, R118, 19 R333) -/

/-- The element address of the exception sink of a row (19 R333). -/
def isSink (addr : Nat) : Bool := addr % 256 == 0 && decide (0x7800 ≤ addr) && decide (addr ≤ 0x7F00)

/-- A consumer has room for one token; a killed or done element accepts and discards (19 R325, 21 R345); an evaluator whose
class has not passed its self-test accepts none (24 R370). -/
def consumerRoom (s : State) (bh : Nat) (l : Link) : Bool :=
  isSink l.cons || match s.elem? (elemKey bh l.cons) with
    | none => false
    | some e => (e.killed || e.done || e.retired || decide ((e.inp.getD l.consPort []).length < 16))
        && (!isEv l.cons || bit s.isl.toNat 0)

/-- A token enters an exception sink (19 R333): reports are merged by producer. -/
def State.sinkToken (s : State) (bh prod : Nat) (t : Token) : State :=
  if !t.exc then s
  else
    let time := s.spineTime
    s.modBh bh fun b =>
      let b := { b with sinkcnt := b.sinkcnt + 1 }
      match b.sink.findIdx? (·.elem.toNat == prod) with
      | some k =>
        let more (n : Word) : Word := if n == 0xFFFFFFFF then n else n + 1
        { b with sink := modifyAt b.sink k fun r => { r with more := more r.more } }
      | none =>
        if b.sink.length < 64 then
          let r : SinkRec := { elem := BitVec.ofNat 16 prod, tag := t.tag, data := t.data, more := 0, time := time }
          { b with sink := b.sink ++ [r] }
        else b

/-- A token enters an input port. -/
def State.acceptToken (s : State) (bh : Nat) (prod : Nat) (l : Link) (t : Token) : State :=
  if isSink l.cons then s.sinkToken bh prod t
  else s.modElem (elemKey bh l.cons) fun e =>
    if e.killed || e.done || e.retired then e else { e with inp := modifyAt e.inp l.consPort (· ++ [t]) }

/-- The head token of an output port leaves it for every linked input port, once each has room (06 R118). -/
def State.deliver (s : State) (key port : Nat) : State :=
  match s.elem? key with
  | none => s
  | some e =>
    match e.out.getD port [] with
    | .token t :: rest =>
      let ls := (s.bh (bhOf key)).links.filter fun l => l.prod == addrOf key && l.prodPort == port
      if !ls.isEmpty && ls.all (consumerRoom s (bhOf key)) then
        ls.foldl (fun s l => s.acceptToken (bhOf key) (addrOf key) l t) (s.setElem key { e with out := e.out.set port rest })
      else s
    | _ => s

/-- At the end of a beat, the tokens on ports that feed the element itself leave, to be seen in the next cycle
(06 R88). -/
def State.deliverSelf (s : State) (key : Nat) : State :=
  let ports := ((s.bh (bhOf key)).links.filter fun l => l.prod == addrOf key && l.cons == addrOf key).map Link.prodPort
  ports.foldl (fun s p => (List.range 4).foldl (fun s _ => s.deliver key p) s) s

/-! ## Beats (06 R93-R95, R101, 19 R323) -/

/-- How a beat ends. -/
inductive BeatStop where
  /-- Its effect is complete. -/
  | done
  /-- It lacks room or waits for an earlier effect: nothing has happened, it is tried again (06 R94). -/
  | hold
  /-- It holds for the reply to a request (10 R194). -/
  | await (id : Nat)
  /-- A fault at fire (19 R323): code, detail, address. -/
  | fault (code detail addr : Nat)
  deriving DecidableEq, Repr

/-- What a beat does: the state outside the element, the element after it, and how it ends. -/
structure BodyResult where
  s : State
  e : Elem
  stop : BeatStop := .done

/-- The part of a meaning that one instruction gives: from the state and the beat's reads to what the beat does. -/
abbrev Body := State → Nat → Reads → BodyResult

/-- TAKE (06 R101): the current shuttle's entry leaves the inbox, the pointer of its set moves past the bit, and the set
exposes the next pending bit (06 R99). -/
def Elem.take (e : Elem) (h : DWord) : Elem :=
  if !heddleTake h then e
  else match currentBit h with
    | none => e
    | some j =>
      let inbox := match e.inbox.findIdx? (·.bit == j) with
        | none => e.inbox
        | some k => removeAt e.inbox k
      match handlerSet e.page j with
      | none => { e with inbox := inbox }
      | some set =>
        ({ e with inbox := inbox, ptr := e.ptr.set set ((j + 1) % 8), shown := e.shown.set set none } : Elem).expose

/-- An issue has ended: one whose withdrawn semw fires again goes on (15 R287). -/
def Elem.nextIssue (e : Elem) : Elem := { e with issue := e.again.head?, again := e.again.tail }

/-- The element after a complete beat of an issue: the next beat, or the end of the issue with TAKE. -/
def Elem.advance (e : Elem) (x : Issue) : Elem :=
  if x.beat + 1 < x.n then { e with issue := some { x with beat := x.beat + 1, wait := none, held := false } }
  else (e.take x.heddle).nextIssue

/-- The end of a beat: the element is put back, its own tokens reach it, and a stepped fire halts (23 R359). -/
def State.endBeat (s : State) (key : Nat) (e : Elem) (x : Issue) : State :=
  let e' := e.advance x
  let s := (s.setElem key e').deliverSelf key
  if e'.bkhalt then
    (s.modElem key fun y => { y with bkhalt := false }).haltElem key 0 x.slot (BitVec.ofNat 32 e'.bkcode.toNat) 0
  else if decide (x.n ≤ x.beat + 1) && e'.stepping then s.haltElem key 3 x.slot 0 0
  else s

/-- A fire whose beat has met a fault ends; a stepped one halts there too (06 R94, 19 R323, 23 R358). -/
def State.faultBeat (s : State) (key : Nat) (e : Elem) (slot code : Nat) (imprecise : Bool) (detail addr : Nat) : State :=
  let s := (s.setElem key e.nextIssue).raiseElem key slot code imprecise detail addr
  if e.stepping then s.haltElem key 3 slot 0 0 else s

/-- A beat holds, since the spine cycle in which it began to. -/
def Issue.hold (x : Issue) (now : Nat) : Issue :=
  { x with wait := none, held := true, since := if x.held then x.since else now }

/-- Runs one beat of an issue whose operands are ready; the cycle counts as ISSUE (09 R190). -/
def runIssue (form : Form) (body : Body) (s : State) (key : Nat) (e : Elem) (x : Issue) : State :=
  let r := readFields key x.slot x.heddle x.beat x.n form.fields e
  let y : BodyResult :=
    if e.parity then { s := s, e := r.e, stop := .fault 0x51 x.slot 0 } else body s key r
  match y.stop with
  | .done => (y.s.countFire key x.slot x.beat).endBeat key y.e x
  | .hold => s.setElem key { e with issue := some (x.hold s.spine) }
  | .await id => (y.s.countFire key x.slot x.beat).setElem key { y.e with issue := some { x with wait := some id } }
  | .fault code detail addr =>
    (s.countFire key x.slot x.beat).faultBeat key { r.e with parity := false } x.slot code false detail addr

/-- One beat of the element in focus: the first beat of a ready slot, or the next beat of the issue in progress. A slot
that is not ready, and a beat that holds, leave the state as it is (log 9). -/
def runBeat (i : Instr) (t : Trig) (body : Body) (s : State) : Host.Outcome State Fault Refusal :=
  match s.focus with
  | .elem key slot word lit =>
    match s.elem? key, formOf i with
    | some e, some form =>
      match slotCheck (elemKind key) i with
      | some c => .refused (.illFormed c)
      | none =>
        match e.issue with
        | some x =>
          if x.wait.isNone && !x.withdrawn && elemRuns s key e && outputsReady e form && queuesReady e form
              && extraReady s key x.slot 1 e i then
            .next (runIssue form body s key e x)
          else .next s
        | none =>
          let h := e.page.heddle t.heddle.val
          if elemRuns s key e && !sweepHolds s key && slotReady s key slot e h i form then
            .next (runIssue form body s key { e with skipBreak := false }
              { slot := slot, word := word, lit := lit, heddle := h, n := heddleN h, beat := 0 })
          else .next s
    | _, _ => .fault .noAgent
  | _ => .fault .noAgent

/-- What a meaning answers. -/
abbrev Out := Host.Outcome State Fault Refusal

/-! ## Bodies of plain instructions (08 R139) -/

/-- The written field of a form: the operand, and whether it is a pair. -/
def Form.dst (f : Form) : Operand :=
  match f.fields.find? Field.write with
  | none => .z
  | some x => x.op

/-- A beat that writes one value and raises flags; the pushed token has level 0 and the exception bit of 06 R85. -/
def writeBody (d : Operand) (f : State → Reads → FRes) : Body := fun s key r =>
  let y := f s r
  let e := r.e.write (sparsePorts s key) d (BitVec.ofNat 32 y.bits) (mkTag 0 (r.exc || y.flags.isFloat)) y.ufZero
  { s := s, e := e.orFlags y.flags }

/-- The same for a binary64 result. -/
def writeBody2 (d : Operand) (f : State → Reads → FRes) : Body := fun s key r =>
  let y := f s r
  let e := r.e.write2 (sparsePorts s key) d y.bits (mkTag 0 (r.exc || y.flags.isFloat)) y.ufZero
  { s := s, e := e.orFlags y.flags }

/-- A beat that computes a word without flags. -/
def wordBody (d : Operand) (f : Reads → Word) : Body := writeBody d fun _ r => .exact (f r).toNat

/-- The element's mode, and lf stepped for one rounded result in SR mode (07 R128). -/
def Elem.mode (e : Elem) : RMode := e.record.mode
def stepSR (e : Elem) : Elem := if e.mode == .sr then { e with lf := lfStep e.lf } else e

/-- A beat of a rounding instruction with one result: lf steps once in SR mode, after the operands are read. -/
def roundBody (wide : Bool) (d : Operand) (f : RMode → Nat → Reads → FRes) : Body := fun s key r =>
  let r := { r with e := stepSR r.e }
  (if wide then writeBody2 else writeBody) d (fun _ r => f r.e.mode r.e.lf.toNat r) s key r

/-- A beat of a packed rounding instruction: lane 0 rounds before lane 1 (08 R140). -/
def laneBody (d : Operand) (f : RMode → Nat → Nat → Reads → FRes) : Body := fun s key r =>
  let r0 := { r with e := stepSR r.e }
  let y0 := f r0.e.mode r0.e.lf.toNat 0 r0
  let r1 := { r0 with e := stepSR r0.e }
  let y1 := f r1.e.mode r1.e.lf.toNat 1 r1
  let y : FRes :=
    { bits := y0.bits + 65536 * y1.bits, flags := y0.flags ||| y1.flags, ufZero := y0.ufZero && y1.ufZero }
  writeBody d (fun _ _ => y) s key r1

/-- Lane n of a word (08 R140). -/
def lane (w : Word) (n : Nat) : Nat := w.toNat / 65536 ^ n % 65536

/-- The element's half format (02 R20, 07 R120). -/
def Elem.half (e : Elem) : Fmt := if e.record.fp16 then fmtFP16 else fmtBF16

end Sys2Proof.Machine
end

