-- ==== Sys2Proof/Machine/Arith.lean ====
section
/-!
DEFINITION. Integer arithmetic, logic, shifts, bit counts and value loading (08 R141-R147).
-/
namespace Sys2Proof.Machine
open Sys2Proof

/-- Clamps to the signed 32-bit range; SAT when it clamps (08 R141). -/
def saturate32 (v : Int) : FRes :=
  if v > 2147483647 then { bits := 0x7FFFFFFF, flags := flagSAT }
  else if v < -2147483648 then { bits := 0x80000000, flags := flagSAT }
  else .exact (v % 4294967296).toNat

/-- Lane by lane on 16 bits, modulo 2^16 (08 R140). -/
def lanes16 (f : BitVec 16 → BitVec 16 → BitVec 16) (a b : Word) : Word :=
  f (BitVec.ofNat 16 (lane a 1)) (BitVec.ofNat 16 (lane b 1)) ++ f (BitVec.ofNat 16 (lane a 0)) (BitVec.ofNat 16 (lane b 0))

/-- Clamps one lane to the signed 16-bit range. -/
def clamp16 (v : Int) : Nat × Flags :=
  if v > 32767 then (0x7FFF, flagSAT) else if v < -32768 then (0x8000, flagSAT) else ((v % 65536).toNat, 0)

/-- Lane by lane, saturating (08 R141). -/
def saturate16 (f : Int → Int → Int) (a b : Word) : FRes :=
  let x := clamp16 (f (signed (lane a 0) 16) (signed (lane b 0) 16))
  let y := clamp16 (f (signed (lane a 1) 16) (signed (lane b 1) 16))
  { bits := x.1 + 65536 * y.1, flags := x.2 ||| y.2 }

/-- The sum of the four byte products (08 R142). -/
def dotBytes (sgn : Bool) (a b : Word) : Int :=
  let v (w : Word) (j : Nat) : Int := if sgn then signed (bits w.toNat (8 * j) 8) 8 else bits w.toNat (8 * j) 8
  v a 0 * v b 0 + v a 1 * v b 1 + v a 2 * v b 2 + v a 3 * v b 3

/-- Signed division, truncating; zero divisor and overflow as 08 R143 gives them. -/
def divS (a b : Word) : FRes :=
  if b == 0 then { bits := if a.msb then 0x80000000 else 0x7FFFFFFF, flags := flagSAT }
  else if a == 0x80000000 && b == 0xFFFFFFFF then { bits := 0x7FFFFFFF, flags := flagSAT }
  else .exact (BitVec.ofInt 32 (Int.tdiv a.toInt b.toInt)).toNat
def divN (a b : Word) : FRes :=
  if b == 0 then { bits := 0xFFFFFFFF, flags := flagSAT } else .exact (a.toNat / b.toNat)
def remS (a b : Word) : FRes :=
  if b == 0 then { bits := a.toNat, flags := flagSAT }
  else .exact (BitVec.ofInt 32 (Int.tmod a.toInt b.toInt)).toNat
def remN (a b : Word) : FRes :=
  if b == 0 then { bits := a.toNat, flags := flagSAT } else .exact (a.toNat % b.toNat)

/-- Shifts by any amount read as non-negative (08 R145). -/
def shiftLeft (a : Word) (n : Nat) : Word := if n < 32 then a <<< n else 0
def shiftRight (a : Word) (n : Nat) : Word := if n < 32 then a >>> n else 0
def shiftArith (a : Word) (n : Nat) : Word := if n < 32 then a.sshiftRight n else if a.msb then 0xFFFFFFFF else 0

/-- Bit counts (08 R146); 32 for 0. -/
def leadingZeros (a : Word) : Nat := if a == 0 then 32 else 31 - Nat.log2 a.toNat
def trailingZeros : Nat → Nat → Nat
  | 0, _ => 0
  | k + 1, n => if n % 2 == 1 then 0 else 1 + trailingZeros k (n / 2)
def oneBits : Nat → Nat → Nat
  | 0, _ => 0
  | k + 1, n => n % 2 + oneBits k (n / 2)

/-- ldhi: bits [31:20] written, bits [19:0] of a d register kept, 0 of any other operand (08 R147). -/
def ldhiBody (dst : Operand) (imm : BitVec 12) : Body := fun s key r =>
  let old : Nat := match dst with
    | .d n => (r.e.regs.getD n.val 0).toNat % 2 ^ 20
    | _ => 0
  wordBody dst (fun _ => BitVec.ofNat 32 (imm.toNat * 2 ^ 20 + old)) s key r

/-- ADDI_S32 (R141). -/
def execAddiS32 (t : Trig) (dst a : Operand) (imm : BitVec 6) (s : State) : Out :=
  runBeat (.addiS32 t dst a imm) t (wordBody dst fun r => r.val 0 + BitVec.signExtend 32 imm) s

/-- ADD_S32 (R141). -/
def execAddS32 (t : Trig) (dst a b : Operand) (s : State) : Out :=
  runBeat (.addS32 t dst a b) t (wordBody dst fun r => r.val 0 + r.val 1) s

/-- ADDS_S32 (R141). -/
def execAddsS32 (t : Trig) (dst a b : Operand) (s : State) : Out :=
  runBeat (.addsS32 t dst a b) t (writeBody dst fun _ r => saturate32 ((r.val 0).toInt + (r.val 1).toInt)) s

/-- SUB_S32 (R141). -/
def execSubS32 (t : Trig) (dst a b : Operand) (s : State) : Out :=
  runBeat (.subS32 t dst a b) t (wordBody dst fun r => r.val 0 - r.val 1) s

/-- SUBS_S32 (R141). -/
def execSubsS32 (t : Trig) (dst a b : Operand) (s : State) : Out :=
  runBeat (.subsS32 t dst a b) t (writeBody dst fun _ r => saturate32 ((r.val 0).toInt - (r.val 1).toInt)) s

/-- NEG_S32 (R141). -/
def execNegS32 (t : Trig) (dst a : Operand) (s : State) : Out :=
  runBeat (.negS32 t dst a) t (wordBody dst fun r => 0 - r.val 0) s

/-- ABS_S32 (R141). -/
def execAbsS32 (t : Trig) (dst a : Operand) (s : State) : Out :=
  runBeat (.absS32 t dst a) t (wordBody dst fun r => if (r.val 0).msb then 0 - r.val 0 else r.val 0) s

/-- ADD_S16 (R141). -/
def execAddS16 (t : Trig) (dst a b : Operand) (s : State) : Out :=
  runBeat (.addS16 t dst a b) t (wordBody dst fun r => lanes16 (· + ·) (r.val 0) (r.val 1)) s

/-- ADDS_S16 (R141). -/
def execAddsS16 (t : Trig) (dst a b : Operand) (s : State) : Out :=
  runBeat (.addsS16 t dst a b) t (writeBody dst fun _ r => saturate16 (· + ·) (r.val 0) (r.val 1)) s

/-- SUB_S16 (R141). -/
def execSubS16 (t : Trig) (dst a b : Operand) (s : State) : Out :=
  runBeat (.subS16 t dst a b) t (wordBody dst fun r => lanes16 (· - ·) (r.val 0) (r.val 1)) s

/-- SUBS_S16 (R141). -/
def execSubsS16 (t : Trig) (dst a b : Operand) (s : State) : Out :=
  runBeat (.subsS16 t dst a b) t (writeBody dst fun _ r => saturate16 (· - ·) (r.val 0) (r.val 1)) s

/-- MUL_S32 (R142). -/
def execMulS32 (t : Trig) (dst a b : Operand) (s : State) : Out :=
  runBeat (.mulS32 t dst a b) t (wordBody dst fun r => r.val 0 * r.val 1) s

/-- MULH_S32 (R142). -/
def execMulhS32 (t : Trig) (dst a b : Operand) (s : State) : Out :=
  runBeat (.mulhS32 t dst a b) t (wordBody dst fun r => BitVec.ofInt 32 ((r.val 0).toInt * (r.val 1).toInt / 4294967296)) s

/-- MULH_N32 (R142). -/
def execMulhN32 (t : Trig) (dst a b : Operand) (s : State) : Out :=
  runBeat (.mulhN32 t dst a b) t (wordBody dst fun r => BitVec.ofNat 32 ((r.val 0).toNat * (r.val 1).toNat / 4294967296)) s

/-- MAC_S32 (R142). -/
def execMacS32 (t : Trig) (dst a b : Operand) (s : State) : Out :=
  runBeat (.macS32 t dst a b) t (wordBody dst fun r => r.val 2 + r.val 0 * r.val 1) s

/-- MUL_S16 (R142). -/
def execMulS16 (t : Trig) (dst a b : Operand) (s : State) : Out :=
  runBeat (.mulS16 t dst a b) t (wordBody dst fun r => lanes16 (· * ·) (r.val 0) (r.val 1)) s

/-- DOT_S8 (R142). -/
def execDotS8 (t : Trig) (dst a b : Operand) (s : State) : Out :=
  runBeat (.dotS8 t dst a b) t (wordBody dst fun r => BitVec.ofInt 32 (dotBytes true (r.val 0) (r.val 1))) s

/-- DOT_N8 (R142). -/
def execDotN8 (t : Trig) (dst a b : Operand) (s : State) : Out :=
  runBeat (.dotN8 t dst a b) t (wordBody dst fun r => BitVec.ofInt 32 (dotBytes false (r.val 0) (r.val 1))) s

/-- DIV_S32 (R143). -/
def execDivS32 (t : Trig) (dst a b : Operand) (s : State) : Out :=
  runBeat (.divS32 t dst a b) t (writeBody dst fun _ r => divS (r.val 0) (r.val 1)) s

/-- DIV_N32 (R143). -/
def execDivN32 (t : Trig) (dst a b : Operand) (s : State) : Out :=
  runBeat (.divN32 t dst a b) t (writeBody dst fun _ r => divN (r.val 0) (r.val 1)) s

/-- REM_S32 (R143). -/
def execRemS32 (t : Trig) (dst a b : Operand) (s : State) : Out :=
  runBeat (.remS32 t dst a b) t (writeBody dst fun _ r => remS (r.val 0) (r.val 1)) s

/-- REM_N32 (R143). -/
def execRemN32 (t : Trig) (dst a b : Operand) (s : State) : Out :=
  runBeat (.remN32 t dst a b) t (writeBody dst fun _ r => remN (r.val 0) (r.val 1)) s

/-- MIN_S32 (R144). -/
def execMinS32 (t : Trig) (dst a b : Operand) (s : State) : Out :=
  runBeat (.minS32 t dst a b) t (wordBody dst fun r => if (r.val 0).toInt ≤ (r.val 1).toInt then r.val 0 else r.val 1) s

/-- MAX_S32 (R144). -/
def execMaxS32 (t : Trig) (dst a b : Operand) (s : State) : Out :=
  runBeat (.maxS32 t dst a b) t (wordBody dst fun r => if (r.val 0).toInt ≤ (r.val 1).toInt then r.val 1 else r.val 0) s

/-- MIN_N32 (R144). -/
def execMinN32 (t : Trig) (dst a b : Operand) (s : State) : Out :=
  runBeat (.minN32 t dst a b) t (wordBody dst fun r => if (r.val 0).toNat ≤ (r.val 1).toNat then r.val 0 else r.val 1) s

/-- MAX_N32 (R144). -/
def execMaxN32 (t : Trig) (dst a b : Operand) (s : State) : Out :=
  runBeat (.maxN32 t dst a b) t (wordBody dst fun r => if (r.val 0).toNat ≤ (r.val 1).toNat then r.val 1 else r.val 0) s

/-- AND (R144). -/
def execAnd (t : Trig) (dst a b : Operand) (s : State) : Out :=
  runBeat (.and t dst a b) t (wordBody dst fun r => r.val 0 &&& r.val 1) s

/-- OR (R144). -/
def execOr (t : Trig) (dst a b : Operand) (s : State) : Out :=
  runBeat (.or t dst a b) t (wordBody dst fun r => r.val 0 ||| r.val 1) s

/-- XOR (R144). -/
def execXor (t : Trig) (dst a b : Operand) (s : State) : Out :=
  runBeat (.xor t dst a b) t (wordBody dst fun r => r.val 0 ^^^ r.val 1) s

/-- NOT (R144). -/
def execNot (t : Trig) (dst a : Operand) (s : State) : Out :=
  runBeat (.not t dst a) t (wordBody dst fun r => ~~~ r.val 0) s

/-- ANDI (R144). -/
def execAndi (t : Trig) (dst a : Operand) (imm : BitVec 6) (s : State) : Out :=
  runBeat (.andi t dst a imm) t (wordBody dst fun r => r.val 0 &&& BitVec.zeroExtend 32 imm) s

/-- SHL (R145). -/
def execShl (t : Trig) (dst a b : Operand) (s : State) : Out :=
  runBeat (.shl t dst a b) t (wordBody dst fun r => shiftLeft (r.val 0) (r.val 1).toNat) s

/-- SHR (R145). -/
def execShr (t : Trig) (dst a b : Operand) (s : State) : Out :=
  runBeat (.shr t dst a b) t (wordBody dst fun r => shiftRight (r.val 0) (r.val 1).toNat) s

/-- SAR (R145). -/
def execSar (t : Trig) (dst a b : Operand) (s : State) : Out :=
  runBeat (.sar t dst a b) t (wordBody dst fun r => shiftArith (r.val 0) (r.val 1).toNat) s

/-- SHLI (R145). -/
def execShli (t : Trig) (dst a : Operand) (imm : BitVec 5) (s : State) : Out :=
  runBeat (.shli t dst a imm) t (wordBody dst fun r => shiftLeft (r.val 0) imm.toNat) s

/-- SHRI (R145). -/
def execShri (t : Trig) (dst a : Operand) (imm : BitVec 5) (s : State) : Out :=
  runBeat (.shri t dst a imm) t (wordBody dst fun r => shiftRight (r.val 0) imm.toNat) s

/-- SARI (R145). -/
def execSari (t : Trig) (dst a : Operand) (imm : BitVec 5) (s : State) : Out :=
  runBeat (.sari t dst a imm) t (wordBody dst fun r => shiftArith (r.val 0) imm.toNat) s

/-- CLZ (R146). -/
def execClz (t : Trig) (dst a : Operand) (s : State) : Out :=
  runBeat (.clz t dst a) t (wordBody dst fun r => BitVec.ofNat 32 (leadingZeros (r.val 0))) s

/-- CTZ (R146). -/
def execCtz (t : Trig) (dst a : Operand) (s : State) : Out :=
  runBeat (.ctz t dst a) t (wordBody dst fun r => BitVec.ofNat 32 (trailingZeros 32 (r.val 0).toNat)) s

/-- POPC (R146). -/
def execPopc (t : Trig) (dst a : Operand) (s : State) : Out :=
  runBeat (.popc t dst a) t (wordBody dst fun r => BitVec.ofNat 32 (oneBits 32 (r.val 0).toNat)) s

/-- LDI (R147). -/
def execLdi (t : Trig) (dst : Operand) (imm : BitVec 12) (s : State) : Out :=
  runBeat (.ldi t dst imm) t (wordBody dst fun r => (fun _ : Reads => BitVec.signExtend 32 imm) r) s

/-- LDHI (R147). -/
def execLdhi (t : Trig) (dst : Operand) (imm : BitVec 12) (s : State) : Out :=
  runBeat (.ldhi t dst imm) t (ldhiBody dst imm) s

/-- LIT (R73). -/
def execLit (t : Trig) (dst : Operand) (lit : Word) (s : State) : Out :=
  runBeat (.lit t dst lit) t (wordBody dst fun r => (fun _ : Reads => lit) r) s

end Sys2Proof.Machine
end

