-- ==== Sys2Proof/Machine/Access.lean ====
section
/-!
DEFINITION. The memory hierarchy: the physical map (09 R174-R176), the last-level caches (09 R183, R184), translation and
the TLBs (09 R168-R173), gates and drop logs (04 R58, R60), windows (04 R62-R64).
-/
namespace Sys2Proof.Machine
open Sys2Proof

/-! ## The physical map (09 R174-R176) -/

/-- Where a physical address of device memory lives: its address in the one view that memory is kept by, its home
bulkhead and slice, and the CXL port it lies behind, if any. -/
structure Home where
  pa : Nat
  bh : Nat
  slice : Nat
  cxl : Option Nat := none
  deriving DecidableEq, Repr

/-- The bulkheads of a member mask, in ascending order. -/
def membersOf (m : Nat) : List Nat := (List.range 16).filter fun k => bit m k

/-- The home of a physical address; `none` where it is not backed. -/
def homeOf (s : State) (pa : Nat) : Option Home :=
  if pa < 0x3000000000 then some { pa := pa, bh := pa / 0x300000000, slice := bits pa 12 3 }
  else if 0x1000000000000 ≤ pa && pa < 0x1040000000000 then
    let x := pa - 0x1000000000000
    let o := s.ovnOf (x / 0x4000000000)
    let bs := membersOf o.members.toNat
    let off := x % 0x4000000000
    let j := off / 0x1000
    if o.on && off < bs.length * 0x300000000 then
      let bh := bs.getD (j % bs.length) 0
      let row := j / bs.length
      some { pa := bh * 0x300000000 + row * 0x1000 + off % 0x1000, bh := bh, slice := row % 8 }
    else none
  else if 0x2000000000000 ≤ pa && pa < 0x2040000000000 then
    let x := pa - 0x2000000000000
    let port := x / 0x20000000000
    let w := (tget s.cxlmap (2048 * port + x % 0x20000000000 / 2 ^ 30) 0).toNat
    if bit w 31 then some { pa := pa, bh := bits w 0 4, slice := bits pa 12 3, cxl := some port } else none
  else none

/-- The CXL region of a physical address is marked non-speculative (09 R176). -/
def cxlNonSpeculative (s : State) (pa : Nat) : Bool :=
  decide (0x2000000000000 ≤ pa) &&
    let x := pa - 0x2000000000000
    bit (tget s.cxlmap (2048 * (x / 0x20000000000) + x % 0x20000000000 / 2 ^ 30) 0).toNat 30

/-- The link of a CXL port is up (24 R368, R370). -/
def cxlUp (s : State) (h : Home) : Bool :=
  match h.cxl with
  | none => true
  | some p => bit s.cxl.toNat p

/-! ## The last-level cache (09 R183, R184) -/

/-- The set of a line (09 R183). -/
def setOf (line : Nat) : Nat := bits line 7 4 * 16 + bits line 0 4

/-- Writes a line back to device memory, its poison marks with it (19 R330). -/
def State.writeBack (s : State) (l : CacheLine) : State :=
  { s with
    mem := s.mem.splice (l.line * 256) 256 l.data
    poison := l.poison.foldl (fun p g => insertNat g p) (s.poison.filter fun g => g / 4 != l.line) }

/-- The least of a list, `d` if it is empty. -/
def leastNat (d : Nat) (l : List Nat) : Nat := l.foldl min d

/-- The victim of a full set (09 R184); a dirty line behind a link that is down is none (24 R368). -/
def victim (s : State) (ls : List CacheLine) : Option CacheLine :=
  let ls := ls.filter fun l => !l.dirty || !l.cxl || bit s.cxl.toNat (if l.line * 256 ≥ 0x2020000000000 then 1 else 0)
  let c := ls.filter fun l => l.cls == leastNat 3 (ls.map CacheLine.cls)
  let c := if c.any (·.reads == 0) then c.filter (·.reads == 0) else c
  let c := if c.any (·.cxl) && c.any (fun l => !l.cxl) then c.filter (fun l => !l.cxl) else c
  c.head?

/-- A line is cached at its slice, or its set has a way for it: one that is free or whose line may leave (09 R184, 24 R368). -/
def wayFor (s : State) (k line : Nat) : Bool :=
  let set := (s.slice k).cache.filter fun l => setOf l.line == setOf line
  set.any (·.line == line) || decide (set.length < 16) || (victim s set).isSome

/-- Makes room in the set of a line. -/
def State.makeRoom (s : State) (k line : Nat) : State :=
  let x := s.slice k
  let set := x.cache.filter fun l => setOf l.line == setOf line
  if set.length < 16 then s
  else match victim s set with
    | none => s
    | some v =>
      let s := if v.dirty then s.writeBack v else s
      s.setSlice k { x with cache := x.cache.filter fun l => l.line != v.line }

/-- The number of the slice of a home. -/
def Home.key (h : Home) : Nat := 8 * h.bh + h.slice

/-- Brings a line into its home slice as the most recently used one: a hit keeps class and reads, a fill takes them from
the request (09 R183). -/
def State.fetchLine (s : State) (h : Home) (cls reads : Nat) : State × CacheLine × Bool :=
  let k := 8 * h.bh + h.slice
  let line := h.pa / 256
  match (s.slice k).cache.find? (·.line == line) with
  | some l => (s, l, true)
  | none =>
    let s := s.makeRoom k line
    (s, { line := line, data := s.mem.slice (line * 256) 256, poison := s.poison.filter (fun g => g / 4 == line),
          dirty := false, cls := cls, reads := reads, cxl := h.cxl.isSome }, false)

/-- Puts a line back as the most recently used. A line whose set has no way for it is not kept: a dirty one goes to memory. -/
def State.putLine (s : State) (h : Home) (l : CacheLine) : State :=
  let k := 8 * h.bh + h.slice
  let others := (s.slice k).cache.filter (fun y => y.line != l.line)
  if (others.filter fun y => setOf y.line == setOf l.line).length < 16 then
    s.modSlice k fun x => { x with cache := others ++ [l] }
  else if l.dirty then s.writeBack l else s

/-- The granules of [a, a + n). -/
def granulesOf (a n : Nat) : List Nat := (List.range ((a + n - 1) / 64 + 1 - a / 64)).map (· + a / 64)

/-- The soft errors of granules that an access reads are met: a correctable one is corrected and counted, an uncorrectable one
is counted, and its granule is among those answered (19 R330). -/
def State.meetErrors (s : State) (bh : Nat) (gs : List Nat) : State × List Nat :=
  let c := s.softC.filter gs.contains
  let u := s.softU.filter gs.contains
  if c.isEmpty && u.isEmpty then (s, [])
  else
    (({ s with softC := s.softC.filter fun g => !gs.contains g, softU := s.softU.filter fun g => !gs.contains g }
      : State).modBh bh fun b =>
        { b with cecnt := b.cecnt + BitVec.ofNat 32 c.length, uecnt := b.uecnt + BitVec.ofNat 32 u.length }, u)

/-- What a read of device memory gave. -/
structure MemRead where
  s : State
  value : Nat
  poison : Bool

/-- Reads n bytes at a home, all within one line. A read hit counts down the remaining reads between 1 and 14 (09 R183);
an atomic's read does not count (15 R267). -/
def State.homeRead (s : State) (h : Home) (n cls reads : Nat) (counts : Bool := true) : MemRead :=
  let (s, l, hit) := s.fetchLine h cls reads
  let (s, bad) := s.meetErrors h.bh (granulesOf h.pa n)
  let l := if counts && hit && 1 ≤ l.reads && l.reads ≤ 14 then { l with reads := l.reads - 1 } else l
  let l := { l with poison := bad.foldl (fun p g => insertNat g p) l.poison }
  { s := s.putLine h l, value := l.data.read h.pa n,
    poison := l.poison.any fun g => h.pa / 64 ≤ g && g ≤ (h.pa + n - 1) / 64 }

/-- A granule lies wholly in [a, a + n). -/
def coversGranule (a n g : Nat) : Bool := decide (a ≤ g * 64) && decide (g * 64 + 64 ≤ a + n)

/-- Writes n bytes at a home, all within one line. A write clears the mark of a granule that it, or the access it is a piece of
(`whole`), covers; one that carries a mark sets it (19 R331); a granule it covers in part is read first, and its soft errors
met. -/
def State.homeWrite (s : State) (h : Home) (v n cls reads : Nat) (poison : Bool := false) (src : Option Source := none)
    (whole : Bool := false) : State :=
  let (s, l, _) := s.fetchLine h cls reads
  let covers (g : Nat) : Bool := coversGranule h.pa n g || (whole && g == h.pa / 64)
  let (s, bad) := s.meetErrors h.bh ((granulesOf h.pa n).filter fun g => !covers g)
  let marks := (bad.foldl (fun p g => insertNat g p) l.poison).filter fun g => !covers g
  let marks := if poison then insertNat (h.pa / 64) marks else marks
  let writers := match src with
    | none => l.writers
    | some x => if l.writers.contains x then l.writers else l.writers ++ [x]
  let s := { s with softC := s.softC.filter fun g => !covers g, softU := s.softU.filter fun g => !covers g }
  s.putLine h { l with data := l.data.write h.pa v n, dirty := true, poison := marks, writers := writers }

/-! ## Gates and keys (04 R46, R58) -/

/-- The gate of a bulkhead is closed: in reset, unassigned or frozen (04 R46, R66, 23 R365). -/
def gated (s : State) (bh : Nat) : Bool :=
  let b := s.bh bh
  b.state != 6 || b.mode == 0 || b.frozen

/-- The network that a packet travels on which is sent from a bulkhead for a function: the owned virtual network of the
bulkhead's partition or pool while the function holds it; else 16, the system pair, as the spine itself sends it (04 R57;
log 106). -/
def networkOf (s : State) (fn bh : Nat) : Nat :=
  if !owns s fn bh then 16 else if (s.bh bh).mode == 1 then (s.bh bh).ovn else (s.pool (s.bh bh).pool).ovn

/-- The key bound to an owned virtual network: that of the function which holds its bulkheads (04 R58). -/
def boundKey (s : State) (n : Nat) : Option (BitVec 16) :=
  (List.range 16).findSome? fun b =>
    match holder s b with
    | none => none
    | some o => if networkOf s o b == n then some (s.fn o).fkey else none

/-- A drop is logged on the die of the port (04 R58, R60); the port's number is free (log 5). -/
def State.dropPacket (s : State) (die : Nat) (seen want : BitVec 16) (vc : Nat) : State :=
  let (p, s) := s.takeFree
  let n := tget s.dropcnt die 0
  let r : DropRec :=
    { time := BitVec.ofNat 64 s.spine, seen := seen, want := want, vc := vc, port := p.toNat % 2048 }
  let s := { s with
    drops := tset s.drops die (lastN 64 (tget s.drops die [] ++ [r]))
    dropcnt := tset s.dropcnt die (if n < 0xFFFFFFFF then n + 1 else n) }
  if n == 0 then s.raiseMsi 0 2 else s

/-- The key of a bulkhead's owner. -/
def ownerKey (s : State) (bh : Nat) : Option (BitVec 16) := (holder s bh).map fun o => (s.fn o).fkey

/-- A function with a key has an open window into a bulkhead (04 R58, R63). -/
def windowKey (s : State) (bh : Nat) (key : BitVec 16) : Bool :=
  (s.bh bh).windows.any fun w => w.2.exp.state == 2 && (s.fn w.2.exp.peer).fkey == key

/-- The key of a packet is accepted at a bulkhead's gate: its owner's, or that of a function with an open window into it. -/
def keyAccepted (s : State) (bh : Nat) (key : BitVec 16) : Bool := ownerKey s bh == some key || windowKey s bh key

/-- The key that a router requires of a packet which bulkhead `src` sends for a function, where it carries another and is dropped:
the key bound to its network. The system pair is bound to none (04 R58). -/
def routerWants (s : State) (fn src : Nat) (key : BitVec 16) : Option (BitVec 16) :=
  let n := networkOf s fn src
  if n < 16 then (boundKey s n).filter (· != key) else none

/-- The status of a packet with a key on its way from bulkhead `src` of a function to the gate of `dst` (04 R58): OK, or KEY_DROP,
logged, where a router or the gate does not accept it. `windows` says that an open window into the bulkhead lets a key
through, as it does but for semaphores (15 R285). -/
def State.sendKey (s : State) (src fn dst : Nat) (key : BitVec 16) (windows : Bool) : State × Nat :=
  let n := networkOf s fn src
  match routerWants s fn src key with
  | some want => (s.dropPacket (src / 4) key want n, 0x0D)
  | none =>
    if ownerKey s dst == some key || (windows && windowKey s dst key) then (s, 0)
    else (s.dropPacket (dst / 4) key ((ownerKey s dst).getD 0) n, 0x0D)

/-- The status of a packet that bulkhead `src` sends for a function to the gate of `dst` (04 R49, R58): OK; GATED; KEY_DROP where
the function has no key, so that nothing is sent (log 111), or where the packet is dropped. An access inside one bulkhead of
the function is no packet. What the spine itself sends for a function that does not hold `src` (a queue engine, the context
engine) has key 0 and goes to the bulkheads that the function's queues run on (log 106). -/
def State.gate (s : State) (src fn dst : Nat) (windows : Bool := true) : State × Nat :=
  if gated s dst then (s, 0x0C)
  else if src == dst && owns s fn dst then (s, 0)
  else if owns s fn src then
    if (s.fn fn).fkey == 0 then (s, 0x0D) else s.sendKey src fn dst (s.fn fn).fkey windows
  else if (membersFor s fn).contains dst then (s, 0)
  else (s.dropPacket (dst / 4) 0 ((ownerKey s dst).getD 0) 16, 0x0D)

/-! ## Translation (09 R168-R173) -/

/-- A leaf of a walk: base of the page, log2 of its size, permissions and attributes. -/
structure Leaf where
  base : Nat
  log2 : Nat
  rd : Bool
  wr : Bool
  exe : Bool
  np : Bool
  ns : Bool
  mismatch : Bool := false
  deriving DecidableEq, Repr

/-- A physical address that a function reaches from a bulkhead: its home, or the code it meets: unbacked, link down, or its
gate's answer (09 R174, 24 R368, 04 R58). -/
def State.reach (s : State) (bh fn pa : Nat) : State × Except Nat Home :=
  match homeOf s pa with
  | none => (s, .error 0x43)
  | some h =>
    if !cxlUp s h then (s, .error 0x0F)
    else match s.gate bh fn h.bh with
      | (s, 0) => (s, .ok h)
      | (s, c) => (s, .error c)

/-- A walker's read of an 8-byte entry at a physical address; it fills with tensor class 2 (09 R173). A table that is not
backed is an S2_FAULT (log 103). -/
def State.walkRead (s : State) (bh fn pa : Nat) : State × Except Nat Nat :=
  match s.reach bh fn pa with
  | (s, .error c) => (s, .error (if c == 0x43 then 0x41 else c))
  | (s, .ok h) =>
    let r := (s.countIssue (sliceEngine h.key)).homeRead h 8 2 15
    (r.s, .ok r.value)

/-- A table entry's page address, bits [51:12]. -/
def entryAddr (e : Nat) : Nat := bits e 12 40 * 2 ^ 12

/-- An entry is malformed at its level (09 R170). -/
def entryBad (e level : Nat) : Bool :=
  !bit e 0 || bits e 52 12 != 0 || bits e 8 4 != 0 || (!bit e 1 && 3 ≤ level) || (bit e 1 && level == 0)
    || (bit e 7 && 1 ≤ level) || (!bit e 1 && entryAddr e % 2 ^ (12 + 9 * level) != 0)

/-- The leaf that an entry is. -/
def leafOf (e level : Nat) : Leaf :=
  { base := entryAddr e, log2 := 12 + 9 * level, rd := bit e 2, wr := bit e 3, exe := bit e 4, np := bit e 5,
    ns := bit e 6 }

/-- A way of reading the entries of a table: by the address the table's stage names. -/
abbrev EntryReader := State → Nat → State × Except Nat Nat

/-- The sixteen entries of a contiguous group, read in order. -/
def readGroup (rd : EntryReader) (table : Nat) : State → List Nat → State × Except Nat (List Nat)
  | s, [] => (s, .ok [])
  | s, i :: is =>
    match rd s (table + 8 * i) with
    | (s, .error c) => (s, .error c)
    | (s, .ok e) =>
      match readGroup rd table s is with
      | (s, .error c) => (s, .error c)
      | (s, .ok es) => (s, .ok (e :: es))

/-- The group of a contiguous entry makes one 64 KiB page (09 R171). -/
def groupWhole (es : List Nat) : Bool :=
  match es with
  | [] => false
  | e0 :: _ =>
    entryAddr e0 % 2 ^ 16 == 0 && (es.zipIdx.all fun p =>
      bit p.1 0 && bit p.1 7 && bits p.1 2 5 == bits e0 2 5 && entryAddr p.1 == entryAddr e0 + p.2 * 4096)

/-- Walks the levels of one stage from `level` down; `bad` is the stage's fault code (09 R169-R171). -/
def walkFrom (rd : EntryReader) (bad input : Nat) : Nat → State → Nat → State × Except Nat Leaf
  | level, s, table =>
    let idx := if level == 4 then bits input 48 9 else bits input (12 + 9 * level) 9
    match rd s (table + 8 * idx) with
    | (s, .error c) => (s, .error c)
    | (s, .ok e) =>
      if entryBad e level then (s, .error bad)
      else if bit e 1 then
        match level with
        | 0 => (s, .error bad)
        | l + 1 => walkFrom rd bad input l s (entryAddr e)
      else if bit e 7 then
        match readGroup rd table s ((List.range 16).map (· + idx / 16 * 16)) with
        | (s, .error c) => (s, .error c)
        | (s, .ok es) =>
          if groupWhole es then (s, .ok { leafOf e 0 with base := entryAddr (es.headD 0), log2 := 16 })
          else (s, .ok { leafOf e 0 with mismatch := true })
      else (s, .ok (leafOf e level))

/-- Which first-level TLB an access uses: that of a tile, of a streamer island, or none. -/
inductive TlbOf where
  | tile (k : Nat)
  | streamer (k : Nat)
  | none
  deriving DecidableEq, Repr

/-- A walk that met a mismatched group adds 1 to the CMISS counter of the engine that walks (09 R171, R191). -/
def State.countMismatch (s : State) (o : TlbOf) (l : Leaf) : State :=
  let add (s : State) (k : Nat) : State := s.modEngineCount k (·.count fun c => { c with cmiss := c.cmiss + 1 })
  if !l.mismatch then s
  else match o with
    | .tile k => add s (tileEngine k)
    | .streamer k => add s (streamerEngine k)
    | .none => s

/-- The set of the second-level TLB that an entry belongs to (log 112). -/
def TlbEntry.set (t : TlbEntry) : Nat := t.base / 2 ^ t.log2 % 1024

/-- The second-level TLB after an entry is installed in one of the eight ways of its set: the oldest of a full set leaves
(09 R173; log 112). -/
def State.install2 (s : State) (bh : Nat) (t : TlbEntry) : State :=
  s.modBh bh fun b =>
    let full := decide (8 ≤ (b.tlb2.filter fun x => x.set == t.set).length)
    let l := match b.tlb2.findIdx? fun x => x.set == t.set with
      | some n => if full then removeAt b.tlb2 n else b.tlb2
      | none => b.tlb2
    { b with tlb2 := l ++ [t] }

/-- An entry covers an address of its function and process. -/
def TlbEntry.covers (t : TlbEntry) (fn : Nat) (pasid : Option Nat) (va : Nat) : Bool :=
  t.fn == fn && t.pasid == pasid && va / 2 ^ t.log2 == t.base / 2 ^ t.log2

def State.tlb (s : State) : TlbOf → List TlbEntry
  | .tile k => (s.tile k).tlb
  | .streamer k => (s.streamer k).tlb
  | .none => []

/-- The first-level TLB with its entries replaced: 96 of them, the least recently used gone (09 R173). -/
def State.setTlb (s : State) (o : TlbOf) (l : List TlbEntry) : State :=
  match o with
  | .tile k => s.modTile k fun t => { t with tlb := lastN 96 l }
  | .streamer k => s.modStreamer k fun t => { t with tlb := lastN 96 l }
  | .none => s

/-- Entries with a parity error that cover an address are dropped and counted, so that it is walked again (19 R332). -/
def State.scrub (s : State) (o : TlbOf) (bh fn : Nat) (pasid : Option Nat) (a : Nat) : State :=
  let bad (t : TlbEntry) : Bool := t.parity && t.covers fn pasid a
  let n := (((s.tlb o).filter bad) ++ ((s.bh bh).tlb2.filter bad)).length
  if n == 0 then s
  else
    (s.setTlb o ((s.tlb o).filter fun t => !bad t)).modBh bh fun b =>
      { b with tlb2 := b.tlb2.filter fun t => !bad t, parcnt := b.parcnt + BitVec.ofNat 32 n }

/-- Stage 2: an intermediate address to a leaf, for the engine whose walk it is, from the second-level TLB or by a walk (09 R169, R173). -/
def State.stage2 (s : State) (o : TlbOf) (bh fn ipa : Nat) : State × Except Nat Leaf :=
  let s := s.scrub o bh fn none ipa
  match (s.bh bh).tlb2.find? (·.covers fn none ipa) with
  | some t =>
    (s, .ok { base := t.pa, log2 := t.log2, rd := t.rd, wr := t.wr, exe := t.exe, np := t.np, ns := t.ns })
  | none =>
    match walkFrom (fun s pa => s.walkRead bh fn pa) 0x41 ipa 4 s (s.fn fn).s2root with
    | (s, .error c) => (s, .error c)
    | (s, .ok l) =>
      ((s.countMismatch o l).install2 bh
        { fn := fn, pasid := none, base := ipa / 2 ^ l.log2 * 2 ^ l.log2,
          ipa := ipa / 2 ^ l.log2 * 2 ^ l.log2, log2 := l.log2, pa := l.base, rd := l.rd, wr := l.wr,
          exe := l.exe, np := l.np, ns := l.ns }, .ok l)

/-- A walker's read through stage 2, which must grant RD (09 R169). -/
def State.read1 (s : State) (o : TlbOf) (bh fn ipa : Nat) : State × Except Nat Nat :=
  match s.stage2 o bh fn ipa with
  | (s, .error c) => (s, .error c)
  | (s, .ok l) => if !l.rd then (s, .error 0x41) else s.walkRead bh fn (l.base + ipa % 2 ^ l.log2)

/-- The stage-1 root of a process, from the process-context table (09 R172). -/
def State.processRoot (s : State) (o : TlbOf) (bh fn pasid : Nat) : State × Except Nat Nat :=
  let f := s.fn fn
  if pasid ≥ 2 ^ f.pctxLog2 then (s, .error 0x40)
  else match s.read1 o bh fn (f.pctx + 16 * pasid) with
    | (s, .error c) => (s, .error c)
    | (s, .ok w0) =>
      match s.read1 o bh fn (f.pctx + 16 * pasid + 8) with
      | (s, .error c) => (s, .error c)
      | (s, .ok w1) =>
        if bit w0 0 && bits w0 1 11 == 0 && bits w0 52 12 == 0 && w1 == 0 then (s, .ok (entryAddr w0))
        else (s, .error 0x40)

/-- Soft errors in the walker caches that a walk meets: what they hold is invalidated, read again, and the repairs are counted
(19 R332; log 102). -/
def State.mendWalkers (s : State) (bh : Nat) : State :=
  if (s.bh bh).walkParity == 0 then s
  else s.modBh bh fun b => { b with walkParity := 0, parcnt := b.parcnt + BitVec.ofNat 32 b.walkParity }

/-- A two-stage walk of a virtual address: the combined translation (09 R169-R171). -/
def State.walk (s : State) (o : TlbOf) (bh fn pasid va : Nat) : State × Except Nat TlbEntry :=
  match (s.mendWalkers bh).processRoot o bh fn pasid with
  | (s, .error c) => (s, .error c)
  | (s, .ok root) =>
    match walkFrom (fun s ipa => s.read1 o bh fn ipa) 0x40 va 4 s root with
    | (s, .error c) => (s, .error c)
    | (s, .ok l1) =>
      let ipa := l1.base + va % 2 ^ l1.log2
      match (s.countMismatch o l1).stage2 o bh fn ipa with
      | (s, .error c) => (s, .error c)
      | (s, .ok l2) =>
        let k := if l1.log2 < l2.log2 then l1.log2 else l2.log2
        let pa := l2.base + ipa % 2 ^ l2.log2
        (s, .ok { fn := fn, pasid := some pasid, base := va / 2 ^ k * 2 ^ k, ipa := ipa / 2 ^ k * 2 ^ k, log2 := k,
                  pa := pa / 2 ^ k * 2 ^ k, rd := l1.rd && l2.rd, wr := l1.wr && l2.wr, exe := l1.exe && l2.exe,
                  np := l1.np || l2.np, ns := l1.ns || l2.ns })

/-- Canonical form of a 64-bit address word (09 R168). -/
def canonical (a : Nat) : Bool := bits a 56 8 == 0 || bits a 56 8 == 255

/-- The first-level entry of an address has a parity error: it is walked again, and the second-level TLB does not answer for it
(19 R332). -/
def firstParity (s : State) (o : TlbOf) (fn pasid va : Nat) : Bool := (s.tlb o).any fun t => t.parity && t.covers fn (some pasid) va

/-- The second-level TLB without the combined entries of an address, which a new walk replaces. -/
def State.drop2 (s : State) (bh fn pasid va : Nat) : State :=
  s.modBh bh fun b => { b with tlb2 := b.tlb2.filter fun t => !t.covers fn (some pasid) va }

/-- The translation of a virtual address: from the first-level TLB, the second-level TLB, or a walk that installs it in
both (09 R173). -/
def State.lookup (s : State) (o : TlbOf) (bh fn pasid va : Nat) : State × Except Nat TlbEntry :=
  let va := va % 2 ^ 57
  let s := (if firstParity s o fn pasid va then s.drop2 bh fn pasid va else s).scrub o bh fn (some pasid) va
  let l := s.tlb o
  match l.find? (·.covers fn (some pasid) va) with
  | some t => (s.setTlb o (l.filter (· != t) ++ [t]), .ok t)
  | none =>
    match (s.bh bh).tlb2.find? (·.covers fn (some pasid) va) with
    | some t => (s.setTlb o (l ++ [t]), .ok t)
    | none =>
      match s.walk o bh fn pasid va with
      | (s, .error c) => (s, .error c)
      | (s, .ok t) => ((s.install2 bh t).setTlb o (l ++ [t]), .ok t)

/-- The entry grants what an access needs (09 R170). -/
def TlbEntry.grants (t : TlbEntry) : Need → Bool
  | .read => t.rd
  | .write => t.wr
  | .update => t.rd && t.wr
  | .exec => t.rd && t.exe

/-- A translation of an address stands in a TLB that the access uses (09 R173). -/
def cached (s : State) (o : TlbOf) (bh fn pasid va : Nat) : Bool :=
  let t2 := if firstParity s o fn pasid (va % 2 ^ 57) then [] else (s.bh bh).tlb2
  (s.tlb o ++ t2).any fun t => !t.parity && t.covers fn (some pasid) (va % 2 ^ 57)

/-- One of the 32 page-table walkers of a bulkhead is free (09 R173). -/
def walkerFree (s : State) (bh : Nat) : Bool := decide ((s.bh bh).walks.length < 32)

/-- Translates for an access: the physical address, or the fault code (09 R168-R171). Without a valid stage 2 every access of
a function is an S2_FAULT (09 R172). -/
def State.translate (s : State) (o : TlbOf) (bh fn pasid va : Nat) (need : Need) : State × Except Nat Nat :=
  if !(s.fn fn).s2v then (s, .error 0x41)
  else if !canonical va then (s, .error 0x40)
  else match s.lookup o bh fn pasid va with
    | (s, .error c) => (s, .error c)
    | (s, .ok t) =>
      if t.grants need then (s, .ok (t.pa + va % 2 ^ t.log2)) else (s, .error 0x42)

/-- One PFDROP counted at the engine of a tile (09 R188, R191). -/
def State.countDrop (s : State) (tile : Nat) : State :=
  s.modEngineCount (tileEngine tile) (·.count fun c => { c with pfdrop := c.pfdrop + 1 })

/-! ## The gazetteer (04 R61) -/

/-- The entry that a rank of a function resolves to. -/
def gazette (s : State) (fn rank : Nat) : Option Gazette :=
  let f := s.fn fn
  if rank < f.gzcount && f.gzbase + rank < 4096 then
    let g := tget s.gazetteer (f.gzbase + rank) {}
    if g.valid then some g else none
  else none

/-! ## Windows (04 R62-R64) -/

def State.window (s : State) (bh w : Nat) : Window := tget (s.bh bh).windows w {}

/-- Base plus offset, wrapped to 57 bits and sign-extended to 64. -/
def segVa (base off : Nat) : Nat :=
  let v := (base + off) % 2 ^ 57
  if bit v 56 then v + (2 ^ 64 - 2 ^ 57) else v

/-- The importing slot of a bulkhead whose range holds a canonical address. -/
def importSlot (s : State) (bh va : Nat) : Option Window :=
  if !canonical va then none
  else ((s.bh bh).windows.map Prod.snd).find? fun w =>
    w.imp.en && (let e := (s.window w.imp.expBh w.imp.expWin).exp
      w.imp.base ≤ va % 2 ^ 57 && va % 2 ^ 57 < w.imp.base + 2 ^ e.log2)

/-- What an access to device memory came to: a home to apply it at and the window slot of the exporter that it was accepted
through, 8 * bulkhead + slot; or the status or fault code it is answered with. -/
inductive Target where
  | home (h : Home) (via : Option Nat)
  | status (code : Nat)
  deriving DecidableEq, Repr

/-- What the target of a reached address is. -/
def Target.of (via : Option Nat) : Except Nat Home → Target
  | .error c => .status c
  | .ok h => .home h via

/-- The kind of access is allowed by a window grant; an update, the access of an atomic, needs A (04 R62). -/
def windowAllows (x : WindowReg) (need : Need) : Bool :=
  match need with
  | .update => bit x.perms 2
  | .write => bit x.perms 1
  | _ => bit x.perms 0

/-- Window traffic of a bulkhead to its exporter's gate, with the importer's key on the importer's network, and through the
exporter's two stages (04 R64; log 113). A function without a key sends nothing (04 R49). -/
def State.resolveWindow (s : State) (bh fn va : Nat) (need : Need) (w : Window) : State × Target :=
  let e := w.imp.expBh
  let x := (s.window e w.imp.expWin).exp
  if gated s e then (s, .status 0x0C)
  else if (s.fn fn).fkey == 0 then (s, .status 0x0D)
  else if w.imp.state != 2 then (s, .status 0x10)
  else if !windowAllows x need then (s, .status 0x11)
  else match s.gate bh fn e with
    | (s, 0) =>
      let a := segVa x.base (va % 2 ^ 57 - w.imp.base)
      match s.translate .none e ((holder s e).getD 0) (((s.bh e).load.map Load.pasid).getD 0) a need with
      | (s, .error c) =>
        (s.postFault e { unit := .engine 0xFF, start := .none, code := c, addr := a, logOnly := true }, .status 0x11)
      | (s, .ok pa) =>
        match homeOf s pa with
        | none => (s, .status 0x43)
        | some h =>
          if !cxlUp s h then (s, .status 0x0F)
          else match if h.bh == e then (s, 0) else s.gate bh fn h.bh with
            | (s, 0) => (s, .home h (some (8 * e + w.imp.expWin)))
            | (s, c) => (s, .status c)
    | (s, c) => (s, .status c)

/-- Resolves a virtual access of a function's bulkhead: a window first, then translation, the physical map, the link and
the gate of the home (04 R64, 09 R174). -/
def State.resolve (s : State) (o : TlbOf) (bh fn pasid va : Nat) (need : Need) : State × Target :=
  match (if owns s fn bh then importSlot s bh va else none) with
  | some w => s.resolveWindow bh fn va need w
  | none =>
    match s.translate o bh fn pasid va need with
    | (s, .error c) => (s, .status c)
    | (s, .ok pa) =>
      let (s, r) := s.reach bh fn pa
      (s, .of none r)

/-- The function and process of the load resident on a bulkhead. -/
def loadFn (s : State) (bh : Nat) : Nat := ((s.bh bh).load.map Load.fn).getD 0
def loadPasid (s : State) (bh : Nat) : Nat := ((s.bh bh).load.map Load.pasid).getD 0

/-- An access of a bulkhead's part to a virtual address needs a walk, of its own translation or, through a window, of the exporter's,
and none of the walkers is free (09 R173). -/
def noWalker (s : State) (o : TlbOf) (bh va : Nat) : Bool :=
  match importSlot s bh va with
  | some w =>
    let e := w.imp.expBh
    let a := segVa (s.window e w.imp.expWin).exp.base (va % 2 ^ 57 - w.imp.base)
    w.imp.state == 2 && !cached s .none e ((holder s e).getD 0) (loadPasid s e) a && !walkerFree s e
  | none =>
    canonical va && (s.fn (loadFn s bh)).s2v && !cached s o bh (loadFn s bh) (loadPasid s bh) va && !walkerFree s bh

/-- The result of an engine's access applied at once (log 12): the state, the value read, its poison, the status. -/
structure EngineAccess where
  s : State
  value : Nat := 0
  poison : Bool := false
  status : Nat := 0

/-- An engine reads n bytes, all in one line, at a virtual address. Through a window a poisoned read has status POISON
and value 0 (04 R64). -/
def State.engineRead (s : State) (o : TlbOf) (bh va n cls reads : Nat) : EngineAccess :=
  match s.resolve o bh (loadFn s bh) (loadPasid s bh) va .read with
  | (s, .status c) => { s := s, status := c }
  | (s, .home h w) =>
    let r := s.homeRead h n cls reads
    if w.isSome && r.poison then { s := r.s, status := 0x04 } else { s := r.s, value := r.value, poison := r.poison }

/-- An engine writes n bytes, all in one line, at a virtual address. -/
def State.engineWrite (s : State) (o : TlbOf) (bh va v n cls reads : Nat) (poison : Bool) : EngineAccess :=
  match s.resolve o bh (loadFn s bh) (loadPasid s bh) va .write with
  | (s, .status c) => { s := s, status := c }
  | (s, .home h w) =>
    if w.isSome && poison then { s := s, status := 0x04 } else { s := s.homeWrite h v n cls reads poison }

/-! ## Accesses from outside any load (02, 03: images, graphs, rings, logs) -/

/-- The little-endian number of a list of bytes. -/
def natOfBytes : List Byte → Nat
  | [] => 0
  | b :: bs => b.toNat + 256 * natOfBytes bs

/-- Bytes read, and whether a granule of them is poisoned. -/
structure Bytes where
  bytes : List Byte := []
  poison : Bool := false

/-- Reads n bytes of a process of a function a line at a time; `fuel` bounds the lines. A line that window traffic finds poisoned
has status POISON (04 R64). -/
def State.readLines (s : State) (bh fn pasid : Nat) (need : Need) : Nat → Nat → Nat → State × Except Nat Bytes
  | 0, _, _ => (s, .ok {})
  | fuel + 1, va, n =>
    if n == 0 then (s, .ok {})
    else match s.resolve .none bh fn pasid va need with
      | (s, .status c) => (s, .error c)
      | (s, .home h via) =>
        let m := min n (256 - h.pa % 256)
        let r := (s.countIssue (sliceEngine h.key)).homeRead h m 0 15
        if via.isSome && r.poison then (r.s, .error 0x04)
        else match r.s.readLines bh fn pasid need fuel (va + m) (n - m) with
          | (s, .error c) => (s, .error c)
          | (s, .ok b) => (s, .ok { bytes := bytesOfNat r.value m ++ b.bytes, poison := r.poison || b.poison })

def State.readBytes (s : State) (bh fn pasid va : Nat) (need : Need) (n : Nat) : State × Except Nat Bytes :=
  s.readLines bh fn pasid need (n / 256 + 2) va n

/-- Writes bytes of a process of a function a line at a time, up to the code of the first fault, 0 where there is none. -/
def State.writeLines (s : State) (bh fn pasid : Nat) : Nat → Nat → List Byte → State × Nat
  | 0, _, _ => (s, 0)
  | fuel + 1, va, bs =>
    if bs.isEmpty then (s, 0)
    else match s.resolve .none bh fn pasid va .write with
      | (s, .status c) => (s, c)
      | (s, .home h _) =>
        let m := min bs.length (256 - h.pa % 256)
        ((s.countIssue (sliceEngine h.key)).homeWrite h (natOfBytes (bs.take m)) m 0 15).writeLines bh fn pasid fuel (va + m) (bs.drop m)

def State.writeBytes (s : State) (bh fn pasid va : Nat) (bs : List Byte) : State × Nat :=
  s.writeLines bh fn pasid (bs.length / 256 + 2) va bs

/-- A granule at a home takes a mark that travels with its bytes (19 R330). -/
def State.markHome (s : State) (h : Home) : State :=
  let r := s.homeRead h 64 0 15 false
  r.s.homeWrite h r.value 64 0 15 true

/-- The granules of a process of a function at these offsets take marks, which do not cross a window (04 R64). -/
def State.markGranules (s : State) (bh fn pasid va : Nat) (l : List Nat) : State :=
  l.foldl (fun s o => match s.resolve .none bh fn pasid (va + o) .write with
    | (s, .home h none) => s.markHome h
    | (s, _) => s) s

end Sys2Proof.Machine
end

