-- ==== Sys2Proof/Machine/Requests.lean ====
section
/-!
DEFINITION. Requests of elements: the checks of an element address word (09 R178, R179), how a fire places a request and
reserves its port entry (10 R193, R194), and how a reply is written or a fault is met (10 R194-R196, 15 R271, R279).
-/
namespace Sys2Proof.Machine
open Sys2Proof

/-! ## Element address words (09 R178, R179) -/

/-- An address word that passed the checks: segment 0 or not, the offset or the virtual address, class and reads. -/
structure Checked where
  seg0 : Bool
  va : Nat
  cls : Nat := 0
  reads : Nat := 15
  deriving DecidableEq, Repr

/-- log2 of the length of a segment: values outside 12-28 are taken as 12. -/
def segLog2 (r : DWord) : Nat :=
  let l := bits r.toNat 0 5
  if 12 ≤ l && l ≤ 28 then l else 12

/-- The range checks of an address word: V, length, WR for a write; the code of the fault otherwise. -/
def Tile.checkRange (t : Tile) (ev : Bool) (a : Word) (write : Bool) : Except Nat Checked :=
  let off := bits a.toNat 0 28
  let n := bits a.toNat 28 4
  if n == 0 then
    if !ev && 0x60000 ≤ off then .error 0x44 else .ok { seg0 := true, va := off }
  else
    let r := t.seg n
    if !bit r.toNat 63 then .error 0x44
    else if 2 ^ segLog2 r ≤ off then .error 0x44
    else if write && !bit r.toNat 62 then .error 0x44
    else .ok { seg0 := false, va := segVa (bits r.toNat 12 45 * 2 ^ 12) off, cls := bits r.toNat 60 2,
               reads := bits r.toNat 8 4 }

/-- The checks of an address word at fire, in the order of 09 R178: the segment, its range, alignment, and the unbacked
segment 0 of an evaluator element. -/
def Tile.checkAddr (t : Tile) (ev : Bool) (a : Word) (size : Nat) (write : Bool) : Except Nat Checked :=
  match t.checkRange ev a write with
  | .error c => .error c
  | .ok x =>
    if a.toNat % size != 0 then .error 0x45
    else if ev && x.seg0 then .error 0x43
    else .ok x

/-! ## Placing a request -/

/-- The pages an element holds, as a mask (17 R318). -/
def Elem.heldMask (e : Elem) : BitVec 4 :=
  BitVec.ofNat 4 ((List.range 4).foldl (fun m n => if (e.pages.getD n none).isSome then m + 2 ^ n else m) 0)

/-- Where a reply to an instruction with this dst goes (10 R194). -/
def destOf (d : Operand) : Dest :=
  match d with
  | .o n => .port n.val
  | o => .operand o

/-- Reserves the entry of an output port for a reply, two for a pair, with what a sparse port has counted before it; both
tokens of a pair get its pending exception bit (07 R136, 08 R159). -/
def Elem.reserve (e : Elem) (sparse : List Nat) (p id : Nat) (wide exc : Bool) : Elem :=
  let s := sparse.contains p
  let x := s && e.sparseExc.getD p false
  let t : Token := { data := 0, tag := mkTag 0 (exc || x) }
  let first : Token := if s then { t with skip := BitVec.ofNat 8 (e.sparseCount.getD p 0), sparse := true } else t
  let second : Token := { t with sparse := s }
  let entries : List OutEntry := .reserved id first x :: if wide then [.reserved id second] else []
  let e := { e with out := modifyAt e.out p (· ++ entries) }
  if s then { e with sparseCount := e.sparseCount.set p 0, sparseExc := e.sparseExc.set p false } else e

/-- Whether a request goes behind a barrier: class A or X, or fenceh (14 R249). -/
def ReqKind.isBarrier : ReqKind → Bool
  | .amo .. => true
  | .amoc .. => true
  | .sems .. => true
  | .semw .. => true
  | .arrive .. => true
  | .ask .. => true
  | .answer .. => true
  | .setpg .. => true
  | .fenceh .. => true
  | _ => false

/-- A store, whose request is complete when it is applied. -/
def ReqKind.isStore : ReqKind → Bool
  | .store .. => true
  | _ => false

/-- The issue whose beat is being run, as it stands before that beat. -/
def issueOf (s : State) (r : Reads) : Issue :=
  let (w, l) : Word × Word := match s.focus with
    | .elem _ _ w l => (w, l)
    | _ => (0, 0)
  { slot := r.slot, word := w, lit := l, heddle := r.heddle, n := r.n, beat := r.beat }

/-- What a withdrawal of a request would put back: the element `e0` before the fire, `e` after its reads, and the TAKE of a
last beat that completes at once; the beat that fires again (15 R287). -/
def undoOf (e0 e : Elem) (h : DWord) (takes : Bool) (x : Issue) : Undo :=
  let f := if takes then e.take h else e
  { issue := x, tg := e0.tg, sk := e0.sk, lf := e0.lf, inbox := e0.inbox, ptr := e0.ptr, shown := e0.shown, tgAfter := f.tg,
    skAfter := f.sk, lfAfter := f.lf, inboxAfter := f.inbox, ptrAfter := f.ptr }

/-- A request that a sweep may withdraw (15 R287). -/
def ReqKind.isSemw : ReqKind → Bool
  | .semw .. => true
  | _ => false

/-- What a fire hands to the issue queue: kind, classes, wave, address word and what the checks made of it, where the
reply goes. -/
structure Issued where
  kind : ReqKind
  classes : BitVec 8 := 0
  wave : Nat := 0
  addr : Word := 0
  at_ : Checked := { seg0 := false, va := 0 }
  dest : Dest := .none
  wide : Bool := false

/-- Places a request in the memory issue queue of an element (10 R193): its number, its record, the reserved entry. -/
def placeRequest (s : State) (key : Nat) (r : Reads) (q : Issued) : State × Elem × Nat :=
  let id := s.nextId
  let e := r.e
  let req : Req :=
    { id := id, elem := key, kind := q.kind, slot := r.slot, wave := q.wave, beat := r.beat,
      last := r.beat + 1 == r.n, addr := q.addr, va := q.at_.va, cls := q.at_.cls, reads := q.at_.reads }
  let p : Pending :=
    { id := id, kind := q.kind, classes := q.classes, isStore := q.kind.isStore,
      seg0 := q.kind.isStore && q.at_.seg0, barrier := q.kind.isBarrier, slot := r.slot, wave := q.wave, dest := q.dest, exc := r.exc,
      wide := q.wide, popped := r.popped,
      undo := if q.kind.isSemw then (s.elem? key).map fun e0 =>
          undoOf e0 e r.heddle (r.beat + 1 == r.n && match q.dest with
            | .operand _ => false
            | _ => true) (issueOf s r)
        else none }
  let e := match q.dest with
    | .port n => e.reserve (sparsePorts s key) n id q.wide r.exc
    | _ => e
  ({ s with nextId := id + 1 }, { e with issueq := e.issueq ++ [req], pending := e.pending ++ [p] }, id)

/-- How the beat of a request ends: at once, or held for the reply. -/
def Dest.stop (d : Dest) (id : Nat) : BeatStop :=
  match d with
  | .operand _ => .await id
  | _ => .done

/-- The body of an instruction that places one request. -/
def requestBody (s : State) (key : Nat) (r : Reads) (q : Issued) : BodyResult :=
  let (s, e, id) := placeRequest s key r q
  { s := s, e := e, stop := q.dest.stop id }

/-! ## Replies -/

/-- Writes a value to the operand a beat holds for; a port takes a token of level 0. -/
def Elem.writeReply (e : Elem) (sparse : List Nat) (o : Operand) (wide exc : Bool) (v : Nat) : Elem :=
  if wide then e.write2 sparse o v (mkTag 0 exc) false else e.write sparse o (BitVec.ofNat 32 v) (mkTag 0 exc) false

/-- Fills the reserved entries of a port in order: one token, or the two of a pair (05 R78). -/
def fillEntry (id : Nat) (exc : Bool) : List Word → List OutEntry → List OutEntry
  | _, [] => []
  | [], l => l
  | v :: vs, .reserved i t c :: l =>
    if i == id then .token { t with data := v, tag := mkTag 0 (t.exc || exc) } :: fillEntry id exc vs l
    else .reserved i t c :: fillEntry id exc (v :: vs) l
  | vs, x :: l => x :: fillEntry id exc vs l

def Elem.fill (e : Elem) (p id v : Nat) (wide exc : Bool) : Elem :=
  { e with out := modifyAt e.out p (fillEntry id exc (if wide then [loWord v, hiWord v] else [loWord v])) }

/-- A skip count and a pending exception bit handed to the token that an entry holds (07 R136). -/
def OutEntry.carry (skip : Nat) (exc : Bool) : OutEntry → OutEntry
  | .token t => .token { t with skip := BitVec.ofNat 8 (min 255 (t.skip.toNat + skip)), tag := mkTag t.level (t.exc || exc) }
  | .reserved i t c =>
    .reserved i { t with skip := BitVec.ofNat 8 (min 255 (t.skip.toNat + skip)), tag := mkTag t.level (t.exc || exc) } (c || exc)
  | x => x

/-- The entry is reserved for a request. -/
def OutEntry.isFor (id : Nat) : OutEntry → Bool
  | .reserved i _ _ => i == id
  | _ => false

/-- Releases the reserved entries of a request: what a sparse port had counted before them goes to the next entry of the
port, or is pending again (07 R136, 10 R196). -/
def Elem.releaseEntry (e : Elem) (p id : Nat) : Elem :=
  let l := e.out.getD p []
  let (skip, exc) := match l.find? (·.isFor id) with
    | some (.reserved _ t c) => (t.skip.toNat, c)
    | _ => (0, false)
  let before := l.takeWhile fun x => !x.isFor id
  match (l.dropWhile fun x => !x.isFor id).filter fun x => !x.isFor id with
  | x :: rest => { e with out := e.out.set p (before ++ x.carry skip exc :: rest) }
  | [] =>
    { e with
      out := e.out.set p before
      sparseCount := modifyAt e.sparseCount p fun n => min 255 (n + skip)
      sparseExc := modifyAt e.sparseExc p fun x => x || exc }

def Elem.dropPending (e : Elem) (id : Nat) : Elem := { e with pending := e.pending.filter (·.id != id) }
def Elem.modPending (e : Elem) (id : Nat) (f : Pending → Pending) : Elem :=
  { e with pending := e.pending.map fun p => if p.id == id then f p else p }

/-- The beat that held for a request ends: its issue goes on with the next beat. -/
def State.endHeld (s : State) (key id : Nat) (e : Elem) : State :=
  match e.issue with
  | some x => if x.wait == some id then s.endBeat key e { x with wait := none } else s.setElem key e
  | none => s.setElem key e

/-- A request ends without its value: its entry is released and its fault raised, precise where its beat holds,
imprecise otherwise (10 R195, R196, 19 R323). A reply to an element killed or re-run since is discarded (19 R324); a store
that fails is its fault still. -/
def State.failRequest (s : State) (key id code detail addr : Nat) : State :=
  match s.elem? key with
  | none => s
  | some e =>
    match e.pending? id with
    | none => s
    | some p =>
      let e := e.dropPending id
      if p.void && !p.isStore then s.setElem key e
      else match p.dest with
      | .operand _ => s.faultBeat key e p.slot code false detail addr
      | .port n => (s.setElem key (e.releaseEntry n id)).raiseElem key p.slot code true detail addr
      | .none => (s.setElem key e).raiseElem key p.slot code true detail addr

/-- A request ends with a value, an exception bit to add, flags, and how its element changes beside (15 R279). The value is
written first, and the flags are then ORed in (07 R132). -/
def State.finishRequest (s : State) (key id v : Nat) (exc : Bool) (flags : Flags) (f : Elem → Elem) : State :=
  match s.elem? key with
  | none => s
  | some e =>
    match e.pending? id with
    | none => s
    | some p =>
      if p.void then s.setElem key (e.dropPending id)
      else
      let e := f (e.dropPending id)
      match p.dest with
      | .operand o => s.endHeld key id ((e.writeReply (sparsePorts s key) o p.wide (p.exc || exc) v).orFlags flags)
      | .port n => (s.setElem key ((e.fill n id v p.wide exc).orFlags flags)).deliverSelf key
      | .none => s.setElem key (e.orFlags flags)

end Sys2Proof.Machine
end

