-- ==== Sys2Proof/Machine/Atomics.lean ====
section
/-!
DEFINITION. Atomics, semaphore operations, ARRIVE and fences: what their fires do (14 R256-R258, R264, 15 R267-R273,
R280, R285, R289).
-/
namespace Sys2Proof.Machine
open Sys2Proof

/-! ## The literal of amo and amoc (15 R268, R270) -/

/-- The value of a register that the literal names. -/
def litReg (e : Elem) (lit : Word) (lo : Nat) : Nat := (e.regs.getD (bits lit.toNat lo 4) 0).toNat

def litSize (lit : Word) : Nat := if bit lit.toNat 9 then 8 else 4

/-- v: b, or the pair HI and b. -/
def litOperand (e : Elem) (lit b : Word) : Nat :=
  if bit lit.toNat 9 then litReg e lit 16 * 2 ^ 32 + b.toNat else b.toNat

/-- c: CMP, or the pair CMPHI and CMP. -/
def litCompare (e : Elem) (lit : Word) : Nat :=
  if bit lit.toNat 9 then litReg e lit 20 * 2 ^ 32 + litReg e lit 12 else litReg e lit 12

/-- The checks of an atomic at fire: segment 0 is a SEG_FAULT in every element (15 R267). -/
def checkAtomic (s : State) (key : Nat) (a : Word) (size : Nat) : Except Nat Checked :=
  if bits a.toNat 28 4 == 0 then .error 0x44
  else (s.tile (servingTile key)).checkAddr (isEv key) a size true

/-! ## amo and amoc -/

/-- A remote amo may be issued: its completion queue is enabled, with a ring, and has room for the record (15 R281). -/
def remoteRoom (s : State) (fn : Nat) : Bool :=
  let f := s.fn fn
  f.rcqen && f.rcqbase != 0 && decide (f.remote.length + f.rcqunread < 2 ^ f.rcqlog2)

/-- Writes a dst at fire and the status of a remote issue in ASTAT (15 R280). -/
def ticketBody (s : State) (key : Nat) (e : Elem) (r : Reads) (d : Operand) (status : Nat) (v : Word) : BodyResult :=
  { s := s, e := { e with astat := BitVec.ofNat 8 status }.write (sparsePorts s key) d v (mkTag 0 r.exc) false }

/-- amo through PATH 1 (15 R280): the ticket is written at once, the request follows under R249. -/
def remoteBody (s : State) (key : Nat) (r : Reads) (d : Operand) (x : Checked) (k : ReqKind) (rank : Nat) :
    BodyResult :=
  let fn := loadFn s (bhOf key)
  match gazette s fn rank with
  | none => ticketBody s key r.e r d 0x0E 0
  | some _ =>
    if !remoteRoom s fn then ticketBody s key r.e r d 0x14 0
    else
      let f := s.fn fn
      let (s, e, id) := placeRequest s key r { kind := k, classes := 0x40, addr := r.val 0, at_ := x }
      let t : RemoteRec :=
        { ticket := f.ticket.toNat, elem := key, id := id, pasid := loadPasid s (bhOf key) }
      let s := s.setFn fn { f with ticket := f.ticket + 1, remote := f.remote ++ [t] }
      ticketBody s key e r d 0 (BitVec.ofNat 32 f.ticket.toNat)

/-- amo's beat (15 R267-R271, R280, R282). -/
def amoBody (d : Operand) (lit : Word) : Body := fun s key r =>
  match checkAtomic s key (r.val 0) (litSize lit) with
  | .error c => { s := s, e := r.e, stop := .fault c r.slot (r.val 0).toNat }
  | .ok x =>
    let path := bits lit.toNat 10 2
    let rank := bits (litReg r.e lit 24) 0 16
    let k : ReqKind := .amo (bits lit.toNat 0 4) (litSize lit) (litOperand r.e lit (r.val 1)) (litCompare r.e lit) path
      rank (s.fn (loadFn s (bhOf key))).ticket.toNat
    if path == 1 then remoteBody s key r d x k rank
    else requestBody s key r { kind := k, classes := 0x40, addr := r.val 0, at_ := x, dest := destOf d }

/-- A reserved bit of a continuation descriptor is set (15 R273). -/
def badDescriptor (w : Word) : Bool :=
  bits w.toNat 20 11 != 0 ||
    if bit w.toNat 31 then bit w.toNat 12 && bits w.toNat 17 3 != 0
    else bits w.toNat 7 13 != 0

/-- Writes a status to dst at fire and sends nothing. -/
def statusBody (s : State) (key : Nat) (r : Reads) (d : Operand) (status : Nat) : BodyResult :=
  { s := s, e := r.e.write (sparsePorts s key) d (BitVec.ofNat 32 status) (mkTag 0 r.exc) false }

/-- amoc's beat (15 R272, R273). -/
def amocBody (d : Operand) (lit : Word) : Body := fun s key r =>
  match checkAtomic s key (r.val 0) (litSize lit) with
  | .error c => { s := s, e := r.e, stop := .fault c r.slot (r.val 0).toNat }
  | .ok x =>
    let desc := BitVec.ofNat 32 (litReg r.e lit 28)
    if badDescriptor desc then statusBody s key r d 0x05
    else requestBody s key r
      { kind := .amoc (bits lit.toNat 0 4) (litSize lit) (litOperand r.e lit (r.val 1)) (litCompare r.e lit) desc,
        classes := 0x40, addr := r.val 0, at_ := x, dest := destOf d }

/-- AMO (15 R268-R271). -/
def execAmo (t : Trig) (dst a b : Operand) (lit : Word) (s : State) : Out :=
  runBeat (.amo t dst a b lit) t (amoBody dst lit) s
/-- AMOC (15 R272-R277). -/
def execAmoc (t : Trig) (dst a b : Operand) (lit : Word) (s : State) : Out :=
  runBeat (.amoc t dst a b lit) t (amocBody dst lit) s

/-! ## Semaphores and counters (15 R285, R289) -/

/-- The bulkhead that a semaphore operand names. -/
def semBulkhead (key : Nat) (a : Word) : Nat := if bit a.toNat 14 then bits a.toNat 10 4 else bhOf key

/-- The beat of sems and semw. -/
def semBody (d : Operand) (wait : Bool) : Body := fun s key r =>
  let a := r.val 0
  let b := r.val 1
  if bits a.toNat 15 17 != 0 || bits b.toNat 24 8 != 0 then statusBody s key r d 0x05
  else
    let bh := semBulkhead key a
    let sem := bits a.toNat 0 10
    let n := bits b.toNat 0 24
    requestBody s key r
      { kind := if wait then .semw bh sem n else .sems bh sem n, classes := 0x40, addr := a, dest := destOf d }

/-- SEMS (15 R285). -/
def execSems (t : Trig) (dst a b : Operand) (s : State) : Out := runBeat (.sems t dst a b) t (semBody dst false) s
/-- SEMW (15 R285). -/
def execSemw (t : Trig) (dst a b : Operand) (s : State) : Out := runBeat (.semw t dst a b) t (semBody dst true) s

/-- The beat of arrive (15 R289). -/
def arriveBody (d : Operand) : Body := fun s key r =>
  requestBody s key r { kind := .arrive (r.val 0) (r.val 1), classes := 0x40, addr := r.val 0, dest := destOf d }

/-- ARRIVE, the instruction (15 R289). -/
def execArrive (t : Trig) (dst a b : Operand) (s : State) : Out := runBeat (.arrive t dst a b) t (arriveBody dst) s

/-! ## Fences (14 R256-R258, R264) -/

/-- fence's beat: the incomplete requests and commands of its predecessor classes. -/
def fenceBody (lit : Word) : Body := fun s _ r =>
  let pred := BitVec.ofNat 8 (bits lit.toNat 0 8)
  let succ := BitVec.ofNat 8 (bits lit.toNat 8 8)
  let ids := (r.e.pending.filter fun p => p.classes &&& pred != 0).map Pending.id
  if pred == 0 || succ == 0 then { s := s, e := r.e }
  else { s := s, e := { r.e with fence := some { pred := pred, preds := ids, succ := succ, scope := bits lit.toNat 16 2 } } }

/-- FENCE (14 R256). -/
def execFence (t : Trig) (lit : Word) (s : State) : Out := runBeat (.fence t lit) t (fenceBody lit) s

/-- fencel's beat: dst takes a, and a mark enters the issue queue. -/
def fencelBody (d : Operand) : Body := fun s key r =>
  let (s, e, _) := placeRequest s key r { kind := .fencelMark }
  { s := s, e := e.write (sparsePorts s key) d (r.val 0) (mkTag 0 r.exc) false }

/-- FENCEL (14 R257). -/
def execFencel (t : Trig) (dst a b : Operand) (s : State) : Out := runBeat (.fencel t dst a b) t (fencelBody dst) s

/-- fenceh's beat, which holds until dst is written, a port too. -/
def fencehBody (d : Operand) : Body := fun s key r =>
  let a := r.val 0
  requestBody s key r
    { kind := .fenceh (bits a.toNat 0 16) (bits a.toNat 16 16 != 0), addr := a, dest := .operand d }

/-- FENCEH (14 R258). -/
def execFenceh (t : Trig) (dst a b : Operand) (s : State) : Out := runBeat (.fenceh t dst a b) t (fencehBody dst) s

/-- IFENCE (14 R264): every held page of an evaluator element becomes stale. -/
def execIfence (t : Trig) (s : State) : Out :=
  runBeat (.ifence t) t (fun s key r =>
    { s := s, e := if isEv key then { r.e with stale := r.e.heldMask } else r.e }) s

end Sys2Proof.Machine
end

