-- ==== Sys2Proof/Machine/Commands.lean ====
section
/-!
DEFINITION. What elements send to engines and to the ask hub: mcmd, scmd, qcmd (10 R212, 12 R219, 14 R252, R259), ask and
answer (17 R297-R299, R308), setpg (17 R319).
-/
namespace Sys2Proof.Machine
open Sys2Proof

/-- The stores of an element that its tile has performed and that are not complete: what a release covers (14 R252). -/
def Elem.performedStores (e : Elem) : List Nat := (e.pending.filter fun p => p.isStore && p.performed).map Pending.id

/-- The beat of an engine command: its two tokens, a then b, enter the port as one command. -/
def commandBody (target : Operand) (classes : BitVec 8) : Body := fun s _ r =>
  match target with
    | .o n =>
      let id := s.nextId
      let t (w : Word) : OutEntry := .command { data := w, tag := mkTag 0 r.exc } id
      let p : Pending := { id := id, classes := classes, performed := true, slot := r.slot, covers := r.e.performedStores }
      { s := { s with nextId := id + 1 },
        e := { r.e with out := modifyAt r.e.out n.val (· ++ [t (r.val 0), t (r.val 1)]), pending := r.e.pending ++ [p] } }
    | _ => { s := s, e := r.e }

/-- The classes of the accesses of a control token (14 R244, 12 R239): MR bit 4, MW bit 5; none of what touches no memory. -/
def tokenClasses (hi lo : Word) : BitVec 8 :=
  match decodeToken hi lo with
  | some (.mma ..) | some (.accl ..) | some (.qldv ..) => 0x10
  | some (.accw ..) | some (.qspl ..) => 0x20
  | some (.qadd ..) | some (.qapl ..) | some (.qapr ..) => 0x30
  | _ => 0

/-- The classes of the accesses of a sequencer command (14 R244): CR bit 2, CW bit 3. -/
def sequencerClasses (w : DWord) : BitVec 8 :=
  match decodeSeq w with
  | some (.streamRd ..) | some (.snextRd ..) | some (.deliver ..) | some (.push ..) => 0x04
  | some (.streamWr ..) | some (.snextWr ..) | some (.accept ..) => 0x08
  | some (.spcopy ..) | some (.fupd ..) => 0x0C
  | _ => 0

/-- MCMD (12 R219). -/
def execMcmd (t : Trig) (target a b : Operand) (s : State) : Out :=
  runBeat (.mcmd t target a b) t (fun s key r => commandBody target (tokenClasses (r.val 0) (r.val 1)) s key r) s
/-- scmd's beat: its descriptor word is checked as an address of 64 bytes when it fires, that is at the first attempt of the
beat (13 R243); with ORD it then holds until the element's earlier scratchpad stores are written (14 R259). -/
def scmdBody (target : Operand) : Body := fun s key r =>
  let first : Bool := !(r.e.issue.any Issue.held)
  match (s.tile (servingTile key)).checkAddr false (r.val 1) 64 false, first with
  | .error c, true => { s := s, e := r.e, stop := .fault c r.slot (r.val 1).toNat }
  | _, _ =>
    if bit (r.val 0).toNat 27 && r.e.pending.any Pending.seg0 then { s := s, e := r.e, stop := .hold }
    else commandBody target 0x0C s key r

/-- SCMD (10 R212, 14 R259, 13 R243). -/
def execScmd (t : Trig) (target a b : Operand) (s : State) : Out :=
  runBeat (.scmd t target a b) t (scmdBody target) s
/-- QCMD (10 R212). -/
def execQcmd (t : Trig) (target a b : Operand) (s : State) : Out :=
  runBeat (.qcmd t target a b) t (fun s key r => commandBody target (sequencerClasses (r.val 0 ++ r.val 1)) s key r) s

/-- ask's beat (17 R298): the query words are popped after the fields are read, and a request of class X is placed; their
exception bits reach the token that dst pushes, as those of every popped token do (06 R85). -/
def askBody (d : Operand) : Body := fun s key r =>
  match siteOf s key r.slot with
  | none => { s := s, e := r.e }
  | some k =>
    match (s.hub (bhOf key)).sites[k]? with
    | none => { s := s, e := r.e }
    | some x =>
      let words := (r.e.inp.getD x.qport []).take x.q
      let estExc := match r.tok? 0 with
        | none => false
        | some t => t.exc
      requestBody s key { r with e := r.e.pop x.qport x.q, exc := r.exc || words.any Token.exc }
        { kind := .ask k words (r.val 0) estExc (r.val 1), classes := 0x80, dest := destOf d }

/-- ASK (17 R297, R298). -/
def execAsk (t : Trig) (dst a b : Operand) (s : State) : Out := runBeat (.ask t dst a b) t (askBody dst) s

/-- The number of a register operand, 16 for any other. -/
def regNumber : Operand → Nat
  | .d n => n.val
  | _ => 16

/-- answer's beat (17 R308). -/
def answerBody (b : Operand) : Body := fun s key r =>
  let h := r.val 0
  let w := bits h.toNat 9 2 + 1
  let n := regNumber b
  if bits h.toNat 11 21 != 0 || 16 < n + w then
    { s := s, e := r.e, stop := .fault 0x4C (bits h.toNat 0 9) 0 }
  else requestBody s key r
    { kind := .answer h ((List.range w).map fun j => r.e.regs.getD (n + j) 0), classes := 0x80 }

/-- ANSWER (17 R308); unassigned in a management element (24 R376), whose slot check refuses it. -/
def execAnswer (t : Trig) (a b : Operand) (s : State) : Out := runBeat (.answer t a b) t (answerBody b) s

/-- setpg's beat (17 R319): the page's address word is resolved under the segments of the fire. -/
def setpgBody (n : BitVec 2) : Body := fun s key r =>
  let pga := r.e.pga.getD n.toNat 0
  let t := s.tile (servingTile key)
  let first := t.checkAddr true pga 64 false
  let last := if 2 ^ 28 ≤ bits pga.toNat 0 28 + 271 then .error 0x44 else t.checkRange true (pga + 271) false
  let k : ReqKind := match first, last with
    | .ok x, .ok _ => .setpg n.toNat pga x.va 0 x.cls x.reads
    | .error c, _ => .setpg n.toNat pga 0 c 0 15
    | _, .error c => .setpg n.toNat pga 0 c 0 15
  requestBody s key r
    { kind := k, classes := 0x80, addr := pga, dest := .operand .z }

/-- SETPG (17 R319). -/
def execSetpg (t : Trig) (page : BitVec 2) (s : State) : Out := runBeat (.setpg t page) t (setpgBody page) s

end Sys2Proof.Machine
end

