-- ==== Sys2Proof/Machine/Compare.lean ====
section
/-!
DEFINITION. Compare, predicate, tag, move, select and shuttle instructions (06 R103-R110).
-/
namespace Sys2Proof.Machine
open Sys2Proof

/-- 1 or 0 (06 R103). -/
def truth (b : Bool) : Word := if b then 1 else 0

/-- A comparison's truth as a result with its flags. -/
def compared (x : Bool × Flags) : FRes := { bits := b2n x.1, flags := x.2 }

/-- The level ctag compares (06 R105): that of the token read through a port, else the value's low three bits. -/
def levelOf (r : Reads) (a : Operand) : Nat :=
  match a with
  | .i _ => ((r.tok? 0).map Token.level).getD 0
  | .k _ => ((r.tok? 0).map Token.level).getD 0
  | _ => (r.val 0).toNat % 8

/-- mov: the data, and the whole tag of the token read; tag 0 where a is not a port (06 R107). -/
def movBody (dst a : Operand) : Body := fun s key r =>
  let tag : BitVec 4 := match a with
    | .i _ => ((r.tok? 0).map Token.tag).getD 0
    | .k _ => ((r.tok? 0).map Token.tag).getD 0
    | _ => 0
  { s := s, e := r.e.write (sparsePorts s key) dst (r.val 0) tag false }

/-- tagv and selv: the data at the level given, exception bit under 06 R85 (06 R107). -/
def tagBody (dst : Operand) (level : Reads → Nat) : Body := fun s key r =>
  { s := s, e := r.e.write (sparsePorts s key) dst (r.val 0) (mkTag (level r) r.exc) false }

/-- sel.pN: a where pN is 1 at the start of the beat, else b; the exception bit of the chosen operand only (06 R108). -/
def selBody (dst : Operand) (n : Fin 8) : Body := fun s key r =>
  let k := if r.e.preds.getD n.val false then 0 else 1
  let exc := ((r.tok? k).map Token.exc).getD false
  { s := s, e := r.e.write (sparsePorts s key) dst (r.val k) (mkTag 0 exc) false }

/-- send and sendr (06 R109): one shuttle to the send queue, or SHUTTLE_UNBOUND. -/
def sendBody (f : Reads → Nat × Word × Word) : Body := fun s key r =>
  let (lab, w0, w1) := f r
  if (s.bh (bhOf key)).routes.any (·.label == lab) then
    let x : Shuttle := { classL := false, source := key, label := lab, w0 := w0, w1 := w1 }
    { s := s, e := { r.e with sendq := r.e.sendq ++ [x] } }
  else { s := s, e := r.e, stop := .fault 0x47 r.slot 0 }

/-- CEQ_S32 (R103). -/
def execCeqS32 (t : Trig) (dst a b : Operand) (s : State) : Out :=
  runBeat (.ceqS32 t dst a b) t (wordBody dst fun r => truth (r.val 0 == r.val 1)) s

/-- CNE_S32 (R103). -/
def execCneS32 (t : Trig) (dst a b : Operand) (s : State) : Out :=
  runBeat (.cneS32 t dst a b) t (wordBody dst fun r => truth (r.val 0 != r.val 1)) s

/-- CLT_S32 (R103). -/
def execCltS32 (t : Trig) (dst a b : Operand) (s : State) : Out :=
  runBeat (.cltS32 t dst a b) t (wordBody dst fun r => truth (decide ((r.val 0).toInt < (r.val 1).toInt))) s

/-- CLE_S32 (R103). -/
def execCleS32 (t : Trig) (dst a b : Operand) (s : State) : Out :=
  runBeat (.cleS32 t dst a b) t (wordBody dst fun r => truth (decide ((r.val 0).toInt ≤ (r.val 1).toInt))) s

/-- CGT_S32 (R103). -/
def execCgtS32 (t : Trig) (dst a b : Operand) (s : State) : Out :=
  runBeat (.cgtS32 t dst a b) t (wordBody dst fun r => truth (decide ((r.val 0).toInt > (r.val 1).toInt))) s

/-- CGE_S32 (R103). -/
def execCgeS32 (t : Trig) (dst a b : Operand) (s : State) : Out :=
  runBeat (.cgeS32 t dst a b) t (wordBody dst fun r => truth (decide ((r.val 0).toInt ≥ (r.val 1).toInt))) s

/-- CLT_N32 (R103). -/
def execCltN32 (t : Trig) (dst a b : Operand) (s : State) : Out :=
  runBeat (.cltN32 t dst a b) t (wordBody dst fun r => truth (decide ((r.val 0).toNat < (r.val 1).toNat))) s

/-- CLE_N32 (R103). -/
def execCleN32 (t : Trig) (dst a b : Operand) (s : State) : Out :=
  runBeat (.cleN32 t dst a b) t (wordBody dst fun r => truth (decide ((r.val 0).toNat ≤ (r.val 1).toNat))) s

/-- CGT_N32 (R103). -/
def execCgtN32 (t : Trig) (dst a b : Operand) (s : State) : Out :=
  runBeat (.cgtN32 t dst a b) t (wordBody dst fun r => truth (decide ((r.val 0).toNat > (r.val 1).toNat))) s

/-- CGE_N32 (R103). -/
def execCgeN32 (t : Trig) (dst a b : Operand) (s : State) : Out :=
  runBeat (.cgeN32 t dst a b) t (wordBody dst fun r => truth (decide ((r.val 0).toNat ≥ (r.val 1).toNat))) s

/-- PAND (R104). -/
def execPand (t : Trig) (dst a b : Operand) (s : State) : Out :=
  runBeat (.pand t dst a b) t (wordBody dst fun r => truth ((r.val 0 != 0) && (r.val 1 != 0))) s

/-- POR (R104). -/
def execPor (t : Trig) (dst a b : Operand) (s : State) : Out :=
  runBeat (.por t dst a b) t (wordBody dst fun r => truth ((r.val 0 != 0) || (r.val 1 != 0))) s

/-- PXOR (R104). -/
def execPxor (t : Trig) (dst a b : Operand) (s : State) : Out :=
  runBeat (.pxor t dst a b) t (wordBody dst fun r => truth ((r.val 0 != 0) != (r.val 1 != 0))) s

/-- CEQ_F32 (R103). -/
def execCeqF32 (t : Trig) (dst a b : Operand) (s : State) : Out :=
  runBeat (.ceqF32 t dst a b) t (writeBody dst fun _ r => compared (fcmp fmt32 .eq (r.val 0).toNat (r.val 1).toNat)) s

/-- CEQ_F64 (R103). -/
def execCeqF64 (t : Trig) (dst a b : Operand) (s : State) : Out :=
  runBeat (.ceqF64 t dst a b) t (writeBody dst fun _ r => compared (fcmp fmt64 .eq (r.pair 0) (r.pair 1))) s

/-- CNE_F32 (R103). -/
def execCneF32 (t : Trig) (dst a b : Operand) (s : State) : Out :=
  runBeat (.cneF32 t dst a b) t (writeBody dst fun _ r => compared (fcmp fmt32 .ne (r.val 0).toNat (r.val 1).toNat)) s

/-- CLT_F32 (R103). -/
def execCltF32 (t : Trig) (dst a b : Operand) (s : State) : Out :=
  runBeat (.cltF32 t dst a b) t (writeBody dst fun _ r => compared (fcmp fmt32 .lt (r.val 0).toNat (r.val 1).toNat)) s

/-- CLT_F64 (R103). -/
def execCltF64 (t : Trig) (dst a b : Operand) (s : State) : Out :=
  runBeat (.cltF64 t dst a b) t (writeBody dst fun _ r => compared (fcmp fmt64 .lt (r.pair 0) (r.pair 1))) s

/-- CLE_F32 (R103). -/
def execCleF32 (t : Trig) (dst a b : Operand) (s : State) : Out :=
  runBeat (.cleF32 t dst a b) t (writeBody dst fun _ r => compared (fcmp fmt32 .le (r.val 0).toNat (r.val 1).toNat)) s

/-- CLE_F64 (R103). -/
def execCleF64 (t : Trig) (dst a b : Operand) (s : State) : Out :=
  runBeat (.cleF64 t dst a b) t (writeBody dst fun _ r => compared (fcmp fmt64 .le (r.pair 0) (r.pair 1))) s

/-- CUN_F32 (R103). -/
def execCunF32 (t : Trig) (dst a b : Operand) (s : State) : Out :=
  runBeat (.cunF32 t dst a b) t (writeBody dst fun _ r => compared (fcmp fmt32 .un (r.val 0).toNat (r.val 1).toNat)) s

/-- CUN_F64 (R103). -/
def execCunF64 (t : Trig) (dst a b : Operand) (s : State) : Out :=
  runBeat (.cunF64 t dst a b) t (writeBody dst fun _ r => compared (fcmp fmt64 .un (r.pair 0) (r.pair 1))) s

/-- CTAG (R105). -/
def execCtag (t : Trig) (dst a : Operand) (imm : BitVec 3) (s : State) : Out :=
  runBeat (.ctag t dst a imm) t (wordBody dst fun r => truth (levelOf r a == imm.toNat)) s

/-- MOV (R107). -/
def execMov (t : Trig) (dst a : Operand) (s : State) : Out :=
  runBeat (.mov t dst a) t (movBody dst a) s

/-- TAGV (R107). -/
def execTagv (t : Trig) (dst a b : Operand) (s : State) : Out :=
  runBeat (.tagv t dst a b) t (tagBody dst fun r => (r.val 1).toNat % 8) s

/-- SELV (R107). -/
def execSelv (t : Trig) (dst a : Operand) (imm : BitVec 3) (s : State) : Out :=
  runBeat (.selv t dst a imm) t (tagBody dst fun _ => imm.toNat) s

/-- DROP (R107). -/
def execDrop (t : Trig) (a : Operand) (s : State) : Out :=
  runBeat (.drop t a) t (fun s _ r => { s := s, e := r.e }) s

/-- SEL_PN (R108). -/
def execSelPn (t : Trig) (n : Fin 8) (dst a b : Operand) (s : State) : Out :=
  runBeat (.selPn t n dst a b) t (selBody dst n) s

/-- SEND (R109). -/
def execSend (t : Trig) (payload : Operand) (label : BitVec 7) (s : State) : Out :=
  runBeat (.send t payload label) t (sendBody fun r => (label.toNat, r.val 0, 0)) s

/-- SENDR (R109). -/
def execSendr (t : Trig) (label a b : Operand) (s : State) : Out :=
  runBeat (.sendr t label a b) t (sendBody fun r => ((r.val 2).toNat % 128, r.val 0, r.val 1)) s

end Sys2Proof.Machine
end

