-- ==== Sys2Proof/Machine/Float.lean ====
section
/-!
DEFINITION. Floating-point arithmetic, conversions, binary64 and the seeds (08 R148-R165): each meaning is one function
of Flags.lean on the operands, rounded in the element's mode where R128 names it a rounding instruction.
-/
namespace Sys2Proof.Machine
open Sys2Proof

/-- A packed result of two lanes that do not round (08 R140, R153). -/
def packed (f : Nat → FRes) : FRes :=
  { bits := (f 0).bits + 65536 * (f 1).bits, flags := (f 0).flags ||| (f 1).flags }

/-- FADD_F32 (R148). -/
def execFaddF32 (t : Trig) (dst a b : Operand) (s : State) : Out :=
  runBeat (.faddF32 t dst a b) t (roundBody false dst fun m x r => fadd fmt32 m x (r.val 0).toNat (r.val 1).toNat) s

/-- FSUB_F32 (R148). -/
def execFsubF32 (t : Trig) (dst a b : Operand) (s : State) : Out :=
  runBeat (.fsubF32 t dst a b) t (roundBody false dst fun m x r => fsub fmt32 m x (r.val 0).toNat (r.val 1).toNat) s

/-- FMUL_F32 (R148). -/
def execFmulF32 (t : Trig) (dst a b : Operand) (s : State) : Out :=
  runBeat (.fmulF32 t dst a b) t (roundBody false dst fun m x r => fmul fmt32 m x (r.val 0).toNat (r.val 1).toNat) s

/-- FMAC_F32 (R148). -/
def execFmacF32 (t : Trig) (dst a b : Operand) (s : State) : Out :=
  runBeat (.fmacF32 t dst a b) t (roundBody false dst fun m x r => fmac fmt32 m x false (r.val 0).toNat (r.val 1).toNat (r.val 2).toNat) s

/-- FNMAC_F32 (R148). -/
def execFnmacF32 (t : Trig) (dst a b : Operand) (s : State) : Out :=
  runBeat (.fnmacF32 t dst a b) t (roundBody false dst fun m x r => fmac fmt32 m x true (r.val 0).toNat (r.val 1).toNat (r.val 2).toNat) s

/-- FMIN_F32 (R149). -/
def execFminF32 (t : Trig) (dst a b : Operand) (s : State) : Out :=
  runBeat (.fminF32 t dst a b) t (writeBody dst fun _ r => fminmax fmt32 false (r.val 0).toNat (r.val 1).toNat) s

/-- FMAX_F32 (R149). -/
def execFmaxF32 (t : Trig) (dst a b : Operand) (s : State) : Out :=
  runBeat (.fmaxF32 t dst a b) t (writeBody dst fun _ r => fminmax fmt32 true (r.val 0).toNat (r.val 1).toNat) s

/-- FABS_F32 (R150). -/
def execFabsF32 (t : Trig) (dst a : Operand) (s : State) : Out :=
  runBeat (.fabsF32 t dst a) t (wordBody dst fun r => r.val 0 &&& 0x7FFFFFFF) s

/-- FNEG_F32 (R150). -/
def execFnegF32 (t : Trig) (dst a : Operand) (s : State) : Out :=
  runBeat (.fnegF32 t dst a) t (wordBody dst fun r => r.val 0 ^^^ 0x80000000) s

/-- FCPSGN_F32 (R150). -/
def execFcpsgnF32 (t : Trig) (dst a b : Operand) (s : State) : Out :=
  runBeat (.fcpsgnF32 t dst a b) t (wordBody dst fun r => (r.val 0 &&& 0x7FFFFFFF) ||| (r.val 1 &&& 0x80000000)) s

/-- FRSQS_F32 (R162). -/
def execFrsqsF32 (t : Trig) (dst a : Operand) (s : State) : Out :=
  runBeat (.frsqsF32 t dst a) t (writeBody dst fun _ r => frsqs (r.val 0).toNat) s

/-- FRCPS_F32 (R163). -/
def execFrcpsF32 (t : Trig) (dst a : Operand) (s : State) : Out :=
  runBeat (.frcpsF32 t dst a) t (writeBody dst fun _ r => frcps (r.val 0).toNat) s

/-- FEX2S_F32 (R164). -/
def execFex2sF32 (t : Trig) (dst a : Operand) (s : State) : Out :=
  runBeat (.fex2sF32 t dst a) t (writeBody dst fun _ r => fex2s (r.val 0).toNat) s

/-- FLG2S_F32 (R165). -/
def execFlg2sF32 (t : Trig) (dst a : Operand) (s : State) : Out :=
  runBeat (.flg2sF32 t dst a) t (writeBody dst fun _ r => flg2s (r.val 0).toNat) s

/-- FCLS_F32 (R151). -/
def execFclsF32 (t : Trig) (dst a : Operand) (s : State) : Out :=
  runBeat (.fclsF32 t dst a) t (writeBody dst fun _ r => .exact (fclass (r.val 0).toNat)) s

/-- FRND_F32 (R152). -/
def execFrndF32 (t : Trig) (dst a : Operand) (s : State) : Out :=
  runBeat (.frndF32 t dst a) t (roundBody false dst fun m x r => frnd m x (r.val 0).toNat) s

/-- FADD_H16 (R153). -/
def execFaddH16 (t : Trig) (dst a b : Operand) (s : State) : Out :=
  runBeat (.faddH16 t dst a b) t (laneBody dst fun m x k r => fadd r.e.half m x (lane (r.val 0) k) (lane (r.val 1) k)) s

/-- FSUB_H16 (R153). -/
def execFsubH16 (t : Trig) (dst a b : Operand) (s : State) : Out :=
  runBeat (.fsubH16 t dst a b) t (laneBody dst fun m x k r => fsub r.e.half m x (lane (r.val 0) k) (lane (r.val 1) k)) s

/-- FMUL_H16 (R153). -/
def execFmulH16 (t : Trig) (dst a b : Operand) (s : State) : Out :=
  runBeat (.fmulH16 t dst a b) t (laneBody dst fun m x k r => fmul r.e.half m x (lane (r.val 0) k) (lane (r.val 1) k)) s

/-- FMAC_H16 (R153). -/
def execFmacH16 (t : Trig) (dst a b : Operand) (s : State) : Out :=
  runBeat (.fmacH16 t dst a b) t (laneBody dst fun m x k r => fmac r.e.half m x false (lane (r.val 0) k) (lane (r.val 1) k) (lane (r.val 2) k)) s

/-- FMIN_H16 (R153). -/
def execFminH16 (t : Trig) (dst a b : Operand) (s : State) : Out :=
  runBeat (.fminH16 t dst a b) t (writeBody dst fun _ r => packed fun k => fminmax r.e.half false (lane (r.val 0) k) (lane (r.val 1) k)) s

/-- FMAX_H16 (R153). -/
def execFmaxH16 (t : Trig) (dst a b : Operand) (s : State) : Out :=
  runBeat (.fmaxH16 t dst a b) t (writeBody dst fun _ r => packed fun k => fminmax r.e.half true (lane (r.val 0) k) (lane (r.val 1) k)) s

/-- FDOT_H16 (R154). -/
def execFdotH16 (t : Trig) (dst a b : Operand) (s : State) : Out :=
  runBeat (.fdotH16 t dst a b) t (roundBody false dst fun m x r => fdot r.e.half m x (r.val 0).toNat (r.val 1).toNat none) s

/-- FDMAC_H16 (R154). -/
def execFdmacH16 (t : Trig) (dst a b : Operand) (s : State) : Out :=
  runBeat (.fdmacH16 t dst a b) t (roundBody false dst fun m x r => fdot r.e.half m x (r.val 0).toNat (r.val 1).toNat (some (r.val 2).toNat)) s

/-- CVT_F32_S32 (R155). -/
def execCvtF32S32 (t : Trig) (dst a : Operand) (s : State) : Out :=
  runBeat (.cvtF32S32 t dst a) t (roundBody false dst fun m x r => intToF fmt32 m x (r.val 0).toInt) s

/-- CVT_S32_F32 (R155). -/
def execCvtS32F32 (t : Trig) (dst a : Operand) (s : State) : Out :=
  runBeat (.cvtS32F32 t dst a) t (roundBody false dst fun m x r => fToInt fmt32 m x (-2147483648) 2147483647 (r.val 0).toNat) s

/-- CVT_F32_N32 (R155). -/
def execCvtF32N32 (t : Trig) (dst a : Operand) (s : State) : Out :=
  runBeat (.cvtF32N32 t dst a) t (roundBody false dst fun m x r => intToF fmt32 m x (r.val 0).toNat) s

/-- CVT_N32_F32 (R155). -/
def execCvtN32F32 (t : Trig) (dst a : Operand) (s : State) : Out :=
  runBeat (.cvtN32F32 t dst a) t (roundBody false dst fun m x r => fToInt fmt32 m x 0 4294967295 (r.val 0).toNat) s

/-- CVT_H16_F32 (R155). -/
def execCvtH16F32 (t : Trig) (dst a b : Operand) (s : State) : Out :=
  runBeat (.cvtH16F32 t dst a b) t (laneBody dst fun m x k r => fconv fmt32 r.e.half m x (r.val k).toNat) s

/-- CVTL_F32_H16 (R155). -/
def execCvtlF32H16 (t : Trig) (dst a : Operand) (s : State) : Out :=
  runBeat (.cvtlF32H16 t dst a) t (writeBody dst fun _ r => fconv r.e.half fmt32 .rne 0 (lane (r.val 0) 0)) s

/-- CVTH_F32_H16 (R155). -/
def execCvthF32H16 (t : Trig) (dst a : Operand) (s : State) : Out :=
  runBeat (.cvthF32H16 t dst a) t (writeBody dst fun _ r => fconv r.e.half fmt32 .rne 0 (lane (r.val 0) 1)) s

/-- CVT_S8_F32 (R155). -/
def execCvtS8F32 (t : Trig) (dst a : Operand) (s : State) : Out :=
  runBeat (.cvtS8F32 t dst a) t (roundBody false dst fun m x r => fToInt fmt32 m x (-128) 127 (r.val 0).toNat) s

/-- CVT_MX8E4_F32 (R157). -/
def execCvtMx8e4F32 (t : Trig) (dst a b : Operand) (s : State) : Out :=
  runBeat (.cvtMx8e4F32 t dst a b) t (writeBody dst fun _ r => encodeElem .mx8e4 (r.val 0).toNat (r.val 1).toNat) s

/-- CVT_F32_MX8E4 (R158). -/
def execCvtF32Mx8e4 (t : Trig) (dst a b : Operand) (s : State) : Out :=
  runBeat (.cvtF32Mx8e4 t dst a b) t (writeBody dst fun _ r => decodeElem .mx8e4 r.e.mode (r.val 0).toNat (r.val 1).toNat) s

/-- CVT_MX8E5_F32 (R157). -/
def execCvtMx8e5F32 (t : Trig) (dst a b : Operand) (s : State) : Out :=
  runBeat (.cvtMx8e5F32 t dst a b) t (writeBody dst fun _ r => encodeElem .mx8e5 (r.val 0).toNat (r.val 1).toNat) s

/-- CVT_F32_MX8E5 (R158). -/
def execCvtF32Mx8e5 (t : Trig) (dst a b : Operand) (s : State) : Out :=
  runBeat (.cvtF32Mx8e5 t dst a b) t (writeBody dst fun _ r => decodeElem .mx8e5 r.e.mode (r.val 0).toNat (r.val 1).toNat) s

/-- CVT_WF8_F32 (R157). -/
def execCvtWf8F32 (t : Trig) (dst a b : Operand) (s : State) : Out :=
  runBeat (.cvtWf8F32 t dst a b) t (writeBody dst fun _ r => encodeElem .wf8 (r.val 0).toNat (r.val 1).toNat) s

/-- CVT_F32_WF8 (R158). -/
def execCvtF32Wf8 (t : Trig) (dst a b : Operand) (s : State) : Out :=
  runBeat (.cvtF32Wf8 t dst a b) t (writeBody dst fun _ r => decodeElem .wf8 r.e.mode (r.val 0).toNat (r.val 1).toNat) s

/-- CVT_WF5_F32 (R157). -/
def execCvtWf5F32 (t : Trig) (dst a b : Operand) (s : State) : Out :=
  runBeat (.cvtWf5F32 t dst a b) t (writeBody dst fun _ r => encodeElem .wf5 (r.val 0).toNat (r.val 1).toNat) s

/-- CVT_F32_WF5 (R158). -/
def execCvtF32Wf5 (t : Trig) (dst a b : Operand) (s : State) : Out :=
  runBeat (.cvtF32Wf5 t dst a b) t (writeBody dst fun _ r => decodeElem .wf5 r.e.mode (r.val 0).toNat (r.val 1).toNat) s

/-- CVT_WF3_F32 (R157). -/
def execCvtWf3F32 (t : Trig) (dst a b : Operand) (s : State) : Out :=
  runBeat (.cvtWf3F32 t dst a b) t (writeBody dst fun _ r => encodeElem .wf3 (r.val 0).toNat (r.val 1).toNat) s

/-- CVT_F32_WF3 (R158). -/
def execCvtF32Wf3 (t : Trig) (dst a b : Operand) (s : State) : Out :=
  runBeat (.cvtF32Wf3 t dst a b) t (writeBody dst fun _ r => decodeElem .wf3 r.e.mode (r.val 0).toNat (r.val 1).toNat) s

/-- FADD_F64 (R159). -/
def execFaddF64 (t : Trig) (dst a b : Operand) (s : State) : Out :=
  runBeat (.faddF64 t dst a b) t (roundBody true dst fun m x r => fadd fmt64 m x (r.pair 0) (r.pair 1)) s

/-- FSUB_F64 (R159). -/
def execFsubF64 (t : Trig) (dst a b : Operand) (s : State) : Out :=
  runBeat (.fsubF64 t dst a b) t (roundBody true dst fun m x r => fsub fmt64 m x (r.pair 0) (r.pair 1)) s

/-- FMUL_F64 (R159). -/
def execFmulF64 (t : Trig) (dst a b : Operand) (s : State) : Out :=
  runBeat (.fmulF64 t dst a b) t (roundBody true dst fun m x r => fmul fmt64 m x (r.pair 0) (r.pair 1)) s

/-- FMAC_F64 (R159). -/
def execFmacF64 (t : Trig) (dst a b : Operand) (s : State) : Out :=
  runBeat (.fmacF64 t dst a b) t (roundBody true dst fun m x r => fmac fmt64 m x false (r.pair 0) (r.pair 1) (r.pair 2)) s

/-- FDIV_F64 (R159). -/
def execFdivF64 (t : Trig) (dst a b : Operand) (s : State) : Out :=
  runBeat (.fdivF64 t dst a b) t (roundBody true dst fun m x r => fdiv fmt64 m x (r.pair 0) (r.pair 1)) s

/-- FSQRT_F64 (R159). -/
def execFsqrtF64 (t : Trig) (dst a : Operand) (s : State) : Out :=
  runBeat (.fsqrtF64 t dst a) t (roundBody true dst fun m x r => fsqrt fmt64 m x (r.pair 0)) s

/-- FMIN_F64 (R159). -/
def execFminF64 (t : Trig) (dst a b : Operand) (s : State) : Out :=
  runBeat (.fminF64 t dst a b) t (writeBody2 dst fun _ r => fminmax fmt64 false (r.pair 0) (r.pair 1)) s

/-- FMAX_F64 (R159). -/
def execFmaxF64 (t : Trig) (dst a b : Operand) (s : State) : Out :=
  runBeat (.fmaxF64 t dst a b) t (writeBody2 dst fun _ r => fminmax fmt64 true (r.pair 0) (r.pair 1)) s

/-- CVT_F64_F32 (R160). -/
def execCvtF64F32 (t : Trig) (dst a : Operand) (s : State) : Out :=
  runBeat (.cvtF64F32 t dst a) t (writeBody2 dst fun _ r => fconv fmt32 fmt64 .rne 0 (r.val 0).toNat) s

/-- CVT_F32_F64 (R160). -/
def execCvtF32F64 (t : Trig) (dst a : Operand) (s : State) : Out :=
  runBeat (.cvtF32F64 t dst a) t (roundBody false dst fun m x r => fconv fmt64 fmt32 m x (r.pair 0)) s

/-- CVT_F64_S32 (R160). -/
def execCvtF64S32 (t : Trig) (dst a : Operand) (s : State) : Out :=
  runBeat (.cvtF64S32 t dst a) t (writeBody2 dst fun _ r => intToF fmt64 .rne 0 (r.val 0).toInt) s

/-- CVT_S32_F64 (R160). -/
def execCvtS32F64 (t : Trig) (dst a : Operand) (s : State) : Out :=
  runBeat (.cvtS32F64 t dst a) t (roundBody false dst fun m x r => fToInt fmt64 m x (-2147483648) 2147483647 (r.pair 0)) s

/-- FABS_F64 (R159). -/
def execFabsF64 (t : Trig) (dst a : Operand) (s : State) : Out :=
  runBeat (.fabsF64 t dst a) t (writeBody2 dst fun _ r => .exact ((r.pair 0) % 2 ^ 63)) s

/-- FNEG_F64 (R159). -/
def execFnegF64 (t : Trig) (dst a : Operand) (s : State) : Out :=
  runBeat (.fnegF64 t dst a) t (writeBody2 dst fun _ r => .exact ((r.pair 0) ^^^ 2 ^ 63)) s

end Sys2Proof.Machine
end

