-- ==== Sys2Proof/Machine/Memory.lean ====
section
/-!
DEFINITION. Element loads, stores, guarded stores and prefetch: what their fires do (10 R192-R198).
-/
namespace Sys2Proof.Machine
open Sys2Proof

/-- A load's beat: the checks of its address, then a request (10 R193, R194). -/
def loadBody (d : Operand) (w : BitVec 6) (size : Nat) (sgn : Bool) : Body := fun s key r =>
  match (s.tile (servingTile key)).checkAddr (isEv key) (r.val 0) size false with
  | .error c => { s := s, e := r.e, stop := .fault c w.toNat (r.val 0).toNat }
  | .ok x => requestBody s key r
    { kind := .load size sgn, classes := 0x01, wave := w.toNat, addr := r.val 0, at_ := x, dest := destOf d,
      wide := size == 8 }

/-- A store's beat (10 R193, R195). -/
def storeBody (w : BitVec 6) (size : Nat) : Body := fun s key r =>
  match (s.tile (servingTile key)).checkAddr (isEv key) (r.val 0) size true with
  | .error c => { s := s, e := r.e, stop := .fault c w.toNat (r.val 0).toNat }
  | .ok x => requestBody s key r
    { kind := .store size (r.pair 1 % 2 ^ (8 * size)), classes := 0x02, wave := w.toNat, addr := r.val 0, at_ := x }

/-- The guard of a guarded store: the level of the token its data field read, 1 where it names no port (10 R198). -/
def guardOf (r : Reads) : Nat :=
  match r.tok? 1 with
  | none => 1
  | some t => t.level

/-- A guarded store's beat: with the guard at 1 a store, else a skipped request and nothing more (10 R198). -/
def guardedBody (w : BitVec 6) (size : Nat) : Body := fun s key r =>
  if guardOf r == 1 then storeBody w size s key r
  else requestBody s key r { kind := .skipped, classes := 0x02, wave := w.toNat, addr := r.val 0 }

/-- A prefetch's beat (10 R197): one that fails a check is dropped, and takes its place in the wave chain all the
same. -/
def prefetchBody (w : BitVec 6) : Body := fun s key r =>
  match (s.tile (servingTile key)).checkAddr (isEv key) (r.val 0) 1 false with
  | .error _ => requestBody (s.countDrop (servingTile key)) key r
      { kind := .skipped, classes := 0x01, wave := w.toNat, addr := r.val 0 }
  | .ok x =>
    if x.seg0 then requestBody s key r { kind := .skipped, classes := 0x01, wave := w.toNat, addr := r.val 0 }
    else requestBody s key r
      { kind := .prefetch, classes := 0x01, wave := w.toNat, addr := r.val 0, at_ := x }

/-- ld.n32 (10 R192). -/
def execLdN32 (t : Trig) (data addr : Operand) (wave : BitVec 6) (s : State) : Out :=
  runBeat (.ldN32 t data addr wave) t (loadBody data wave 4 false) s
/-- ld.s16 (10 R192). -/
def execLdS16 (t : Trig) (data addr : Operand) (wave : BitVec 6) (s : State) : Out :=
  runBeat (.ldS16 t data addr wave) t (loadBody data wave 2 true) s
/-- ld.n16 (10 R192). -/
def execLdN16 (t : Trig) (data addr : Operand) (wave : BitVec 6) (s : State) : Out :=
  runBeat (.ldN16 t data addr wave) t (loadBody data wave 2 false) s
/-- ld.s8 (10 R192). -/
def execLdS8 (t : Trig) (data addr : Operand) (wave : BitVec 6) (s : State) : Out :=
  runBeat (.ldS8 t data addr wave) t (loadBody data wave 1 true) s
/-- ld.n8 (10 R192). -/
def execLdN8 (t : Trig) (data addr : Operand) (wave : BitVec 6) (s : State) : Out :=
  runBeat (.ldN8 t data addr wave) t (loadBody data wave 1 false) s
/-- ld.n64 (10 R192). -/
def execLdN64 (t : Trig) (data addr : Operand) (wave : BitVec 6) (s : State) : Out :=
  runBeat (.ldN64 t data addr wave) t (loadBody data wave 8 false) s
/-- st.n32 (10 R192). -/
def execStN32 (t : Trig) (data addr : Operand) (wave : BitVec 6) (s : State) : Out :=
  runBeat (.stN32 t data addr wave) t (storeBody wave 4) s
/-- st.n16 (10 R192). -/
def execStN16 (t : Trig) (data addr : Operand) (wave : BitVec 6) (s : State) : Out :=
  runBeat (.stN16 t data addr wave) t (storeBody wave 2) s
/-- st.n8 (10 R192). -/
def execStN8 (t : Trig) (data addr : Operand) (wave : BitVec 6) (s : State) : Out :=
  runBeat (.stN8 t data addr wave) t (storeBody wave 1) s
/-- st.n64 (10 R192). -/
def execStN64 (t : Trig) (data addr : Operand) (wave : BitVec 6) (s : State) : Out :=
  runBeat (.stN64 t data addr wave) t (storeBody wave 8) s
/-- gst.n32 (10 R192, R198). -/
def execGstN32 (t : Trig) (data addr : Operand) (wave : BitVec 6) (s : State) : Out :=
  runBeat (.gstN32 t data addr wave) t (guardedBody wave 4) s
/-- gst.n16 (10 R192, R198). -/
def execGstN16 (t : Trig) (data addr : Operand) (wave : BitVec 6) (s : State) : Out :=
  runBeat (.gstN16 t data addr wave) t (guardedBody wave 2) s
/-- gst.n8 (10 R192, R198). -/
def execGstN8 (t : Trig) (data addr : Operand) (wave : BitVec 6) (s : State) : Out :=
  runBeat (.gstN8 t data addr wave) t (guardedBody wave 1) s
/-- pf (10 R192, R197). -/
def execPf (t : Trig) (addr : Operand) (wave : BitVec 6) (s : State) : Out :=
  runBeat (.pf t addr wave) t (prefetchBody wave) s

end Sys2Proof.Machine
end

