-- ==== Sys2Proof/Machine/Digest.lean ====
section
/-!
DEFINITION. SHA3-256, the digest of images, journal records, keys and certificates (02 R17, 03 R43, 24 R378, R379). The spec
names the function and does not define it: it is the standard's (FIPS 202; PRESUMED, log 11).
-/
namespace Sys2Proof.Machine
open Sys2Proof

/-- The sponge's state: 25 lanes, lane x + 5·y. -/
abbrev Keccak := List DWord

def Keccak.lane (a : Keccak) (x y : Nat) : DWord := a.getD (x % 5 + 5 * (y % 5)) 0

/-- Every lane from its coordinates. -/
def Keccak.build (f : Nat → Nat → DWord) : Keccak := (List.range 25).map fun j => f (j % 5) (j / 5)

/-- θ: each lane takes the parity of two columns. -/
def Keccak.theta (a : Keccak) : Keccak :=
  let parity : List DWord := (List.range 5).map fun x =>
    a.lane x 0 ^^^ a.lane x 1 ^^^ a.lane x 2 ^^^ a.lane x 3 ^^^ a.lane x 4
  let d : List DWord := (List.range 5).map fun x => parity.getD ((x + 4) % 5) 0 ^^^ (parity.getD ((x + 1) % 5) 0).rotateLeft 1
  Keccak.build fun x y => a.lane x y ^^^ d.getD x 0

/-- The walk of ρ over the lanes other than (0, 0): from (x, y) to (y, 2·x + 3·y), each lane rotated by the next triangular
number; n steps are left of 24. -/
def rhoWalk : Nat → Nat → Nat → Tab Nat
  | 0, _, _ => []
  | n + 1, x, y =>
    let t := 24 - n
    (x + 5 * y, t * (t + 1) / 2 % 64) :: rhoWalk n y ((2 * x + 3 * y) % 5)

/-- The rotation of ρ for each lane, lane 0 first. -/
def keccakRotations : List Nat :=
  let w := rhoWalk 24 1 0
  (List.range 25).map fun j => ((w.find? fun p => p.1 == j).map Prod.snd).getD 0

/-- ρ and π: lane (x, y) of the result is the rotated lane (x + 3·y, x). -/
def Keccak.rhoPi (a : Keccak) : Keccak :=
  let r := (a.zip keccakRotations).map fun p => p.1.rotateLeft p.2
  Keccak.build fun x y => Keccak.lane r (x + 3 * y) x

/-- χ: the one nonlinear step, along rows. -/
def Keccak.chi (a : Keccak) : Keccak :=
  Keccak.build fun x y => a.lane x y ^^^ (~~~(a.lane (x + 1) y) &&& a.lane (x + 2) y)

/-- The shift register of ι: x^8 + x^6 + x^5 + x^4 + 1, one step. -/
def iotaStep (r : Nat) : Nat := if 128 ≤ r then (2 * r % 256) ^^^ 0x71 else 2 * r

/-- The constant of a round from the register as the round finds it: its seven low bits go to bits 0, 1, 3, 7, 15, 31, 63. -/
def iotaWord : Nat → Nat → Nat → Nat
  | 0, _, _ => 0
  | n + 1, j, r => r % 2 * 2 ^ (2 ^ j - 1) + iotaWord n (j + 1) (iotaStep r)

/-- The constants of the rounds to come. -/
def iotaWords : Nat → Nat → List DWord
  | 0, _ => []
  | n + 1, r => BitVec.ofNat 64 (iotaWord 7 0 r) :: iotaWords n ((List.range 7).foldl (fun r _ => iotaStep r) r)

/-- The round constants of ι. -/
def keccakConstants : List DWord := iotaWords 24 1

/-- One round. -/
def Keccak.round (a : Keccak) (c : DWord) : Keccak :=
  match a.theta.rhoPi.chi with
  | [] => []
  | l :: ls => (l ^^^ c) :: ls

/-- The permutation of 24 rounds. -/
def Keccak.permute (a : Keccak) : Keccak := keccakConstants.foldl Keccak.round a

/-- Bytes to lanes, least significant byte first. -/
def lanesOf : List Byte → List DWord
  | b0 :: b1 :: b2 :: b3 :: b4 :: b5 :: b6 :: b7 :: bs => (b7 ++ b6 ++ b5 ++ b4 ++ b3 ++ b2 ++ b1 ++ b0) :: lanesOf bs
  | _ => []

/-- A lane's bytes. -/
def laneBytes (l : DWord) : List Byte := (List.range 8).map fun j => l.extractLsb' (8 * j) 8

/-- The padding of a message of n bytes to whole blocks of 136 bytes: 06 first, 80 last. -/
def sha3Padding (n : Nat) : List Byte :=
  let k := 136 - n % 136
  if k == 1 then [0x86] else 0x06 :: (List.replicate (k - 2) 0 ++ [0x80])

/-- Absorbs the lanes of whole blocks, 17 at a time; the fuel is the count of blocks. -/
def absorb : Nat → List DWord → Keccak → Keccak
  | 0, _, a => a
  | n + 1, ls, a => absorb n (ls.drop 17) (Keccak.permute (List.zipWith (· ^^^ ·) a (ls.take 17 ++ List.replicate 8 0)))

/-- SHA3-256. -/
def sha3 (bs : List Byte) : List Byte :=
  let a := absorb (bs.length / 136 + 1) (lanesOf (bs ++ sha3Padding bs.length)) (List.replicate 25 0)
  (a.take 4).flatMap laneBytes

end Sys2Proof.Machine
end

