-- ==== Sys2Proof/Machine/Queues.lean ====
section
/-!
DEFINITION. Hardware queues: enqueues and their checks (03 R30-R36), the journal (03 R43), dependence counters (03 R37,
15 R289, 21 R350), how a command completes, and spawn (03 R38).
-/
namespace Sys2Proof.Machine
open Sys2Proof

/-! ## Queues of a function (03 R30, R44) -/

/-- The physical queue of a function's local index. -/
def queueOf (s : State) (fn loc : Nat) : Option Nat :=
  (s.queues.find? fun p => p.2.qmapV && p.2.qmapTag == fn && p.2.qmapLocal == loc).map Prod.fst

/-- The queue count of a function. -/
def queueCount (s : State) (fn : Nat) : Nat := (s.queues.filter fun p => p.2.qmapV && p.2.qmapTag == fn).length

/-- The function's LOCAL values are exactly 0 to n - 1: FNSTAT.QERR is its negation. -/
def queuesInOrder (s : State) (fn : Nat) : Bool := (List.range (queueCount s fn)).all fun k => (queueOf s fn k).isSome

/-- The physical queue behind the register block of a local index: none at or above the queue count (03 R31). -/
def queueBlock (s : State) (fn loc : Nat) : Option Nat := if loc < queueCount s fn then queueOf s fn loc else none

/-! ## Commands as bytes (03 R33) -/

/-- The low n bytes of a number, little-endian. -/
def bytesOf (v : Nat) : Nat → List Byte
  | 0 => []
  | n + 1 => BitVec.ofNat 8 v :: bytesOf (v / 256) n

/-- The 64 bytes of a command as accepted. -/
def QCommand.bytes (c : QCommand) : List Byte :=
  bytesOf c.kind 1 ++ bytesOf 0 1 ++ bytesOf c.wait 2 ++ bytesOf c.done 2 ++ bytesOf c.label 1 ++ bytesOf 0 1
    ++ bytesOf c.address 8 ++ bytesOf c.w0.toNat 4 ++ bytesOf c.w1.toNat 4 ++ bytesOf 0 40

/-- A number of n bytes at an offset of a list of bytes. -/
def fieldAt (bs : List Byte) (off n : Nat) : Nat := natOfBytes ((bs.drop off).take n)

/-- The command of 64 bytes, and whether a reserved field is not zero. -/
def parseCommand (bs : List Byte) : QCommand × Bool :=
  let k := fieldAt bs 0 1
  let c : QCommand :=
    { kind := k % 16, wait := fieldAt bs 2 2, done := fieldAt bs 4 2, label := fieldAt bs 6 1 % 128,
      address := fieldAt bs 8 8, w0 := BitVec.ofNat 32 (fieldAt bs 16 4), w1 := BitVec.ofNat 32 (fieldAt bs 20 4) }
  let top := if k % 16 == 2 || k % 16 == 3 then fieldAt bs 21 3 else 0
  (c, k / 16 != 0 || bit (fieldAt bs 6 1) 7 || fieldAt bs 7 1 != 0 || top != 0
    || (bs.drop 24).any fun b => b != 0)

/-- A reserved kind, or a counter index at or above the quota (03 R35 step 4). -/
def QCommand.bad (c : QCommand) (quota : Nat) : Bool :=
  3 < c.kind || (c.wait != 0xFFFF && quota ≤ c.wait) || (c.done != 0xFFFF && quota ≤ c.done)
    || (2 ≤ c.kind && quota ≤ c.w0.toNat % 65536)

/-! ## Enqueue (03 R35, R36, R43) -/

/-- Slots of a ring. -/
def HwQueue.size (h : HwQueue) : Nat := 2 ^ (h.log2 + 4)

/-- The first code of R35 that refuses an enqueue to a physical queue, 0 where none does. -/
def refusal (s : State) (fn q : Nat) (c : QCommand) (reserved held : Bool) : Nat :=
  let h := s.queue q
  let f := s.fn fn
  if !queuesInOrder s fn then 0x16
  else if f.fkey == 0 then 0x06
  else if !h.en then 0x07
  else if reserved || c.bad f.ctrs then 0x05
  else if f.qslots ≤ f.used then 0x08
  else if held && h.size ≤ h.accepted.length then 0x09
  else 0

/-- A journal record enters the on-chip tail of 256 entries, whose oldest leaves (03 R43; log 68). The record has no field for the
load identity (log 117). -/
def Function.journal (f : Function) (c : QCommand) (src : CmdSource) (loc : Nat) (time : Word) : Function :=
  let r : JournalRec :=
    { seq := f.jseq, kind := c.kind, source := src, queue := loc, time := time,
      digest := (sha3 c.bytes).take 16, ring := f.jen }
  { f with jtail := lastN 256 (f.jtail ++ [r]), jseq := f.jseq + 1, used := f.used + 1 }

/-- An enqueue that passed its checks: a slot, a journal record, the command in its queue. -/
def State.acceptCommand (s : State) (fn q : Nat) (a : Accepted) : State :=
  let s := s.modFn fn fun f => f.journal a.cmd a.source (s.queue q).qmapLocal s.spineTime
  let s := { s with nextId := s.nextId + 1 }
  s.modQueue q fun h => { h with accepted := h.accepted ++ [{ a with id := s.nextId - 1, fn := fn }], takenAt := some s.spine }

/-! ## The order of one spine cycle (03 R36) -/

/-- A doorbell's command is still to be read. -/
def HwQueue.unread (h : HwQueue) : Bool := h.head != h.tail && !h.killBusy

/-- The spine cycle in which a beat of spawn that holds reached a local queue, if it names it. -/
def heldSpawn (key : Nat) (e : Elem) (loc : Nat) : Option Nat :=
  match e.issue with
  | none => none
  | some x =>
    if !x.held then none
    else match decodeWord x.word x.lit with
      | .ok (.spawn t d a b) => (formOf (.spawn t d a b)).bind fun f =>
          if bits ((readFields key x.slot x.heddle x.beat x.n f.fields e).val 0).toNat 0 12 == loc then some x.since else none
      | _ => none

/-- The places of enqueues in the order of a cycle: a doorbell, continuations by home slice, spawns by element address; those of
several bulkheads by bulkhead first (log 132, DESIGN CHOICE: 03 R36 orders those of one bulkhead). -/
def slicePlace (k : Nat) : Nat := 1 + k
def spawnPlace (key : Nat) : Nat := 1000 + key

/-- The enqueues that wait at a queue, as the spine cycle in which each reached it and its place in the order of that cycle:
the doorbell's, queue launches, and the beats of spawn that hold. -/
def enqueuesWaiting (s : State) (fn loc : Nat) (h : HwQueue) : List (Nat × Nat) :=
  (if h.unread then [(h.rungAt, 0)] else [])
    ++ (s.slices.flatMap fun p => (p.2.launches.filter fun l =>
        bit l.2.desc.toNat 31 && l.2.fn == fn && bits l.2.desc.toNat 0 12 == loc).map fun l => (l.2.since, slicePlace p.1))
    ++ s.elems.filterMap fun p => if loadFn s (bhOf p.1) == fn then (heldSpawn p.1 p.2 loc).map fun c => (c, spawnPlace p.1) else none

/-- An enqueue of function fn that reached its queue in a spine cycle, from a place, has to wait: that cycle is not over, the queue
has taken one in this cycle, or another comes before it. -/
def enqueueWaits (s : State) (fn loc place since : Nat) : Bool :=
  match queueOf s fn loc with
  | none => false
  | some q =>
    let h := s.queue q
    s.spineFrozen || decide (s.spine ≤ since) || h.takenAt == some s.spine
      || (enqueuesWaiting s fn loc h).any fun x => decide (x.1 < since) || x.1 == since && decide (x.2 < place)

/-- An enqueue by a fabric load (03 R35): the status, and the command accepted where it is OK. -/
def State.enqueue (s : State) (fn loc : Nat) (c : QCommand) (src : CmdSource) (owner : Nat) (covers : List Nat) :
    State × Nat :=
  match queueOf s fn loc with
  | none => (s, 0x16)
  | some q =>
    match refusal s fn q c false true with
    | 0 => (s.acceptCommand fn q { id := 0, cmd := c, source := src, owner := owner, covers := covers }, 0)
    | code => (s, code)

/-- The command that an operand of spawn or a continuation descriptor names (03 R38, 15 R275): a GRAPH of the queue's
graph table, or a TASK with its label and payload. -/
def queuedCommand (s : State) (fn loc : Nat) (graph : Bool) (field : Nat) (w0 w1 : Word) : QCommand :=
  if graph then
    let h := match queueOf s fn loc with
      | none => ({} : HwQueue)
      | some q => s.queue q
    { kind := 0, address := tget h.gtab (field % 16) 0 }
  else { kind := 1, label := field % 128, w0 := w0, w1 := w1 }

/-! ## spawn (03 R38) -/

/-- spawn's beat; it holds until the cycle in which it reached the queue is over, and while the queue's engine serves another
enqueue first (03 R36). -/
def spawnBody (d : Operand) : Body := fun s key r =>
  let a := (r.val 0).toNat
  let fn := loadFn s (bhOf key)
  let bad : Bool := bits a 20 12 != 0 || (bit a 12 && bits a 17 3 != 0)
  let since := match r.e.issue with
    | some x => if x.held then x.since else s.spine
    | none => s.spine
  if !bad && enqueueWaits s fn (bits a 0 12) (spawnPlace key) since then { s := s, e := r.e, stop := .hold }
  else
    let (s', status) :=
      if bad then (s, 0x05)
      else s.enqueue fn (bits a 0 12) (queuedCommand s fn (bits a 0 12) (bit a 12) (bits a 13 7) (r.val 1) 0) .spawn key
        r.e.performedStores
    { s := s', e := r.e.write (sparsePorts s key) d (BitVec.ofNat 32 status) (mkTag 0 r.exc) false }

/-- SPAWN (03 R38). -/
def execSpawn (t : Trig) (dst a b : Operand) (s : State) : Out := runBeat (.spawn t dst a b) t (spawnBody dst) s

/-! ## Dependence counters (03 R37, 15 R289) -/

/-- An ARRIVE on a counter. -/
def DepCounter.arrive (c : DepCounter) (fault : Bool) : DepCounter :=
  let c := if fault then { c with faults := min (c.faults + 1) 127 } else c
  if c.count == 0 then { c with underflow := true } else { c with count := c.count - 1 }

def State.arrive (s : State) (fn ctr : Nat) (fault : Bool) : State :=
  s.modFn fn fun f => { f with counters := tset f.counters ctr ((tget f.counters ctr {}).arrive fault) }

/-- SETCTR: the value, with UNDERFLOW, FAULTS and a parent-kill mark cleared (03 R37, 15 R289, 21 R350). -/
def State.setCounter (s : State) (fn ctr v : Nat) : State :=
  s.modFn fn fun f => { f with counters := tset f.counters ctr { count := v } }

def counterOf (s : State) (fn ctr : Nat) : DepCounter := tget (s.fn fn).counters ctr {}

/-- The join status word (15 R289). -/
def DepCounter.word (c : DepCounter) : Word :=
  BitVec.ofNat 32 (b2n c.underflow * 2 ^ 31 + c.faults % 128 * 2 ^ 24 + c.count % 2 ^ 24)

/-- The arrival that a child makes: none but the mark where the child was killed through KILL_PARENT at the graph level (21 R349,
R350). -/
def State.arriveOrMark (s : State) (fn ctr : Nat) (fault : Bool) (parentKill : Option Nat) : State :=
  match parentKill with
  | none => s.arrive fn ctr fault
  | some code =>
    s.modFn fn fun f => { f with counters := tset f.counters ctr { tget f.counters ctr {} with parentKill := some code } }

/-- The arrival of a node, if it names a counter below the quota. -/
def State.childArrives (s : State) (fn ctr : Nat) (fault : Bool) (parentKill : Option Nat) : State :=
  if (s.fn fn).ctrs ≤ ctr then s else s.arriveOrMark fn ctr fault parentKill

/-! ## Completion (03 R34, R37) -/

/-- Writes the status byte of a ring entry (03 R34); a fault of the write leaves it unwritten. -/
def State.writeStatus (s : State) (q entry status : Nat) : State :=
  let h := s.queue q
  (s.writeBytes (firstMember s h.qmapTag) h.qmapTag h.pasid (entry + 1) [BitVec.ofNat 8 status]).1

/-- A command whose status is known leaves its queue, releases its slot and arrives on its done counter, of the function that it
was accepted for; its index was below the counter quota then, and a quota lowered since applies to later enqueues (03 R44; log
118). -/
def State.completeCommand (s : State) (q : Nat) (a : Accepted) (status : Nat) (parentKill : Option Nat) : State :=
  let fn := a.fn
  let s := s.modQueue q fun h => { h with accepted := h.accepted.filter (·.id != a.id) }
  let s := s.modFn fn fun f => { f with used := f.used - 1 }
  let s := match a.entry with
    | some e => if status == 0 then s else s.writeStatus q e status
    | none => s
  if a.cmd.done == 0xFFFF then s else s.arriveOrMark fn a.cmd.done (a.faulted || status != 0) parentKill

/-- COMMAND_COMPLETE (03 R37): a command that has its status completes. -/
def execCommandComplete (queue id : Nat) (s : State) : Out :=
  match (s.queue queue).accepted.find? (·.id == id) with
  | none => .next s
  | some a =>
    match a.status with
    | none => .next s
    | some st => .next (s.completeCommand queue a st none)

end Sys2Proof.Machine
end

