-- ==== Sys2Proof/Machine/System.lean ====
section
/-!
DEFINITION. The system instructions and the special registers of an element (19 R334, R335, 06 R102, 15 R279, 17 R318,
09 R180, R191), and done (21 R345).
-/
namespace Sys2Proof.Machine
open Sys2Proof

/-- NOP (19 R334). -/
def execNop (t : Trig) (s : State) : Out := runBeat (.nop t) t (fun s _ r => { s := s, e := r.e }) s

/-- TRAP (19 R334): takes the exception TRAP with the code as its detail. -/
def execTrap (t : Trig) (code : BitVec 12) (s : State) : Out :=
  runBeat (.trap t code) t (fun s _ r => { s := s, e := r.e, stop := .fault 0x50 code.toNat 0 }) s

/-- BKPT (19 R334): with BKEN the element halts after the beat. -/
def execBkpt (t : Trig) (code : BitVec 12) (s : State) : Out :=
  runBeat (.bkpt t code) t (fun s _ r =>
    { s := s, e := if r.e.bken then { r.e with bkcode := code, bkhalt := true } else r.e }) s

/-! ## Special registers -/

/-- INBOX (06 R102). -/
def Elem.inboxReg (e : Elem) : Nat :=
  let mask (f : Nat → Bool) : Nat := (List.range 8).foldl (fun m j => if f j then m + 2 ^ j else m) 0
  mask e.pendingBit * 2 ^ 16 + mask e.visible * 2 ^ 8 + e.inbox.length % 16

/-- PGSTAT (17 R318). -/
def Elem.pgstat (e : Elem) : Nat :=
  e.sel % 4 * 2 ^ 30 + e.heldMask.toNat * 2 ^ 24 + e.stale.toNat * 2 ^ 20 + e.pgcause.toNat * 2 ^ 12
    + e.pgslot.toNat * 2 ^ 7 + e.pgpage.toNat

/-- DBGCTL (19 R335, 23 R358). -/
def Elem.dbgctl (e : Elem) : Nat := e.bkcode.toNat * 2 ^ 16 + b2n e.halted * 2 + b2n e.bken

/-- The value of a special register that does not lie in the hub; `none` where the index has no register for the kind of
element (19 R335). -/
def readSpecial (s : State) (key : Nat) (e : Elem) (x : Nat) : Option Word :=
  if x == 0x000 then some e.flt
  else if x == 0x001 then some e.fltaddr
  else if x == 0x008 then some (BitVec.ofNat 32 e.dbgctl)
  else if x == 0x040 then some (BitVec.ofNat 32 e.inboxReg)
  else if x == 0x041 then some (BitVec.ofNat 32 e.shdrop.toNat)
  else if x == 0x044 then some (BitVec.ofNat 32 e.astat.toNat)
  else if x == 0x045 then some e.aold
  else if x == 0x046 then some e.aohi
  else if 0x048 ≤ x && x ≤ 0x04B then if isEv key then some (e.pga.getD (x - 0x048) 0) else none
  else if x == 0x04C then if isEv key then some (BitVec.ofNat 32 e.pgstat) else none
  else if 0x062 ≤ x && x ≤ 0x07F then
    if isEv key && !isMgmt key then
      let r := (s.tile (servingTile key)).seg ((x - 0x060) / 2)
      some (if x % 2 == 0 then loWord r.toNat else hiWord r.toNat)
    else none
  else if 0x080 ≤ x && x ≤ 0x089 then some ((s.elemCount key).stall.getD (x - 0x080) 0)
  else if x == 0x08A then some (s.elemCount key).issue
  else if x == 0x08B then some (s.elemCount key).idle
  else none

/-- The writable bits of a segment register (09 R179). -/
def segMask : Nat := 0xF1FFFFFFFFFFFF1F

/-- A segment register with one half written under its access kinds (09 R179, R180). -/
def writeSegHalf (r : DWord) (high : Bool) (v : Word) : DWord :=
  let n := if high then v.toNat * 2 ^ 32 + r.toNat % 2 ^ 32 else r.toNat / 2 ^ 32 * 2 ^ 32 + v.toNat
  BitVec.ofNat 64 (n &&& segMask)

/-- Writes a special register that does not lie in the hub: RO fields are kept (19 R334, R335). -/
def writeSpecial (s : State) (key : Nat) (e : Elem) (x : Nat) (v : Word) : State × Elem :=
  if x == 0x008 then (s, { e with bken := bit v.toNat 0 })
  else if x == 0x041 then (s, { e with shdrop := BitVec.ofNat 16 v.toNat })
  else if 0x048 ≤ x && x ≤ 0x04B then (s, { e with pga := e.pga.set (x - 0x048) v })
  else if 0x062 ≤ x && x ≤ 0x07F then
    (s.modTile (servingTile key) fun t =>
      { t with segs := tset t.segs ((x - 0x060) / 2) (writeSegHalf (t.seg ((x - 0x060) / 2)) (x % 2 == 1) v) }, e)
  else (s, e)

/-- srd's beat (19 R334): a hub index goes through the issue queue and holds; an index with no register faults. -/
def srdBody (d : Operand) (x : Nat) : Body := fun s key r =>
  if isHubIndex x && !isMgmt key then
    requestBody s key r { kind := .hubRead x, dest := .operand d }
  else match readSpecial s key r.e x with
    | none => { s := s, e := r.e, stop := .fault 0x4F r.slot 0 }
    | some v => { s := s, e := r.e.write (sparsePorts s key) d v (mkTag 0 r.exc) false }

/-- swr's beat (19 R334). -/
def swrBody (x : Nat) : Body := fun s key r =>
  if isHubIndex x && !isMgmt key then requestBody s key r { kind := .hubWrite x (r.val 0) }
  else match readSpecial s key r.e x with
    | none => { s := s, e := r.e, stop := .fault 0x4F r.slot 0 }
    | some _ =>
      let (s, e) := writeSpecial s key r.e x (r.val 0)
      { s := s, e := e }

/-- SRD (19 R334, R335). -/
def execSrd (t : Trig) (dst : Operand) (index : BitVec 12) (s : State) : Out :=
  runBeat (.srd t dst index) t (srdBody dst index.toNat) s
/-- SWR (19 R334, R335). -/
def execSwr (t : Trig) (value : Operand) (index : BitVec 12) (s : State) : Out :=
  runBeat (.swr t value index) t (swrBody index.toNat) s

/-- DONE (21 R345): its code enters RETSTAT; after the last beat the element fires no more. -/
def execDone (t : Trig) (code : BitVec 12) (s : State) : Out :=
  runBeat (.done t code) t (fun s key r =>
    { s := s.modBh (bhOf key) fun b => { b with retCode := b.retCode ||| code },
      e := if r.beat + 1 == r.n then { r.e with done := true } else r.e }) s

end Sys2Proof.Machine
end

