-- ==== Sys2Proof/Machine/Beat.lean ====
section
/-!
DEFINITION. VECTOR_BEAT (06 R93): the next beat of an issue in progress, which runs the issue's own instruction again.
-/
namespace Sys2Proof.Machine
open Sys2Proof

/-- The meaning of an element instruction; nothing for a row that no slot holds. -/
def runElement (i : Instr) (s : State) : Out :=
  match i with
  | .addiS32 t dst a imm => execAddiS32 t dst a imm s
  | .addS32 t dst a b => execAddS32 t dst a b s
  | .addsS32 t dst a b => execAddsS32 t dst a b s
  | .subS32 t dst a b => execSubS32 t dst a b s
  | .subsS32 t dst a b => execSubsS32 t dst a b s
  | .negS32 t dst a => execNegS32 t dst a s
  | .absS32 t dst a => execAbsS32 t dst a s
  | .addS16 t dst a b => execAddS16 t dst a b s
  | .addsS16 t dst a b => execAddsS16 t dst a b s
  | .subS16 t dst a b => execSubS16 t dst a b s
  | .subsS16 t dst a b => execSubsS16 t dst a b s
  | .mulS32 t dst a b => execMulS32 t dst a b s
  | .mulhS32 t dst a b => execMulhS32 t dst a b s
  | .mulhN32 t dst a b => execMulhN32 t dst a b s
  | .macS32 t dst a b => execMacS32 t dst a b s
  | .mulS16 t dst a b => execMulS16 t dst a b s
  | .dotS8 t dst a b => execDotS8 t dst a b s
  | .dotN8 t dst a b => execDotN8 t dst a b s
  | .divS32 t dst a b => execDivS32 t dst a b s
  | .divN32 t dst a b => execDivN32 t dst a b s
  | .remS32 t dst a b => execRemS32 t dst a b s
  | .remN32 t dst a b => execRemN32 t dst a b s
  | .minS32 t dst a b => execMinS32 t dst a b s
  | .maxS32 t dst a b => execMaxS32 t dst a b s
  | .minN32 t dst a b => execMinN32 t dst a b s
  | .maxN32 t dst a b => execMaxN32 t dst a b s
  | .and t dst a b => execAnd t dst a b s
  | .or t dst a b => execOr t dst a b s
  | .xor t dst a b => execXor t dst a b s
  | .not t dst a => execNot t dst a s
  | .andi t dst a imm => execAndi t dst a imm s
  | .shl t dst a b => execShl t dst a b s
  | .shr t dst a b => execShr t dst a b s
  | .sar t dst a b => execSar t dst a b s
  | .shli t dst a imm => execShli t dst a imm s
  | .shri t dst a imm => execShri t dst a imm s
  | .sari t dst a imm => execSari t dst a imm s
  | .clz t dst a => execClz t dst a s
  | .ctz t dst a => execCtz t dst a s
  | .popc t dst a => execPopc t dst a s
  | .ldi t dst imm => execLdi t dst imm s
  | .ldhi t dst imm => execLdhi t dst imm s
  | .lit t dst lit => execLit t dst lit s
  | .ceqS32 t dst a b => execCeqS32 t dst a b s
  | .cneS32 t dst a b => execCneS32 t dst a b s
  | .cltS32 t dst a b => execCltS32 t dst a b s
  | .cleS32 t dst a b => execCleS32 t dst a b s
  | .cgtS32 t dst a b => execCgtS32 t dst a b s
  | .cgeS32 t dst a b => execCgeS32 t dst a b s
  | .cltN32 t dst a b => execCltN32 t dst a b s
  | .cleN32 t dst a b => execCleN32 t dst a b s
  | .cgtN32 t dst a b => execCgtN32 t dst a b s
  | .cgeN32 t dst a b => execCgeN32 t dst a b s
  | .ceqF32 t dst a b => execCeqF32 t dst a b s
  | .cneF32 t dst a b => execCneF32 t dst a b s
  | .cltF32 t dst a b => execCltF32 t dst a b s
  | .cleF32 t dst a b => execCleF32 t dst a b s
  | .cunF32 t dst a b => execCunF32 t dst a b s
  | .pand t dst a b => execPand t dst a b s
  | .por t dst a b => execPor t dst a b s
  | .pxor t dst a b => execPxor t dst a b s
  | .ceqF64 t dst a b => execCeqF64 t dst a b s
  | .cltF64 t dst a b => execCltF64 t dst a b s
  | .cleF64 t dst a b => execCleF64 t dst a b s
  | .cunF64 t dst a b => execCunF64 t dst a b s
  | .ctag t dst a imm => execCtag t dst a imm s
  | .mov t dst a => execMov t dst a s
  | .tagv t dst a b => execTagv t dst a b s
  | .selv t dst a imm => execSelv t dst a imm s
  | .drop t a => execDrop t a s
  | .selPn t n dst a b => execSelPn t n dst a b s
  | .send t payload label => execSend t payload label s
  | .sendr t label a b => execSendr t label a b s
  | .done t code => execDone t code s
  | .spawn t dst a b => execSpawn t dst a b s
  | .faddF32 t dst a b => execFaddF32 t dst a b s
  | .fsubF32 t dst a b => execFsubF32 t dst a b s
  | .fmulF32 t dst a b => execFmulF32 t dst a b s
  | .fmacF32 t dst a b => execFmacF32 t dst a b s
  | .fnmacF32 t dst a b => execFnmacF32 t dst a b s
  | .fminF32 t dst a b => execFminF32 t dst a b s
  | .fmaxF32 t dst a b => execFmaxF32 t dst a b s
  | .fabsF32 t dst a => execFabsF32 t dst a s
  | .fnegF32 t dst a => execFnegF32 t dst a s
  | .fcpsgnF32 t dst a b => execFcpsgnF32 t dst a b s
  | .frsqsF32 t dst a => execFrsqsF32 t dst a s
  | .frcpsF32 t dst a => execFrcpsF32 t dst a s
  | .fex2sF32 t dst a => execFex2sF32 t dst a s
  | .flg2sF32 t dst a => execFlg2sF32 t dst a s
  | .fclsF32 t dst a => execFclsF32 t dst a s
  | .frndF32 t dst a => execFrndF32 t dst a s
  | .faddH16 t dst a b => execFaddH16 t dst a b s
  | .fsubH16 t dst a b => execFsubH16 t dst a b s
  | .fmulH16 t dst a b => execFmulH16 t dst a b s
  | .fmacH16 t dst a b => execFmacH16 t dst a b s
  | .fminH16 t dst a b => execFminH16 t dst a b s
  | .fmaxH16 t dst a b => execFmaxH16 t dst a b s
  | .fdotH16 t dst a b => execFdotH16 t dst a b s
  | .fdmacH16 t dst a b => execFdmacH16 t dst a b s
  | .cvtF32S32 t dst a => execCvtF32S32 t dst a s
  | .cvtS32F32 t dst a => execCvtS32F32 t dst a s
  | .cvtF32N32 t dst a => execCvtF32N32 t dst a s
  | .cvtN32F32 t dst a => execCvtN32F32 t dst a s
  | .cvtH16F32 t dst a b => execCvtH16F32 t dst a b s
  | .cvtlF32H16 t dst a => execCvtlF32H16 t dst a s
  | .cvthF32H16 t dst a => execCvthF32H16 t dst a s
  | .cvtS8F32 t dst a => execCvtS8F32 t dst a s
  | .cvtMx8e4F32 t dst a b => execCvtMx8e4F32 t dst a b s
  | .cvtMx8e5F32 t dst a b => execCvtMx8e5F32 t dst a b s
  | .cvtF32Mx8e4 t dst a b => execCvtF32Mx8e4 t dst a b s
  | .cvtF32Mx8e5 t dst a b => execCvtF32Mx8e5 t dst a b s
  | .cvtWf8F32 t dst a b => execCvtWf8F32 t dst a b s
  | .cvtF32Wf8 t dst a b => execCvtF32Wf8 t dst a b s
  | .cvtWf5F32 t dst a b => execCvtWf5F32 t dst a b s
  | .cvtF32Wf5 t dst a b => execCvtF32Wf5 t dst a b s
  | .cvtWf3F32 t dst a b => execCvtWf3F32 t dst a b s
  | .cvtF32Wf3 t dst a b => execCvtF32Wf3 t dst a b s
  | .faddF64 t dst a b => execFaddF64 t dst a b s
  | .fsubF64 t dst a b => execFsubF64 t dst a b s
  | .fmulF64 t dst a b => execFmulF64 t dst a b s
  | .fmacF64 t dst a b => execFmacF64 t dst a b s
  | .fdivF64 t dst a b => execFdivF64 t dst a b s
  | .fsqrtF64 t dst a => execFsqrtF64 t dst a s
  | .fminF64 t dst a b => execFminF64 t dst a b s
  | .fmaxF64 t dst a b => execFmaxF64 t dst a b s
  | .cvtF64F32 t dst a => execCvtF64F32 t dst a s
  | .cvtF32F64 t dst a => execCvtF32F64 t dst a s
  | .cvtF64S32 t dst a => execCvtF64S32 t dst a s
  | .cvtS32F64 t dst a => execCvtS32F64 t dst a s
  | .fabsF64 t dst a => execFabsF64 t dst a s
  | .fnegF64 t dst a => execFnegF64 t dst a s
  | .ldN32 t dst a wave => execLdN32 t dst a wave s
  | .ldS16 t dst a wave => execLdS16 t dst a wave s
  | .ldN16 t dst a wave => execLdN16 t dst a wave s
  | .ldS8 t dst a wave => execLdS8 t dst a wave s
  | .ldN8 t dst a wave => execLdN8 t dst a wave s
  | .stN32 t data a wave => execStN32 t data a wave s
  | .stN16 t data a wave => execStN16 t data a wave s
  | .stN8 t data a wave => execStN8 t data a wave s
  | .pf t a wave => execPf t a wave s
  | .gstN32 t data a wave => execGstN32 t data a wave s
  | .gstN16 t data a wave => execGstN16 t data a wave s
  | .gstN8 t data a wave => execGstN8 t data a wave s
  | .ldN64 t dst a wave => execLdN64 t dst a wave s
  | .stN64 t data a wave => execStN64 t data a wave s
  | .amo t dst a b lit => execAmo t dst a b lit s
  | .amoc t dst a b lit => execAmoc t dst a b lit s
  | .sems t dst a b => execSems t dst a b s
  | .semw t dst a b => execSemw t dst a b s
  | .arrive t dst a b => execArrive t dst a b s
  | .fencel t dst a b => execFencel t dst a b s
  | .fenceh t dst a b => execFenceh t dst a b s
  | .fence t lit => execFence t lit s
  | .ifence t => execIfence t s
  | .mcmd t target a b => execMcmd t target a b s
  | .scmd t target a b => execScmd t target a b s
  | .qcmd t target a b => execQcmd t target a b s
  | .ask t dst a b => execAsk t dst a b s
  | .answer t a b => execAnswer t a b s
  | .setpg t page => execSetpg t page s
  | .nop t => execNop t s
  | .trap t code => execTrap t code s
  | .bkpt t code => execBkpt t code s
  | .srd t dst index => execSrd t dst index s
  | .swr t value index => execSwr t value index s
  | _ => .next s

/-- VECTOR_BEAT (06 R93-R95): the issue in progress of an element advances one beat, if it may. -/
def execVectorBeat (elem : Nat) (s : State) : Out :=
  match (s.elem? elem).bind Elem.issue with
  | none => .next s
  | some x =>
    match decodeWord x.word x.lit with
    | .error _ => .next s
    | .ok i => runElement i { s with focus := .elem elem x.slot x.word x.lit }

end Sys2Proof.Machine
end

