-- ==== Sys2Proof/Machine/Scratch.lean ====
section
/-!
DEFINITION. Scratchpads with their guard granules and poison (09 R181, R182, 19 R331), and watchpoints (23 R361).
-/
namespace Sys2Proof.Machine
open Sys2Proof

/-- The kinds of requester that a guard record keeps (09 R182): the model's numbers. -/
def kindElement : Nat := 0
def kindStream : Nat := 1
def kindIsland : Nat := 2
def kindStreamer : Nat := 3

/-- [a, a + n) and [b, b + m) meet. -/
def overlap (a n b m : Nat) : Bool := decide (a < b + m) && decide (b < a + n)

/-- An access touches a guard granule of a tile (09 R182). -/
def Tile.guarded (t : Tile) (off n : Nat) : Bool :=
  t.guards.any fun g => (decide (64 ≤ g.2.1) && overlap off n (g.2.1 - 64) 64) || overlap off n (g.2.1 + g.2.2) 64

/-- The touch of a guard granule is recorded: the first one, and a count of later ones, saturating at 255. -/
def Tile.touchGuard (t : Tile) (off kind : Nat) : Tile :=
  match t.guardRec with
  | none => { t with guardRec := some { bank := off / 64 % 48, offset := off, kind := kind } }
  | some r => { t with guardRec := some { r with later := min 255 (r.later + 1) } }

/-- What a guard record gives the detail of its fault: bank, kind of requester, later touches (log 114). -/
def GuardRec.detail (g : GuardRec) : Nat := g.bank + g.kind * 2 ^ 8 + g.later * 2 ^ 16

/-- A recorded guard touch is raised as GUARD_FAULT with its record, imprecise, and cleared (09 R182). -/
def State.raiseGuard (s : State) (k : Nat) : State :=
  match (s.tile k).guardRec with
  | none => s
  | some g =>
    (s.modTile k fun t => { t with guardRec := none }).raiseEngine (k / 64) (k % 64) .tile 0x46 g.detail g.offset true

/-- The granules that [off, off + n) lies in are poisoned somewhere. -/
def Tile.poisoned (t : Tile) (off n : Nat) : Bool := t.poison.any fun g => off / 64 ≤ g && g ≤ (off + n - 1) / 64

/-- The soft errors of granules of a scratchpad that an access reads are met (19 R330): corrected and counted, or counted with
the granule marked. -/
def State.meetScratch (s : State) (k : Nat) (gs : List Nat) : State :=
  let t := s.tile k
  let c := t.softC.filter gs.contains
  let u := t.softU.filter gs.contains
  if c.isEmpty && u.isEmpty then s
  else
    (s.setTile k { t with softC := t.softC.filter fun g => !gs.contains g, softU := t.softU.filter fun g => !gs.contains g,
                          poison := u.foldl (fun p g => insertNat g p) t.poison }).modBh (k / 64) fun b =>
      { b with cecnt := b.cecnt + BitVec.ofNat 32 c.length, uecnt := b.uecnt + BitVec.ofNat 32 u.length }

/-- Reads n bytes of a scratchpad: the value and its poison; a touch of a guard granule reads 0 (09 R182). -/
def State.scratchRead (s : State) (k off n kind : Nat) : State × Nat × Bool :=
  if (s.tile k).guarded off n then (s.modTile k (·.touchGuard off kind), 0, false)
  else
    let s := s.meetScratch k (granulesOf off n)
    (s, (s.tile k).scratch.read off n, (s.tile k).poisoned off n)

/-- Writes n bytes of a scratchpad; a touch of a guard granule discards the write. A write clears the mark of a granule that
it, or the access it is a piece of (`whole`), covers; one that carries a mark sets it (19 R331). -/
def State.scratchWrite (s : State) (k off v n kind : Nat) (poison : Bool) (whole : Bool := false) : State :=
  if (s.tile k).guarded off n then s.modTile k (·.touchGuard off kind)
  else
    let covers (g : Nat) : Bool := coversGranule off n g || (whole && g == off / 64)
    let s := s.meetScratch k ((granulesOf off n).filter fun g => !covers g)
    let t := s.tile k
    let marks := t.poison.filter fun g => !covers g
    let marks := if poison then insertNat (off / 64) marks else marks
    s.setTile k { t with scratch := t.scratch.write off v n, poison := marks,
                         softC := t.softC.filter fun g => !covers g, softU := t.softU.filter fun g => !covers g }

/-! ## Watchpoints (23 R361) -/

/-- An access of a memory tile, as a watchpoint sees it: scratchpad or virtual, where, how long, what it does, its
address word, and the element with its slot and wave number if one made it. -/
structure Watched where
  virtual_ : Bool
  addr : Nat
  size : Nat
  rd : Bool
  wr : Bool
  word : Word
  elem : Option (Nat × Nat × Nat) := none

/-- A watchpoint matches an access. -/
def Watchpoint.hits (w : Watchpoint) (a : Watched) : Bool :=
  let acc := bits w.ctl.toNat 29 2
  let l := bits w.ctl.toNat 0 5
  let l := if l < 2 then 2 else if 30 < l then 30 else l
  let va := a.addr % 2 ^ 57
  bit w.ctl.toNat 31 && bit w.ctl.toNat 28 == a.virtual_ && ((bit acc 0 && a.rd) || (bit acc 1 && a.wr))
    && overlap va a.size (w.addr / 2 ^ l * 2 ^ l) (2 ^ l)

/-- One watchpoint of a tile tested against an access; the element that made it halts at the end of the cycle. -/
def State.watchOne (s : State) (k : Nat) (a : Watched) (n : Nat) : State :=
  let t := s.tile k
  let w := tget t.watch n {}
  if !w.hits a then s
  else
    let s := s.setTile k { t with watch := tset t.watch n { w with count := w.count + 1 } }
    let s := if bit w.ctl.toNat 26 then s.trace (k / 64) 6 n (k % 64) a.word 0 else s
    match a.elem with
    | some (key, slot, wave) =>
      if bit w.ctl.toNat 27 then
        s.modElem key fun e => { e with haltNext := some (e.haltNext.getD (slot, a.word, wave)) }
      else s
    | none => s

/-- Tests the four watchpoints of a memory tile when it performs a request; an evaluator tile has none. -/
def State.watch (s : State) (k : Nat) (a : Watched) : State :=
  if 32 ≤ k % 64 then s else (List.range 4).foldl (fun s n => s.watchOne k a n) s

end Sys2Proof.Machine
end

