-- ==== Sys2Proof/Machine/Work.lean ====
section
/-!
DEFINITION. Accesses of engines (14 R246-R248): a step of a stream, a sequencer, an island or a page fetch makes its accesses one
after another, each as naturally aligned pieces of 8 bytes in a free order; a piece of a scratchpad is read or written at its
bank (09 R181), one of device memory goes through the arrival queue of its home slice and holds a miss-tracking entry
(09 R189). The step is tried again with each answer, and takes effect once it asks for no further access (log 12).
-/
namespace Sys2Proof.Machine
open Sys2Proof

/-! ## What a step asks for -/

/-- The next access of the step that runs: its answer, or it is what the step asks for. -/
def State.access (s : State) (a : Access) : State × Answer :=
  match s.asking with
  | some (x :: xs, none) => ({ s with asking := some (xs, none) }, x)
  | some ([], none) => ({ s with asking := some ([], some a) }, {})
  | _ => (s, {})

/-- The access that a step which has run asks for. -/
def State.asked (s : State) : Option Access := s.asking.bind Prod.snd

/-! ## Miss tracking (09 R189) -/

def Work.engineKey (w : Work) : Nat := 64 * w.bh + w.engine

/-- The 256-byte lines of device memory that an engine's accesses hold entries for. -/
def engineLines (s : State) (k : Nat) : List Nat :=
  (s.works.filterMap fun p => if p.2.engineKey == k then p.2.line else none).eraseDups

/-- The miss-tracking entries of a tile that are held: by requests of its elements, and by lines of its streams. -/
def missCount (s : State) (tile : Nat) : Nat :=
  (s.elems.map fun p => if servingTile p.1 == tile then (p.2.pending.filter Pending.miss).length else 0).sum
    + (engineLines s (tileEngine tile)).length

/-- An entry of a memory tile is free; an evaluator tile has no such limit. -/
def missFree (s : State) (tile : Nat) : Bool := decide (32 ≤ tile % 64) || decide (missCount s tile < 64)

/-- An access of an engine to a line finds an entry: one that the line shares, or a free one of its tile or streamer. -/
def lineFree (s : State) (k line : Nat) : Bool :=
  (engineLines s k).contains line || if k % 64 < 32 then missFree s k else 38 ≤ k % 64 || decide ((engineLines s k).length < 64)

/-! ## Banks (09 R181) -/

def bankOf (off : Nat) : Nat := off / 64 % 48

/-- A bank of a tile accepts a line access in this cycle. -/
def bankFree (s : State) (tile off : Nat) : Bool := decide (tget (s.tile tile).banks (bankOf off) 0 ≤ s.cycle)

/-- A bank has accepted a line access: none in the next two cycles. -/
def State.takeBank (s : State) (tile off : Nat) : State :=
  s.modTile tile fun t => { t with banks := tset t.banks (bankOf off) (s.cycle + 3) }

/-- The places of engines in the order of a bank: ring reads, pushes, elements, streams; the accesses that the order does not
name come with the elements (log 115). -/
def rankRing : Nat := 1
def rankPush : Nat := 2
def rankElement : Nat := 3
def rankStream (st : Nat) : Nat := 4 + st
/-- The rank of the work of a prefetch, which nothing waits for. -/
def rankPrefetch : Nat := 99

/-- Every bank of a tile is taken: the context engine, which comes first, reads or writes the whole scratchpad (09 R181). -/
def State.takeBanks (s : State) (tile : Nat) : State :=
  s.modTile tile fun t => { t with banks := (List.range 48).map fun n => (n, s.cycle + 3) }

/-- The first piece left of a scratchpad access needs the acceptance of a bank of a tile. -/
def Work.wants (w : Work) (tile bank : Nat) : Bool :=
  match w.now.map Access.place, w.left with
  | some (.scratch k off), p :: _ => k == tile && bankOf (off + p) == bank && !w.accepted.contains ((off + p) / 64)
  | _, _ => false

/-- A request may be performed now (10 R199). -/
def performable (t : Tile) (i : Nat) (r : Req) : Bool :=
  let a := addrOf r.elem
  let first := !(t.wrb.take i).any fun q => q.elem == r.elem && q.wave == r.wave
  let l := tget t.waveL a 65
  match tget? t.waves (64 * a + r.wave) with
  | none => false
  | some w =>
    first && ((w.pred != 64 && w.pred == l)
      || (l != 65 && match tget? t.waves (64 * a + l) with
          | none => false
          | some x => x.succ != 64 && x.succ == r.wave))

/-- An element's load of segment 0 that may be performed wants its bank, or the store that drains next does. -/
def elementWants (t : Tile) (bank : Nat) : Bool :=
  (t.wrb.zipIdx.any fun p => bits p.1.addr.toNat 28 4 == 0 && bankOf p.1.va == bank && (match p.1.kind with
      | .load .. => true
      | _ => false) && performable t p.2 p.1)
    || match t.sbuf with
      | [] => false
      | x :: _ => x.scratch && bankOf x.addr == bank

/-- An access that comes before rank `rank` waits for a bank: one of an engine, or of an element (09 R181). -/
def bankWanted (s : State) (tile bank rank : Nat) : Bool :=
  (s.works.any fun p => decide (p.2.rank < rank) && p.2.wants tile bank)
    || decide (rankElement < rank) && elementWants (s.tile tile) bank

/-! ## Arrival queues (14 R246, R250) -/

/-- What a point of coherence keeps the order of: the memory or evaluator tile, streamer, island or sequencer that a request
comes from (14 R250). -/
def Source.line : Source → Nat × Nat
  | .elem key => (0, servingTile key)
  | .engine b n => if n < 38 then (1, 64 * b + n) else (0, 64 * b + 32 + (n - 38))
  | .remote .. => (2, 0)

/-- The places of a queue up to the last request of a source. -/
def placesBehind (x : Nat × Nat) : List HomeReq → Nat
  | [] => 0
  | r :: l =>
    let n := placesBehind x l
    if n != 0 || r.src.line == x then n + 1 else 0

/-- Requests of one source arrive at a home slice: behind the earlier ones of their source, and at a free place among those of
others, which they may have overtaken on their way (14 R250; log 5). -/
def State.sendHome (s : State) (k : Nat) (rs : List HomeReq) : State :=
  match rs with
  | [] => s
  | r :: _ =>
    let l := (s.slice k).arrivals
    let lo := placesBehind r.src.line l
    if lo == l.length then s.modSlice k fun x => { x with arrivals := x.arrivals ++ rs }
    else
      let (w, s) := s.takeFree
      let i := lo + w.toNat % (l.length - lo + 1)
      s.modSlice k fun x => { x with arrivals := x.arrivals.take i ++ rs ++ x.arrivals.drop i }

/-- The arrival queue of a slice is full (09 R190 cause 4): its size is open (log 130). -/
def sliceFull (s : State) (k : Nat) : Bool := decide (Config.arrivalDepth < (s.slice k).arrivals.length)

/-! ## Pieces (14 R247) -/

/-- The offsets of the pieces of an access: each ends where an 8-byte boundary or the access ends. -/
def pieceOffsets (addr size : Nat) : Nat → Nat → List Nat
  | 0, _ => []
  | fuel + 1, off => if size ≤ off then [] else off :: pieceOffsets addr size fuel (off + (8 - (addr + off) % 8))

/-- The bytes of the piece at an offset. -/
def pieceSize (addr size off : Nat) : Nat := min (8 - (addr + off) % 8) (size - off)

/-- A list in a free order (log 5). -/
def State.shuffle {α : Type} (s : State) : Nat → List α → State × List α
  | 0, l => (s, l)
  | fuel + 1, l =>
    match l with
    | [] => (s, [])
    | _ =>
      let (n, s) := s.takeFree
      let i := n.toNat % l.length
      match l[i]? with
      | none => (s, l)
      | some x =>
        let (s, rest) := s.shuffle fuel (removeAt l i)
        (s, x :: rest)

/-- The access under way is answered. -/
def Work.answer (w : Work) (x : Answer) : Work :=
  { w with answers := w.answers ++ [x], now := none, line := none, accepted := [], left := [], got := {}, waits := 0, port := none }

def State.setWork (s : State) (key : Nat) (w : Work) : State := { s with works := tset s.works key w }

/-- A piece has been applied: what it gave, and the end of the access after the last one. -/
def Work.applied (w : Work) (off : Nat) (x : Answer) : Work :=
  let g : Answer := { value := w.got.value + x.value * 2 ^ (8 * off), poison := w.got.poison || x.poison,
                      status := if w.got.status == 0 then x.status else w.got.status }
  let left := w.left.filter (· != off)
  if left.isEmpty then w.answer (if g.status == 0 then g else { status := g.status }) else { w with left := left, got := g }

/-- The watchpoints of a memory tile see the accesses of its sequencer (23 R361): those of device memory, and those of a
scratchpad at the tile that the scratchpad lies in. -/
def State.watchAccess (s : State) (w : Work) (a : Access) : State :=
  if 32 ≤ w.engine then s
  else
    let (virtual_, k) := match a.place with
      | .scratch t _ => (false, t)
      | _ => (true, w.engineKey)
    s.watch k
      { virtual_ := virtual_, addr := a.seen, size := a.size, rd := a.need != .write, wr := a.need == .write, word := a.word }

/-! ## Scratchpads -/

/-- One piece of a scratchpad access, once its bank accepts its line. -/
def State.scratchPiece (s : State) (key : Nat) (w : Work) (a : Access) (tile off : Nat) : State :=
  match w.left with
  | [] => s.setWork key (w.answer {})
  | p :: _ =>
    let line := (off + p) / 64
    let go : Bool := w.accepted.contains line ||
      (bankFree s tile (off + p) && !bankWanted s tile (bankOf (off + p)) w.rank)
    if !go then s.setWork key { w with waits := 5 }
    else
      let s := if w.accepted.contains line then s else s.takeBank tile (off + p)
      let w := { w with accepted := insertNat line w.accepted, waits := 0 }
      let n := pieceSize off a.size p
      if a.need == .write then
        let s := s.scratchWrite tile (off + p) (a.value / 2 ^ (8 * p)) n a.kind a.mark (coversGranule off a.size ((off + p) / 64))
        s.setWork key (w.applied p {})
      else
        let (s, v, bad) := s.scratchRead tile (off + p) n a.kind
        s.setWork key (w.applied p { value := v, poison := bad })

/-- A scratchpad access begins; one that touches a guard granule is not performed (09 R182). -/
def State.scratchStart (s : State) (key : Nat) (w : Work) (a : Access) (tile off : Nat) : State :=
  let s := s.watchAccess w a
  if (s.tile tile).guarded off a.size then (s.modTile tile (·.touchGuard off a.kind)).setWork key (w.answer {})
  else
    let (s, ps) := s.shuffle a.size (pieceOffsets off a.size a.size 0)
    s.scratchPiece key { w with now := some a, left := ps } a tile off

/-! ## Device memory -/

/-- The first-level TLB of an engine. -/
def Work.tlb (w : Work) : TlbOf :=
  if w.engine < 32 then .tile w.engineKey
  else if w.engine < 38 then .streamer (2 * w.bh + (w.engine - 36))
  else .tile (64 * w.bh + 32 + (w.engine - 38))

/-- The ready UALink ports. -/
def readyPorts (s : State) : List Nat := (List.range 16).filter fun p => bit s.ualrdy.toNat p

/-- The port that a request to another device leaves on: traffic spreads over the ready ports in a free way (24 R369; log 5);
none where no port is ready, and the request waits. -/
def State.takePort (s : State) : State × Option Nat :=
  let l := readyPorts s
  let (w, s) := s.takeFree
  (s, l[w.toNat % l.length]?)

/-- Where an access at a rank goes (10 R214, 04 R61): a home of this device, for which the routers, the bulkhead's gate, the
entry's key and the translation of its holder decide; or another device, with the gazetteer's entry. A scratchpad address names
nothing at a home slice (log 134). -/
def State.rankTarget (s : State) (bh rank a : Nat) : State × (Target ⊕ Gazette) :=
  let fn := loadFn s bh
  match gazette s fn rank with
  | none => (s, .inl (.status 0x0E))
  | some g =>
    if (s.fn fn).fkey == 0 then (s, .inl (.status 0x0D))
    else if g.device != Config.deviceNumber then (s, .inr g)
    else if gated s g.bh then (s, .inl (.status 0x0C))
    else match s.sendKey bh fn g.bh g.key true with
      | (s, 0) =>
        if bit a 63 then (s, .inl (.status 0x43))
        else
        let f := (holder s g.bh).getD 0
        match s.translate .none g.bh f (loadPasid s g.bh) a .read with
        | (s, .error c) => (s, .inl (.status c))
        | (s, .ok pa) =>
          let (s, r) := s.reach g.bh f pa
          (s, .inl (.of none r))
      | (s, c) => (s, .inl (.status c))

/-- A read at another device leaves on a ready port, with the key of its entry (04 R61, 24 R369). -/
def State.sendRead (s : State) (key : Nat) (w : Work) (a : Access) (rank va : Nat) (g : Gazette) : State :=
  match s.takePort with
  | (s, none) => s.setWork key w
  | (s, some p) =>
    let q : SentReq := { path := 0, rank := rank, va := va, key := g.key, fn := loadFn s w.bh, size := a.size }
    ({ s with sent := s.sent ++ [q] } : State).setWork key { w with now := some a, port := some p }

/-- The reply of another device to a read comes, or does not yet; when, its status and the value are free (log 5). -/
def State.awaitRead (s : State) (key : Nat) (w : Work) (a : Access) : State :=
  let (c, s) := s.takeFree
  if !bit c.toNat 0 then s
  else
    let (v, s) := s.takeFree
    let (x, s) := s.takeFree
    let status := [0, 0x04, 0x0C, 0x0D, 0x40, 0x41, 0x42, 0x43].getD (bits c.toNat 1 3) 0
    s.setWork key (w.answer
      (if status == 0 then { value := (v.toNat + 2 ^ 32 * x.toNat) % 2 ^ (8 * a.size) } else { status := status }))

/-- Where an access of an engine goes. -/
def State.placeTarget (s : State) (w : Work) (a : Access) : State × (Target ⊕ Gazette) :=
  match a.place with
  | .scratch _ _ => (s, .inl (.status 0))
  | .rank r va => s.rankTarget w.bh r va
  | .phys pa => (s, .inl (match homeOf s pa with
      | none => .status 0x43
      | some h => if cxlUp s h then .home h none else .status 0x0F))
  | .va va =>
    let (s, t) := s.resolve w.tlb w.bh (loadFn s w.bh) (loadPasid s w.bh) va a.need
    (s, .inl t)

/-- The requests of the pieces of an access, for the arrival queue of its home. -/
def pieceReqs (w : Work) (a : Access) (h : Home) (via : Option Nat) (fn : Nat) : List Nat → Bool → List HomeReq
  | [], _ => []
  | p :: ps, first =>
    let n := pieceSize h.pa a.size p
    { src := .engine w.bh w.engine, id := w.serial, pa := h.pa + p,
      op := if a.need == .write then .write n (a.value / 2 ^ (8 * p)) else .read n false 0 0,
      cls := a.cls, reads := a.reads, word := a.word, via := via, fn := fn, piece := p, counts := first,
      whole := coversGranule h.pa a.size ((h.pa + p) / 64), mark := a.mark } :: pieceReqs w a h via fn ps false

/-- An access of device memory begins: it needs a cached translation or a free walker (09 R173), a miss-tracking entry and room
in the arrival queue of its home, for which it leaves; a code that it meets answers it. No mark crosses a window (04 R64). -/
def State.deviceStart (s : State) (key : Nat) (w : Work) (a : Access) : State :=
  let walks : Bool := match a.place with
    | .va va => noWalker s w.tlb w.bh va
    | .rank r va => (gazette s (loadFn s w.bh) r).any fun g =>
        g.device == Config.deviceNumber && !cached s .none g.bh ((holder s g.bh).getD 0) (loadPasid s g.bh) va && !walkerFree s g.bh
    | _ => false
  if walks then s.setWork key { w with waits := 2 }
  else match s.placeTarget w a with
    | (s, .inr g) => match a.place with
      | .rank r va => s.sendRead key w a r va g
      | _ => s.setWork key (w.answer {})
    | (s, .inl (.status c)) => (s.watchAccess w a).setWork key (w.answer { status := c })
    | (s, .inl (.home h via)) =>
      if via.isSome && a.mark then (s.watchAccess w a).setWork key (w.answer { status := 0x04 })
      else if !lineFree s w.engineKey (h.pa / 256) then s.setWork key { w with waits := 3 }
      else if sliceFull s h.key then s.setWork key { w with waits := 4 }
      else
        let s := s.watchAccess w a
        let (s, ps) := s.shuffle a.size (pieceOffsets h.pa a.size a.size 0)
        let w := { w with now := some a, left := ps, line := some (h.pa / 256), waits := 0 }
        let rs := pieceReqs w a h via (loadFn s w.bh) ps true
        (s.setWork key w).sendHome h.key rs

/-! ## Trying a step -/

/-- The step's next access moves on: a piece of a scratchpad, or the start of an access. -/
def State.progress (s : State) (key : Nat) (w : Work) (a : Access) : State :=
  match w.now with
  | some b => match b.place with
    | .scratch t off => s.scratchPiece key w b t off
    | .rank .. => if w.port.isSome then s.awaitRead key w b else s.setWork key w
    | _ => s.setWork key w
  | none => match a.place with
    | .scratch t off => s.scratchStart key w a t off
    | _ => s.deviceStart key w a

/-- The work of a step that has not begun. -/
def State.newWork (s : State) (bh engine rank : Nat) : Work := { serial := s.nextId, bh := bh, engine := engine, rank := rank }

/-- One attempt of a step of an engine: it is run against the answers that its accesses have had. If it asks for one more,
nothing happens but that access; if it does not, it takes effect. -/
def State.attempt {α : Type} (s : State) (key bh engine rank : Nat) (body : State → State × α) : State × Option α :=
  let w := (tget? s.works key).getD (s.newWork bh engine rank)
  let (t, x) := body { s with asking := some (w.answers, none) }
  match t.asked with
  | some a => ({ s with nextId := s.nextId + 1 }.progress key w a, none)
  | none => ({ t with asking := none, works := tdel t.works key }, some x)

/-- The numbers of works: islands, streamer runs, sequencers, streams with a line, feeders, page fetches. -/
def islandWork (k : Nat) : Nat := k * 8
def streamerWork (k n : Nat) : Nat := (k * 64 + n) * 8 + 1
def sequencerWork (k : Nat) : Nat := k * 8 + 2
def lineWork (k st j : Nat) : Nat := ((k * 8 + st) * 8192 + j) * 8 + 3
def moveWork (k st : Nat) : Nat := (k * 8 + st) * 8 + 4
def pageWork (key : Nat) : Nat := key * 8 + 5

def prefetchWork (k st : Nat) : Nat := (k * 8 + st) * 8 + 6

/-- An access of an engine is under way, or a semaphore operation of it has not been applied. -/
def engineBusy (s : State) (k : Nat) : Bool :=
  (s.works.any fun p => p.2.engineKey == k && p.2.now.isSome)
    || s.slices.any fun p => p.2.arrivals.any fun r => r.src == .engine (k / 64) (k % 64)

/-- A work has begun and its step has not taken effect. -/
def workBegun (s : State) (key : Nat) : Bool := (tget? s.works key).isSome

/-- The lines of a stream that are being read or written are given up, as its run ends. -/
def State.dropStream (s : State) (k st : Nat) : State :=
  { s with works := s.works.filter fun p =>
      p.1 != moveWork k st && !(p.1 % 8 == 3 && p.1 / 8 / 8192 == k * 8 + st) }

/-- The works of an engine end, unfinished. -/
def State.dropEngine (s : State) (k : Nat) : State := { s with works := s.works.filter fun p => p.2.engineKey != k }

/-- The works of a bulkhead end, unfinished. -/
def State.dropWorks (s : State) (bh : Nat) : State := { s with works := s.works.filter fun p => p.2.bh != bh }

/-- A piece of an access of device memory is answered; a prefetch ends with its answer. -/
def State.takePiece (s : State) (serial piece : Nat) (x : Answer) : State :=
  let ws := tmap s.works fun _ w => if w.serial == serial && w.now.isSome then w.applied piece x else w
  { s with works := ws.filter fun p => p.2.rank != rankPrefetch || p.2.now.isSome }

end Sys2Proof.Machine
end

