-- ==== Sys2Proof/Machine/Home.lean ====
section
/-!
DEFINITION. Home slices: how atomics, semaphores, launches and withdrawals are applied (15 R267-R278, R284-R288).
-/
namespace Sys2Proof.Machine
open Sys2Proof

/-! ## Replies and the launch log -/

/-- The element a source names, in a launch-log record (15 R278). -/
def elemAddr : Source → BitVec 16
  | .elem key => BitVec.ofNat 16 (addrOf key)
  | .engine _ _ => 0xFFFF
  | .remote elem _ _ _ => BitVec.ofNat 16 (addrOf elem)

/-- A reply leaves for an element. -/
def State.reply (s : State) (r : Reply) : State :=
  s.modBh (bhOf r.elem) fun b => { b with replies := b.replies ++ [r] }

/-- The reply of a remote atomic of this device is kept for its record (15 R281). -/
def State.remoteReply (s : State) (fn ticket status old : Nat) : State :=
  s.modFn fn fun f =>
    { f with remote := f.remote.map fun r =>
        if r.ticket == ticket && r.reply.isNone then { r with reply := some (status, old) } else r }

/-- A remote atomic of a function has left its element, on a port where it goes to another device. -/
def State.remoteSent (s : State) (fn ticket : Nat) (port : Option Nat) : State :=
  s.modFn fn fun f =>
    { f with remote := f.remote.map fun r => if r.ticket == ticket then { r with sent := true, port := port } else r }

/-- Remote atomics that elements discard unsent are no longer in flight (15 R281, 19 R324). -/
def State.dropUnsent (s : State) (p : Nat → Bool) : State :=
  { s with fns := tmap s.fns fun _ f => { f with remote := f.remote.filter fun r => r.sent || !p r.elem } }

/-- A request is answered by its home slice: status, value, flags. -/
def State.answerSource (s : State) (k : Nat) (src : Source) (id status value : Nat) (flags : Flags) (atomic : Bool)
    (word : Word) : State :=
  match src with
  | .elem key =>
    s.reply { elem := key, id := id, status := status, value := value, flags := flags, atomic := atomic, addr := word,
              point := some k }
  | .engine _ _ => s
  | .remote _ (some d) ticket _ =>
    { s with replied := s.replied ++ [{ device := d, ticket := ticket, status := status, old := if status == 0 then value else 0 }] }
  | .remote _ none ticket fn => s.remoteReply fn ticket status (if status == 0 then value else 0)

/-- A remote atomic is answered (15 R280). -/
def State.answerAtomic (s : State) (a : RemoteAtomic) (status old : Nat) : State :=
  s.answerSource 0 (.remote a.elem a.peer a.ticket a.srcFn) 0 status old 0 true 0

/-- The answer to a piece of an engine's access (14 R247). -/
def State.answerPiece (s : State) (k : Nat) (r : HomeReq) (status value : Nat) (poison : Bool) : State :=
  match r.src with
  | .engine b e =>
    s.modBh b fun x => { x with replies := x.replies ++
      [{ elem := e, id := r.id, status := status, value := value + if poison then 2 ^ 64 else 0, point := some k,
         piece := some r.piece }] }
  | _ => s

/-- A record of a launch log (15 R278). -/
def State.launchLog (s : State) (k : Nat) (addr desc : Word) (status cause : Nat) (elem : BitVec 16) : State :=
  let r : LaunchRec :=
    { time := s.spineTime, addr := addr, desc := desc, status := BitVec.ofNat 8 status, cause := BitVec.ofNat 8 cause,
      elem := elem }
  s.modSlice k fun x => { x with log := lastN 16 (x.log ++ [r]), logCount := min 255 (x.logCount + 1) }

/-! ## Atomics (15 R270, R274) -/

/-- The new value of an amo and its flags; `none` where nothing is written. -/
def amoResult (op size old v c : Nat) : Option Nat × Flags :=
  let w := 8 * size
  let sv (n : Nat) : Int := signed n w
  match op with
  | 0 => (some ((old + v) % 2 ^ w), 0)
  | 1 => let y := fadd fmt32 .rne 0 old v; (some y.bits, y.flags)
  | 2 => (some (if sv v < sv old then v else old), 0)
  | 3 => (some (if sv old < sv v then v else old), 0)
  | 4 => (some (min old v), 0)
  | 5 => (some (max old v), 0)
  | 6 => (some (old &&& v), 0)
  | 7 => (some (old ||| v), 0)
  | 8 => (some (old ^^^ v), 0)
  | 9 => (some v, 0)
  | _ => (if old == c then some v else none, 0)

/-- What an amoc writes, and whether it launches. -/
def amocResult (op size old v c : Nat) : Option Nat × Bool :=
  let new := (old + v) % 2 ^ (8 * size)
  match op with
  | 0 => (if old == c then some v else none, old == c)
  | 1 => (some new, new == c)
  | _ => (some new, decide (c ≤ new))

/-- The home of an arriving request, whose physical address was found when it was sent. -/
def reqHome (s : State) (k pa : Nat) : Home :=
  { pa := pa, bh := k / 8, slice := k % 8,
    cxl := match homeOf s pa with
      | none => none
      | some h => h.cxl }

/-- An amo is applied (15 R267, R270, R278). -/
def State.applyAmo (s : State) (k : Nat) (r : HomeReq) (op size v c : Nat) : State :=
  let h := reqHome s k r.pa
  let x := s.homeRead h size r.cls r.reads false
  if x.poison then
    (x.s.launchLog k r.word 0 0x04 4 (elemAddr r.src)).answerSource k r.src r.id 0x04 0 0 true r.word
  else
    let (new, flags) := amoResult op size x.value (v % 2 ^ (8 * size)) (c % 2 ^ (8 * size))
    let s := match new with
      | none => x.s
      | some n => x.s.homeWrite h n size r.cls r.reads false (some r.src)
    s.answerSource k r.src r.id 0 x.value flags true r.word

/-! ## Launches (15 R273-R276) -/

/-- The lowest free launch slot of a slice. -/
def freeLaunch (x : Slice) : Option Nat := (List.range 64).find? fun n => (tget? x.launches n).isNone

/-- A route label of the load resident on a bulkhead. -/
def routeOf (s : State) (bh label : Nat) : Option Route :=
  if (s.bh bh).load.isSome then (s.bh bh).routes.find? (·.label == label) else none

/-- The bulkhead that a source lies on. -/
def Source.bulkhead : Source → Nat
  | .elem key => bhOf key
  | .engine b _ => b
  | .remote .. => 0

/-- How a label launch to a bulkhead ends at once, if it does (15 R275, R276): a reconfiguration or kill sweep, a kill of the
queue or a reset ends it with LAUNCH_FAULT, an end-of-slice sweep with OK, and no load or an unbound label with LAUNCH_FAULT. -/
def launchEnds (s : State) (bh label : Nat) : Option (Nat × Nat) :=
  let b := s.bh bh
  let killed := b.load.any fun l => (s.queue l.queue).killBusy
  match b.sweep.map Sweep.kind with
  | some .endOfSlice => if (routeOf s bh label).isNone then some (0x03, 1) else some (0, 0)
  | some _ => some (0x03, 3)
  | none =>
    if b.load.isSome && (killed || b.state != 6) then some (0x03, 3)
    else if (routeOf s bh label).isNone then some (0x03, 1)
    else none

/-- A launch begins: a bound label sends its class L shuttle; a queue launch ends at its own step (15 R275). A shuttle that an
end-of-slice sweep meets enters the saved context (15 R276). -/
def State.beginLaunch (s : State) (k n : Nat) (l : Launch) : State :=
  let d := l.desc.toNat
  let put (s : State) (l : Launch) : State := s.modSlice k fun x => { x with launches := tset x.launches n l }
  if bit d 31 then put s { l with since := s.spine }
  else
    let bh := l.src.bulkhead
    let e := launchEnds s bh (bits d 0 7)
    let sh : Shuttle :=
      { classL := true, source := 0x10000 + k, label := bits d 0 7, w0 := loWord l.old, w1 := l.word,
        launch := if e.isSome then none else some (k, n) }
    let s := if e.isNone || e == some (0, 0) then s.modBh bh fun b => { b with shuttles := b.shuttles ++ [sh] } else s
    put s { l with ended := e }

/-- An amoc is applied (15 R274, R278). -/
def State.applyAmoc (s : State) (k : Nat) (r : HomeReq) (op size v c : Nat) (desc : Word) : State :=
  match freeLaunch (s.slice k) with
  | none => s.answerSource k r.src r.id 0x02 0 0 true r.word
  | some n =>
    let h := reqHome s k r.pa
    let x := s.homeRead h size r.cls r.reads false
    if x.poison then
      (x.s.launchLog k r.word desc 0x04 4 (elemAddr r.src)).answerSource k r.src r.id 0x04 0 0 true r.word
    else
      let (new, ok) := amocResult op size x.value (v % 2 ^ (8 * size)) (c % 2 ^ (8 * size))
      let s := match new with
        | none => x.s
        | some y => x.s.homeWrite h y size r.cls r.reads false (some r.src)
      if ok then
        s.beginLaunch k n { src := r.src, id := r.id, desc := desc, word := r.word, fn := r.fn, old := x.value, size := size }
      else s.answerSource k r.src r.id 0x01 x.value 0 true r.word

/-! ## Semaphores (15 R285-R288) -/

/-- Grants waiters of a semaphore in arrival order (15 R285); `fuel` bounds the waiters looked at. -/
def State.grantWaiters (s : State) (k sem : Nat) : Nat → State
  | 0 => s
  | fuel + 1 =>
    let x := s.slice k
    match x.waiters.find? (·.sem == sem) with
    | none => s
    | some w =>
      let c := tget x.sems sem 0
      if w.n ≤ c then
        let i := (x.waiters.findIdx? (·.sem == sem)).getD 0
        let s := s.setSlice k { x with sems := tset x.sems sem (c - w.n), waiters := removeAt x.waiters i }
        let s := s.trace (k / 8) 1 2 (k % 8) (BitVec.ofNat 32 sem) (BitVec.ofNat 32 (c - w.n))
        let s := s.answerSource k w.src w.id 0 0 0 false 0
        let s := match w.src with
          | .engine b t => s.modTile (64 * b + t) fun y =>
              match y.hold with
              | .swait _ _ id => if id == w.id then { y with hold := .granted } else y
              | _ => y
          | _ => s
        s.grantWaiters k sem fuel
      else s

def State.grant (s : State) (k sem : Nat) : State := s.grantWaiters k sem ((s.slice k).waiters.length + 1)

/-- sems at a slice: the status, the count and the grants. -/
def State.semSignal (s : State) (k sem n : Nat) : State × Nat :=
  let x := s.slice k
  let c := tget x.sems sem 0
  if 0xFFFFFF < c + n then
    (s.trace (k / 8) 1 3 (k % 8) (BitVec.ofNat 32 sem) (BitVec.ofNat 32 c), 0x12)
  else
    let s := s.setSlice k { x with sems := tset x.sems sem (c + n) }
    let s := s.trace (k / 8) 1 0 (k % 8) (BitVec.ofNat 32 sem) (BitVec.ofNat 32 (c + n))
    (s.grant k sem, 0)

/-- semw at a slice: 0 where the requester is queued (and perhaps granted at once), SEM_BUSY where the list is full. -/
def State.semWait (s : State) (k sem n : Nat) (src : Source) (id : Nat) : State × Nat :=
  let x := s.slice k
  let c := BitVec.ofNat 32 (tget x.sems sem 0)
  if 256 ≤ x.waiters.length then (s.trace (k / 8) 1 3 (k % 8) (BitVec.ofNat 32 sem) c, 0x13)
  else
    let s := s.setSlice k { x with waiters := x.waiters ++ [{ sem := sem, src := src, id := id, n := n }] }
    let s := s.trace (k / 8) 1 1 (k % 8) (BitVec.ofNat 32 sem) c
    (s.grant k sem, 0)

/-- The slice of a semaphore of a bulkhead (15 R284). -/
def semSlice (bh sem : Nat) : Nat := 8 * bh + sem / 128 % 8

/-- A semaphore operation of an engine enters the arrival queue of the semaphore's home slice, on its own bulkhead (14 R246,
15 R286). -/
def State.sendEngineSem (s : State) (bh engine sem id : Nat) (op : HomeOp) : State :=
  s.sendHome (semSlice bh sem) [{ src := .engine bh engine, id := id, pa := 0, op := op, cls := 0, reads := 15, word := 0 }]

/-- A signal from an engine, without a reply. -/
def State.engineSignal (s : State) (bh engine sem n : Nat) : State := s.sendEngineSem bh engine sem 0 (.sems sem n)

/-- A swait that meets SEM_BUSY holds its sequencer for 64 cycles, and is then tried again (15 R286). -/
def State.swaitBusy (s : State) (src : Source) (id : Nat) : State :=
  match src with
  | .engine b t => s.modTile (64 * b + t) fun y =>
      match y.hold with
      | .swait sem n i => if i == id then { y with hold := .swaitBusy sem n (s.cycle + 64) } else y
      | _ => y
  | _ => s

/-! ## One request applied -/

/-- The wave number of a request of an element, the detail of its fault (19 R328). -/
def State.waveOf (s : State) (key id : Nat) : Nat :=
  (s.elem? key).elim 0 fun e => (e.pending? id).elim 0 Pending.wave


/-- An applied or discarded request of an element that has no reply leaves its record; a store gives back its entry. -/
def State.retireRequest (s : State) (src : Source) (id : Nat) : State :=
  match src with
  | .elem key => s.modElem key (·.dropPending id)
  | _ => s

/-- The inbox after a withdrawal: what the fire read and took is undone; where later entries have been read or taken, the entry
it took comes back at the head (15 R287; log 116). -/
def Undo.inboxOf (u : Undo) (now : List InboxEntry) : List InboxEntry :=
  let n := u.inboxAfter.length
  if now.take n == u.inboxAfter then u.inbox ++ now.drop n
  else match u.inbox.find? fun x => !u.inboxAfter.contains x with
    | some x => if n < u.inbox.length then x :: now else now
    | none => now

/-- What a fire changed beside its request is put back, where nothing has changed it since (15 R287). -/
def Elem.undoFire (e : Elem) (u : Undo) : Elem :=
  let same (n : Nat) : Bool := e.ptr.getD n 0 == u.ptrAfter.getD n 0
  ({ e with
    tg := if e.tg == u.tgAfter then u.tg else e.tg
    sk := if e.sk == u.skAfter then u.sk else e.sk
    lf := if e.lf == u.lfAfter then u.lf else e.lf
    inbox := u.inboxOf e.inbox
    ptr := (List.range 4).map fun n => if same n then u.ptr.getD n 0 else e.ptr.getD n 0
    shown := (List.range 4).map fun n => if same n then u.shown.getD n none else e.shown.getD n none } : Elem).expose

/-- The beat of a withdrawn semw stands before its fire again: it is the issue in progress, or waits until that has ended. -/
def Elem.putBack (e : Elem) (x : Issue) : Elem :=
  let x := { x with withdrawn := true }
  match e.issue with
  | none => { e with issue := some x }
  | some y => if y.slot == x.slot then { e with issue := some x } else { e with again := x :: e.again }

/-- An element whose semw has been withdrawn (15 R287): where an end-of-slice sweep withdrew it, as though it had not fired, and
it fires again after restoration; discarded else. -/
def Elem.takeBack (e : Elem) (p : Pending) (restore : Bool) : Elem :=
  let e := e.dropPending p.id
  let e := match p.dest with
    | .port n => e.releaseEntry n p.id
    | .operand _ => { e with issue := none }
    | .none => e
  match restore, p.undo with
  | true, some u =>
    let e := p.popped.foldr (fun x e => { e with inp := modifyAt e.inp x.1 (x.2 :: ·) }) e
    (e.undoFire u).putBack u.issue
  | _, _ => e

/-- The kind of the sweep that passes a bulkhead. -/
def State.sweepKind (s : State) (bh : Nat) : Option SweepKind := (s.bh bh).sweep.map Sweep.kind

/-- A semw is withdrawn; an end-of-slice sweep puts back what its fire took, but not of an element killed or re-run since. -/
def State.withdrawn (s : State) (key : Nat) (p : Pending) : State :=
  s.modElem key fun e => e.takeBack p (s.sweepKind (bhOf key) == some .endOfSlice && !p.void)

/-- The withdrawal of a semw is acknowledged. -/
def State.acknowledge (s : State) (src : Source) (id : Nat) : State :=
  match src with
  | .elem key =>
    match (s.elem? key).bind fun e => e.pending? id with
    | none => s
    | some p => s.withdrawn key p
  | _ => s

/-- A value with the forwarded bytes in their places. -/
def overlay (size v mask fwd : Nat) : Nat :=
  (List.range size).foldl (fun v j =>
    if bit mask j then v - bits v (8 * j) 8 * 2 ^ (8 * j) + bits fwd (8 * j) 8 * 2 ^ (8 * j) else v) v

/-- What a request asks for is an access to memory. -/
def HomeOp.isMem : HomeOp → Bool
  | .sems .. => false
  | .semw .. => false
  | .withdraw _ => false
  | _ => true

/-- It is answered as an atomic is (15 R279). -/
def HomeOp.isAtomic : HomeOp → Bool
  | .read .. => false
  | .write .. => false
  | .prefetch => false
  | _ => true

def HomeOp.isWithdrawal : HomeOp → Bool
  | .withdraw _ => true
  | _ => false

/-- The request is a piece of an engine's access. -/
def HomeReq.isPiece (r : HomeReq) : Bool :=
  match r.src with
  | .engine _ _ => r.op.isMem
  | _ => false

/-- A request is answered with a code and performs nothing. -/
def State.refuseReq (s : State) (k : Nat) (r : HomeReq) (c : Nat) : State :=
  if r.isPiece then s.answerPiece k r c 0 false
  else match r.op, r.src with
    | .write .., .elem key => s.failRequest key r.id c (s.waveOf key r.id) r.word.toNat
    | .write .., _ => s
    | .prefetch, _ => s.retireRequest r.src r.id
    | .withdraw _, _ => s
    | _, _ => s.answerSource k r.src r.id c 0 0 r.op.isAtomic r.word

/-- Applies the request at the head of an arrival queue (14 R248); a gated bulkhead answers GATED, a link that is down
LINK_FAULT, and both perform nothing (04 R66, 24 R368). A withdrawal does nothing where its semw has been answered (15 R287). -/
def State.applyReq (s : State) (k : Nat) (r : HomeReq) : State :=
  if gated s (k / 8) && !r.op.isWithdrawal then s.refuseReq k r 0x0C
  else if r.op.isMem && !cxlUp s (reqHome s k r.pa) then s.refuseReq k r 0x0F
  else
    let h := reqHome s k r.pa
    match r.op with
    | .read size sgn mask fwd =>
      let x := s.homeRead h size r.cls r.reads r.counts
      if r.isPiece then
        if x.poison && r.via.isSome then x.s.answerPiece k r 0x04 0 false else x.s.answerPiece k r 0 x.value x.poison
      else
        let v := overlay size x.value mask fwd
        let v := if sgn then (signed v (8 * size) % 2 ^ 32).toNat else v
        if x.poison then x.s.answerSource k r.src r.id 0x04 0 0 false r.word
        else x.s.answerSource k r.src r.id 0 v 0 false r.word
    | .write size data =>
      let s := s.homeWrite h data size r.cls r.reads r.mark (some r.src) r.whole
      if r.isPiece then s.answerPiece k r 0 0 false else s.retireRequest r.src r.id
    | .amo op size v c => s.applyAmo k r op size v c
    | .amoc op size v c desc => s.applyAmoc k r op size v c desc
    | .sems sem n =>
      let (s, st) := s.semSignal k sem n
      match r.src with
      | .engine _ _ => if st == 0 then s else s.launchLog k (BitVec.ofNat 32 sem) 0 st 5 0xFFFF
      | _ => s.answerSource k r.src r.id st 0 0 true r.word
    | .semw sem n =>
      match s.semWait k sem n r.src r.id with
      | (s, 0) => s
      | (s, st) => (s.swaitBusy r.src r.id).answerSource k r.src r.id st 0 0 true r.word
    | .withdraw sem =>
      match (s.slice k).waiters.findIdx? fun w => w.sem == sem && w.id == r.id with
      | none => s
      | some i => (s.modSlice k fun x => { x with waiters := removeAt x.waiters i }).acknowledge r.src r.id
    | .prefetch =>
      let (s, l, _) := s.fetchLine h r.cls r.reads
      ((s.putLine h l).answerPiece k r 0 0 false).retireRequest r.src r.id

/-- HOME_SLICE_APPLY (14 R247, R248): the head of the arrival queue is applied. -/
def execHomeSliceApply (slice : Nat) (s : State) : Out :=
  match (s.slice slice).arrivals with
  | [] => .next s
  | r :: rest =>
    .next (((s.modSlice slice fun x => { x with arrivals := rest }).countIssue (sliceEngine slice)).applyReq slice r)

/-- SEMCNT_WRITE (15 R288): the count is replaced, then waiters are granted; a gated bulkhead answers GATED (04 R66, 23 R365). -/
def execSemcntWrite (fn bh sem : Nat) (value : Word) (s : State) : Out :=
  if owns s fn bh && !gated s bh then
    let k := semSlice bh sem
    let s := s.modSlice k fun x => { x with sems := tset x.sems (sem % 1024) (bits value.toNat 0 24) }
    .next (s.grant k (sem % 1024))
  else .next s

/-- CONTINUATION_LAUNCH_END (15 R275, R277): a launch that has ended frees its slot and is answered; a queue launch is
decided by the queue engine here. -/
def execContinuationLaunchEnd (slice launch : Nat) (s : State) : Out :=
  match tget? (s.slice slice).launches launch with
  | none => .next s
  | some l =>
    let d := l.desc.toNat
    let free (s : State) : State := s.modSlice slice fun x => { x with launches := tdel x.launches launch }
    let log (s : State) (st cause : Nat) : State := s.launchLog slice l.word l.desc st cause (elemAddr l.src)
    if bit d 31 then
      let fn := l.fn
      let loc := bits d 0 12
      let c := queuedCommand s fn loc (bit d 12) (bits d 13 7) (loWord l.old) l.word
      if enqueueWaits s fn loc (slicePlace slice) l.since then .next s
      else match s.enqueue fn loc c .continuation (elemKey l.src.bulkhead 0) [] with
      | (s, 0) => .next ((free s).answerSource slice l.src l.id 0 l.old 0 true l.word)
      | (s, code) => .next ((log (free s) code 2).answerSource slice l.src l.id 0x03 l.old 0 true l.word)
    else match l.ended with
      | none => .next s
      | some (st, cause) =>
        let s := free s
        let s := if cause == 0 then s else log s 0x03 cause
        .next (s.answerSource slice l.src l.id st l.old 0 true l.word)

end Sys2Proof.Machine
end

