-- ==== Sys2Proof/Machine/Slots.lean ====
section
/-!
DEFINITION. The loader's checks of the slots and heddles of one page (02 R20, R23, 05 R75, R82, R83).
-/
namespace Sys2Proof.Machine
open Sys2Proof

/-- A heddle descriptor has a reserved bit or a reserved combination (05 R75). -/
def heddleBad (h : DWord) : Bool :=
  let n := h.toNat
  bits n 49 15 != 0
    || ((List.range 16).any fun j => bit n (16 + j) && !bit n j)
    || (!bit n 38 && (bit n 39 || bits n 32 6 != 0))
    || (!bit n 47 && bits n 40 7 != 0)
    || (bit n 48 && !((List.range 8).any fun j => bit n (8 + j) && bit n (24 + j)))

/-- The least number of a list of checks that failed. -/
def leastCheck : List (Option Nat) → Option Nat
  | [] => none
  | none :: l => leastCheck l
  | some c :: l => match leastCheck l with
    | none => some c
    | some d => some (min c d)

/-- The opcode of a word names an X format (05 R73). -/
def isXOpcode (w : Word) : Bool :=
  let op := bits w.toNat 18 8
  op == 0x3F || op == 0xD0 || op == 0xD1 || op == 0xDA

/-- The lowest-numbered check that one slot fails, the heddle it names included where `heddles` says so (05 R82, R83). An
opcode that the kind of element does not assign is check 4, whatever its other fields hold. -/
def Page.checkSlot (p : Page) (kind : ElemKind) (heddles : Bool) (n : Nat) : Option Nat :=
  let w := p.slot n
  match p.kind n with
  | 0 => if w != 0 then some 5 else none
  | 1 =>
    let hasLit := n < 31 && p.kind (n + 1) == 2
    let h := bits w.toNat 26 4
    let own := match decodeWord w (if hasLit then p.slot (n + 1) else 0) with
      | .error (.unassigned _) => some 4
      | .error (.reserved op) => some (if kind.hasOpcode op then 5 else 4)
      | .error .truncated => some 5
      | .ok i => slotCheck kind i
    leastCheck
      [own, if bit p.hmap.toNat h then none else some 6,
       if heddles && heddleBad (p.heddle h) then some 5 else none,
       if isXOpcode w && !hasLit then some 8 else none]
  | 2 => if 0 < n && p.kind (n - 1) == 1 && isXOpcode (p.slot (n - 1)) then none else some 8
  | _ => some 5

/-- The first slot of a page that fails a check, with the check. -/
def Page.firstBad (p : Page) (kind : ElemKind) (heddles : Bool) : Option (Nat × Nat) :=
  (List.range 32).findSome? fun n => (p.checkSlot kind heddles n).map fun c => (c, n)

/-- A page image of 272 bytes (17 R317): the page, and whether a reserved byte is not zero. -/
def parsePage (bs : List Byte) : Page × Bool :=
  let num (off n : Nat) : Nat :=
    ((bs.drop off).take n).foldr (fun b acc => b.toNat + 256 * acc) 0
  ({ kinds := BitVec.ofNat 64 (num 0 8), hmap := BitVec.ofNat 16 (num 8 2),
     heddles := (List.range 16).map fun k => BitVec.ofNat 64 (num (0x10 + 8 * k) 8),
     slots := (List.range 32).map fun k => BitVec.ofNat 32 (num (0x90 + 4 * k) 4) }, num 0x0A 6 != 0)

end Sys2Proof.Machine
end

