-- ==== Sys2Proof/Machine/Events.lean ====
section
/-!
DEFINITION. The steps of an element's requests after their fire (14 R248): tokens and shuttles on their way, hand-over,
perform, drain, return, page walks and fetches, fences, retirement (06 R96-R102, R118, 10 R199, 14 R249-R258, 17 R319,
21 R345).
-/
namespace Sys2Proof.Machine
open Sys2Proof

/-! ## Tokens and shuttles -/

/-- TOKEN_DELIVERY (06 R118). -/
def execTokenDelivery (elem port : Nat) (s : State) : Out := .next (s.deliver elem port)

/-- SEND_QUEUE_DRAIN (06 R110): the oldest entry enters class E of the shuttle network. -/
def execSendQueueDrain (elem : Nat) (s : State) : Out :=
  match s.elem? elem with
  | none => .next s
  | some e =>
    match e.sendq with
    | [] => .next s
    | x :: rest =>
      let s := s.setElem elem { e with sendq := rest }
      .next (s.modBh (bhOf elem) fun b => { b with shuttles := b.shuttles ++ [x] })

/-- A launch ends: the status of its reply and the cause of its log record (15 R275, R276). -/
def State.endLaunch (s : State) (l : Option (Nat × Nat)) (status cause : Nat) : State :=
  match l with
  | none => s
  | some (k, n) => s.modSlice k fun x =>
      { x with launches := match tget? x.launches n with
          | none => x.launches
          | some y => tset x.launches n { y with ended := some (status, cause) } }

/-- A discarded shuttle counted, stopping at 0xFFFF (06 R102). -/
def Elem.countDrop (e : Elem) : Elem := { e with shdrop := if e.shdrop == 0xFFFF then e.shdrop else e.shdrop + 1 }

/-- The inbox has an entry that a shuttle of the class may use (06 R97). -/
def Elem.inboxRoom (e : Elem) (classL : Bool) : Bool :=
  decide (e.inbox.length < 8) && (classL || decide ((e.inbox.filter fun x => !x.classL).length < 6))

/-- A shuttle of a bulkhead's network arrives (06 R96-R98, 15 R275, 19 R325, 21 R345). -/
def State.arriveShuttle (s : State) (bh i : Nat) (x : Shuttle) : State :=
  let gone (s : State) : State := s.modBh bh fun b => { b with shuttles := removeAt b.shuttles i }
  match routeOf s bh x.label with
  | none => (gone s).endLaunch x.launch 0x03 1
  | some r =>
    let key := elemKey bh r.elem
    match s.elem? key with
    | none => (gone s).endLaunch x.launch 0x03 1
    | some e =>
      if e.killed || e.done || e.retired then ((gone s).setElem key e.countDrop).endLaunch x.launch 0x03 3
      else if (handlerSet e.page r.bit).isNone then ((gone s).setElem key e.countDrop).endLaunch x.launch 0 0
      else if e.inboxRoom x.classL then
        let y : InboxEntry := { bit := r.bit, w0 := x.w0, w1 := x.w1, classL := x.classL }
        ((gone s).setElem key ({ e with inbox := e.inbox ++ [y] } : Elem).expose).endLaunch x.launch 0 0
      else s

/-- SHUTTLE_ARRIVAL (06 R96, R97): a shuttle that no earlier one of its class, source and label precedes. -/
def execShuttleArrival (bh index : Nat) (s : State) : Out :=
  let l := (s.bh bh).shuttles
  match l[index]? with
  | none => .next s
  | some x =>
    if (l.take index).any fun y => y.classL == x.classL && y.source == x.source && y.label == x.label then .next s
    else .next (s.arriveShuttle bh index x)

/-! ## Hand-over (14 R249) -/

/-- Every request before one has been performed or retired. -/
def earlierPerformed (e : Elem) (id : Nat) : Bool := e.pending.all fun p => id ≤ p.id || p.performed

/-- Every store before a request has been applied at its target. -/
def earlierApplied (e : Elem) (id : Nat) : Bool := e.pending.all fun p => id ≤ p.id || !p.isStore

/-- Every request before one is complete at tenant scope: it has returned, or been applied (14 R251, R252). -/
def earlierComplete (e : Elem) (id : Nat) : Bool := e.pending.all fun p => id ≤ p.id || isCommand p

/-- The request leaves the issue queue; one that goes behind the barrier is performed. -/
def Elem.leaveQueue (e : Elem) (id : Nat) (performed : Bool) : Elem :=
  ({ e with issueq := e.issueq.drop 1 }).modPending id fun p =>
    { p with handedOver := true, performed := p.performed || performed }

/-- A word of a site's policy block (17 R314). -/
def Hub.policyWord (h : Hub) (site w : Nat) : Word :=
  match h.sites[site]? with
  | none => 0
  | some x => x.policy.getD w 0

/-- A POOL word and a POOLST word (17 R316). -/
def Hub.poolWord (h : Hub) (p : Nat) : Word :=
  let x := tget h.pools p {}
  BitVec.ofNat 32 (x.refill % 512 * 2 ^ 16 + x.size % 512)
def Hub.poolStWord (h : Hub) (p : Nat) : Word :=
  let x := tget h.pools p {}
  BitVec.ofNat 32 (x.credit % 512 * 2 ^ 16 + x.out % 512)

/-- What an element reads at a hub index (17 R316). -/
def hubIndexRead (h : Hub) (sitesel : Byte) (x : Nat) : Word :=
  if x == 0x100 then BitVec.ofNat 32 sitesel.toNat
  else if x < 0x140 then h.policyWord sitesel.toNat (x - 0x120)
  else if x < 0x150 then h.poolWord (x - 0x140)
  else h.poolStWord (x - 0x150)

/-- The status an arrive gets, and the state after it (15 R289). -/
def State.applyArrive (s : State) (fn : Nat) (a b : Word) : State × Nat :=
  if bits a.toNat 16 16 != 0 || bits b.toNat 1 31 != 0 || (s.fn fn).ctrs ≤ bits a.toNat 0 16 then (s, 0x05)
  else (s.arrive fn (bits a.toNat 0 16) (bit b.toNat 0), 0)

/-- A fenceh reaches the owner's tile: the owner's store-buffer entries are marked (14 R258). -/
def State.markStores (s : State) (key id owner : Nat) (bad : Bool) : State :=
  let ok := elemKey (bhOf key) owner
  let w : FencehWait :=
    if bad || (s.elem? ok).isNone || (s.bh (bhOf key)).load.isNone then
      { elem := key, id := id, marked := [], status := 0x05 }
    else
      { elem := key, id := id, status := 0,
        marked := ((s.tile (servingTile ok)).sbuf.filter fun x => x.elem == ok).map fun x => (ok, x.id) }
  s.modBh (bhOf key) fun b => { b with fencehs := b.fencehs ++ [w] }

/-- An access of an element needs no walk of its bulkhead: its translation is cached, or it meets a window or a fault before. -/
def translated (s : State) (k key va : Nat) : Bool :=
  let bh := bhOf key
  !canonical va || (importSlot s bh va).isSome || !(s.fn (loadFn s bh)).s2v
    || cached s (.tile k) bh (loadFn s bh) (loadPasid s bh) va

/-- The arrival queue is full of the home that a cached translation of an address names (09 R190 cause 4). -/
def homeFull (s : State) (o : TlbOf) (bh va : Nat) : Bool :=
  match (s.tlb o ++ (s.bh bh).tlb2).find? (·.covers (loadFn s bh) (some (loadPasid s bh)) (va % 2 ^ 57)) with
  | none => false
  | some t => match homeOf s (t.pa + va % 2 ^ t.log2) with
    | none => false
    | some h => sliceFull s h.key

/-- A demand access of an element to device memory, for its prefetches (09 R188). -/
def State.demand (s : State) (k key va : Nat) : State :=
  s.modTile k fun t => { t with lastDemand := tset t.lastDemand (addrOf key) va }

/-- What an access of an element to device memory waits for, by its stall cause (09 R190): 2 a walker, where it needs one and
none is free, 3 a miss-tracking entry, 4 room in the arrival queue of the home that its cached translation names; 0 nothing. -/
def atomicWait (s : State) (k key : Nat) (r : Req) : Nat :=
  if noWalker s (.tile k) (bhOf key) r.va then 2
  else if !missFree s k then 3
  else if homeFull s (.tile k) (bhOf key) r.va then 4
  else 0

/-- A memory atomic is translated and sent to its home, or fails (15 R271), once it waits for nothing. -/
def State.sendAtomic (s : State) (key : Nat) (e : Elem) (r : Req) (size : Nat) (op : HomeOp) : State :=
  let k := servingTile key
  let bh := bhOf key
  if atomicWait s k key r != 0 then s
  else
    let s := (s.setElem key (e.leaveQueue r.id true)).watch k
      { virtual_ := true, addr := r.va, size := size, rd := true, wr := true, word := r.addr,
        elem := some (key, r.slot, r.wave) }
    match (s.demand k key r.va).resolve (.tile k) bh (loadFn s bh) (loadPasid s bh) r.va .update with
    | (s, .status c) =>
      if 0x40 ≤ c then s.failRequest key r.id c r.slot r.addr.toNat
      else s.reply { elem := key, id := r.id, status := c, value := 0, atomic := true, addr := r.addr }
    | (s, .home h via) =>
      (s.modElem key (·.modPending r.id fun p => { p with miss := true, via := via })).sendHome h.key
        [{ src := .elem key, id := r.id, pa := h.pa, op := op, cls := r.cls, reads := r.reads, word := r.addr,
           via := via, fn := loadFn s bh }]

/-- A request to another device waits until one of the UALink ports is ready (24 R369). -/
def portWait (s : State) (fn rank : Nat) : Bool :=
  (gazette s fn rank).any (fun g => g.device != Config.deviceNumber) && (s.fn fn).fkey != 0 && (readyPorts s).isEmpty

/-- A remote atomic leaves for its device (15 R280): through the routers to the bulkhead's gate of this device, or out of the
package on a ready port with the entry's key; a function whose FKEY is 0 sends none (04 R49, R58; log 111). -/
def State.sendRemote (s : State) (key : Nat) (r : Req) (op size v c rank ticket : Nat) : State :=
  let bh := bhOf key
  let fn := loadFn s bh
  match gazette s fn rank with
  | none => (s.remoteSent fn ticket none).remoteReply fn ticket 0x0E 0
  | some g =>
    if (s.fn fn).fkey == 0 then (s.remoteSent fn ticket none).remoteReply fn ticket 0x0D 0
    else if g.device == Config.deviceNumber then
      let s := s.remoteSent fn ticket none
      let n := networkOf s fn bh
      match routerWants s fn bh g.key with
      | some want => (s.dropPacket (bh / 4) g.key want n).remoteReply fn ticket 0x0D 0
      | none =>
        let a : RemoteAtomic :=
          { word := r.addr, cls := r.cls, reads := r.reads, va := r.va, op := op, size := size, v := v, c := c, key := g.key,
            srcFn := fn, ticket := ticket, elem := addrOf key }
        let p : Packet := { key := g.key, vc := n, target := g.bh, port := 0, fn := fn, atomic := some a }
        { s with packets := s.packets ++ [p] }
    else
      let (s, p) := s.takePort
      let q : SentReq :=
        { path := 1, rank := rank, va := r.va, op := op, size := size, v := v, c := c, key := g.key, fn := fn,
          pasid := loadPasid s bh, ticket := ticket }
      let s := s.remoteSent fn ticket p
      { s with sent := s.sent ++ [q] }

/-- An amo goes to the compatibility portal, which holds 32 requests (15 R282); a UALink request waits for a ready port (24
R369), and a function whose FKEY is 0 sends none (04 R49; log 111). -/
def State.sendPortal (s : State) (key : Nat) (e : Elem) (r : Req) (op size v c path rank : Nat) : State :=
  let bh := bhOf key
  let fn := loadFn s bh
  let s' := s.setElem key (e.leaveQueue r.id true)
  if 32 ≤ (s.bh bh).portal.length then s
  else if path == 3 && (gazette s fn rank).isNone then
    s'.reply { elem := key, id := r.id, status := 0x0E, value := 0, atomic := true, addr := r.addr }
  else if (s.fn fn).fkey == 0 then
    s'.reply { elem := key, id := r.id, status := 0x0D, value := 0, atomic := true, addr := r.addr }
  else if path == 3 && (readyPorts s).isEmpty then s
  else
    let (s', port) := if path == 3 then s'.takePort else (s', none)
    let k := if path == 3 then ((gazette s fn rank).map Gazette.key).getD 0 else 0
    let p : PortalReq :=
      { elem := key, id := r.id, ualink := path == 3, rank := rank, fn := fn, va := r.va, op := op, size := size,
        v := v, c := c, since := s.cycle, pasid := loadPasid s bh, key := k, port := port }
    let q : SentReq :=
      { path := path, rank := rank, va := r.va, op := op, size := size, v := v, c := c, key := k, fn := fn,
        pasid := loadPasid s bh }
    let s' := s'.modBh bh fun b => { b with portal := b.portal ++ [p] }
    { s' with sent := s'.sent ++ [q] }

/-- A semaphore operation goes to the semaphore's home slice. A bulkhead that the function does not hold answers GATED or
KEY_DROP, an open window notwithstanding (15 R285). -/
def State.sendSem (s : State) (key : Nat) (r : Req) (b sem : Nat) (op : HomeOp) : State :=
  let bh := bhOf key
  let fn := loadFn s bh
  match s.gate bh fn b false with
  | (s, 0) => s.sendHome (semSlice b sem)
      [{ src := .elem key, id := r.id, pa := 0, op := op, cls := 0, reads := 15, word := r.addr, fn := fn }]
  | (s, c) => s.reply { elem := key, id := r.id, status := c, value := 0, atomic := true, addr := r.addr }

/-- Where the pieces of a page image lie, and the window that they were accepted through: translated one after another, up to
the first code met (14 R249, 17 R319). -/
def State.placePieces (s : State) (key va : Nat) : Nat → State × Except Nat (List Nat × Option Nat)
  | 0 => (s, .ok ([], none))
  | n + 1 =>
    let bh := bhOf key
    match s.resolve (.tile (servingTile key)) bh (loadFn s bh) (loadPasid s bh) va .exec with
    | (s, .status c) => (s, .error c)
    | (s, .home h via) =>
      match s.placePieces key (va + 8) n with
      | (s, .error c) => (s, .error c)
      | (s, .ok (l, v)) => (s, .ok (h.pa :: l, via.orElse fun _ => v))

/-- A page that an element holds and that is not stale: setpg only selects it (17 R319). -/
def Elem.freshPage (e : Elem) (n : Nat) : Bool := (e.pages.getD n none).isSome && !bit e.stale.toNat n

/-- A setpg fetches a page: it does not only select one that is held, and its address passed the checks at fire. -/
def Elem.fetches (e : Elem) (n : Nat) (pga : Word) (bad : Nat) : Bool := !e.freshPage n && pga != 0 && bad == 0

/-- A setpg that fetches a page is translated as it hands over (14 R249, 17 R319). -/
def State.handOverPage (s : State) (key : Nat) (e : Elem) (r : Req) (n : Nat) (pga : Word) (va bad cls reads : Nat) : State :=
  let k := servingTile key
  if !e.fetches n pga bad then s.setElem key (e.leaveQueue r.id true)
  else if noWalker s (.tile k) (bhOf key) va then s
  else match (s.setElem key (e.leaveQueue r.id true)).placePieces key va 34 with
    | (s, .ok (l, via)) => s.modElem key (·.modPending r.id fun p => { p with pieces := l, via := via })
    | (s, .error c) => s.modElem key (·.modPending r.id fun p => { p with kind := .setpg n pga va c cls reads })

/-- What the request at the head of an element's issue queue waits for of its tile, by its stall cause (09 R190), where it may hand
over: 0 nothing. -/
def headWait (s : State) (key : Nat) (e : Elem) : Nat :=
  match e.issueq with
  | [] => 0
  | r :: _ =>
    if !earlierComplete e r.id then 0
    else match r.kind with
      | .amo _ _ _ _ 0 _ _ => atomicWait s (servingTile key) key r
      | .amoc .. => atomicWait s (servingTile key) key r
      | .setpg n pga va bad _ _ =>
        if e.fetches n pga bad && noWalker s (.tile (servingTile key)) (bhOf key) va then 2 else 0
      | .sems b sem _ => if sliceFull s (semSlice b sem) then 4 else 0
      | .semw b sem _ => if sliceFull s (semSlice b sem) then 4 else 0
      | _ => 0

/-- A request of class A or X, or a fenceh, hands over. -/
def State.handOverBarrier (s : State) (key : Nat) (e : Elem) (r : Req) : State :=
  let bh := bhOf key
  let fn := loadFn s bh
  let out (s : State) : State := s.setElem key (e.leaveQueue r.id true)
  match r.kind with
  | .amo op size v c path rank ticket =>
    if path == 0 then s.sendAtomic key e r size (.amo op size v c)
    else if path == 1 then if portWait s fn rank then s else (out s).sendRemote key r op size v c rank ticket
    else s.sendPortal key e r op size v c path rank
  | .amoc op size v c desc => s.sendAtomic key e r size (.amoc op size v c desc)
  | .sems b sem n => if sliceFull s (semSlice b sem) then s else (out s).sendSem key r b sem (.sems sem n)
  | .semw b sem n => if sliceFull s (semSlice b sem) then s else (out s).sendSem key r b sem (.semw sem n)
  | .arrive a b =>
    let (s, st) := (out s).applyArrive fn a b
    s.reply { elem := key, id := r.id, status := st, value := 0, atomic := true, addr := r.addr }
  | .ask site words est x feature =>
    (out s).modHub bh fun h => { h with queue := h.queue ++ [.ask key r.id site words est x feature] }
  | .answer header words =>
    (out s).modHub bh fun h => { h with queue := h.queue ++ [.answer key r.id (bits header.toNat 0 9) words] }
  | .fenceh owner bad => (out s).markStores key r.id owner bad
  | .setpg n pga va bad cls reads => s.handOverPage key e r n pga va bad cls reads
  | _ => s

/-- The head of a memory issue queue hands over, if it may (14 R249). -/
def State.handOver (s : State) (key : Nat) : State :=
  match s.elem? key with
  | none => s
  | some e =>
    match e.issueq with
    | [] => s
    | r :: _ =>
      if e.pending.any fun p => p.barrier && decide (p.id < r.id) then s
      else if r.kind.isBarrier then
        let may : Bool := match r.kind with
          | .fenceh .. => earlierPerformed e r.id && earlierApplied e r.id
          | _ => earlierComplete e r.id
        if may then s.handOverBarrier key e r else s
      else match r.kind with
        | .fencelMark =>
          if earlierPerformed e r.id then s.setElem key ((e.leaveQueue r.id true).dropPending r.id) else s
        | .hubRead x =>
          let h := s.hub (bhOf key)
          if h.writes.isEmpty then
            (s.setElem key (e.leaveQueue r.id true)).finishRequest key r.id (hubIndexRead h e.sitesel x).toNat false 0 id
          else s
        | .hubWrite x v =>
          let e' := (e.leaveQueue r.id true).dropPending r.id
          if x == 0x100 then s.setElem key { e' with sitesel := BitVec.ofNat 8 v.toNat }
          else (s.setElem key e').modHub (bhOf key) fun h =>
            { h with writes := h.writes ++ [{ index := x, site := e.sitesel.toNat, value := v }] }
        | _ =>
          let k := servingTile key
          if (s.tile k).wrb.length < 32 then
            (s.setElem key (e.leaveQueue r.id false)).modTile k fun t => { t with wrb := t.wrb ++ [r] }
          else s

/-- HAND_OVER (14 R248, R249). -/
def execHandOver (elem : Nat) (s : State) : Out := .next (s.handOver elem)

/-! ## Perform (10 R199, 14 R248) -/

/-- The request leaves the reorder buffer; after the last beat of a step the chain moves on. -/
def Tile.stepWave (t : Tile) (i : Nat) (r : Req) : Tile :=
  let a := addrOf r.elem
  let t := { t with wrb := removeAt t.wrb i }
  if !r.last then t
  else match tget? t.waves (64 * a + r.wave) with
    | none => t
    | some w => { t with waveL := tset t.waveL a (if w.succ == 65 then 65 else r.wave) }

/-- The bytes that an element's own stores still in the store buffer give a load: the newest of each (10 R199). -/
def forwarded (t : Tile) (elem : Nat) (scratch : Bool) (addr size : Nat) : Nat × Nat :=
  (List.range size).foldl (fun acc j =>
    match (t.sbuf.filter fun x => x.elem == elem && x.scratch == scratch && x.addr ≤ addr + j && addr + j < x.addr + x.size).getLast? with
    | none => acc
    | some x => (acc.1 + 2 ^ j, acc.2 + bits x.data (8 * (addr + j - x.addr)) 8 * 2 ^ (8 * j))) (0, 0)

/-- The home a prefetch may go to, or `none` where it is dropped (09 R188): its packet passes the gate as every other does
(04 R58); a drop has no other effect. -/
def State.prefetchTarget (s : State) (o : TlbOf) (bh fn pasid va : Nat) (last : Option Nat) : State × Option Home :=
  let hit := ((s.tlb o).find? (·.covers fn (some pasid) (va % 2 ^ 57))).orElse fun _ =>
    (s.bh bh).tlb2.find? (·.covers fn (some pasid) (va % 2 ^ 57))
  let check (s : State) (t : TlbEntry) : State × Option Home :=
    if !t.rd || t.np || t.ns then (s, none)
    else
      let pa := t.pa + va % 2 ^ t.log2
      if cxlNonSpeculative s pa then (s, none)
      else match homeOf s pa with
        | none => (s, none)
        | some h =>
          if !cxlUp s h then (s, none)
          else if (s.gate bh fn h.bh).2 == 0 then (s, some h)
          else (s, none)
  if !canonical va || (importSlot s bh va).isSome then (s, none)
  else match hit with
    | some t => check s t
    | none =>
      match last with
      | none => (s, none)
      | some d =>
        if d / 2 ^ 21 != va / 2 ^ 21 then (s, none)
        else match s.walk o bh fn pasid (va % 2 ^ 57) with
          | (s, .error _) => (s, none)
          | (s, .ok t) =>
            if t.covers fn (some pasid) (d % 2 ^ 57) then check ((s.install2 bh t).setTlb o (s.tlb o ++ [t])) t
            else (s, none)

/-- A request of a reorder buffer resolved: by the code that its walk met, or anew. -/
def State.resolveReq (s : State) (k : Nat) (r : Req) (need : Need) : State × Target :=
  match r.walked with
  | some c => (s, .status c)
  | none => s.resolve (.tile k) (bhOf r.elem) (loadFn s (bhOf r.elem)) (loadPasid s (bhOf r.elem)) r.va need

/-- A load is performed: its bank is read, or it enters its home's arrival queue. -/
def State.performLoad (s : State) (k : Nat) (r : Req) (size : Nat) (sgn : Bool) : State :=
  let key := r.elem
  let done (miss : Bool) (s : State) : State :=
    s.modElem key (·.modPending r.id fun p => { p with performed := true, miss := miss })
  if bits r.addr.toNat 28 4 == 0 then
    let (mask, fwd) := forwarded (s.tile k) key true r.va size
    let (s, v, poison) := ((done false s).takeBank k r.va).scratchRead k r.va size kindElement
    let v := overlay size v mask fwd
    let v := if sgn then (signed v (8 * size) % 2 ^ 32).toNat else v
    let from_ := 128 + 64 * k + bankOf r.va
    if poison then s.reply { elem := key, id := r.id, status := 0x04, value := 0, addr := r.addr, point := some from_ }
    else s.reply { elem := key, id := r.id, status := 0, value := v, addr := r.addr, point := some from_ }
  else match (s.demand k key r.va).resolveReq k r .read with
    | (s, .status c) => (done false s).reply { elem := key, id := r.id, status := c, value := 0, addr := r.addr }
    | (s, .home h via) =>
      let (mask, fwd) := forwarded (s.tile k) key false h.pa size
      let q : HomeReq :=
        { src := .elem key, id := r.id, pa := h.pa, op := .read size sgn mask fwd, cls := r.cls, reads := r.reads,
          word := r.addr, via := via, fn := loadFn s (bhOf key) }
      (done true s).modElem key (·.modPending r.id fun p => { p with via := via }) |>.sendHome h.key [q]

/-- A store is performed: it enters the store buffer, or its fault is met, imprecise (10 R195). -/
def State.performStore (s : State) (k : Nat) (r : Req) (size data : Nat) : State :=
  let key := r.elem
  let entry (scratch : Bool) (a : Nat) (via : Option Nat) : StoreEntry :=
    { elem := key, id := r.id, scratch := scratch, addr := a, size := size, data := data, cls := r.cls,
      reads := r.reads, word := r.addr, slot := r.slot, via := via }
  let put (s : State) (x : StoreEntry) : State :=
    (s.modElem key (·.modPending r.id fun p => { p with performed := true })).modTile k fun t =>
      { t with sbuf := t.sbuf ++ [x] }
  if bits r.addr.toNat 28 4 == 0 then put s (entry true r.va none)
  else match (s.demand k key r.va).resolveReq k r .write with
    | (s, .status c) => s.failRequest key r.id c r.wave r.addr.toNat
    | (s, .home h via) => put s (entry false h.pa via)

/-- A prefetch of a virtual address starts a walk, and none of the walkers is free: it waits (09 R173, R188). -/
def prefetchWaits (s : State) (o : TlbOf) (bh va : Nat) (last : Option Nat) : Bool :=
  canonical va && (importSlot s bh va).isNone && last.any (fun d => d / 2 ^ 21 == va / 2 ^ 21)
    && !((s.tlb o ++ (s.bh bh).tlb2).any fun t => t.covers (loadFn s bh) (some (loadPasid s bh)) (va % 2 ^ 57)) && !walkerFree s bh

/-- A prefetch is performed: sent to its home, or dropped and counted (09 R188, 10 R197). -/
def State.performPrefetch (s : State) (k : Nat) (r : Req) : State :=
  let key := r.elem
  let bh := bhOf key
  let last := tget? (s.tile k).lastDemand (addrOf key)
  let (s, t) := s.prefetchTarget (.tile k) bh (loadFn s bh) (loadPasid s bh) r.va last
  match t with
  | some h =>
    if missFree s k then
      (s.modElem key (·.modPending r.id fun p => { p with performed := true, miss := true })).sendHome h.key
        [{ src := .elem key, id := r.id, pa := h.pa, op := .prefetch, cls := r.cls, reads := r.reads, word := r.addr,
           fn := loadFn s bh }]
    else (s.countDrop k).modElem key (·.dropPending r.id)
  | none => (s.countDrop k).modElem key (·.dropPending r.id)

/-- The bank of a scratchpad access of an element accepts it: free, and wanted by none that comes first (09 R181). -/
def bankServes (s : State) (k off : Nat) : Bool := bankFree s k off && !bankWanted s k (bankOf off) rankElement

/-- What a performable request waits for, by its stall cause (09 R190): 2 a walk, 3 a miss-tracking entry, 4 room in the arrival
queue of its home, 5 a bank, 8 a free entry of the store buffer; 0 nothing. -/
def performWait (s : State) (k : Nat) (r : Req) : Nat :=
  let seg0 := bits r.addr.toNat 28 4 == 0
  let walk := !seg0 && r.walked.isNone && (!translated s k r.elem r.va || noWalker s (.tile k) (bhOf r.elem) r.va)
  let bh := bhOf r.elem
  match r.kind with
  | .load .. =>
    if seg0 then (if bankServes s k r.va then 0 else 5)
    else if walk then 2
    else if !missFree s k then 3
    else if homeFull s (.tile k) bh r.va then 4
    else 0
  | .store .. => if walk then 2 else if (s.tile k).sbuf.length < 16 then 0 else 8
  | .prefetch => if prefetchWaits s (.tile k) bh r.va (tget? (s.tile k).lastDemand (addrOf r.elem)) then 2 else 0
  | _ => 0

/-- A memory tile that performs a request serves in this cycle; an evaluator tile counts its elements (09 R190, R191; log 123). -/
def State.countServe (s : State) (k : Nat) : State := if k % 64 < 32 then s.countIssue k else s

/-- One request of a reorder buffer performed (14 R248): the chain moves first, the access follows. -/
def State.perform (s : State) (k i : Nat) (r : Req) : State :=
  let seen (size : Nat) (wr : Bool) (s : State) : State :=
    s.watch k
      { virtual_ := bits r.addr.toNat 28 4 != 0, addr := r.va, size := size, rd := !wr, wr := wr, word := r.addr,
        elem := some (r.elem, r.slot, r.wave) }
  let moved (s : State) : State := (s.countServe k).modTile k fun t => t.stepWave i r
  if performWait s k r != 0 then s
  else match r.kind with
  | .load size sgn => seen size false ((moved s).performLoad k r size sgn)
  | .store size data => seen size true ((moved s).performStore k r size data)
  | .prefetch => (moved s).performPrefetch k r
  | _ => (moved s).modElem r.elem (·.dropPending r.id)

/-- PERFORM_REQUEST (10 R199, 14 R248). -/
def execPerformRequest (tile index : Nat) (s : State) : Out :=
  let t := s.tile tile
  match t.wrb[index]? with
  | none => .next s
  | some r => if performable t index r then .next (s.perform tile index r) else .next s

/-- STORE_BUFFER_DRAIN (14 R248): the oldest entry is written to its bank, or enters its home's arrival queue. -/
def execStoreBufferDrain (tile : Nat) (s : State) : Out :=
  match (s.tile tile).sbuf with
  | [] => .next s
  | x :: rest =>
    let out (s : State) : State := s.modTile tile fun t => { t with sbuf := rest }
    if x.scratch then
      if !bankServes s tile x.addr then .next s
      else .next ((((out s).takeBank tile x.addr).scratchWrite tile x.addr x.data x.size kindElement false).modElem x.elem (·.dropPending x.id))
    else if !missFree s tile then .next s
    else match homeOf s x.addr with
      | none => .next ((out s).failRequest x.elem x.id 0x43 (s.waveOf x.elem x.id) x.word.toNat)
      | some h =>
        let q : HomeReq :=
          { src := .elem x.elem, id := x.id, pa := x.addr, op := .write x.size x.data, cls := x.cls, reads := x.reads,
            word := x.word, via := x.via, fn := loadFn s (bhOf x.elem) }
        if sliceFull s h.key then .next s
        else
        let s := (out s).sendHome h.key [q]
        .next (s.modElem x.elem (·.modPending x.id fun p => { p with miss := true, left := h.bh != bhOf x.elem }))

/-- PAGE_WALK (09 R173): a walk for a waiting load or store begins at a free walker, or ends: its translation is installed, or
its request keeps the code that it met. -/
def execPageWalk (tile index : Nat) (s : State) : Out :=
  match (s.tile tile).wrb[index]? with
  | none => .next s
  | some r =>
    let bh := bhOf r.elem
    let walking (s : State) (l : List Nat) : State := s.modBh bh fun b => { b with walks := l }
    if performWait s tile r != 2 || translated s tile r.elem r.va then .next (walking s ((s.bh bh).walks.filter (· != r.id)))
    else if (s.bh bh).walks.contains r.id then
      match (walking s ((s.bh bh).walks.filter (· != r.id))).lookup (.tile tile) bh (loadFn s bh) (loadPasid s bh) r.va with
      | (s, .ok _) => .next s
      | (s, .error c) => .next (s.modTile tile fun t => { t with wrb := modifyAt t.wrb index fun q => { q with walked := some c } })
    else if walkerFree s bh then .next (walking s ((s.bh bh).walks ++ [r.id]))
    else .next s

/-! ## Return (14 R248, 10 R194, R196, 15 R271, R277, R279) -/

/-- A request ends with a value and a fault beside it: the value is written, an issue that holds for it ends, and the
fault is raised. -/
def State.finishFaulted (s : State) (key id v : Nat) (exc : Bool) (f : Elem → Elem) (code detail addr : Nat) : State :=
  match s.elem? key with
  | none => s
  | some e =>
    match e.pending? id with
    | none => s
    | some p =>
      if p.void then s.setElem key (e.dropPending id)
      else
      let e := f (e.dropPending id)
      match p.dest with
      | .operand o =>
        s.faultBeat key (e.writeReply (sparsePorts s key) o p.wide (p.exc || exc) v) p.slot code false detail addr
      | .port n => ((s.setElem key (e.fill n id v p.wide exc)).raiseElem key p.slot code true detail addr).deliverSelf key
      | .none => (s.setElem key e).raiseElem key p.slot code true detail addr

/-- The reply registers after a class-A reply (15 R279). -/
def Elem.setReply (status : Nat) (old : Option Nat) (e : Elem) : Elem :=
  match old with
  | none => { e with astat := BitVec.ofNat 8 status }
  | some v => { e with astat := BitVec.ofNat 8 status, aold := loWord v, aohi := hiWord v }

/-- A reply is written at its element. Of an atomic that fails, dst takes 0 (15 R271), through a window too, where 04 R64 has it take
the status (log 92, DEDUCED). -/
def State.takeReply (s : State) (r : Reply) : State :=
  match s.elem? r.elem with
  | none => s
  | some e =>
    match e.pending? r.id with
    | none => s
    | some p =>
      let addr := r.addr.toNat
      match p.kind with
      | .amo .. =>
        let f := Elem.setReply r.status (some r.value)
        let v := if r.status == 0 then r.value % 2 ^ 32 else 0
        if r.status == 0x04 then s.finishFaulted r.elem r.id v true f 0x04 p.slot addr
        else s.finishRequest r.elem r.id v r.flags.isFloat r.flags f
      | .amoc .. =>
        let f := Elem.setReply r.status (some r.value)
        if r.status == 0x04 || r.status == 0x03 then
          s.finishFaulted r.elem r.id r.status (r.status == 0x04) f r.status p.slot addr
        else s.finishRequest r.elem r.id r.status false 0 f
      | .sems .. => s.finishRequest r.elem r.id r.status false 0 (Elem.setReply r.status none)
      | .semw .. => s.finishRequest r.elem r.id r.status false 0 (Elem.setReply r.status none)
      | .arrive .. => s.finishRequest r.elem r.id r.status false 0 (Elem.setReply r.status none)
      | .ask .. => s.finishRequest r.elem r.id r.value false 0 id
      | _ =>
        if r.status == 0 then s.finishRequest r.elem r.id r.value false 0 id
        else if r.status == 0x04 then s.finishFaulted r.elem r.id 0 true id 0x04 p.wave addr
        else s.failRequest r.elem r.id r.status p.wave addr

/-- The source that a reply goes to: a tile, a sequencer or an island (14 R250). -/
def Reply.source (r : Reply) (bh : Nat) : Nat × Nat :=
  match r.piece with
  | none => Source.line (.elem r.elem)
  | some _ => Source.line (.engine bh r.elem)

/-- An earlier reply of the list comes from the same point of coherence to the same source (14 R250). -/
def replyBehind (bh : Nat) (l : List Reply) (r : Reply) : Bool :=
  r.point.isSome && l.any fun x => x.point == r.point && x.source bh == r.source bh

/-- REPLY_RETURN (14 R248): a reply reaches its element or engine, in the order in which its point of coherence sent them
(14 R250); one for a request that is gone is discarded (15 R276). -/
def execReplyReturn (bh index : Nat) (s : State) : Out :=
  match (s.bh bh).replies[index]? with
  | none => .next s
  | some r =>
    if replyBehind bh ((s.bh bh).replies.take index) r then .next s
    else
      let s := s.modBh bh fun b => { b with replies := removeAt b.replies index }
      match r.piece with
      | none => .next (s.takeReply r)
      | some p => .next (s.takePiece r.id p { value := r.value % 2 ^ 64, poison := bit r.value 64, status := r.status })

/-! ## Fences (14 R251, R256, R258) -/

/-- A predecessor is complete at a scope (14 R251). -/
def predComplete (e : Elem) (scope id : Nat) : Bool :=
  match e.pending? id with
  | none => true
  | some p =>
    match scope with
    | 0 => p.isStore && p.performed
    | 1 => p.left
    | _ => false

/-- The dirty lines behind the CXL ports, by slice. -/
def dirtyCxl (s : State) : List (Nat × CacheLine) :=
  s.slices.flatMap fun p => (p.2.cache.filter fun l => l.cxl && l.dirty).map fun l => (p.1, l)

/-- The link of a cached line's CXL port is up. -/
def lineLinkUp (s : State) (l : CacheLine) : Bool := bit s.cxl.toNat (if 0x2020000000000 ≤ l.line * 256 then 1 else 0)

/-- Writes back one dirty line and keeps it, clean. -/
def State.cleanLine (s : State) (k : Nat) (l : CacheLine) : State :=
  (s.writeBack l).modSlice k fun x =>
    { x with cache := x.cache.map fun y => if y.line == l.line then { y with dirty := false, writers := [] } else y }

/-- The dirty lines behind CXL ports that accesses of a fence's predecessor classes have written: those of the element's own
stores, and those of the engines of its bulkhead, which its commands ran on (14 R251). -/
def fenceLines (s : State) (elem : Nat) (f : Fence) : List (Nat × CacheLine) :=
  let by_ (x : Source) : Bool := match x with
    | .elem key => key == elem && bit f.pred.toNat 1
    | .engine b _ => b == bhOf elem && (bit f.pred.toNat 3 || bit f.pred.toNat 5)
    | .remote .. => false
  if f.scope == 3 then (dirtyCxl s).filter fun p => p.2.writers.any by_ else []

/-- FENCE_COMPLETE (14 R256): every predecessor is complete at the scope; at system scope the lines behind CXL ports that they
have written are written to their expanders first, once their links are up. -/
def execFenceComplete (elem : Nat) (s : State) : Out :=
  match s.elem? elem with
  | none => .next s
  | some e =>
    match e.fence with
    | none => .next s
    | some f =>
      if f.preds.all (predComplete e f.scope) && (fenceLines s elem f).all fun p => lineLinkUp s p.2 then
        .next (((fenceLines s elem f).foldl (fun s p => s.cleanLine p.1 p.2) s).modElem elem fun e => { e with fence := none })
      else .next s

/-- FENCEH_REPLY (14 R258): once every marked entry has been applied the requester gets its status. -/
def execFencehReply (bh index : Nat) (s : State) : Out :=
  match (s.bh bh).fencehs[index]? with
  | none => .next s
  | some w =>
    let waiting := w.marked.any fun m => match s.elem? m.1 with
      | none => false
      | some e => (e.pending? m.2).isSome
    if waiting then .next s
    else
      let s := s.modBh bh fun b => { b with fencehs := removeAt b.fencehs index }
      .next (s.finishRequest w.elem w.id w.status false 0 id)

/-! ## Pages and retirement -/

/-- Reads the pieces of a page image, which a mark does not stop (17 R319, 19 R331); what window traffic finds poisoned has status
POISON (04 R64). -/
def State.fetchPieces (s : State) (window : Bool) (cls reads : Nat) : List Nat → State × Option (List Byte)
  | [] => (s, some [])
  | pa :: l =>
    let (s, x) := s.access { place := .phys pa, size := 8, need := .exec, cls := cls, reads := reads }
    if x.status != 0 || (window && x.poison) then (s, none)
    else match s.fetchPieces window cls reads l with
      | (s, none) => (s, none)
      | (s, some bs) => (s, some (bytesOf x.value 8 ++ bs))

/-- Page n of an element fails (17 R319): PGSTAT, and the fault PAGE_REJECTED. -/
def State.rejectPage (s : State) (key id page cause slot addr : Nat) : State :=
  (s.modElem key fun e =>
    { e with pgcause := BitVec.ofNat 4 cause, pgslot := BitVec.ofNat 5 slot, pgpage := BitVec.ofNat 2 page }).failRequest
      key id 0x4D ((s.elem? key).elim 0 fun e => (e.pending? id).elim 0 Pending.slot) addr

/-- Page n comes into force from the cycle after the beat (17 R319). -/
def State.selectPage (s : State) (key req page : Nat) (install : Option Page) : State :=
  let f (e : Elem) : Elem := match install with
    | none => e
    | some p => { e with pages := e.pages.set page (some p), stale := e.stale &&& ~~~(BitVec.ofNat 4 (2 ^ page)) }
  (s.finishRequest key req 0 false 0 id).modElem key fun e => ({ f e with sel := page } : Elem).expose

/-- A setpg that has handed over selects its page, or fetches and installs it (17 R319). A page image whose reserved bytes are not 0
fails with cause 5 and slot 0, before its slots (log 135, DESIGN CHOICE). -/
def State.fetchPage (s : State) (elem : Nat) (e : Elem) (p : Pending) : State :=
  match p.kind with
  | .setpg n pga _ bad cls reads =>
    if e.freshPage n then s.selectPage elem p.id n none
    else if pga == 0 then s.rejectPage elem p.id n 1 0 0
    else if bad != 0 then s.rejectPage elem p.id n 2 0 pga.toNat
    else match s.fetchPieces p.via.isSome cls reads p.pieces with
      | (s, none) => s.rejectPage elem p.id n 2 0 pga.toNat
      | (s, some bs) =>
        let (page, reserved) := parsePage bs
        if reserved then s.rejectPage elem p.id n 5 0 pga.toNat
        else match page.firstBad (elemKind elem) true with
          | some (c, slot) => s.rejectPage elem p.id n c slot pga.toNat
          | none => s.selectPage elem p.id n (some page)
  | _ => s

/-- PAGE_FETCH_INSTALL (17 R319): one attempt; the fetch is a step of the evaluator tile's engine (14 R248). -/
def execPageFetchInstall (elem : Nat) (s : State) : Out :=
  match s.elem? elem with
  | none => .next s
  | some e =>
    match e.pending.find? fun p => p.handedOver && match p.kind with
      | .setpg .. => true
      | _ => false with
    | none => .next s
    | some p => .next (s.attempt (pageWork elem) (bhOf elem) (38 + colOf elem) rankElement fun s => (s.fetchPage elem e p, ())).1

/-- ELEMENT_RETIRE (21 R345). -/
def execElementRetire (elem : Nat) (s : State) : Out :=
  match s.elem? elem with
  | none => .next s
  | some e =>
    if e.done && e.issue.isNone && e.issueq.isEmpty && e.sendq.isEmpty && e.pending.all (fun p => p.dest == .none) then
      .next (s.setElem elem { e with retired := true })
    else .next s

end Sys2Proof.Machine
end

