-- ==== Sys2Proof/Machine/Sequencer.lean ====
section
/-!
DEFINITION. The sequencer of a memory tile: its streams, consumers and feeders (10 R203-R206, 09 R185-R188), guarded
allocations (10 R207), hardware loops (10 R208, R209), semaphores (15 R286), and the commands that its queue serves
(10 R201, R202). A meaning is one attempt of the command: a command that waits leaves the state as it is.
-/
namespace Sys2Proof.Machine
open Sys2Proof

/-! ## Running a command (10 R201) -/

/-- How an attempt of a command ends. -/
inductive SeqStop where
  /-- It is executed. -/
  | done
  /-- It is executed; the queued command it came from completes with a run. -/
  | kept
  /-- It is executed, and the static program goes on at an index. -/
  | jump (n : Nat)
  /-- It waits. -/
  | wait
  deriving DecidableEq, Repr

structure SeqResult where
  s : State
  stop : SeqStop := .done

/-- A part that has started may go on: its load is resident and has not retired (21 R346), the bulkhead is not frozen or in
reset. A sweep waits for it. -/
def drainRuns (s : State) (bh : Nat) : Bool :=
  (s.bh bh).load.isSome && !(s.bh bh).ret && !(s.bh bh).frozen && !(s.bh bh).parked && (s.bh bh).state == 6

/-- Queued work may start: no sweep, or a reconfiguration sweep, which waits for it (12 R238, 14 R261). -/
def startRuns (s : State) (bh : Nat) : Bool :=
  drainRuns s bh && match (s.bh bh).sweep with
    | none => true
    | some x => x.kind == .reconfigure

/-- The engines of a bulkhead may act: it is resident, not frozen or in reset, and no sweep is passing it. -/
def enginesRun (s : State) (bh : Nat) : Bool := drainRuns s bh && (s.bh bh).sweep.isNone

/-- The engines of a tile may act. -/
def tileRuns (s : State) (k : Nat) : Bool :=
  enginesRun s (k / 64) && !(s.tile k).killed && !(s.tile k).drained

/-- The tile moves the pairs of its elements into streamer queues, whether or not its sequencer has been stopped by a kill (06 R391, 19
R324). -/
def pairsMove (s : State) (k : Nat) : Bool := enginesRun s (k / 64) && !(s.tile k).drained

/-- A fault of a sequencer or of its streams: its walk starts at the tile (10 R202). -/
def State.seqFault (s : State) (k code addr : Nat) : State := s.raiseEngine (k / 64) (k % 64) .tile code 0 addr false

/-- A pushed command has completed (14 R251). -/
def State.dropOwner (s : State) (o : Option (Nat × Nat)) : State :=
  match o with
  | none => s
  | some (elem, id) => s.modElem elem (·.dropPending id)

/-- The pushed command that is being executed, if it is one. -/
def Tile.owner (t : Tile) : Option (Nat × Nat) :=
  match t.current with
  | none => none
  | some c => if c.id == 0 then none else some (c.elem, c.id)

/-- One hardware loop after the command at index i has run: the loop, and the index to go on at (10 R208). -/
def HwLoop.endOfBody (l : HwLoop) (i : Nat) : HwLoop × Option Nat :=
  if l.isOpen && l.stop == i then
    if l.rc == 0 then ({ l with isOpen := false }, none) else ({ l with rc := l.rc - 1 }, some l.start)
  else (l, none)

/-- The sequencer after its static command: lp1 lies inside lp0, so it is tested first (10 R208). -/
def Tile.nextIndex (t : Tile) : Tile :=
  let (l1, n1) := (tget t.loops 1 {}).endOfBody t.index
  let t := { t with loops := tset t.loops 1 l1 }
  match n1 with
  | some n => { t with index := n }
  | none =>
    let (l0, n0) := (tget t.loops 0 {}).endOfBody t.index
    { t with loops := tset t.loops 0 l0, index := n0.getD (t.index + 1) }

/-- The static program has ended: the sequencer serves its command queue (10 R201). -/
def Tile.serving (t : Tile) : Bool := t.halted || decide (t.program.length ≤ t.index)

/-- A command has been executed: a queued one leaves, and the qwait it stood for is over. -/
def State.seqEnd (s : State) (k : Nat) (jump : Option Nat) (kept : Bool) : State :=
  let t := s.tile k
  let s := (s.countIssue k).modTile k fun t => { t with seqAt := s.cycle + 1 }
  match t.current with
  | some _ =>
    let s := if kept then s else s.dropOwner t.owner
    s.modTile k fun t => let t := { t with current := none }; if t.serving then t else t.nextIndex
  | none =>
    s.modTile k fun t => match jump with
      | some n => { t with index := n }
      | none => if t.halted then t else t.nextIndex

/-- One attempt of a sequencer command in the tile in focus. -/
def seqRun (body : State → Nat → Tile → SeqResult) (s : State) : Out :=
  match s.focus with
  | .sequencer k =>
    match tget? s.tiles k with
    | none => .fault .noAgent
    | some t =>
      if tileRuns s k && !(t.current.isNone && t.serving) then
        let y := body s k t
        match y.stop with
        | .done => .next (y.s.seqEnd k none false)
        | .kept => .next (y.s.seqEnd k none true)
        | .jump n => .next (y.s.seqEnd k (some n) false)
        | .wait => .next y.s
      else .next s
  | _ => .fault .noAgent

/-- A command that a queue may not hold raises SEQ_FAULT there (10 R202). -/
def staticOnly (body : State → Nat → Tile → SeqResult) (s : State) (k : Nat) (t : Tile) : SeqResult :=
  if t.current.isSome then { s := s.seqFault k 0x48 0 } else body s k t

/-- A queued command that no form of 10 R202 fits: SEQ_FAULT, and it is discarded. -/
def State.seqIllegal (s : State) (k : Nat) : State := (s.seqFault k 0x48 0).seqEnd k none false

/-! ## Streams (10 R203) -/

def Tile.stream (t : Tile) (st : Nat) : Stream := tget t.streams st {}
def State.modStream (s : State) (k st : Nat) (f : Stream → Stream) : State :=
  s.modTile k fun t => { t with streams := tset t.streams st (f (t.stream st)) }

/-- The address word of line j of a run: NB + 64·stride·j. -/
def lineWord (base : Word) (stride : Int) (j : Nat) : Word := BitVec.ofInt 32 (base.toNat + 64 * stride * j)

/-- A run starts: NB moves, the segments are read, and whoever waits for a run of the kind gets it. -/
def startRun (write : Bool) (st : Nat) (base : Word) (count : Nat) (stride : Int) : State → Nat → Tile → SeqResult :=
  fun s k t =>
    let x := t.stream st
    if x.run.isSome then { s := s, stop := .wait }
    else
      let s := s.modStream k st fun y => { y with nb := lineWord base stride count }
      let n := bits base.toNat 28 4
      if write && n != 0 && !bit (t.seg n).toNat 62 then { s := s.seqFault k 0x44 base.toNat }
      else
        let r : StreamRun :=
          { write := write, segs := t.segs, base := base, stride := stride, count := count, owner := t.owner }
        { s := s.modStream k st fun y =>
            if write then { y with run := some r, user := y.feed, feed := none }
            else { y with run := some r, user := y.waiting, waiting := none },
          stop := .kept }

/-- A signed stride of 12 bits. -/
def strideOf (w : BitVec 12) : Int := signed w.toNat 12

/-- STREAM_RD (10 R203). -/
def execStreamRd (st : BitVec 3) (base : Word) (count stride : BitVec 12) (s : State) : Out :=
  seqRun (startRun false st.toNat base (count.toNat + 1) (strideOf stride)) s
/-- STREAM_WR (10 R203). -/
def execStreamWr (st : BitVec 3) (base : Word) (count stride : BitVec 12) (s : State) : Out :=
  seqRun (startRun true st.toNat base (count.toNat + 1) (strideOf stride)) s
/-- SNEXT_RD (10 R203): a read run that continues from NB. -/
def execSnextRd (st : BitVec 3) (count stride : BitVec 12) (s : State) : Out :=
  seqRun (fun s k t =>
    startRun false st.toNat (t.stream st.toNat).nb (count.toNat + 1) (strideOf stride) s k t) s
/-- SNEXT_WR (10 R203): a write run that continues from NB. -/
def execSnextWr (st : BitVec 3) (count stride : BitVec 12) (s : State) : Out :=
  seqRun (fun s k t =>
    startRun true st.toNat (t.stream st.toNat).nb (count.toNat + 1) (strideOf stride) s k t) s
/-- SADD (10 R203): NB ← NB + 64·delta. -/
def execSadd (st : BitVec 3) (delta : Word) (s : State) : Out :=
  seqRun (fun s k _ => { s := s.modStream k st.toNat fun y => { y with nb := y.nb + 64 * delta } }) s

/-! ## Consumers and feeders (10 R204, R205) -/

/-- A read run of the stream may take a new consumer command now. -/
def Stream.consumerFree (x : Stream) : Bool :=
  x.waiting.isNone && match x.run with
    | some r => r.write || x.user.isNone
    | none => true
/-- A write run of the stream may take a new feeder command now. -/
def Stream.feederFree (x : Stream) : Bool :=
  x.feed.isNone && match x.run with
    | some r => !r.write || x.user.isNone
    | none => true

/-- The job takes the run of its kind that has nobody, or waits for one. -/
def Stream.attach (x : Stream) (write : Bool) (j : StreamJob) : Stream :=
  let now := match x.run with
    | some r => r.write == write && x.user.isNone
    | none => false
  if now then { x with user := some j } else if write then { x with feed := some j } else { x with waiting := some j }

/-- A job of another stream is taken off, wherever it stands. -/
def Stream.detach (x : Stream) (what : StreamUser) : Stream :=
  let off (j : Option StreamJob) : Option StreamJob := j.filter fun y => y.what != what
  { x with user := off x.user, waiting := off x.waiting, feed := off x.feed }

/-- The job of a stream ends: the pushed command it came from is complete, and an spcopy ends at its other stream too. -/
def State.endJob (s : State) (k st : Nat) (j : StreamJob) : State :=
  let s := (s.modStream k st (·.detach j.what)).dropOwner j.owner
  match j.what with
  | .copyTo d => s.modStream k d (·.detach (.copyFrom st))
  | .copyFrom d => s.modStream k d (·.detach (.copyTo st))
  | _ => s

/-- The run of a stream ends, and its consumer or feeder with it. -/
def State.endRun (s : State) (k st : Nat) : State :=
  let x := (s.tile k).stream st
  let s := match x.run with
    | some r => ((s.dropStream k st).modStream k st fun y => { y with run := none }).dropOwner r.owner
    | none => s
  match x.user with
  | some j => s.endJob k st j
  | none => s

/-- A consumer or feeder command of one stream. -/
def attachBody (write : Bool) (st : Nat) (what : StreamUser) : State → Nat → Tile → SeqResult := fun s k t =>
  let x := t.stream st
  if if write then x.feederFree else x.consumerFree then
    { s := s.modStream k st (·.attach write { what := what, owner := t.owner }), stop := .kept }
  else { s := s, stop := .wait }

/-- A binding of a kind, by its index. -/
def Tile.bound (t : Tile) (kind index : Nat) : Bool :=
  match t.bindings[index]? with
  | none => false
  | some b => b.kind == kind

/-- The ring of an island of a bulkhead (12 R221). -/
def State.ring (s : State) (bh island ring : Nat) : Ring := tget (s.island (4 * bh + island)).rings ring {}

/-- DELIVER (10 R204). -/
def execDeliver (st : BitVec 3) (port : BitVec 4) (row : BitVec 12) (level : BitVec 3) (s : State) : Out :=
  seqRun (fun s k t =>
    if t.bound 1 port.toNat then attachBody false st.toNat (.deliver port.toNat row.toNat level.toNat 0 []) s k t
    else { s := s.seqFault k 0x48 0 }) s

/-- PUSH (10 R204): bytes must be a multiple of the tile size of a bound ring. -/
def execPush (island : BitVec 2) (ring st : BitVec 3) (bytes : BitVec 12) (s : State) : Out :=
  seqRun (fun s k t =>
    let r := s.ring (k / 64) island.toNat ring.toNat
    if r.bound && (bytes.toNat + 1) % (r.tlines + 1) == 0 then
      attachBody false st.toNat (.push island.toNat ring.toNat (bytes.toNat + 1) 0) s k t
    else { s := s.seqFault k 0x48 0 }) s

/-- ACCEPT (10 R205). -/
def execAccept (st : BitVec 3) (port : BitVec 4) (s : State) : Out :=
  seqRun (fun s k t =>
    if t.bound 2 port.toNat then attachBody true st.toNat (.accept port.toNat []) s k t
    else { s := s.seqFault k 0x48 0 }) s

/-- SPCOPY (10 R204): the consumer of one stream and the feeder of another. -/
def execSpcopy (sta stb : BitVec 3) (s : State) : Out :=
  seqRun (fun s k t =>
    if (t.stream stb.toNat).consumerFree && (t.stream sta.toNat).feederFree then
      let s := s.modStream k stb.toNat (·.attach false { what := .copyTo sta.toNat, owner := t.owner })
      { s := s.modStream k sta.toNat (·.attach true { what := .copyFrom stb.toNat, owner := t.owner }), stop := .kept }
    else { s := s, stop := .wait }) s

/-! ## Line accesses (09 R178, R187, 10 R203-R205, 19 R331) -/

/-- The access of a line by a stream. -/
def lineAccess (k : Nat) (x : Checked) (w : Word) : Access :=
  { place := if x.seg0 then .scratch k x.va else .va x.va, size := 64, cls := x.cls, reads := x.reads, kind := kindStream,
    word := w, seen := x.va }

/-- The address word of a line, checked against the segments that its run has read. -/
def State.lineCheck (s : State) (k : Nat) (segs : Tab DWord) (w : Word) (write : Bool) : Except Nat Checked :=
  ({ s.tile k with segs := segs } : Tile).checkAddr false w 64 write

/-- One line read at an address word: value and poison mark, or the code it meets. -/
def State.lineRead (s : State) (k : Nat) (segs : Tab DWord) (w : Word) : State × Except Nat (Nat × Bool) :=
  match s.lineCheck k segs w false with
  | .error c => (s, .error c)
  | .ok x =>
    let (s, r) := s.access (lineAccess k x w)
    (s, if r.status == 0 then .ok (r.value, r.poison) else .error r.status)

/-- One line written at an address word: the code it meets, or 0. -/
def State.lineWrite (s : State) (k : Nat) (segs : Tab DWord) (w : Word) (v : Nat) (poison : Bool) : State × Nat :=
  match s.lineCheck k segs w true with
  | .error c => (s, c)
  | .ok x =>
    let (s, r) := s.access { lineAccess k x w with need := .write, value := v, mark := poison }
    (s, r.status)

/-- No fault that was met ahead keeps a line from being read. -/
def StreamRun.isOpen (r : StreamRun) (j : Nat) : Bool :=
  match r.fault with
  | none => true
  | some (f, _) => decide (j < f)

def StreamRun.holds (r : StreamRun) (j : Nat) : Bool := r.window.any fun x => x.1 == j

/-- Line j may be read now: lines are issued in order, and those of a scratchpad are served in order too (09 R181, R187). -/
def State.mayRead (s : State) (k st j : Nat) (r : StreamRun) : Bool :=
  let seg0 : Bool := bits (lineWord r.base r.stride j).toNat 28 4 == 0
  decide (j < r.count) && !r.holds j && (workBegun s (lineWork k st j) || r.isOpen j) &&
    (List.range (j - r.taken)).all fun i =>
      r.holds (r.taken + i) || (!seg0 && workBegun s (lineWork k st (r.taken + i)))

/-- A read run reads a line ahead of its consumer; a fault met ahead waits at its line, and lines after it are not read
(09 R187). -/
def State.readAhead (s : State) (k st j : Nat) (r : StreamRun) : State :=
  let put (s : State) (r : StreamRun) : State := s.modStream k st fun y => { y with run := some r }
  if s.mayRead k st j r then
    let w := lineWord r.base r.stride j
    let s := match s.lineCheck k r.segs w false with
      | .ok x => if x.seg0 then s else s.modTile k fun t => { t with lastDemand := tset t.lastDemand (0x10000 + st) x.va }
      | .error _ => s
    match s.lineRead k r.segs w with
    | (s, .ok (v, p)) => if r.isOpen j then put s { r with window := r.window ++ [(j, v, p)] } else s
    | (s, .error c) =>
      if r.isOpen j then put s { r with fault := some (j, c), window := r.window.filter fun x => x.1 < j } else s
  else s

/-- What a consumer meets at its next line. -/
inductive NextLine where
  | line (v : Nat) (poison : Bool)
  | faulted (code : Nat)
  | none

def StreamRun.next (r : StreamRun) : NextLine :=
  match r.window.find? fun x => x.1 == r.taken with
  | some (_, v, p) => .line v p
  | none => match r.fault with
    | some (j, c) => if j == r.taken then .faulted c else .none
    | none => .none

/-- The run after its consumer has taken a line. -/
def StreamRun.took (r : StreamRun) : StreamRun :=
  { r with taken := r.taken + 1, window := r.window.filter fun x => x.1 != r.taken }

/-- The consumer reaches a line that met a fault: it is raised, and the run ends (10 R203). -/
def State.lineFault (s : State) (k st code : Nat) (r : StreamRun) : State :=
  (s.seqFault k code (lineWord r.base r.stride r.taken).toNat).endRun k st

/-- The tokens of one line with its selvages: data tokens, a level-1 selvage after every full row; at the end of the run
one after a partial row and the end selvage (10 R204). Answers the tokens and how many of the row have been sent. -/
def lineTokens (row sent v : Nat) (poison : Bool) : Nat → List Token × Nat
  | 0 => ([], sent)
  | n + 1 =>
    let (l, sent) := lineTokens row sent v poison n
    let t : Token := if poison then { data := 0, tag := mkTag 0 true } else { data := loWord (v / 2 ^ (32 * n)) }
    if row != 0 && sent + 1 == row then (l ++ [t, { data := 0, tag := mkTag 1 false }], 0) else (l ++ [t], sent + 1)

def endTokens (row level sent : Nat) : List Token :=
  (if row != 0 && sent != 0 then [{ data := 0, tag := mkTag 1 false }] else [])
    ++ (if 2 ≤ level || (level == 1 && row == 0) then [{ data := 0, tag := mkTag level false }] else [])

/-- deliver's move: the next token enters its port, or the next line is taken. -/
def State.deliverMove (s : State) (k st : Nat) (r : StreamRun) (j : StreamJob) (b row level sent : Nat)
    (queue : List Token) : State :=
  let put (s : State) (r : StreamRun) (sent : Nat) (q : List Token) : State :=
    s.modStream k st fun y => { y with run := some r, user := some { j with what := .deliver b row level sent q } }
  match queue with
  | t :: q =>
    match (s.tile k).bindings[b]? with
    | none => s
    | some x =>
      let l : Link := { prod := 0, prodPort := 0, cons := x.elem, consPort := x.port, sparse := false }
      if consumerRoom s (k / 64) l then put (s.acceptToken (k / 64) 0 l t) r sent q else s
  | [] =>
    match r.next with
    | .line v p =>
      let s := if p then s.seqFault k 0x04 (lineWord r.base r.stride r.taken).toNat else s
      let (l, sent) := lineTokens row sent v p 16
      let r := r.took
      put s r sent (if r.taken == r.count then l ++ endTokens row level sent else l)
    | .faulted c => s.lineFault k st c r
    | .none => s

/-- A read run whose consumer has taken its last line is complete (10 R203). -/
def State.endTaken (s : State) (k st : Nat) : State :=
  match ((s.tile k).stream st).run with
  | none => s
  | some r => if r.count ≤ r.taken then s.endRun k st else s

/-- push's move: the next line is written into the slot at the ring's tail, which advances with a whole tile (10 R204,
12 R222). -/
def State.pushMove (s : State) (k st : Nat) (r : StreamRun) (j : StreamJob) (island ring lines filled : Nat) : State :=
  let bh := k / 64
  let x := s.ring bh island ring
  if x.depth ≤ x.count then s
  else match r.next with
    | .line v p =>
      let off := x.base * 64 + (x.tail * (x.tlines + 1) + filled) * 64
      let tile := 64 * bh + 8 * x.mcol + 2 * island + x.rsel
      let (s, _) := s.access
        { place := .scratch tile off, size := 64, need := .write, value := v, mark := p, kind := kindStream,
          word := BitVec.ofNat 32 off, seen := off }
      let full := filled == x.tlines
      let s := if full then
          s.modIsland (4 * bh + island) fun y =>
            { y with rings := tset y.rings ring { x with tail := (x.tail + 1) % x.depth, count := x.count + 1 } }
        else s
      let j := { j with what := .push island ring (lines - 1) (if full then 0 else filled + 1) }
      let s := (s.modStream k st fun y => { y with run := some r.took, user := some j }).endTaken k st
      if decide (lines ≤ 1) && ((s.tile k).stream st).user == some j then s.endJob k st j else s
    | .faulted c => s.lineFault k st c r
    | .none => s

/-- A write run writes its next line, and is complete after the last one; a fault is raised at once and ends the run. -/
def State.feedLine (s : State) (k st v : Nat) (poison : Bool) (r : StreamRun) : State :=
  let w := lineWord r.base r.stride r.taken
  match s.lineWrite k r.segs w v poison with
  | (s, 0) => (s.modStream k st fun y => { y with run := some { r with taken := r.taken + 1 } }).endTaken k st
  | (s, c) => (s.seqFault k c w.toNat).endRun k st

/-- spcopy's move from a read stream to a write stream, both of which it holds. -/
def State.copyMove (s : State) (k src dst : Nat) (r : StreamRun) : State :=
  let d := (s.tile k).stream dst
  match d.run, d.user with
  | some w, some j =>
    if w.write && j.what == .copyFrom src && decide (w.taken < w.count) then
      match r.next with
      | .line v p => ((s.feedLine k dst v p w).modStream k src fun y => { y with run := some r.took }).endTaken k src
      | .faulted c => s.lineFault k src c r
      | .none => s
    else s
  | _, _ => s

/-- The 64 bytes of sixteen words. -/
def natOfWords : List Word → Nat
  | [] => 0
  | w :: ws => w.toNat + 2 ^ 32 * natOfWords ws

/-- accept's move: a whole line of sixteen words is written. -/
def State.acceptMove (s : State) (k st : Nat) (r : StreamRun) (j : StreamJob) (b : Nat) (words : List Word) : State :=
  if words.length == 16 && decide (r.taken < r.count) then
    (s.modStream k st fun y => { y with user := some { j with what := .accept b [] } }).feedLine k st (natOfWords words) false r
  else s

/-- A move of a stream counts as the sequencer's ISSUE (09 R190); a stream that could not move counts nothing. -/
def State.countMove (t s : State) (tile st : Nat) : State :=
  if (t.tile tile).stream st == (s.tile tile).stream st then t else t.countIssue tile

/-- The next move of the consumer or feeder of a stream. -/
def State.moveLine (s : State) (tile st : Nat) (r : StreamRun) (j : StreamJob) : State :=
  match j.what with
  | .deliver b row level sent q => s.deliverMove tile st r j b row level sent q
  | .push i n lines filled => s.pushMove tile st r j i n lines filled
  | .copyTo d => s.copyMove tile st d r
  | .accept b ws => s.acceptMove tile st r j b ws
  | .copyFrom src =>
    match ((s.tile tile).stream src).run, ((s.tile tile).stream src).user with
    | some q, some y => if !q.write && y.what == .copyTo st then s.copyMove tile src st q else s
    | _, _ => s

/-- The stream that a move is made for: the source of an spcopy. -/
def StreamUser.mover (st : Nat) : StreamUser → Nat
  | .copyFrom src => src
  | _ => st

/-- The place of a move in the order of a bank (09 R181). -/
def StreamUser.rank (st : Nat) : StreamUser → Nat
  | .push .. => rankPush
  | _ => rankStream st

/-- A step of a stream: one attempt of it, which a sweep waits for once it has begun (14 R261). -/
def streamStep (tile st key rank : Nat) (body : State → State) (s : State) : Out :=
  if tileRuns s tile || (drainRuns s (tile / 64) && workBegun s key) then
    match s.attempt key (tile / 64) (tile % 64) rank fun s => (body s, ()) with
    | (t, none) => .next t
    | (t, some _) => .next (t.countMove s tile st)
  else .next s

/-- STREAM_LINE_ACCESS (10 R203): `ahead` below 64 reads that line ahead of the consumer; 64 is the next move of the
consumer or feeder. -/
def execStreamLineAccess (tile st ahead : Nat) (s : State) : Out :=
  let x := (s.tile tile).stream st
  match x.run with
  | none => .next s
  | some r =>
    if !r.write && decide (ahead < 64) then
      streamStep tile st (lineWork tile st (r.taken + ahead)) (rankStream st) (fun s => s.readAhead tile st (r.taken + ahead) r) s
    else match x.user with
      | none => .next s
      | some j => streamStep tile st (moveWork tile (j.what.mover st)) (j.what.rank st) (fun s => s.moveLine tile st r j) s

/-- The tokens of deliver's last line have entered the port. -/
def StreamUser.flushed : StreamUser → Bool
  | .deliver _ _ _ _ q => q.isEmpty
  | _ => true

/-- RUN_COMPLETE (10 R203): every line has been taken, or written and acknowledged. -/
def execRunComplete (tile st : Nat) (s : State) : Out :=
  let x := (s.tile tile).stream st
  match x.run with
  | none => .next s
  | some r =>
    let flushed := match x.user with
      | none => true
      | some j => j.what.flushed
    if r.taken == r.count && flushed then .next (s.endRun tile st) else .next s

/-- A prefetch of a stream leaves for its home, holding a miss-tracking entry (09 R188, R189). -/
def State.sendPrefetch (s : State) (tile st : Nat) (h : Home) (c : Checked) : State :=
  let bh := tile / 64
  let w : Work :=
    { s.newWork bh (tile % 64) rankPrefetch with
      now := some { place := .phys h.pa, size := 64 }, line := some (h.pa / 256), left := [0] }
  let q : HomeReq :=
    { src := .engine bh (tile % 64), id := w.serial, pa := h.pa, op := .prefetch, cls := c.cls, reads := c.reads, word := 0,
      fn := loadFn s bh }
  ({ s with nextId := s.nextId + 1 }.setWork (prefetchWork tile st) w).sendHome h.key [q]

/-- RUN_AHEAD_PREFETCH (09 R188): the next line beyond the demand window of 64, up to 192 lines further; its walk waits for a
walker (09 R173). -/
def execRunAheadPrefetch (tile st : Nat) (s : State) : Out :=
  let x := (s.tile tile).stream st
  match x.run with
  | none => .next s
  | some r =>
    let j := max r.prefetched (r.taken + 64)
    if r.write || !tileRuns s tile || decide (r.count ≤ j) || decide (r.taken + 256 ≤ j) || workBegun s (prefetchWork tile st)
    then .next s
    else
      let bh := tile / 64
      let last := tget? (s.tile tile).lastDemand (0x10000 + st)
      let c := ({ s.tile tile with segs := r.segs } : Tile).checkAddr false (lineWord r.base r.stride j) 64 false
      let waits : Bool := match c with
        | .error _ => false
        | .ok c => !c.seg0 && prefetchWaits s (.tile tile) bh c.va last
      if waits then .next s
      else
      let s := s.modStream tile st fun y => { y with run := some { r with prefetched := j + 1 } }
      match c with
      | .error _ => .next (s.countDrop tile)
      | .ok c =>
        if c.seg0 then .next s
        else
          match s.prefetchTarget (.tile tile) bh (loadFn s bh) (loadPasid s bh) c.va last with
          | (s, none) => .next (s.countDrop tile)
          | (s, some h) =>
            if lineFree s tile (h.pa / 256) then .next (s.sendPrefetch tile st h c) else .next (s.countDrop tile)

/-! ## Engine ports (06 R391, 10 R212, 13 R243) -/

/-- The two tokens at the head of an output port as a command, whose release (14 R252) has been met: its words, and the
number it completes under, 0 for tokens of another instruction. -/
def headPair (e : Elem) (port : Nat) : Option (Word × Word × Nat) :=
  match e.out.getD port [] with
  | .command a i :: .command b _ :: _ =>
    match e.pending? i with
    | none => some (a.data, b.data, i)
    | some p =>
      if e.pending.any fun q => p.covers.contains q.id then none else some (a.data, b.data, i)
  | .token a :: .token b :: _ => some (a.data, b.data, 0)
  | .token a :: .command b _ :: _ => some (a.data, b.data, 0)
  | .command a _ :: .token b :: _ => some (a.data, b.data, 0)
  | _ => none

def Elem.dropOut (e : Elem) (port n : Nat) : Elem := { e with out := modifyAt e.out port (·.drop n) }

/-- A pair at a STRM port moves to its streamer island (13 R243): the descriptor word is resolved with the segment
registers of the serving tile of that cycle. -/
def State.pairMove (s : State) (k : Nat) (b : Binding) : State :=
  let key := elemKey (k / 64) b.elem
  match s.elem? key with
  | none => s
  | some e =>
    match headPair e b.port with
    | none => s
    | some (hi, lo, id) =>
      let si := 2 * (k / 64) + b.island
      if 16 ≤ (s.streamer si).queue.length then s
      else
        let s := s.setElem key (e.dropOut b.port 2)
        let serving := servingTile key
        match (s.tile serving).checkAddr false lo 64 false with
        | .error c =>
          let slot := (e.pending? id).elim 0 Pending.slot
          (s.dropOwner (some (key, id))).raiseElem key slot c true slot lo.toNat
        | .ok x =>
          let q : EngineCmd :=
            { hi := hi, lo := lo, elem := key, id := id, va := x.va, tile := if x.seg0 then some serving else none }
          s.modStreamer si fun y => { y with queue := y.queue ++ [q] }

/-- One token of an ACCEPT port is taken for the line that an accept gathers: selvages are discarded, a flagged token goes
to the sink of its row (10 R205, 19 R333). -/
def State.acceptTake (s : State) (k index : Nat) (b : Binding) : State :=
  let key := elemKey (k / 64) b.elem
  let st := (List.range 8).find? fun st =>
    match ((s.tile k).stream st).user, ((s.tile k).stream st).run with
    | some j, some r => r.write && decide (r.taken < r.count) && match j.what with
      | .accept i ws => i == index && decide (ws.length < 16)
      | _ => false
    | _, _ => false
  match st, s.elem? key with
  | some st, some e =>
    match e.out.getD b.port [] with
    | .token t :: _ =>
      let s := s.setElem key (e.dropOut b.port 1)
      let s := s.sinkToken (k / 64) b.elem t
      if t.level != 0 then s
      else s.modStream k st fun y =>
        match y.user with
        | some j => match j.what with
          | .accept i ws => { y with user := some { j with what := .accept i (ws ++ [t.data]) } }
          | _ => y
        | none => y
    | _ => s
  | _, _ => s

/-- A pair of a CMDQ port enters the command queue of eight (10 R201, R212). -/
def State.commandTake (s : State) (k : Nat) (b : Binding) : State :=
  let key := elemKey (k / 64) b.elem
  match s.elem? key with
  | none => s
  | some e =>
    match headPair e b.port with
    | none => s
    | some (hi, lo, id) =>
      if 8 ≤ (s.tile k).cmdq.length then s
      else (s.setElem key (e.dropOut b.port 2)).modTile k fun t =>
        { t with cmdq := t.cmdq ++ [{ hi := hi, lo := lo, elem := key, id := id }] }

/-- ENGINE_PORT_TAKE (06 R391): the engine that a binding names takes what waits in its port. -/
def execEnginePortTake (tile binding : Nat) (s : State) : Out :=
  match (s.tile tile).bindings[binding]? with
  | none => .next s
  | some b =>
    match b.kind with
    | 0 => .next (if tileRuns s tile then s.commandTake tile b else s)
    | 2 => .next (if tileRuns s tile then s.acceptTake tile binding b else s)
    | 3 => .next (if pairsMove s tile && bit s.isl.toNat 1 then s.pairMove tile b else s)
    | _ => .next s

/-- STRM_PAIR_MOVE (13 R243). -/
def execStrmPairMove (tile binding : Nat) (s : State) : Out :=
  match (s.tile tile).bindings[binding]? with
  | none => .next s
  | some b => if pairsMove s tile && b.kind == 3 && bit s.isl.toNat 1 then .next (s.pairMove tile b) else .next s

/-! ## Barriers, signals and guards (10 R206, R207, 09 R182) -/

/-- The consumer of a run that ends where it stands: a deliver that has taken the last line sends what ends its row and its run (10
R204). -/
def StreamJob.atEnd (j : StreamJob) : StreamJob :=
  match j.what with
  | .deliver b row level sent q => { j with what := .deliver b row level sent (q ++ endTokens row level sent) }
  | _ => j

/-- A stream that a barrier names: a fault met ahead of the consumer is discarded, and the run ends with the last line before it
(09 R187; log 35). -/
def Stream.barred (x : Stream) : Stream :=
  match x.run with
  | none => x
  | some r => match r.fault with
    | some (j, _) =>
      { x with run := some { r with fault := none, count := j }, user := if j ≤ r.taken then x.user.map StreamJob.atEnd else x.user }
    | none => x

def State.barStreams (s : State) (k : Nat) (mask : Byte) : State :=
  (List.range 8).foldl (fun s st => if bit mask.toNat st then s.modStream k st Stream.barred else s) s

/-- Every run of the streams of a mask has completed. -/
def Tile.idle (t : Tile) (mask : Byte) : Bool :=
  (List.range 8).all fun st => !bit mask.toNat st || (t.stream st).run.isNone

/-- HALT (10 R201). -/
def execHalt (s : State) : Out :=
  seqRun (staticOnly fun s k _ => { s := s.modTile k fun t => { t with halted := true } }) s

/-- A BAR trace event of a sequencer (23 R364). -/
def State.traceBar (s : State) (k sub : Nat) (mask : Byte) (label : Nat) : State :=
  s.trace (k / 64) 2 sub (k % 64) (BitVec.ofNat 32 mask.toNat) (BitVec.ofNat 32 label)

/-- SBAR (10 R206). -/
def execSbar (mask : Byte) (s : State) : Out :=
  seqRun (fun s k t =>
    if t.idle mask then
      { s := ((s.modTile k fun t => { t with hold := .none }).traceBar k 1 mask 0).raiseGuard k }
    else
      let s := if t.hold == .bar then s else (s.modTile k fun t => { t with hold := .bar }).traceBar k 0 mask 0
      { s := s.barStreams k mask, stop := .wait }) s

/-- NOTIFY (10 R206): a class L shuttle with payload words 0 and the mask. -/
def execNotify (mask : Byte) (label : BitVec 7) (s : State) : Out :=
  seqRun (fun s k t =>
    if !t.idle mask then { s := s.barStreams k mask, stop := .wait }
    else match routeOf s (k / 64) label.toNat with
      | none => { s := s.seqFault k 0x47 0 }
      | some _ =>
        let x : Shuttle :=
          { classL := true, source := 0x20000 + k, label := label.toNat, w0 := 0, w1 := BitVec.ofNat 32 mask.toNat }
        { s := (s.modBh (k / 64) fun b => { b with shuttles := b.shuttles ++ [x] }).traceBar k 2 mask label.toNat }) s

/-- SSIG (10 R206, 15 R286). -/
def execSsig (sem : BitVec 10) (n : BitVec 16) (s : State) : Out :=
  seqRun (fun s k _ => { s := s.engineSignal (k / 64) (k % 64) sem.toNat n.toNat }) s

/-- A sequencer asks for its semaphore: it holds until granted, or for 64 cycles after SEM_BUSY (15 R286). -/
def State.seqWait (s : State) (k sem n : Nat) : State :=
  let (id, s) := s.newId
  (s.modTile k fun t => { t with hold := .swait sem n id }).sendEngineSem (k / 64) (k % 64) sem id (.semw sem n)

/-- SWAIT (10 R206). -/
def execSwait (sem : BitVec 10) (n : BitVec 16) (s : State) : Out :=
  seqRun (fun s k t =>
    match t.hold with
    | .granted => { s := s.modTile k fun t => { t with hold := .none } }
    | .none => { s := s.seqWait k sem.toNat n.toNat, stop := .wait }
    | _ => { s := s, stop := .wait }) s

/-- SWAIT_RETRY (15 R286). -/
def execSwaitRetry (tile : Nat) (s : State) : Out :=
  match (s.tile tile).hold with
  | .swaitBusy sem n c => if tileRuns s tile && decide (c ≤ s.cycle) then .next (s.seqWait tile sem n) else .next s
  | _ => .next s

/-- The two granules of a guarded allocation, as the offset of the first and of the second. -/
def granules (g : Nat × Nat) : List Nat := [g.1 - 64, g.1 + g.2]

/-- galloc's checks (10 R207). -/
def Tile.gallocBad (t : Tile) (g offset bytes : Nat) : Bool :=
  offset % 64 != 0 || bytes % 64 != 0 || bytes == 0 || decide (offset < 64) || decide (0x60000 < offset + bytes + 64)
    || (tget? t.guards g).isSome
    || t.guards.any fun p => (granules p.2).any fun a => (granules (offset, bytes)).any fun b => overlap a 64 b 64

/-- GALLOC (10 R207). -/
def execGalloc (g : BitVec 6) (offset bytes : BitVec 19) (s : State) : Out :=
  seqRun (fun s k t =>
    if t.gallocBad g.toNat offset.toNat bytes.toNat then { s := s.seqFault k 0x48 0 }
    else { s := s.modTile k fun t => { t with guards := tset t.guards g.toNat (offset.toNat, bytes.toNat) } }) s

/-- GFREE (10 R207). -/
def execGfree (g : BitVec 6) (s : State) : Out :=
  seqRun (fun s k _ => { s := s.modTile k fun t => { t with guards := tdel t.guards g.toNat } }) s

/-! ## Loops and segments (10 R208, R209, 09 R180) -/

/-- LOOP (10 R208, R209). -/
def execLoop (n : BitVec 1) (count : BitVec 16) (stop : BitVec 8) (s : State) : Out :=
  seqRun (staticOnly fun s k t =>
    let l := tget t.loops n.toNat {}
    let c := l.latchCount.getD count.toNat
    let put (l : HwLoop) : State := s.modTile k fun t => { t with loops := tset t.loops n.toNat l }
    let clear : HwLoop := { l with latchCount := none, latchStart := none, latchEnd := none }
    if c == 0 then { s := s, stop := .jump (stop.toNat + 1) }
    else
      let a := l.latchStart.getD (t.index + 1)
      let b := l.latchEnd.getD stop.toNat
      if t.program.length ≤ a || t.program.length ≤ b then
        { s := (put clear).seqFault k 0x48 0, stop := .jump (stop.toNat + 1) }
      else { s := put { clear with isOpen := true, rc := c - 1, start := a, stop := b }, stop := .jump (t.index + 1) }) s

/-- LPSET (10 R209). -/
def execLpset (n : BitVec 1) (reg : BitVec 2) (value : BitVec 16) (s : State) : Out :=
  seqRun (staticOnly fun s k t =>
    let l := tget t.loops n.toNat {}
    let l' : HwLoop := match reg.toNat with
      | 0 => if l.isOpen then { l with rc := value.toNat } else { l with latchCount := some value.toNat }
      | 1 => { l with latchStart := some value.toNat }
      | _ => { l with latchEnd := some value.toNat }
    { s := s.modTile k fun t => { t with loops := tset t.loops n.toNat l' } }) s

/-- SEGW (10 R202, 09 R180). -/
def execSegw (n : BitVec 4) (half : BitVec 1) (value : Word) (s : State) : Out :=
  seqRun (fun s k _ =>
    { s := s.modTile k fun t =>
        { t with segs := tset t.segs n.toNat (writeSegHalf (t.seg n.toNat) (half == 1) value) } }) s

/-- QWAIT (10 R201): the oldest queued command takes the place of the qwait; an empty queue is waited for. -/
def execQwait (s : State) : Out :=
  seqRun (staticOnly fun s k t =>
    match t.cmdq with
    | [] => { s := s, stop := .wait }
    | c :: q => { s := s.modTile k fun t => { t with cmdq := q, current := some c }, stop := .wait }) s

/-! ## The fused update (10 R210, 21 R351, R352) -/

/-- Word n of a descriptor. -/
def FusedUpdate.word (u : FusedUpdate) (n : Nat) : Nat := (u.desc.getD n 0).toNat
def FusedUpdate.count (u : FusedUpdate) : Nat := bits (u.word 4) 0 16
def FusedUpdate.adaptive (u : FusedUpdate) : Bool := bit (u.word 4) 16
def FusedUpdate.step (u : FusedUpdate) : Nat := u.word 5
/-- The address word of the current block of array n: 0 weights, 1 momenta, 2 variances, 3 gradients. -/
def FusedUpdate.block (u : FusedUpdate) (n : Nat) : Word := BitVec.ofNat 32 (u.word n + 4096 * u.index)
/-- The block lies past every address of its segment. -/
def FusedUpdate.past (u : FusedUpdate) (n : Nat) : Bool := decide (2 ^ 28 ≤ u.word n % 2 ^ 28 + 4096 * u.index)

/-- The descriptor's checks (10 R210). -/
def FusedUpdate.bad (u : FusedUpdate) : Bool :=
  let stat := bits (u.word 13) 0 19
  bits (u.word 4) 17 15 != 0 || bits (u.word 13) 19 13 != 0 || u.word 14 != 0 || u.word 15 != 0 || u.count == 0
    || u.step == 0 || stat % 16 != 0 || decide (0x60000 < stat + 16)
    || ([0, 1, 3] ++ if u.adaptive then [2] else []).any fun n => u.word n % 4096 != 0

/-- The words of a little-endian number. -/
def wordsOf (v : Nat) : Nat → List Word
  | 0 => []
  | n + 1 => loWord v :: wordsOf (v / 2 ^ 32) n

/-- A step of a fused update, which counts as a step of the sequencer of its tile (14 R248). -/
def State.fupdStep (s : State) (k : Nat) (body : State → State) : State :=
  (s.attempt (sequencerWork k) (k / 64) (k % 64) rankElement fun s => (body s, ())).1

/-- The descriptor is read and checked: an update that holds the sequencer, or SEQ_FAULT or POISON. -/
def State.fupdDescriptor (s : State) (k desc : Nat) : State :=
  let (s, x) := s.access
    { place := .scratch k desc, size := 64, kind := kindStream, word := BitVec.ofNat 32 desc, seen := desc }
  let u : FusedUpdate := { desc := wordsOf x.value 16 }
  if x.poison then (s.seqFault k 0x04 desc).seqEnd k none false
  else if u.bad then (s.seqFault k 0x48 desc).seqEnd k none false
  else s.modTile k fun t => { t with hold := .fupd u }

/-- FUPD (10 R210): the descriptor is read and checked; the sequencer holds until the update ends. -/
def execFupd (desc : BitVec 19) (s : State) : Out :=
  seqRun (fun s k t =>
    match t.hold with
    | .none =>
      if desc.toNat % 64 != 0 || 0x60000 < desc.toNat + 64 then { s := s.seqFault k 0x48 desc.toNat }
      else { s := s.fupdStep k (·.fupdDescriptor k desc.toNat), stop := .wait }
    | _ => { s := s, stop := .wait }) s

/-- The status record (10 R210). -/
def FusedUpdate.record (u : FusedUpdate) (stop : Nat) : Nat :=
  u.committed % 2 ^ 32 + u.skipped % 2 ^ 32 * 2 ^ 32 + stop % 2 ^ 32 * 2 ^ 64 + u.flags.toNat % 32 * 2 ^ 96

/-- fupd ends: its record is written and the sequencer goes on. -/
def State.endFupd (s : State) (k : Nat) (u : FusedUpdate) (stop : Nat) : State :=
  let at_ := bits (u.word 13) 0 19
  let (s, _) := s.access
    { place := .scratch k at_, size := 16, need := .write, value := u.record stop, kind := kindStream,
      word := BitVec.ofNat 32 at_, seen := at_ }
  (s.modTile k fun t => { t with hold := .none }).seqEnd k none false

/-- The next block, or the end after the last. -/
def State.nextBlock (s : State) (k : Nat) (u : FusedUpdate) : State :=
  let u := { u with index := u.index + 1, staged := none, targets := [] }
  if u.index < u.count then s.modTile k fun t => { t with hold := .fupd u } else s.endFupd k u 0xFFFFFFFF

/-- Where a block of 4,096 bytes lies: in scratchpad or not, and at which address; or the code its word meets. A block lies
within one page. A write is translated for reading too. -/
def State.placeBlock (s : State) (k : Nat) (w : Word) (past write : Bool) : State × Except Nat (Bool × Nat) :=
  match if past then .error 0x44 else (s.tile k).checkAddr false w 64 write with
  | .error c => (s, .error c)
  | .ok x =>
    match (s.tile k).checkRange false (w + 4095) write with
    | .error c => (s, .error c)
    | .ok _ =>
      if x.seg0 then (s, .ok (true, x.va))
      else
        let bh := k / 64
        let go (s : State) (need : Need) : State × Target :=
          s.resolve (.tile k) bh (loadFn s bh) (loadPasid s bh) x.va need
        match go s .read with
        | (s, .status c) => (s, .error c)
        | (s, .home h _) =>
          if write then
            match go s .write with
            | (s, .status c) => (s, .error c)
            | (s, .home h _) => (s, .ok (false, h.pa))
          else (s, .ok (false, h.pa))

/-- The class and remaining-reads count of the segment of a word. -/
def segClass (t : Tile) (w : Word) : Nat × Nat :=
  let r := (t.seg (bits w.toNat 28 4)).toNat
  (bits r 60 2, bits r 8 4)

/-- The access of granule n of the block at an address word that lies at a place. -/
def State.granule (s : State) (k : Nat) (w : Word) (at_ : Bool × Nat) (n : Nat) : Access :=
  let c := segClass (s.tile k) w
  let seen := match (s.tile k).checkAddr false w 64 false with
    | .error _ => 0
    | .ok x => x.va + 64 * n
  { place := if at_.1 then .scratch k (at_.2 + 64 * n) else .phys (at_.2 + 64 * n), size := 64, cls := c.1, reads := c.2,
    kind := kindStream, word := w + BitVec.ofNat 32 (64 * n), seen := seen }

/-- Reads the granules of the block of an address word from granule n on: their value, or the first that meets a code, with
it; a poisoned one meets POISON. -/
def State.readBlock (s : State) (k : Nat) (w : Word) (at_ : Bool × Nat) (n : Nat) :
    Nat → State × Except (Nat × Nat) Nat
  | 0 => (s, .ok 0)
  | m + 1 =>
    let (s, x) := s.access (s.granule k w at_ n)
    if x.poison then (s, .error (0x04, n))
    else if x.status != 0 then (s, .error (x.status, n))
    else match s.readBlock k w at_ (n + 1) m with
      | (s, .error g) => (s, .error g)
      | (s, .ok y) => (s, .ok (x.value + 2 ^ 512 * y))

/-- Writes the granules of the block of an address word whole from granule n on; the code that one meets, or 0. -/
def State.writeGranules (s : State) (k : Nat) (w : Word) (at_ : Bool × Nat) (v n : Nat) : Nat → State × Nat
  | 0 => (s, 0)
  | m + 1 =>
    let (s, x) := s.access { s.granule k w at_ n with need := .write, value := v % 2 ^ 512 }
    if x.status != 0 then (s, x.status) else s.writeGranules k w at_ (v / 2 ^ 512) (n + 1) m

/-- The words of one value of a block and its flags (10 R210). -/
structure Updated where
  w : Nat
  m : Nat
  v : Nat
  flags : Flags

def FusedUpdate.value (u : FusedUpdate) (w m v g : Nat) : Updated :=
  let fma (a b c : Nat) : FRes := fmac fmt32 .rne 0 false a b c
  let neg (a : Nat) : Nat := (a + 2 ^ 31) % 2 ^ 32
  let c (n : Nat) : Nat := u.word (6 + n)
  if u.adaptive then
    let g1 := fmul fmt32 .rne 0 (c 2) g
    let m' := fma (c 1) m g1.bits
    let gg := fmul fmt32 .rne 0 g g
    let g2 := fmul fmt32 .rne 0 (c 4) gg.bits
    let v' := fma (c 3) v g2.bits
    let r := fsqrt fmt32 .rne 0 v'.bits
    let d := fadd fmt32 .rne 0 r.bits (c 5)
    let q := fdiv fmt32 .rne 0 m'.bits d.bits
    let t := fma (c 6) w q.bits
    let w' := fma (neg (c 0)) t.bits w
    { w := w'.bits, m := m'.bits, v := v'.bits,
      flags := g1.flags ||| m'.flags ||| gg.flags ||| g2.flags ||| v'.flags ||| r.flags ||| d.flags ||| q.flags
        ||| t.flags ||| w'.flags }
  else
    let m' := fma (c 1) m g
    let t := fma (c 6) w m'.bits
    let w' := fma (neg (c 0)) t.bits w
    { w := w'.bits, m := m'.bits, v := v, flags := m'.flags ||| t.flags ||| w'.flags }

/-- Every value of a block computed, from value n on. -/
def FusedUpdate.values (u : FusedUpdate) (w m v g : Nat) : Nat → List Updated
  | 0 => []
  | n + 1 =>
    u.value (w % 2 ^ 32) (m % 2 ^ 32) (v % 2 ^ 32) (g % 2 ^ 32)
      :: u.values (w / 2 ^ 32) (m / 2 ^ 32) (v / 2 ^ 32) (g / 2 ^ 32) n

/-- The read phase stops on a fault: the record, the end, and the fault with the address of the granule (21 R352). -/
def State.fupdFault (s : State) (k : Nat) (u : FusedUpdate) (code addr : Nat) : State :=
  (s.endFupd k u u.index).seqFault k code addr

/-- The arrays of a block in order: weights, momenta, in mode 1 variances, gradients. -/
def FusedUpdate.arrays (u : FusedUpdate) : List Nat := [0, 1] ++ (if u.adaptive then [2] else []) ++ [3]

/-- Where the arrays of a block lie; those that will be written are translated for writing, and kept (21 R351). -/
def State.placeArrays (s : State) (k : Nat) (u : FusedUpdate) : List Nat → State × Except (Nat × Nat) (List (Bool × Nat))
  | [] => (s, .ok [])
  | n :: ns =>
    match s.placeBlock k (u.block n) (u.past n) (n != 3) with
    | (s, .error c) => (s, .error (c, (u.block n).toNat))
    | (s, .ok x) =>
      match s.placeArrays k u ns with
      | (s, .error e) => (s, .error e)
      | (s, .ok xs) => (s, .ok (x :: xs))

/-- The arrays of a block, read in order. -/
def State.readArrays (s : State) (k : Nat) (u : FusedUpdate) :
    List (Nat × Bool × Nat) → State × Except (Nat × Nat) (List Nat)
  | [] => (s, .ok [])
  | (n, at_) :: ns =>
    match s.readBlock k (u.block n) at_ 0 64 with
    | (s, .error (c, g)) => (s, .error (c, (u.block n).toNat + 64 * g))
    | (s, .ok v) =>
      match s.readArrays k u ns with
      | (s, .error e) => (s, .error e)
      | (s, .ok vs) => (s, .ok (v :: vs))

/-- The blocks are read and their values computed into staging. -/
def State.stageBlock (s : State) (k : Nat) (u : FusedUpdate) : State :=
  match s.readArrays k u (u.arrays.zip u.targets) with
  | (s, .error (c, a)) => s.fupdFault k u c a
  | (s, .ok xs) =>
    let val (n : Nat) : Nat := xs.getD n 0 / 2 ^ 128
    let g := if u.adaptive then 3 else 2
    let ys := u.values (val 0) (val 1) (if u.adaptive then val 2 else 0) (val g) 1020
    let u := { u with
      staged := some (ys.map (fun y => loWord y.w), ys.map (fun y => loWord y.m), ys.map (fun y => loWord y.v))
      flags := ys.foldl (fun f y => f ||| y.flags) u.flags }
    s.modTile k fun t => { t with hold := .fupd u }

/-- The header of the weight block decides (10 R210): skipped, STEP_FAULT, or the blocks are placed, to be read. -/
def State.headBlock (s : State) (k : Nat) (u : FusedUpdate) : State :=
  let w := u.block 0
  match s.placeBlock k w (u.past 0) false with
  | (s, .error c) => s.fupdFault k u c w.toNat
  | (s, .ok at_) =>
    match s.readBlock k w at_ 0 1 with
    | (s, .error (c, _)) => s.fupdFault k u c w.toNat
    | (s, .ok v) =>
      let h := v % 2 ^ 32
      if u.step ≤ h then s.nextBlock k { u with skipped := u.skipped + 1 }
      else if h + 1 != u.step then s.fupdFault k u 0x49 w.toNat
      else match s.placeArrays k u u.arrays with
        | (s, .error (c, a)) => s.fupdFault k u c a
        | (s, .ok ts) => s.modTile k fun t => { t with hold := .fupd { u with targets := ts } }

/-- A fused update that places its next block needs a walk for one of its arrays, and no walker is free (09 R173). -/
def fupdWalks (s : State) (k : Nat) : Bool :=
  match (s.tile k).hold with
  | .fupd u => u.targets.isEmpty && u.staged.isNone && u.arrays.any fun n =>
      match (s.tile k).checkAddr false (u.block n) 64 false with
      | .error _ => false
      | .ok x => !x.seg0 && noWalker s (.tile k) (k / 64) x.va
  | _ => false

/-- FUPD_READ_PHASE (21 R351, R352, 10 R210). -/
def execFupdReadPhase (tile : Nat) (s : State) : Out :=
  match (s.tile tile).hold with
  | .fupd u =>
    if !tileRuns s tile || u.staged.isSome || fupdWalks s tile then .next s
    else .next (s.fupdStep tile fun s => if u.targets.isEmpty then s.headBlock tile u else s.stageBlock tile u)
  | _ => .next s

/-- The staged block is written: momenta, variances and the weights beyond the first granule, then, once those have been
applied, the first granule with the step number (21 R351). -/
def State.commitBlock (s : State) (k : Nat) (u : FusedUpdate) (w m v : List Word) : State :=
  let body (l : List Word) : Nat := natOfWords l * 2 ^ 128
  let go (s : State) (c n i m : Nat) (x : Nat) : State × Nat :=
    if c != 0 then (s, c) else s.writeGranules k (u.block n) (u.targets.getD n (false, 0)) x i m
  let (s, c) := go s 0 1 0 64 (body m)
  let (s, c) := if u.adaptive then go s c 2 0 64 (body v) else (s, c)
  let (s, c) := go s c 0 1 63 (body w / 2 ^ 512)
  let (s, c) := go s c 0 0 1 (body w % 2 ^ 512 + u.step)
  if c != 0 then s.fupdFault k u c (u.block 0).toNat else s.nextBlock k { u with committed := u.committed + 1 }

/-- FUPD_COMMIT (21 R351). A sweep waits for it. -/
def execFupdCommit (tile : Nat) (s : State) : Out :=
  match (s.tile tile).hold with
  | .fupd u =>
    match u.staged with
    | none => .next s
    | some (w, m, v) =>
      if drainRuns s (tile / 64) then .next (s.fupdStep tile fun s => s.commitBlock tile u w m v) else .next s
  | _ => .next s

end Sys2Proof.Machine
end

