-- ==== Sys2Proof/Machine/Streamer.lean ====
section
/-!
DEFINITION. The streamer islands: COPY, CRED, GATHER, SCATTER, FILL (10 R213-R215) and XPOSE (12 R241, R242). A step of a
command moves one chunk of 256 bytes, one element, or the whole of an XPOSE.
-/
namespace Sys2Proof.Machine
open Sys2Proof

/-! ## Streamer addresses (10 R213) -/

/-- Where a streamer address points: a virtual address of the function, a scratchpad of the bulkhead, a coordinate that
has none, or an endpoint of the pod by its rank. -/
inductive SAddr where
  | va (a : Nat)
  | scratch (tile off : Nat)
  | noTile
  | rank (r a : Nat)
  deriving DecidableEq, Repr

/-- A 64-bit streamer address of a bulkhead. -/
def streamerAddr (bh a : Nat) : SAddr :=
  if bit a 63 then
    let col := bits a 19 4
    if col == 2 || col == 5 || col == 8 || col == 11 then .scratch (64 * bh + col / 3 * 8 + bits a 23 3) (bits a 0 19)
    else .noTile
  else .va a

/-- A scratchpad streamer address with a bit of [62:26] set. -/
def streamerAddrBad (a : Nat) : Bool := bit a 63 && bits a 26 37 != 0

/-- Bytes that a command reads: their little-endian number, and the ranges of them that are poisoned. -/
structure Piece where
  value : Nat := 0
  marks : List (Nat × Nat) := []
  deriving DecidableEq, Repr

/-- How many bytes from a position stay in one granule; eight of another device. -/
def SAddr.piece (a : SAddr) (pos n : Nat) : Nat :=
  match a with
  | .va x => min (n - pos) (64 - (x + pos) % 64)
  | .scratch _ x => min (n - pos) (64 - (x + pos) % 64)
  | .noTile => n - pos
  | .rank _ x => min (n - pos) (8 - (x + pos) % 8)

/-- The address reported for a fault at a position. -/
def SAddr.at (a : SAddr) (pos : Nat) : Nat :=
  match a with
  | .va x => (x + pos) % 2 ^ 64
  | .scratch t x => 2 ^ 63 + t % 8 * 2 ^ 23 + (t % 64 / 8 * 3 + 2) * 2 ^ 19 + (x + pos) % 2 ^ 19
  | .noTile => pos
  | .rank _ x => (x + pos) % 2 ^ 64

/-- The access of n bytes at a position of a streamer address; the code of one that has no place. -/
def SAddr.access (a : SAddr) (pos n : Nat) : Except Nat Access :=
  match a with
  | .va x => .ok { place := .va ((x + pos) % 2 ^ 64), size := n, kind := kindStreamer }
  | .scratch t x =>
    if 0x60000 < x + pos + n then .error 0x43 else .ok { place := .scratch t (x + pos), size := n, kind := kindStreamer }
  | .noTile => .error 0x43
  | .rank r x => .ok { place := .rank r ((x + pos) % 2 ^ 64), size := n, kind := kindStreamer }

/-- Reads bytes [pos, n) of a streamer address granule by granule; a fault is its code and the address it met. -/
def State.sread (s : State) (a : SAddr) (n : Nat) : Nat → Nat → State × Except (Nat × Nat) Piece
  | 0, _ => (s, .ok {})
  | f + 1, pos =>
    if n ≤ pos then (s, .ok {})
    else
      let m := a.piece pos n
      match a.access pos m with
      | .error c => (s, .error (c, a.at pos))
      | .ok q =>
        let (s, y) := s.access q
        if y.status != 0 then (s, .error (y.status, a.at pos))
        else match s.sread a n f (pos + m) with
          | (s, .error e) => (s, .error e)
          | (s, .ok x) =>
            (s, .ok { value := y.value + 2 ^ (8 * m) * x.value,
                      marks := if y.poison then (pos, pos + m) :: x.marks else x.marks })

/-- Writes bytes [pos, n) granule by granule; a granule that takes a poisoned byte is marked (19 R331). -/
def State.swrite (s : State) (a : SAddr) (n : Nat) (p : Piece) : Nat → Nat → State × Option (Nat × Nat)
  | 0, _ => (s, none)
  | f + 1, pos =>
    if n ≤ pos then (s, none)
    else
      let m := a.piece pos n
      let mark := p.marks.any fun r => decide (r.1 < pos + m) && decide (pos < r.2)
      match a.access pos m with
      | .error c => (s, some (c, a.at pos))
      | .ok q =>
        let (s, y) := s.access { q with need := .write, value := bits p.value (8 * pos) (8 * m), mark := mark }
        if y.status != 0 then (s, some (y.status, a.at pos)) else s.swrite a n p f (pos + m)

/-- Reads or writes n bytes at an offset of a streamer address. -/
def SAddr.plus (a : SAddr) (off : Nat) : SAddr :=
  match a with
  | .va x => .va (x + off)
  | .scratch t x => .scratch t (x + off)
  | .noTile => .noTile
  | .rank r x => .rank r (x + off)

def State.readAt (s : State) (a : SAddr) (off n : Nat) : State × Except (Nat × Nat) Piece :=
  s.sread (a.plus off) n (n + 1) 0
def State.writeAt (s : State) (a : SAddr) (off n : Nat) (p : Piece) : State × Option (Nat × Nat) :=
  s.swrite (a.plus off) n p (n + 1) 0

/-! ## Descriptors (10 R213, 12 R241) -/

/-- Word n of a descriptor, and the 64-bit field at word n. -/
def StreamerRun.word (r : StreamerRun) (n : Nat) : Nat := (r.desc.getD n 0).toNat
def StreamerRun.dword (r : StreamerRun) (n : Nat) : Nat := r.word n + 2 ^ 32 * r.word (n + 1)
def StreamerRun.kind (r : StreamerRun) : Nat := bits r.cmd.hi.toNat 28 4

/-- The address fields that a kind uses, by their first word. -/
def StreamerRun.used (r : StreamerRun) : List Nat :=
  match r.kind with
  | 0 => [0, 2]
  | 1 => [0, 2]
  | 2 => [0, 2, 6]
  | 3 => [0, 2, 6]
  | 4 => [2]
  | _ => [0, 2, 6, 10]

/-- DONE has a reserved kind or a reserved bit set. -/
def StreamerRun.doneBad (r : StreamerRun) : Bool := bits (r.word 9) 30 2 == 3 || bits (r.word 9) 26 4 != 0

/-- The command ends with BAD_COMMAND before anything is read (10 R213-R215, 12 R241). -/
def StreamerRun.bad (r : StreamerRun) : Bool :=
  let side (n : Nat) : Bool := n % 32 != 0 || decide (n < 32) || decide (256 < n)
  bits r.cmd.hi.toNat 0 27 != 0 || decide (5 < r.kind) || r.doneBad || r.used.any (fun n => streamerAddrBad (r.dword n))
    || if r.kind == 5 then
        let nr := bits (r.word 4) 0 16
        let nc := bits (r.word 4) 16 16
        let src := bits (r.word 12) 0 4
        let dst := bits (r.word 12) 4 4
        side nr || side nc || decide (nr < bits (r.word 5) 0 16) || decide (nc < bits (r.word 5) 16 16)
          || r.word 8 != 0xFFFF || bits (r.word 12) 9 23 != 0 || r.word 13 != 0 || r.word 14 != 0
          || decide (src < 2) || decide (7 < src) || decide (dst < 2) || decide (7 < dst)
          || (bit (r.word 12) 8 && dst != 2 && dst != 3)
      else
        ((List.range 5).any fun j => r.word (10 + j) != 0) || bits (r.word 8) 19 13 != 0
          || ((r.kind == 0 || r.kind == 1 || r.kind == 4) && r.word 4 % 4 != 0)
          || (r.kind == 1 && (bits (r.word 5) 2 30 != 0 || bits (r.word 5) 0 2 == 3))
          || ((r.kind == 2 || r.kind == 3) && (bits (r.word 8) 16 3 < 2))

/-- The command word's ORD bit is not reserved. -/
def StreamerRun.cleared (r : StreamerRun) : StreamerRun :=
  { r with cmd := { r.cmd with hi := BitVec.ofNat 32 (r.cmd.hi.toNat - bits r.cmd.hi.toNat 27 1 * 2 ^ 27) } }

/-- The source of COPY and CRED: an address, or an endpoint by rank. -/
def StreamerRun.src (r : StreamerRun) (bh : Nat) : SAddr :=
  let rank := bits (r.word 8) 0 16
  if (r.kind == 0 || r.kind == 1) && rank != 0xFFFF then .rank rank (r.dword 0) else streamerAddr bh (r.dword 0)

/-- The descriptor's place. -/
def EngineCmd.descAddr (c : EngineCmd) : SAddr :=
  match c.tile with
  | some t => .scratch t c.va
  | none => .va c.va

/-- The fault of a streamer island: its walk starts at the fabric load (10 R215). -/
def State.streamerFault (s : State) (k code addr : Nat) : State :=
  s.raiseEngine (k / 2) (36 + k % 2) .load code 0 addr false

/-- A STRM trace event (23 R364). -/
def State.traceStream (s : State) (k sub : Nat) (c : EngineCmd) (status : Nat) : State :=
  s.trace (k / 2) 0 sub (k % 2) (BitVec.ofNat 32 (c.descAddr.at 0))
    (BitVec.ofNat 32 (bits c.hi.toNat 28 4 * 2 ^ 28 + status))

/-- A step of a streamer, of the work with a number: 0-3 a running command, 4 the start of the next one (14 R248). -/
def State.streamerStep {α : Type} (s : State) (k n : Nat) (body : State → State × α) : State × Option α :=
  s.attempt (streamerWork k n) (k / 2) (36 + k % 2) rankElement body

/-- The number of a running command that none has. -/
def Streamer.freeId (x : Streamer) : Nat := ((List.range 4).find? fun n => !x.running.any fun r => r.id == n).getD 0

/-- A command begins: its descriptor is read once. One that cannot be read is a fault, and the command does nothing more. -/
def State.startCommand (s : State) (k : Nat) (c : EngineCmd) (rest : List EngineCmd) : State :=
  let begun (s : State) : State :=
    ((s.modStreamer k fun y => { y with queue := rest }).countIssue (streamerEngine k)).traceStream k 0 c 0
  let lost (s : State) (code addr : Nat) : State :=
    (((begun s).traceStream k 1 c code).dropOwner (if c.id == 0 then none else some (c.elem, c.id))).streamerFault k code addr
  match s.readAt c.descAddr 0 64 with
  | (s, .error (code, addr)) => lost s code addr
  | (s, .ok p) =>
    if !p.marks.isEmpty then lost s 0x04 (c.descAddr.at 0)
    else
      let r : StreamerRun := StreamerRun.cleared { cmd := c, desc := wordsOf p.value 16, id := (s.streamer k).freeId }
      let r := if r.bad then { r with ended := true, status := 0x05 } else r
      (begun s).modStreamer k fun y => { y with running := y.running ++ [r] }

/-- STREAMER_COMMAND_START (10 R213, R215). -/
def execStreamerCommandStart (streamer : Nat) (s : State) : Out :=
  let x := s.streamer streamer
  match x.queue with
  | [] => .next s
  | c :: rest =>
    if !(startRuns s (streamer / 2) || (drainRuns s (streamer / 2) && workBegun s (streamerWork streamer 4)))
        || 4 ≤ x.running.length then .next s
    else .next (s.streamerStep streamer 4 fun s => (s.startCommand streamer c rest, ())).1

/-! ## Commands (10 R214) -/

def State.setRun (s : State) (k i : Nat) (r : StreamerRun) : State :=
  s.modStreamer k fun y => { y with running := y.running.set i r }

/-- A step ends: at a fault the command stops; after its last step it ends. -/
def State.runStep (s : State) (k i : Nat) (r : StreamerRun) (fault : Option (Nat × Nat)) (steps : Nat) : State :=
  match fault with
  | some (c, a) => s.setRun k i { r with ended := true, status := c, addr := a }
  | none => s.setRun k i { r with next := r.next + 1, ended := decide (steps ≤ r.next + 1) }

/-- One step of a running command of a kind. -/
def runCommand (kind : Nat) (body : State → Nat → StreamerRun → State × Option (Nat × Nat))
    (steps : StreamerRun → Nat) (k i : Nat) (s : State) : Out :=
  match (s.streamer k).running[i]? with
  | none => .next s
  | some r =>
    if !drainRuns s (k / 2) || r.ended || r.kind != kind then .next s
    else if steps r ≤ r.next then .next (s.setRun k i { r with ended := true })
    else match s.streamerStep k r.id fun s => body s k r with
      | (s, none) => .next s
      | (s, some e) => .next ((s.countIssue (streamerEngine k)).runStep k i r e (steps r))

/-- Chunks of 256 bytes in LEN. -/
def StreamerRun.chunks (r : StreamerRun) : Nat := (r.word 4 + 255) / 256
/-- The bytes of the next chunk. -/
def StreamerRun.chunkLen (r : StreamerRun) : Nat := min 256 (r.word 4 - 256 * r.next)

/-- COPY's step: a chunk read wholly, then written with its marks. -/
def copyStep (s : State) (k : Nat) (r : StreamerRun) : State × Option (Nat × Nat) :=
  match s.readAt (r.src (k / 2)) (256 * r.next) r.chunkLen with
  | (s, .error e) => (s, some e)
  | (s, .ok p) => s.writeAt (streamerAddr (k / 2) (r.dword 2)) (256 * r.next) r.chunkLen p

/-- COPY (10 R214). -/
def execCopy (streamer run : Nat) (s : State) : Out := runCommand 0 copyStep StreamerRun.chunks streamer run s

/-- One word of CRED: the result and the flags kept. -/
def credOp (op d a : Nat) : Nat × Flags :=
  match op with
  | 0 => let y := fadd fmt32 .rne 0 d a; (y.bits, y.flags)
  | 1 => ((d + a) % 2 ^ 32, 0)
  | _ => ((fminmax fmt32 true d a).bits, 0)

/-- The words of two chunks reduced. -/
def credWords (op d a : Nat) : Nat → Nat × Flags
  | 0 => (0, 0)
  | n + 1 =>
    let (y, f) := credOp op (d % 2 ^ 32) (a % 2 ^ 32)
    let (ys, g) := credWords op (d / 2 ^ 32) (a / 2 ^ 32) n
    (y + 2 ^ 32 * ys, f ||| g)

/-- CRED's step: source and destination read, poison consumed, the result written. -/
def credStep (s : State) (k : Nat) (r : StreamerRun) : State × Option (Nat × Nat) :=
  let dst := streamerAddr (k / 2) (r.dword 2)
  let off := 256 * r.next
  let src := r.src (k / 2)
  match s.readAt src off r.chunkLen with
  | (s, .error e) => (s, some e)
  | (s, .ok p) =>
    match s.readAt dst off r.chunkLen with
    | (s, .error e) => (s, some e)
    | (s, .ok q) =>
      match p.marks, q.marks with
      | (x, _) :: _, _ => (s, some (0x04, (src.plus off).at x))
      | [], (x, _) :: _ => (s, some (0x04, (dst.plus off).at x))
      | [], [] =>
        let (v, f) := credWords (bits (r.word 5) 0 2) q.value p.value (r.chunkLen / 4)
        let s := s.modStreamer k fun y => { y with flags := y.flags ||| f }
        s.writeAt dst off r.chunkLen { value := v }

/-- CRED (10 R214). -/
def execCred (streamer run : Nat) (s : State) : Out := runCommand 1 credStep StreamerRun.chunks streamer run s

/-- The step of GATHER and SCATTER: the index is read, and one element moved. -/
def moveStep (scatter : Bool) (s : State) (k : Nat) (r : StreamerRun) : State × Option (Nat × Nat) :=
  let e := 2 ^ bits (r.word 8) 16 3
  let idx := streamerAddr (k / 2) (r.dword 6)
  match s.readAt idx (4 * r.next) 4 with
  | (s, .error x) => (s, some x)
  | (s, .ok p) =>
    if !p.marks.isEmpty then (s, some (0x04, idx.at (4 * r.next)))
    else
      let (so, d) := if scatter then (r.next * e, p.value * e) else (p.value * e, r.next * e)
      match s.readAt (streamerAddr (k / 2) (r.dword 0)) so e with
      | (s, .error x) => (s, some x)
      | (s, .ok q) => s.writeAt (streamerAddr (k / 2) (r.dword 2)) d e q

/-- GATHER (10 R214). -/
def execGather (streamer run : Nat) (s : State) : Out :=
  runCommand 2 (moveStep false) (fun r => r.word 5) streamer run s
/-- SCATTER (10 R214). -/
def execScatter (streamer run : Nat) (s : State) : Out :=
  runCommand 3 (moveStep true) (fun r => r.word 5) streamer run s

/-- A word repeated n times. -/
def repeatWord (w : Nat) : Nat → Nat
  | 0 => 0
  | n + 1 => w + 2 ^ 32 * repeatWord w n

/-- FILL (10 R214). -/
def execFill (streamer run : Nat) (s : State) : Out :=
  runCommand 4 (fun s k r =>
    s.writeAt (streamerAddr (k / 2) (r.dword 2)) (256 * r.next) r.chunkLen
      { value := repeatWord (r.word 5) (r.chunkLen / 4) }) StreamerRun.chunks streamer run s

/-! ## XPOSE (12 R241, R242) -/

/-- The MX format of a code 2-7 (12 R224). -/
def mxFormat (n : Nat) : BFmt :=
  match n with
  | 2 => .mx8e4 | 3 => .mx8e5 | 4 => .mx6e2 | 5 => .mx6e3 | 6 => .mx4 | _ => .mxi8

/-- The rows of a source tile that are not missing: the codes of a row as one number and its scales as another. A scale 0xFF
that is read sets NANS (12 R242). -/
def State.xposeRows (s : State) (k : Nat) (r : StreamerRun) (w : Nat) :
    Nat → Nat → State × Except (Nat × Nat) (List (Nat × Nat))
  | 0, _ => (s, .ok [])
  | m + 1, row =>
    let nc := bits (r.word 4) 16 16
    let vc := bits (r.word 5) 16 16
    let src := streamerAddr (k / 2) (r.dword 0)
    let ssc := streamerAddr (k / 2) (r.dword 6)
    let o1 := row * (nc * w / 8)
    let o2 := row * (nc / 32)
    match s.readAt src o1 ((w * vc + 7) / 8) with
    | (s, .error e) => (s, .error e)
    | (s, .ok p) =>
      match s.readAt ssc o2 ((vc + 31) / 32) with
      | (s, .error e) => (s, .error e)
      | (s, .ok q) =>
        match p.marks, q.marks with
        | (x, _) :: _, _ => (s, .error (0x04, src.at (o1 + x)))
        | [], (x, _) :: _ => (s, .error (0x04, ssc.at (o2 + x)))
        | [], [] =>
          let nan := (List.range ((vc + 31) / 32)).any fun b => bits q.value (8 * b) 8 == 0xFF
          match (s.modStreamer k fun z => { z with nans := z.nans || nan }).xposeRows k r w m (row + 1) with
          | (s, .error e) => (s, .error e)
          | (s, .ok l) => (s, .ok ((p.value, q.value) :: l))

/-- One destination block of an XPOSE: the codes and the scale, the flags, and EDGE and NANS. -/
structure XBlock where
  codes : Nat
  scale : Nat
  flags : Flags
  edge : Bool

/-- The codes of a block packed in element order, and their flags; a missing element is +0. -/
def packCodes (b : BFmt) (sat : Bool) (x : Nat) : List (Option FVal) → Nat × Flags
  | [] => (0, 0)
  | v :: vs =>
    let (c, f) : Nat × Flags := match v with
      | none => (0, 0)
      | some v => let y := b.encode sat x 0 v; (y.bits, y.flags)
    let (cs, g) := packCodes b sat x vs
    (c + 2 ^ b.width * cs, f ||| g)

def xposeBlock (b : BFmt) (sat : Bool) (vs : List (Option FVal)) : XBlock :=
  let present := vs.filterMap id
  if present.isEmpty then { codes := 0, scale := 0x7F, flags := 0, edge := true }
  else
    let x := blockScale b present
    let (c, f) := packCodes b sat x vs
    { codes := c, scale := x, flags := f, edge := vs.any Option.isNone }

/-- The destination blocks from number n on written: column n div (NR/32), block n mod (NR/32). A scale 0xFF sets NANS once it is
written (12 R242). -/
def State.xposeWrite (s : State) (k : Nat) (r : StreamerRun) (rows : List (Nat × Nat)) :
    Nat → Nat → State × Option (Nat × Nat)
  | 0, _ => (s, none)
  | m + 1, n =>
    let nr := bits (r.word 4) 0 16
    let vr := bits (r.word 5) 0 16
    let vc := bits (r.word 5) 16 16
    let f := mxFormat (bits (r.word 12) 0 4)
    let g := mxFormat (bits (r.word 12) 4 4)
    let col := n / (nr / 32)
    let blk := n % (nr / 32)
    let vals : List (Option FVal) := (List.range 32).map fun j =>
      let row := 32 * blk + j
      if decide (row < vr) && decide (col < vc) then
        let x := rows.getD row (0, 0)
        some (f.decode (bits x.1 (f.width * col) f.width) (bits x.2 (8 * (col / 32)) 8) 0)
      else none
    let y := xposeBlock g (bit (r.word 12) 8) vals
    let s := s.modStreamer k fun z =>
      { z with flags := z.flags ||| y.flags, edge := z.edge || y.edge }
    match s.writeAt (streamerAddr (k / 2) (r.dword 2)) ((col * nr + 32 * blk) * g.width / 8) (4 * g.width)
        { value := y.codes } with
    | (s, some e) => (s, some e)
    | (s, none) =>
      match s.writeAt (streamerAddr (k / 2) (r.dword 10)) (col * (nr / 32) + blk) 1 { value := y.scale } with
      | (s, some e) => (s, some e)
      | (s, none) => (s.modStreamer k fun z => { z with nans := z.nans || y.scale == 0xFF }).xposeWrite k r rows m (n + 1)

/-- XPOSE's step: the present part of the source is read, then every destination block is written. -/
def xposeStep (s : State) (k : Nat) (r : StreamerRun) : State × Option (Nat × Nat) :=
  let nr := bits (r.word 4) 0 16
  let nc := bits (r.word 4) 16 16
  let vr := bits (r.word 5) 0 16
  let vc := bits (r.word 5) 16 16
  let f := mxFormat (bits (r.word 12) 0 4)
  match s.xposeRows k r f.width (if vc == 0 then 0 else vr) 0 with
  | (s, .error e) => (s, some e)
  | (s, .ok rows) => s.xposeWrite k r rows (nc * (nr / 32)) 0

/-- XPOSE (12 R242). -/
def execXpose (streamer run : Nat) (s : State) : Out := runCommand 5 xposeStep (fun _ => 1) streamer run s

/-! ## The end (10 R215, 15 R286) -/

/-- DONE: a class L shuttle with STATUS, or a semaphore signal. -/
def State.streamerDone (s : State) (k : Nat) (r : StreamerRun) : State :=
  let d := r.word 9
  if r.doneBad then s
  else match bits d 30 2 with
    | 1 =>
      let x : Shuttle :=
        { classL := true, source := 0x30000 + k, label := bits d 0 7, w0 := BitVec.ofNat 32 r.status, w1 := 0 }
      s.modBh (k / 2) fun b => { b with shuttles := b.shuttles ++ [x] }
    | 2 => s.engineSignal (k / 2) (36 + k % 2) (bits d 0 10) (bits d 10 16)
    | _ => s

/-- A command ends: STATUS, then DONE, then the walk of a fault. A fault of the STATUS write itself is raised, and there is no
DONE. -/
def State.endCommand (s : State) (k i : Nat) (r : StreamerRun) : State :=
  let gone (s : State) : State :=
    ((s.modStreamer k fun y => { y with running := removeAt y.running i, retired := y.retired + 1 }).dropOwner
      (if r.cmd.id == 0 then none else some (r.cmd.elem, r.cmd.id))).traceStream k 1 r.cmd r.status
  match s.writeAt r.cmd.descAddr 0x3C 4 { value := r.status } with
  | (s, some (c, a)) => (gone s).streamerFault k c a
  | (s, none) =>
    let s := (gone s).streamerDone k r
    if r.status == 0 || r.status == 0x05 then s else s.streamerFault k r.status r.addr

/-- STREAMER_COMMAND_END (10 R215). -/
def execStreamerCommandEnd (streamer run : Nat) (s : State) : Out :=
  match (s.streamer streamer).running[run]? with
  | none => .next s
  | some r =>
    if !drainRuns s (streamer / 2) || !r.ended then .next s
    else .next (s.streamerStep streamer r.id fun s => (s.endCommand streamer run r, ())).1

end Sys2Proof.Machine
end

