-- ==== Sys2Proof/Machine/Islands.lean ====
section
/-!
DEFINITION. The matrix islands (12 R217-R240): their control tokens, rings, accumulators and reflector accumulators, and the
exact chunk sums of 07 R138. A token's effect is applied whole in one step; it retires in another.
-/
namespace Sys2Proof.Machine
open Sys2Proof

/-! ## Scratchpad areas and rings (12 R221-R223) -/

/-- Reads n bytes of a scratchpad line by line: their number, and whether one is poisoned. -/
def State.areaRead (s : State) (tile : Nat) : Nat → Nat → Nat → State × Nat × Bool
  | 0, _, _ => (s, 0, false)
  | f + 1, off, n =>
    if n == 0 then (s, 0, false)
    else
      let m := min n (64 - off % 64)
      let (s, x) := s.access { place := .scratch tile off, size := m, kind := kindIsland }
      let (s, w, q) := s.areaRead tile f (off + m) (n - m)
      (s, x.value + 2 ^ (8 * m) * w, x.poison || q)

/-- Writes n bytes of a scratchpad line by line. -/
def State.areaWrite (s : State) (tile : Nat) : Nat → Nat → Nat → Nat → State
  | 0, _, _, _ => s
  | f + 1, off, v, n =>
    if n == 0 then s
    else
      let m := min n (64 - off % 64)
      let a : Access :=
        { place := .scratch tile off, size := m, need := .write, value := v % 2 ^ (8 * m), kind := kindIsland }
      (s.access a).1.areaWrite tile f (off + m) (v / 2 ^ (8 * m)) (n - m)

/-- The memory tile of a column code and row select of an island. -/
def islandTile (k mcol rsel : Nat) : Nat := 64 * (k / 4) + 8 * mcol + 2 * (k % 4) + rsel

/-- The tile and offset that an output address names (12 R223). -/
def oaTile (k oa : Nat) : Nat := islandTile k (bits oa 13 2) (bits oa 15 1)
def oaOff (oa : Nat) : Nat := bits oa 0 13 * 64
/-- An access of n bytes through an output address would pass the end of the scratchpad. -/
def oaBad (oa n : Nat) : Bool := decide (0x60000 < oaOff oa + n)

def Island.ring (x : Island) (m : Nat) : Ring := tget x.rings m {}
/-- The tile size of a ring, 0 of one that is not bound (12 R227). -/
def Ring.size (r : Ring) : Nat := if r.bound then (r.tlines + 1) * 64 else 0

/-- The head tile of a ring, as a number of n bytes. -/
def State.ringRead (s : State) (k m n : Nat) : State × Nat × Bool :=
  let r := (s.island k).ring m
  s.areaRead (islandTile k r.mcol r.rsel) (n + 1) (r.base * 64 + r.head * r.size) n

/-! ## Formats of tiles (12 R224, R225, 07 R124-R126) -/

/-- The block format of a code 2-10. -/
def blockFormat (f : Nat) : BFmt :=
  match f with
  | 8 => .wf8 | 9 => .wf5 | 10 => .wf3 | n => mxFormat n

/-- The width of a format code in bits, and its block, 0 for none. -/
def tileWidth (f : Nat) : Nat := if f < 2 then 16 else if f == 11 then 32 else (blockFormat f).width
def tileBlock (f : Nat) : Nat := if f < 2 || f == 11 then 0 else if f < 8 then 32 else 128
/-- Bytes of a scale of a block. -/
def scaleBytes (f : Nat) : Nat := if f < 8 then 1 else 16

/-- The bytes of data of rows by cols, where its scale plane begins, and the bytes with the plane. -/
def tileData (rows cols f : Nat) : Nat := rows * cols * tileWidth f / 8
def tilePlane (rows cols f : Nat) : Nat := (tileData rows cols f + 63) / 64 * 64
def tileBytes (rows cols f : Nat) : Nat :=
  if tileBlock f == 0 then tileData rows cols f
  else tilePlane rows cols f + rows * (cols / tileBlock f) * scaleBytes f

/-- Element (i, j) of a tile of rows by cols. -/
def tileValue (v rows cols f i j : Nat) : FVal :=
  let w := tileWidth f
  let code := bits v ((i * cols + j) * w) w
  if f == 0 then fmtBF16.decode code
  else if f == 1 then fmtFP16.decode code
  else if f == 11 then fmt32.decode code
  else
    let b := tileBlock f
    let rec_ := bits v (8 * (tilePlane rows cols f + (i * (cols / b) + j / b) * scaleBytes f)) (8 * scaleBytes f)
    if f < 8 then (blockFormat f).decode code rec_ 0
    else (blockFormat f).decode code (bits rec_ 64 8) (bits rec_ (j % 128 / 2) 1)

/-! ## Exact sums (07 R138, 12 R228, R232) -/

/-- The default NaN as a value. -/
def nanVal : FVal := .nan false false (2 ^ 22) 23

/-- A product with its flags: NV for 0 times infinity and for a signalling NaN. -/
def product (a b : FVal) : FVal × Flags :=
  let p := mulFVal a b
  if p.2 then (nanVal, flagNV) else (p.1, flagIf (a.isSignalling || b.isSignalling) flagNV)

/-- The exact sum of terms with the special cases of R138; infinities of both signs raise NV beside a NaN term too
(R130). -/
def exactSum (ts : List FVal) : FVal × Flags :=
  if ts.any FVal.isNaN || oppositeInf ts then (nanVal, flagIf (oppositeInf ts) flagNV)
  else match ts.find? FVal.isInf with
    | some t => (t, 0)
    | none =>
      let u := leastExp 4096 ts
      let m := sumAt u ts
      if m == 0 then (.fin (ts.all fun t => t.isZero && t.neg) 0 0, 0) else (.fin (decide (m < 0)) m.natAbs u, 0)

/-- A value rounded to binary32 with RNE. -/
def roundVal (v : FVal) : FRes :=
  match v with
  | .nan .. => .exact fmt32.defaultNaN
  | .inf n => .exact ((if n then fmt32.signBit else 0) + fmt32.infMag)
  | .fin n m e => if m == 0 then .exact (if n then fmt32.signBit else 0) else fmt32.round .rne 0 n m e false

/-- The rounded sum of products and plain terms (12 R232). -/
def roundedSum (terms : List FVal) (prods : List (FVal × FVal)) : Word × Flags :=
  let ps := prods.map fun p => product p.1 p.2
  let (v, f) := exactSum (terms ++ ps.map Prod.fst)
  let y := roundVal v
  (loWord y.bits, ps.foldl (fun f p => f ||| p.2) (f ||| y.flags ||| flagIf (terms.any FVal.isSignalling) flagNV))

/-- One accumulation step: the chunk rounded alone, or added to the accumulator with one rounding (12 R228). -/
def chunkStep (acc : Option Word) (prods : List (FVal × FVal)) : Word × Flags :=
  let ps := prods.map fun p => product p.1 p.2
  let (v, f) := exactSum (ps.map Prod.fst)
  let f := ps.foldl (fun f p => f ||| p.2) f
  match acc with
  | none => let y := roundVal v; (loWord y.bits, f ||| y.flags)
  | some a =>
    let x := fmt32.decode a.toNat
    let y := sumRound fmt32 .rne 0 [x, v] [x, v] false
    (loWord y.bits, f ||| y.flags)

/-! ## Running a token (12 R220, R227) -/

/-- How a token ends: a subcode of MTOK_FAULT, a fault of another code, a wait, or its effect. -/
inductive TokenStop where
  | bad (sub : Nat)
  | fault (code : Nat)
  | wait
  | applied
  deriving DecidableEq, Repr

structure TokenResult where
  s : State
  stop : TokenStop := .applied

/-- The walk of an island's fault starts at the fabric load (12 R227). -/
def State.islandFault (s : State) (k code detail : Nat) : State :=
  s.raiseEngine (k / 4) (32 + k % 4) .load code detail 0 false

/-- The pushed command of a token is complete. -/
def State.dropToken (s : State) (c : EngineCmd) : State :=
  s.dropOwner (if c.id == 0 then none else some (c.elem, c.id))

/-- The token at the head is discarded. -/
def State.discardToken (s : State) (k : Nat) (c : EngineCmd) : State :=
  (s.modIsland k fun x => { x with queue := x.queue.drop 1, started := false }).dropToken c

/-- A token that fails a check: MTOK_FAULT with its subcode. -/
def State.badToken (s : State) (k : Nat) (c : EngineCmd) (sub : Nat) : State :=
  ((s.discardToken k c).modIsland k fun x => { x with sub := sub }).islandFault k 0x4A sub

/-- A token that no form of 12 R226 fits. -/
def State.tokenIllegal (s : State) (k : Nat) : State :=
  match (s.island k).queue with
  | [] => s
  | c :: _ => s.badToken k c 1

/-- The rings that a control token names, each once (12 R220). -/
def tokenRings (i : Instr) : List Nat :=
  match i with
  | .mma _ _ ra rb .. => if ra == rb then [ra.toNat] else [ra.toNat, rb.toNat]
  | .rpop r => [r.toNat]
  | .qadd _ r _ => [r.toNat]
  | .qapl _ _ r .. => [r.toNat]
  | .qapr _ _ r .. => [r.toNat]
  | _ => []

/-- The token at the head of an idle island starts: every ring that it names holds a tile (12 R220). An end-of-slice sweep
lets it complete, as one in execution (12 R237). -/
def Island.starts (x : Island) : Bool :=
  x.exec.isNone && match x.queue with
    | [] => false
    | c :: _ => match decodeToken c.hi c.lo with
      | none => true
      | some i => (tokenRings i).all fun m => (x.ring m).bound && (x.ring m).count != 0

/-- A token may run: its island may start work, or has started it. -/
def tokenMayRun (s : State) (k : Nat) (x : Island) : Bool :=
  startRuns s (k / 4) || (drainRuns s (k / 4) && (x.started || workBegun s (islandWork k)))

/-- One attempt of the token at the head of the queue of the island in focus: its check, its wait for a tile in every ring
it names, its effect. -/
def tokenRun (rings : List Nat) (check : State → Nat → Island → Nat) (body : State → Nat → Island → TokenResult)
    (s : State) : Out :=
  match s.focus with
  | .island k =>
    match tget? s.islands k with
    | none => .fault .noAgent
    | some x =>
      match x.queue with
      | [] => .next s
      | c :: rest =>
        if !tokenMayRun s k x || x.exec.isSome then .next s
        else if rings.any fun m => !(x.ring m).bound then .next (s.badToken k c 4)
        else match check s k x with
          | 0 =>
            if rings.any fun m => (x.ring m).count == 0 then .next s
            else match s.attempt (islandWork k) (k / 4) (32 + k % 4) (if rings.isEmpty then rankElement else rankRing)
                fun s => let y := body s k x; (y.s, y.stop) with
              | (s, none) => .next s
              | (_, some .wait) => .next s
              | (s, some (.bad sub)) => .next (s.badToken k c sub)
              | (s, some (.fault code)) => .next ((s.discardToken k c).islandFault k code 0)
              | (s, some .applied) => .next ((s.countIssue (islandEngine k)).modIsland k fun z =>
                  { z with queue := rest, exec := some (c, rings), started := false })
          | sub => .next (s.badToken k c sub)
  | _ => .fault .noAgent

/-- Flags of an island. -/
def State.islandFlags (s : State) (k : Nat) (f : Flags) : State := s.modIsland k fun x => { x with flags := x.flags ||| f }

/-- An accumulator or reflector accumulator has been written or initialised (12 R237). -/
def State.lose (s : State) (k bitNo : Nat) : State :=
  s.modIsland k fun x => { x with lost := x.lost ||| BitVec.ofNat 6 (2 ^ bitNo) }

/-- TOKEN_RETIRE (12 R220): the token's effect is complete; the rings it read give up their head tiles. -/
def execTokenRetire (island : Nat) (s : State) : Out :=
  let x := s.island island
  match x.exec with
  | none => .next s
  | some (c, rings) =>
    if !drainRuns s (island / 4) then .next s
    else
      let pop (r : Ring) : Ring := { r with head := (r.head + 1) % r.depth, count := r.count - 1 }
      let s := s.setIsland island
        { x with exec := none, retired := x.retired + 1,
                 rings := rings.foldl (fun t m => tset t m (pop (tget t m {}))) x.rings }
      .next (s.dropToken c)

/-- The restart shuttle of an island is still on its way (12 R238). -/
def restarting (s : State) (k : Nat) : Bool :=
  (s.island k).restart || (s.bh (k / 4)).shuttles.any fun x => x.source == 0x40000 + k

/-- CONTROL_TOKEN_TAKE (12 R220, R238): a whole pair from the CMD port. -/
def execControlTokenTake (island : Nat) (s : State) : Out :=
  let x := s.island island
  let key := elemKey (island / 4) x.celem
  match s.elem? key with
  | none => .next s
  | some e =>
    if !x.configured || !bit s.isl.toNat 2 || !enginesRun s (island / 4) || restarting s island || 8 ≤ x.queue.length then .next s
    else match headPair e x.cport with
      | none => .next s
      | some (a, b, id) =>
        .next ((s.setElem key (e.dropOut x.cport 2)).modIsland island fun y =>
          { y with queue := y.queue ++ [{ hi := a, lo := b, elem := key, id := id }] })

/-- The restart word (12 R237). -/
def Island.restartWord (x : Island) : Word :=
  BitVec.ofNat 32 (x.retired.toNat * 65536 + min 255 x.discarded * 256 + x.lost.toNat)

/-- ISLAND_RESTART (12 R238). -/
def execIslandRestart (island : Nat) (s : State) : Out :=
  let x := s.island island
  if !x.restart || !enginesRun s (island / 4) then .next s
  else
    let w := x.restartWord
    let s := s.setIsland island { x with restart := false, rstw := w, lost := 0, discarded := 0 }
    if x.re then
      let y : Shuttle :=
        { classL := true, source := 0x40000 + island, label := x.rlab, w0 := w, w1 := BitVec.ofNat 32 (island % 4) }
      .next (s.modBh (island / 4) fun b => { b with shuttles := b.shuttles ++ [y] })
    else .next s

/-! ## MMA, ACCW, ACCL (12 R228-R230) -/

/-- One entry of an MMA: chunk after chunk. -/
def mmaEntry (prod : Nat → FVal × FVal) (acc : Option Word) : Nat → Nat → Word × Flags
  | 0, _ => (acc.getD 0, 0)
  | n + 1, c =>
    let (w, f) := chunkStep acc ((List.range 32).map fun j => prod (32 * c + j))
    let (w, g) := mmaEntry prod (some w) n (c + 1)
    (w, f ||| g)

/-- An accumulator as a table without its +0 entries. -/
def accSet (t : Tab Word) (i j : Nat) (w : Word) : Tab Word :=
  if w == 0 then tdel t (256 * i + j) else tset t (256 * i + j) w

/-- Every entry of a region of m by n computed, row by row. -/
def fillRegion (f : Nat → Nat → Word × Flags) (n : Nat) (t : Tab Word) : Nat → Tab Word × Flags
  | 0 => (t, 0)
  | c + 1 =>
    let (t, g) := fillRegion f n t c
    let (w, h) := f (c / n) (c % n)
    (accSet t (c / n) (c % n) w, g ||| h)

def Island.accOf (x : Island) (a : Nat) : Tab Word := tget x.acc a []
def State.setAcc (s : State) (k a : Nat) (t : Tab Word) : State := s.modIsland k fun x => { x with acc := tset x.acc a t }

/-- MMA (12 R228). -/
def execMma (acc : BitVec 2) (accum : BitVec 1) (ra rb : BitVec 3) (fa fb : BitVec 4) (m : BitVec 7) (n : BitVec 8)
    (k : BitVec 3) (s : State) : Out :=
  let rows := m.toNat + 1
  let cols := n.toNat + 1
  let red := 32 * (k.toNat + 1)
  let bytesA := tileBytes rows red fa.toNat
  let bytesB := tileBytes cols red fb.toNat
  tokenRun (if ra == rb then [ra.toNat] else [ra.toNat, rb.toNat])
    (fun _ _ x =>
      if 11 ≤ fa.toNat || 11 ≤ fb.toNat then 2
      else if ra == rb || (red % 128 != 0 && (8 ≤ fa.toNat || 8 ≤ fb.toNat)) then 3
      else if (x.ring ra.toNat).size < bytesA || (x.ring rb.toNat).size < bytesB then 4
      else 0)
    (fun s i x =>
      let (s, va, pa) := s.ringRead i ra.toNat bytesA
      let (s, vb, pb) := s.ringRead i rb.toNat bytesB
      if pa || pb then { s := s, stop := .fault 0x04 }
      else
        let old := x.accOf acc.toNat
        let entry (r c : Nat) : Word × Flags :=
          mmaEntry (fun j => (tileValue va rows red fa.toNat r j, tileValue vb cols red fb.toNat c j))
            (if accum == 1 then some (tget old (256 * r + c) 0) else none) (k.toNat + 1) 0
        let (t, f) := fillRegion entry cols old (rows * cols)
        { s := ((s.setAcc i acc.toNat t).islandFlags i f).lose i acc.toNat })
    s

/-- The codes of one block and its scale record; of a weft block with its micro-exponents (07 R134, R135). -/
def encodeBlock (f : Nat) (sat : Bool) (vs : List FVal) : Nat × Nat × Flags :=
  let b := blockFormat f
  if b.isWeft then
    let x := selectScale b vs
    let mu (p : Nat) : Nat := microExp b x (vs.getD (2 * p) (.fin false 0 0)) (vs.getD (2 * p + 1) (.fin false 0 0))
    let (c, g) := vs.zipIdx.foldr (fun p acc =>
      let y := b.encode sat x (mu (p.2 / 2)) p.1
      (y.bits + 2 ^ b.width * acc.1, acc.2 ||| y.flags)) (0, (0 : Flags))
    (c, (List.range 64).foldl (fun n p => n + mu p * 2 ^ p) 0 + x * 2 ^ 64, g)
  else
    let x := blockScale b vs
    let (c, g) := packCodes b sat x (vs.map some)
    (c, x, g)

/-- The image of a region in a format: data, then the scale plane (12 R225, R230). -/
def accImage (t : Tab Word) (f rows cols : Nat) (sat : Bool) : Nat × Flags :=
  let at_ (i j : Nat) : Word := tget t (256 * i + j) 0
  if f == 11 then
    ((List.range (rows * cols)).foldr (fun c n => (at_ (c / cols) (c % cols)).toNat + 2 ^ 32 * n) 0, 0)
  else if f < 2 then
    (List.range (rows * cols)).foldr (fun c acc =>
      let y := fconv fmt32 (if f == 0 then fmtBF16 else fmtFP16) .rne 0 (at_ (c / cols) (c % cols)).toNat
      (y.bits + 2 ^ 16 * acc.1, acc.2 ||| y.flags)) (0, (0 : Flags))
  else
    let b := tileBlock f
    let n := rows * (cols / b)
    let blocks := (List.range n).map fun q =>
      encodeBlock f sat ((List.range b).map fun j => fmt32.decode (at_ (q / (cols / b)) (q % (cols / b) * b + j)).toNat)
    let data := blocks.foldr (fun x v => x.1 + 2 ^ (b * tileWidth f) * v) 0
    let plane := blocks.foldr (fun x v => x.2.1 + 2 ^ (8 * scaleBytes f) * v) 0
    (data + 2 ^ (8 * tilePlane rows cols f) * plane, blocks.foldl (fun g x => g ||| x.2.2) 0)

/-- ACCW (12 R230). -/
def execAccw (acc : BitVec 2) (f : BitVec 4) (sat : BitVec 1) (oa : BitVec 16) (m : BitVec 7) (n : BitVec 8) (s : State) :
    Out :=
  let rows := m.toNat + 1
  let cols := n.toNat + 1
  let size := tileBytes rows cols f.toNat
  tokenRun []
    (fun _ _ _ =>
      if 11 < f.toNat || (tileBlock f.toNat != 0 && cols % tileBlock f.toNat != 0) then 2
      else if sat == 1 && f.toNat != 2 && f.toNat != 3 then 1
      else if oaBad oa.toNat size then 5
      else 0)
    (fun s i x =>
      let (v, g) := accImage (x.accOf acc.toNat) f.toNat rows cols (sat == 1)
      { s := (s.areaWrite (oaTile i oa.toNat) (size + 1) (oaOff oa.toNat) v size).islandFlags i g })
    s

/-- ACCL (12 R230). -/
def execAccl (acc : BitVec 2) (oa : BitVec 16) (m : BitVec 7) (n : BitVec 8) (s : State) : Out :=
  let rows := m.toNat + 1
  let cols := n.toNat + 1
  let size := 4 * rows * cols
  tokenRun [] (fun _ _ _ => if oaBad oa.toNat size then 5 else 0)
    (fun s i x =>
      let (s, v, p) := s.areaRead (oaTile i oa.toNat) (size + 1) (oaOff oa.toNat) size
      if p then { s := s, stop := .fault 0x04 }
      else
        let (t, _) := fillRegion (fun r c => (BitVec.ofNat 32 (bits v (32 * (r * cols + c)) 32), 0)) cols
          (x.accOf acc.toNat) (rows * cols)
        { s := (s.setAcc i acc.toNat t).lose i acc.toNat })
    s

/-! ## MSIG, RPOP (12 R231) -/

/-- ISTAT (12 R240). -/
def Island.istat (x : Island) : Word :=
  BitVec.ofNat 32 (x.retired.toNat * 65536 + min 16 x.queue.length * 2048 + x.sub % 16 * 16 + x.rstw.toNat % 16)

/-- A reply token enters the reply port; `none` where the port is full. -/
def State.islandReply (s : State) (k : Nat) (v : Word) : Option State :=
  let x := s.island k
  let l : Link := { prod := 0, prodPort := 0, cons := x.relem, consPort := x.rport, sparse := false }
  if consumerRoom s (k / 4) l then some (s.acceptToken (k / 4) 0 l { data := v }) else none

/-- MSIG (12 R231). -/
def execMsig (kind : BitVec 2) (n : BitVec 16) (sem : BitVec 10) (s : State) : Out :=
  tokenRun []
    (fun s k x =>
      if kind.toNat == 3 then 2
      else if kind.toNat == 0 && !x.rpe then 9
      else if kind.toNat == 1 && (routeOf s (k / 4) (sem.toNat % 128)).isNone then 9
      else 0)
    (fun s k x =>
      match kind.toNat with
      | 0 => match s.islandReply k x.istat with
        | none => { s := s, stop := .wait }
        | some s => { s := s }
      | 1 =>
        let y : Shuttle :=
          { classL := true, source := 0x50000 + k, label := sem.toNat % 128, w0 := x.istat,
            w1 := BitVec.ofNat 32 (k % 4) }
        { s := s.modBh (k / 4) fun b => { b with shuttles := b.shuttles ++ [y] } }
      | _ => { s := s.engineSignal (k / 4) (32 + k % 4) sem.toNat n.toNat })
    s

/-- RPOP (12 R231): the head tile is popped unread when the token retires. -/
def execRpop (ring : BitVec 3) (s : State) : Out := tokenRun [ring.toNat] (fun _ _ _ => 0) (fun s _ _ => { s := s }) s

/-! ## Reflector accumulators (12 R232-R236) -/

def Island.qaOf (x : Island) (q : Nat) : Reflector := tget x.qa q {}
def State.setQa (s : State) (k q : Nat) (r : Reflector) : State := s.modIsland k fun x => { x with qa := tset x.qa q r }

/-- The count k of reflectors. -/
def Reflector.k (r : Reflector) : Nat := r.v.length

/-- T[j, l] as a value; its lower triangle is +0. -/
def Reflector.tVal (r : Reflector) (j l : Nat) : FVal := fmt32.decode (((r.t.getD l []).getD j 0).toNat)
/-- V[i, j] as a value: 0 above the pivot and 1 at it. -/
def Reflector.vVal (r : Reflector) (i j : Nat) : FVal := fmt32.decode (((r.v.getD j []).getD i 0).toNat)

/-- A column of V under its pivot: 0 above it, 1.0 at it, the words below. -/
def reflectorColumn (p : Nat) (ws : List Word) : List Word :=
  ws.zipIdx.map fun x => if x.2 < p then 0 else if x.2 == p then 0x3F800000 else x.1

/-- Every result of a list of rounded sums, and their flags. -/
def sums (l : List (List (FVal × FVal))) : List Word × Flags :=
  let ys := l.map (roundedSum [])
  (ys.map Prod.fst, ys.foldl (fun f y => f ||| y.2) 0)

/-- A reflector appended (12 R233). -/
def Reflector.append (r : Reflector) (p : Nat) (tau : Word) (ws : List Word) : Reflector × Flags :=
  let k := r.k
  let col := reflectorColumn p ws
  let v := col.map fun w => fmt32.decode w.toNat
  let (w, f1) := sums ((List.range k).map fun j =>
    (List.range r.n).map fun i => (r.vVal i j, v.getD i (.fin false 0 0)))
  let wv (l : Nat) : FVal := fmt32.decode (w.getD l 0).toNat
  let (u, f2) := sums ((List.range k).map fun j => (List.range (k - j)).map fun d => (r.tVal j (j + d), wv (j + d)))
  let nt := (fmt32.decode tau.toNat).negate
  let (tc, f3) := sums (u.map fun x => [(nt, fmt32.decode x.toNat)])
  let sn := (fmt32.decode tau.toNat).isSignalling || v.any FVal.isSignalling
  ({ r with pivots := r.pivots ++ [p], v := r.v ++ [col], t := r.t ++ [tc ++ [tau]] },
    f1 ||| f2 ||| f3 ||| flagIf sn flagNV)

/-- Q or its transpose applied to `count` groups of n words: from the left to columns, or from the right to rows
(12 R235). -/
def Reflector.apply (r : Reflector) (right tr : Bool) (c : List Word) (count : Nat) : List Word × Flags :=
  let k := r.k
  let cv (m i : Nat) : FVal := fmt32.decode (c.getD (m * r.n + i) 0).toNat
  if k == 0 then
    let sn (w : Word) : Bool := (fmt32.decode w.toNat).isSignalling
    (c.map fun w => if sn w then loWord fmt32.defaultNaN else w, flagIf (c.any sn) flagNV)
  else
    let st (j l : Nat) : FVal := if tr != right then r.tVal l j else r.tVal j l
    let groups := (List.range count).map fun m =>
      let (w, f1) := sums ((List.range k).map fun j => (List.range r.n).map fun i => (r.vVal i j, cv m i))
      let (y, f2) := sums ((List.range k).map fun j =>
        (List.range k).map fun l => (st j l, fmt32.decode (w.getD l 0).toNat))
      let outs := (List.range r.n).map fun i =>
        roundedSum [cv m i] ((List.range k).map fun j => ((r.vVal i j).negate, fmt32.decode (y.getD j 0).toNat))
      (outs.map Prod.fst, outs.foldl (fun f x => f ||| x.2) (f1 ||| f2))
    (groups.flatMap Prod.fst, groups.foldl (fun f x => f ||| x.2) 0)

/-- The bytes of a spill image of k reflectors of n rows, padded (12 R236). -/
def imageBytes (n k : Nat) : Nat := (128 + 4 * n * k + 4 * k * k + 63) / 64 * 64

/-- The spill image (12 R236). -/
def Reflector.image (r : Reflector) : Nat :=
  let k := r.k
  let header := (r.n - 1) % 128 + k * 256
  let piv := r.pivots.foldr (fun p n => p + 256 * n) 0
  let vs := natOfWords (r.v.flatMap id)
  let ts := natOfWords ((List.range k).flatMap fun j =>
    (List.range k).map fun l => if l < j then 0 else (r.t.getD l []).getD j 0)
  header + 2 ^ 512 * piv + 2 ^ 1024 * vs + 2 ^ (1024 + 32 * r.n * k) * ts

/-- QINIT (12 R233). -/
def execQinit (q : BitVec 1) (mode : BitVec 2) (n : BitVec 7) (oa : BitVec 16) (var : BitVec 2) (c : BitVec 7)
    (s : State) : Out :=
  tokenRun []
    (fun _ _ _ =>
      if mode.toNat == 3 then 2
      else if mode.toNat == 0 && (oa != 0 || var != 0 || c != 0) then 1
      else 0)
    (fun s k _ =>
      let r : Reflector :=
        { init := true, n := n.toNat + 1, mode := mode.toNat, oa := oa.toNat, var := var.toNat, c := c.toNat + 1 }
      { s := (s.setQa k q.toNat r).lose k (4 + q.toNat) })
    s

/-- The overflow rule of a QADD that finds 64 reflectors (12 R234): the emptied accumulator, or the fault. -/
def State.reflectorOverflow (s : State) (k : Nat) (r : Reflector) : State × Except Nat Reflector :=
  let empty : Reflector := { r with pivots := [], v := [], t := [] }
  match r.mode with
  | 0 => (s, .error 0x4B)
  | 1 =>
    let size := 4 * r.n * r.c
    let (s, v, p) := s.areaRead (oaTile k r.oa) (size + 1) (oaOff r.oa) size
    if p then (s, .error 0x04)
    else
      let (ws, f) := r.apply (2 ≤ r.var) (r.var % 2 == 1) (wordsOf v (r.n * r.c)) r.c
      ((s.areaWrite (oaTile k r.oa) (size + 1) (oaOff r.oa) (natOfWords ws) size).islandFlags k f, .ok empty)
  | _ =>
    let size := imageBytes r.n 64
    (s.areaWrite (oaTile k r.oa) (size + 1) (oaOff r.oa + r.spills * (16512 + 256 * r.n)) r.image size,
      .ok { empty with spills := r.spills + 1 })

/-- QADD (12 R233, R234). -/
def execQadd (q : BitVec 1) (ring : BitVec 3) (p : BitVec 7) (s : State) : Out :=
  tokenRun [ring.toNat]
    (fun _ _ x =>
      let r := x.qaOf q.toNat
      if !r.init then 6
      else if (x.ring ring.toNat).size < 4 * (r.n + 1) then 4
      else if r.n ≤ p.toNat then 7
      else if r.k == 64 && r.mode == 1 && oaBad r.oa (4 * r.n * r.c) then 5
      else if r.k == 64 && r.mode == 2
          && (r.spills == 255 || oaBad r.oa ((r.spills + 1) * (16512 + 256 * r.n))) then 5
      else 0)
    (fun s k x =>
      let r := x.qaOf q.toNat
      let (s, v, poison) := s.ringRead k ring.toNat (4 * (r.n + 1))
      if poison then { s := s, stop := .fault 0x04 }
      else
        let ws := wordsOf v (r.n + 1)
        let add (s : State) (r : Reflector) : TokenResult :=
          let (r, f) := r.append p.toNat (ws.headD 0) (ws.drop 1)
          { s := ((s.setQa k q.toNat r).islandFlags k f).lose k (4 + q.toNat) }
        if r.k == 64 then
          match s.reflectorOverflow k r with
          | (s, .error c) => { s := s, stop := .fault c }
          | (s, .ok r) => add s r
        else add s r)
    s

/-- QAPL and QAPR (12 R235). -/
def reflectorApply (right : Bool) (q tr : BitVec 1) (ring : BitVec 3) (oa : BitVec 16) (c : BitVec 7) (s : State) : Out :=
  let count := c.toNat + 1
  tokenRun [ring.toNat]
    (fun _ _ x =>
      let r := x.qaOf q.toNat
      if !r.init then 6
      else if (x.ring ring.toNat).size < 4 * r.n * count then 4
      else if oaBad oa.toNat (4 * r.n * count) then 5
      else 0)
    (fun s k x =>
      let r := x.qaOf q.toNat
      let size := 4 * r.n * count
      let (s, v, p) := s.ringRead k ring.toNat size
      if p then { s := s, stop := .fault 0x04 }
      else
        let (ws, f) := r.apply right (tr == 1) (wordsOf v (r.n * count)) count
        { s := (s.areaWrite (oaTile k oa.toNat) (size + 1) (oaOff oa.toNat) (natOfWords ws) size).islandFlags k f })
    s

/-- QAPL (12 R235). -/
def execQapl (q tr : BitVec 1) (ring : BitVec 3) (oa : BitVec 16) (c : BitVec 7) (s : State) : Out :=
  reflectorApply false q tr ring oa c s
/-- QAPR (12 R235). -/
def execQapr (q tr : BitVec 1) (ring : BitVec 3) (oa : BitVec 16) (r : BitVec 7) (s : State) : Out :=
  reflectorApply true q tr ring oa r s

/-- QCNT (12 R236): the counts, or 0 of an accumulator that is not initialised. -/
def execQcnt (q : BitVec 1) (s : State) : Out :=
  tokenRun [] (fun _ _ x => if x.rpe then 0 else 9)
    (fun s k x =>
      let r := x.qaOf q.toNat
      let w := if r.init then r.k + r.spills * 256 + (r.n - 1) % 128 * 65536 + 2 ^ 23 else 0
      match s.islandReply k (BitVec.ofNat 32 w) with
      | none => { s := s, stop := .wait }
      | some s => { s := s })
    s

/-- QSPL (12 R236). -/
def execQspl (q : BitVec 1) (oa : BitVec 16) (s : State) : Out :=
  tokenRun []
    (fun _ _ x =>
      let r := x.qaOf q.toNat
      if !r.init then 6 else if oaBad oa.toNat (imageBytes r.n r.k) then 5 else 0)
    (fun s k x =>
      let r := x.qaOf q.toNat
      let size := imageBytes r.n r.k
      { s := s.areaWrite (oaTile k oa.toNat) (size + 1) (oaOff oa.toNat) r.image size })
    s

/-- The reflectors of an image body: k columns of V and the rows of T. -/
def Reflector.load (r : Reflector) (k piv body : Nat) : Reflector :=
  let p (j : Nat) : Nat := bits piv (8 * j) 8
  let word (n : Nat) : Word := BitVec.ofNat 32 (bits body (32 * n) 32)
  { r with
    pivots := (List.range k).map p
    v := (List.range k).map fun j => reflectorColumn (p j) ((List.range r.n).map fun i => word (j * r.n + i))
    t := (List.range k).map fun l => (List.range (l + 1)).map fun j => word (r.n * k + j * k + l) }

/-- QLDV (12 R236). -/
def execQldv (q : BitVec 1) (oa : BitVec 16) (s : State) : Out :=
  tokenRun []
    (fun _ _ x => if !(x.qaOf q.toNat).init then 6 else if oaBad oa.toNat 128 then 5 else 0)
    (fun s i x =>
      let r := x.qaOf q.toNat
      let tile := oaTile i oa.toNat
      let off := oaOff oa.toNat
      let (s, h, p) := s.areaRead tile 129 off 128
      if p then { s := s, stop := .fault 0x04 }
      else
        let head := bits h 0 512
        let piv := bits h 512 512
        let k := bits head 8 7
        if bits head 0 7 + 1 != r.n || 64 < k || bit head 7 || bits head 15 497 != 0
            || (List.range k).any fun j => r.n ≤ bits piv (8 * j) 8 then { s := s, stop := .bad 8 }
        else if oaBad oa.toNat (128 + 4 * r.n * k + 4 * k * k) then { s := s, stop := .bad 5 }
        else
          let size := 4 * r.n * k + 4 * k * k
          let (s, body, p) := s.areaRead tile (size + 1) (off + 128) size
          if p then { s := s, stop := .fault 0x04 }
          else { s := (s.setQa i q.toNat (r.load k piv body)).lose i (4 + q.toNat) })
    s

end Sys2Proof.Machine
end

