-- ==== Sys2Proof/Machine/HubSteps.lean ====
section
/-!
DEFINITION. The ask hub: decisions, pools, conditioning tokens, deadlines, frames, answers, the target log and the policy
machine (17 R299-R316).
-/
namespace Sys2Proof.Machine
open Sys2Proof

/-- The hub of a bulkhead works: a load is resident, retired or not (21 R346), and the bulkhead is neither frozen nor in reset. -/
def hubRuns (s : State) (bh : Nat) : Bool :=
  (s.bh bh).load.isSome && !(s.bh bh).frozen && !(s.bh bh).parked && (s.bh bh).state == 6

/-! ## The policy machine (17 R312-R315) -/

/-- The word of a site's policy block, and the block with a word replaced. -/
def Site.word (x : Site) (n : Nat) : Nat := (x.policy.getD n 0).toNat
def Site.setWord (x : Site) (n v : Nat) : Site := { x with policy := x.policy.set n (BitVec.ofNat 32 v) }
def Site.mode (x : Site) : Nat := bits (x.word 0) 30 2
def Site.dcnt (x : Site) : Nat := bits (x.word 3) 0 16
def Site.setDcnt (x : Site) (n : Nat) : Site := x.setWord 3 (x.word 3 / 65536 * 65536 + n % 65536)
/-- EMA[b]: half b of words 19-26. -/
def Site.ema (x : Site) (b : Nat) : Nat := bits (x.word (19 + b / 2)) (16 * (b % 2)) 16
def Site.setEma (x : Site) (b v : Nat) : Site :=
  let w := x.word (19 + b / 2)
  x.setWord (19 + b / 2) (w - bits w (16 * (b % 2)) 16 * 2 ^ (16 * (b % 2)) + v % 65536 * 2 ^ (16 * (b % 2)))
/-- A counter of words 27-30 stepped. -/
def Site.count (x : Site) (n : Nat) : Site := x.setWord n (x.word n + 1)

/-- The bin of a feature word (17 R312). -/
def Site.bin (x : Site) (f : Word) : Nat :=
  let bound (j : Nat) : Nat := x.word (4 + j)
  if bit (x.word 0) 29 then
    ((List.range 15).filter fun j => decide (signed (bound j) 32 ≤ signed f.toNat 32)).length
  else if (fmt32.decode f.toNat).isNaN then 15
  else ((List.range 15).filter fun j => (fcmp fmt32 .le (bound j) f.toNat).1).length

/-- min(floor(m · 2^e), cap). -/
def floorCap (m : Nat) (e : Int) (cap : Nat) : Nat := min cap (if 0 ≤ e then m * 2 ^ e.toNat else m / 2 ^ (-e).toNat)

/-- The gain of an answer word against the estimate (17 R313). -/
def Site.gain (x : Site) (a e : Word) : Nat :=
  let cap := bits (x.word 1) 0 16
  let sc := signed (bits (x.word 0) 16 8) 8
  if bit (x.word 0) 28 then floorCap (signed a.toNat 32 - signed e.toNat 32).natAbs sc cap
  else
    let u := fmt32.decode a.toNat
    let v := fmt32.decode e.toNat
    if u.isNaN || v.isNaN || u.isInf || v.isInf then cap
    else
      let ts := [u, v.negate]
      let p := leastExp 4096 ts
      floorCap (sumAt p ts).natAbs (p + sc) cap

/-- EMA[b] updated with a gain (17 R313). -/
def Site.learn (x : Site) (b g : Nat) : Site :=
  let k := bits (x.word 0) 24 4
  let t : Int := (g : Int) - x.ema b
  let y : Int := x.ema b + t / (2 ^ k : Nat)
  let floor : Int := bits (x.word 2) 0 16
  let ceil : Int := bits (x.word 2) 16 16
  let z := if y < floor then floor else y
  x.setEma b (if ceil < z then ceil else z).toNat

/-- The words of a site's block that name its bin: PCFG and the boundaries (17 R312). -/
def binWords : List Nat := 0 :: (List.range 15).map (· + 4)

/-- The site in which a parity error has been found (17 R315): OFF, every EMA 0, PERR 1, the block's parity rewritten. -/
def Site.parityFound (x : Site) : Site :=
  let x := x.setWord 0 (x.word 0 % 2 ^ 30)
  let x := (List.range 8).foldl (fun x j => x.setWord (19 + j) 0) x
  { x.setWord 3 (x.word 3 % 2 ^ 31 + 2 ^ 31) with parity := [] }

/-- A parity error in a word that a decision or an update reads (17 R315): the site goes to OFF, and the error is counted and
logged. -/
def State.policyParity (s : State) (bh site : Nat) (words : List Nat) : State :=
  let h := s.hub bh
  match h.sites[site]? with
  | none => s
  | some x =>
    if !x.parity.any words.contains then s
    else
      (s.setHub bh { h with sites := h.sites.set site x.parityFound, perrcnt := h.perrcnt + 1 }).postFault bh
        { unit := .elem x.elem, start := .none, code := 0x4E, detail := x.slot, logOnly := true }

/-! ## Pools (17 R301) -/

def Hub.pool (h : Hub) (p : Nat) : AskPool := tget h.pools p {}
def Hub.setPool (h : Hub) (p : Nat) (x : AskPool) : Hub := { h with pools := tset h.pools p x }

/-- Every pool with REFILL takes its credit once. -/
def Hub.refill (h : Hub) : Hub :=
  { h with
    refilled := h.refilled + 1
    pools := tmap h.pools fun _ x => if x.refill == 0 then x else { x with credit := min (x.credit + x.refill) x.size } }

/-- Cycles since the resident load became resident. -/
def State.residency (s : State) (bh : Nat) : Nat := s.cycle - ((s.bh bh).load.map Load.since).getD 0

/-- The refills that have come due and have not been applied. -/
def State.refillsDue (s : State) (bh : Nat) : Nat := s.residency bh / 4096 - (s.hub bh).refilled

/-! ## Conditioning tokens (17 R302-R304) -/

/-- A substituted token: the estimate with its exception bit. -/
def subToken (level : Nat) (estimate : Word) (exc : Bool) : Token := { data := estimate, tag := mkTag level exc }

/-- The token of an accepted ask is fixed. -/
def Hub.fixToken (h : Hub) (askid : Nat) (t : Token) : Hub :=
  { h with cond := h.cond.map fun c => if c.askid == some askid then { c with askid := none, token := some t } else c }

/-- The cycle at which an entry is due, if it ever is. -/
def Hub.due? (h : Hub) (e : AskEntry) : Option Nat :=
  match h.sites[e.site]? with
  | none => none
  | some x => if x.dl == 0 then none else some (e.cycle + 64 * x.dl)

/-- A waiting entry goes LATE: its token is fixed as SUB_LATE. -/
def Hub.makeLate (h : Hub) (askid : Nat) (orphan : Bool) : Hub :=
  match tget? h.table askid with
  | none => h
  | some e =>
    if e.state == .wait then
      ({ h with table := tset h.table askid { e with state := .late, orphan := orphan } } : Hub).fixToken askid
        (subToken 1 e.estimate e.estExc)
    else h

/-- An entry goes LATE, with its trace event: due, or substituted by a sweep (23 R364). -/
def State.lateAsk (s : State) (bh askid : Nat) (orphan : Bool) : State :=
  match tget? (s.hub bh).table askid with
  | none => s
  | some e =>
    if e.state == .wait then
      (s.modHub bh fun h => h.makeLate askid orphan).trace bh 3 (if orphan then 3 else 2) e.site (BitVec.ofNat 32 askid) 0
    else s

/-- What stands in the hub queue as an ask. -/
def HubMsg.isAsk : HubMsg → Bool
  | .ask .. => true
  | .answer .. => false

/-! ## The order of one cycle (17 R305)

The events of a hub in one cycle are numbered as the rule lists them: 1 refill, 2 answer, 3 deadlines, 4 sweep, 5 decision,
6 register writes. -/

/-- An event may still happen in this cycle: no later one has; of answers and decisions there is one. -/
def hubMay (s : State) (bh n : Nat) : Bool :=
  let h := s.hub bh
  h.stageAt != s.cycle || (if n == 2 || n == 5 then decide (h.stage < n) else decide (h.stage ≤ n))

/-- What comes before event n of this cycle: the refills that are due, and the deadlines of earlier cycles, from the third
event on of this one too. -/
def State.hubCatchUp (s : State) (bh n : Nat) : State :=
  let s := (List.range (s.refillsDue bh)).foldl (fun s _ => s.modHub bh Hub.refill) s
  (s.hub bh).table.foldl (fun s p => match (s.hub bh).due? p.2 with
    | some c => if c < s.cycle || (c == s.cycle && decide (3 ≤ n)) then s.lateAsk bh p.1 false else s
    | none => s) s

/-- Event n begins: what comes before it has happened. -/
def State.hubStage (s : State) (bh n : Nat) : State :=
  (s.hubCatchUp bh n).modHub bh fun h => { h with stage := n, stageAt := s.cycle }

/-- POOL_REFILL (17 R301). -/
def execPoolRefill (hub : Nat) (s : State) : Out :=
  if hubRuns s hub && hubMay s hub 1 && s.refillsDue hub != 0 then
    .next (s.modHub hub fun h => { h.refill with stage := 1, stageAt := s.cycle })
  else .next s

/-- An answer at the hub is still to be accepted in this cycle: one that its ask's due cycle finds there is in time. -/
def answerWaits (s : State) (bh : Nat) : Bool :=
  (s.hub bh).queue.any (fun m => !m.isAsk) && hubMay s bh 2 && (s.bh bh).sweep.map Sweep.kind != some .endOfSlice

/-- ASK_DUE (17 R304). -/
def execAskDue (hub entry : Nat) (s : State) : Out :=
  let h := s.hub hub
  match (tget? h.table entry).bind h.due? with
  | none => .next s
  | some c =>
    if hubRuns s hub && (decide (c < s.cycle) || (c == s.cycle && hubMay s hub 3 && !answerWaits s hub)) then
      .next ((s.lateAsk hub entry false).modHub hub fun h => if c == s.cycle then { h with stage := 3, stageAt := s.cycle } else h)
    else .next s

/-- CONDITIONING_TOKEN (17 R303): the oldest token of a site, once fixed, enters the consumer port. -/
def execConditioningToken (hub site : Nat) (s : State) : Out :=
  let h := s.hub hub
  match h.cond.findIdx? (·.site == site), h.sites[site]? with
  | some i, some x =>
    match (h.cond.getD i { site := site, askid := none, token := none }).token with
    | none => .next s
    | some t =>
      let l : Link := { prod := 0, prodPort := 0, cons := x.cons, consPort := x.consPort, sparse := false }
      if hubRuns s hub && consumerRoom s hub l then
        .next ((s.setHub hub { h with cond := removeAt h.cond i }).acceptToken hub 0 l t)
      else .next s
  | _, _ => .next s

/-! ## Decisions (17 R299, R300, R307) -/

/-- The outcome of a decision. -/
structure Decision where
  status : Nat
  cause : Nat := 0
  forced : Bool := false
  askid : Nat := 0

/-- The status word (17 R299): FORCED of an ask accepted or refused by exploration. -/
def Decision.word (d : Decision) (site bin : Nat) : Nat :=
  site % 256 * 2 ^ 24 + bin % 16 * 2 ^ 20 + (if d.status == 0 then d.askid else 0) % 512 * 2 ^ 8 + d.cause * 16
    + b2n (d.forced && decide (d.status ≤ 1)) * 8 + d.status

/-- The policy's wish: whether to ask, whether by exploration, and the site with DCNT stepped (17 R300). -/
def Site.want (x : Site) (b : Nat) : Bool × Bool × Site :=
  let theta := bits (x.word 1) 16 16
  let e := bits (x.word 0) 0 16
  match x.mode with
  | 0 => (true, false, x)
  | 1 =>
    if theta ≤ x.ema b then (true, false, x)
    else
      let n := min (x.dcnt + 1) 0xFFFF
      let y := x.setDcnt n
      if e != 0 && decide (e ≤ n) then (true, true, y) else (false, false, y)
  | 2 => (decide (theta ≤ x.ema b), false, x)
  | _ => (false, false, x)

/-- The tokens of a frame (17 R307). -/
def frameTokens (askid site q bin : Nat) (words : List Token) (e : AskEntry) : List Token :=
  { data := BitVec.ofNat 32 (askid + site * 2 ^ 9 + q * 2 ^ 17 + bin * 2 ^ 20), tag := mkTag 2 false }
    :: (words.map fun t => { data := t.data, tag := mkTag 0 t.exc })
    ++ [{ data := e.estimate, tag := mkTag 0 e.estExc }, { data := e.feature, tag := mkTag 1 false }]

/-- The decision of a site (17 R300), its bin, and the site with DCNT and its counter stepped. -/
def Hub.decision (h : Hub) (sweeping : Bool) (x : Site) (f : Word) : Decision × Site :=
  let (want, forced, x') := if sweeping then (true, false, x) else x.want (x.bin f)
  let p := h.pool x.pool
  let free := (List.range 512).find? fun n => (tget? h.table n).isNone
  let d : Decision :=
    if sweeping then { status := 3, cause := 2 }
    else if !want then { status := 2, cause := if x.mode == 3 then 1 else 2 }
    else if decide (p.size ≤ p.out) || (p.refill != 0 && p.credit == 0) then { status := 1, forced := forced }
    else match free with
      | none => { status := 3, cause := 1 }
      | some n => { status := 0, forced := forced, askid := n }
  let x' := x'.count (if d.status == 0 then 27 else if d.status == 2 then 28 else if d.status == 1 then 29 else 30)
  (d, if d.status == 0 && d.forced then x'.setDcnt 0 else x')

/-- The words of its block that a decision reads: those of the bin, the threshold and the EMA of a mode that has them, DCNT
where LEARN would decline or its ask is forced, and the counter that it steps. -/
def Hub.decisionWords (h : Hub) (sweeping : Bool) (x : Site) (f : Word) : List Nat :=
  let d := (h.decision sweeping x f).1
  let learns := !sweeping && (x.mode == 1 || x.mode == 2)
  binWords ++ (if learns then [1, 19 + x.bin f / 2] else [])
    ++ (if learns && x.mode == 1 && decide (x.ema (x.bin f) < bits (x.word 1) 16 16) then [3] else [])
    ++ [if d.status == 0 then 27 else if d.status == 2 then 28 else if d.status == 1 then 29 else 30]

/-- One ask decided (17 R300); a parity error in a word that the decision reads has it completed under OFF (17 R315). -/
def State.decideAsk (s : State) (bh elem id site : Nat) (words : List Token) (est : Word) (exc : Bool) (f : Word) : State :=
  let sweeping := (s.bh bh).sweep.isSome
  let s := match (s.hub bh).sites[site]? with
    | none => s
    | some x => s.policyParity bh site ((s.hub bh).decisionWords sweeping x f)
  let h := s.hub bh
  match h.sites[site]? with
  | none => s
  | some x =>
    let b := x.bin f
    let (d, x') := h.decision sweeping x f
    let p := h.pool x.pool
    let h := { h with sites := h.sites.set site x' }
    let h : Hub :=
      if d.status == 0 then
        let e : AskEntry :=
          { site := site, elem := elem, estimate := est, estExc := exc, feature := f, words := words, bin := b,
            forced := d.forced, cycle := s.cycle, state := .wait }
        let p := { p with out := p.out + 1, credit := if p.refill != 0 then p.credit - 1 else p.credit }
        { h.setPool x.pool p with
          table := tset h.table d.askid e
          frames := h.frames ++ [(d.askid, frameTokens d.askid site x.q b words e)]
          cond := h.cond ++ [{ site := site, askid := some d.askid, token := none }] }
      else
        { h with cond := h.cond ++
            [{ site := site, askid := none, token := some (subToken (d.status + 1) est exc) }] }
    let s := s.setHub bh h
    let s := s.trace bh 3 0 site (BitVec.ofNat 32 (d.word site b)) 0
    s.reply { elem := elem, id := id, status := 0, value := d.word site b }

/-- ASK_DECIDE (17 R300): the oldest ask at the hub. -/
def execAskDecide (hub : Nat) (s : State) : Out :=
  if !hubRuns s hub || !hubMay s hub 5 then .next s
  else match (s.hub hub).queue.findIdx? HubMsg.isAsk with
    | none => .next s
    | some i =>
      match (s.hub hub).queue[i]? with
      | some (.ask elem id site words est exc f) =>
        let s := (s.modHub hub fun h => { h with queue := removeAt h.queue i }).hubStage hub 5
        .next (s.decideAsk hub elem id site words est exc f)
      | _ => .next s

/-- The class port of an entry's site: the evaluator element's address and its port. -/
def Hub.classPort (h : Hub) (e : AskEntry) : Option (Nat × Nat) :=
  (h.sites[e.site]?).map fun x => let c := tget h.classes x.cls {}; (c.elem, c.port)

/-- The first frame whose next token may enter its port: no earlier frame goes to the same port. -/
def State.nextFrame (s : State) (bh : Nat) (used : List (Nat × Nat)) : List (Nat × List Token) → Option Nat
  | [] => none
  | (n, _) :: fs =>
    let h := s.hub bh
    match (tget? h.table n).bind h.classPort with
    | none => (s.nextFrame bh used fs).map (· + 1)
    | some p =>
      let l : Link := { prod := 0, prodPort := 0, cons := p.1, consPort := p.2, sparse := false }
      if !used.contains p && consumerRoom s bh l then some 0 else (s.nextFrame bh (p :: used) fs).map (· + 1)

/-- ASK_FRAME_DELIVERY (17 R307): the next token of a frame enters its class port; the entry records the evaluator element
once the frame is whole. -/
def execAskFrameDelivery (hub : Nat) (s : State) : Out :=
  let h := s.hub hub
  if !hubRuns s hub || (s.bh hub).sweep.isSome then .next s
  else match s.nextFrame hub [] h.frames with
    | none => .next s
    | some i =>
      match h.frames[i]? with
      | none => .next s
      | some (n, ts) =>
        match tget? h.table n, ts with
        | some e, t :: rest =>
          match h.classPort e with
          | none => .next s
          | some p =>
            let l : Link := { prod := 0, prodPort := 0, cons := p.1, consPort := p.2, sparse := false }
            let h := if rest.isEmpty then
                { h with frames := removeAt h.frames i,
                         table := tset h.table n { e with evaluator := some (elemKey hub p.1) } }
              else { h with frames := h.frames.set i (n, rest) }
            .next ((s.setHub hub h).acceptToken hub 0 l t)
        | _, _ => .next (s.setHub hub { h with frames := removeAt h.frames i })

/-! ## Answers and the target log (17 R309-R311) -/

/-- The 64 bytes of a target-log record (17 R310). -/
def targetRecord (s : State) (bh askid : Nat) (e : AskEntry) (x : Site) (seq kind gain : Nat) (ws : List Word) : Nat :=
  let q (n : Nat) : Nat := ((e.words.getD n Token.zero).data).toNat
  let a (n : Nat) : Nat := (ws.getD n 0).toNat
  let delay := min (s.cycle - e.cycle) 0xFFFFFFFF
  seq % 2 ^ 64 + 2 ^ 64 * e.site + 2 ^ 72 * (kind + (ws.length - 1) * 4 + b2n e.forced * 32)
    + 2 ^ 80 * (askid + bh * 512) + 2 ^ 96 * delay + 2 ^ 128 * e.estimate.toNat + 2 ^ 160 * e.feature.toNat
    + 2 ^ 192 * (e.bin + x.q * 16) + 2 ^ 208 * gain + 2 ^ 224 * (((s.bh bh).load.map Load.ident).getD 0).toNat
    + 2 ^ 256 * (q 0 + 2 ^ 32 * q 1 + 2 ^ 64 * q 2 + 2 ^ 96 * q 3)
    + 2 ^ 384 * (a 0 + 2 ^ 32 * a 1 + 2 ^ 64 * a 2 + 2 ^ 96 * a 3)

/-- A record is written to the target log, or dropped (17 R311). -/
def State.targetLog (s : State) (bh rec_ : Nat) : State :=
  let h := s.hub bh
  let size := 2 ^ h.tllog2
  let drop (s : State) : State := s.modHub bh fun h => { h with tldrop := h.tldrop + 1 }
  if !h.tlen || (h.tltail + 1) % size == h.tlhead % size then drop s
  else
    let r := s.engineWrite .none bh (segVa (h.tlbase + 64 * h.tltail) 0) rec_ 64 0 15 false
    if r.status == 0 then
      r.s.modHub bh fun h => { h with tltail := (h.tltail + 1) % size, seq := h.seq + 1, tlerr := false }
    else (drop r.s).modHub bh fun h => { h with tlerr := true, tlen := false }

/-- An entry is freed and its budget given back. -/
def Hub.free (h : Hub) (askid : Nat) : Hub :=
  match tget? h.table askid with
  | none => h
  | some e =>
    let h := { h with table := tdel h.table askid }
    match h.sites[e.site]? with
    | none => h
    | some x => let p := h.pool x.pool; h.setPool x.pool { p with out := p.out - 1 }

/-- A matched answer (17 R309). -/
def State.takeAnswer (s : State) (bh askid : Nat) (e : AskEntry) (ws : List Word) : State :=
  let s := match (s.hub bh).sites[e.site]? with
    | none => s
    | some x => s.policyParity bh e.site ([0, 1] ++ if x.mode ≤ 1 then [2, 19 + e.bin / 2] else [])
  match (s.hub bh).sites[e.site]? with
  | none => s
  | some x =>
    let g := x.gain (ws.headD 0) e.estimate
    let y := if x.mode ≤ 1 then x.learn e.bin g else x
    let s := s.modHub bh fun h => { h with sites := h.sites.set e.site y }
    let kind := if e.orphan then 2 else if e.state == .late then 1 else 0
    let s := s.targetLog bh (targetRecord s bh askid e x (s.hub bh).seq kind g ws)
    let s := s.trace bh 3 1 e.site (BitVec.ofNat 32 askid) (BitVec.ofNat 32 kind)
    s.modHub bh fun h =>
      let h := if kind == 0 then h.fixToken askid { data := ws.headD 0 } else h
      h.free askid

/-- ANSWER_ACCEPT (17 R309): the oldest answer at the hub; one that matches no entry is stray. None is accepted from the start of
an end-of-slice sweep until the load is restored (17 R306). -/
def execAnswerAccept (hub : Nat) (s : State) : Out :=
  if !hubRuns s hub || !answerWaits s hub then .next s
  else match (s.hub hub).queue.findIdx? (fun m => !m.isAsk) with
    | none => .next s
    | some i =>
      match (s.hub hub).queue[i]? with
      | some (.answer elem id askid ws) =>
        let s := (s.modHub hub fun h => { h with queue := removeAt h.queue i }).hubStage hub 2
        let s := s.modElem elem (·.dropPending id)
        match tget? (s.hub hub).table askid with
        | none => .next (s.modHub hub fun h => { h with stray := h.stray + 1 })
        | some e =>
          if e.evaluator == some elem then .next (s.takeAnswer hub askid e ws)
          else .next (s.modHub hub fun h => { h with stray := h.stray + 1 })
      | _ => .next s

/-! ## Register writes, sweeps (17 R306, R314, R316) -/

/-- A word of a policy block written under its access kinds (17 R314). -/
def Site.write (x : Site) (n : Nat) (v : Word) : Site :=
  if n == 3 then
    let perr := bit (x.word 3) 31 && !bit v.toNat 31
    x.setWord 3 (b2n perr * 2 ^ 31 + v.toNat % 65536)
  else if 27 ≤ n then x
  else { x.setWord n v.toNat with parity := x.parity.filter (· != n) }

/-- A write at a hub index (17 R316). -/
def Hub.write (h : Hub) (w : HubWrite) : Hub :=
  if 0x120 ≤ w.index && w.index < 0x140 then
    match h.sites[w.site]? with
    | none => h
    | some x => { h with sites := h.sites.set w.site (x.write (w.index - 0x120) w.value) }
  else if 0x140 ≤ w.index && w.index < 0x150 then
    let p := h.pool (w.index - 0x140)
    let size := bits w.value.toNat 0 9
    h.setPool (w.index - 0x140) { p with size := size, refill := bits w.value.toNat 16 9, credit := min p.credit size }
  else h

/-- HUB_REGISTER_WRITE (17 R305): the oldest write to a pool or a policy block is applied, the last event of its cycle, so that
it counts from the next cycle's decision on. -/
def execHubRegisterWrite (hub : Nat) (s : State) : Out :=
  match (s.hub hub).writes with
  | [] => .next s
  | w :: rest => .next ((s.hubStage hub 6).modHub hub fun h => ({ h with writes := rest } : Hub).write w)

/-- A reconfiguration or end-of-slice sweep begins: what is due is late, and every entry that still waits is LATE and an orphan
(17 R305, R306). -/
def State.hubSweepStart (s : State) (bh : Nat) : State :=
  let s := s.hubStage bh 4
  (s.hub bh).table.foldl (fun s p => s.lateAsk bh p.1 true) s

/-- Every entry is freed; tokens and answers in flight are discarded (17 R306). -/
def Hub.discardAll (h : Hub) : Hub :=
  { h.table.foldl (fun h p => h.free p.1) h with frames := [], queue := [], cond := [] }

end Sys2Proof.Machine
end

