-- ==== Sys2Proof/Machine/Launch.lean ====
section
/-!
DEFINITION. Launching: doorbells and queue configuration (03 R32, R34), the journal (03 R43), arbitration (03 R39), the
commands (03 R37, R40, 22 R356), graphs and their nodes (02 R25-R29), recompute replay (21 R354).
-/
namespace Sys2Proof.Machine
open Sys2Proof

/-! ## Doorbells and configuration (03 R32, R34) -/

/-- QSTAT.ERR is set; the vector is raised where it rises (24 R367). -/
def State.queueError (s : State) (q : Nat) : State :=
  let h := s.queue q
  let s := s.setQueue q { h with en := false, err := true }
  if h.err then s else s.raiseMsi h.qmapTag 1

/-- A number that no bulkhead has, from which the spine itself sends (04 R57; log 106). -/
def spineUnit : Nat := 20

/-- The engine itself writes the status byte of a command that is refused and cannot be read. -/
def State.refuseUnread (s : State) (q entry code : Nat) : State :=
  let h := s.queue q
  (s.writeBytes spineUnit h.qmapTag h.pasid (entry + 1) [BitVec.ofNat 8 code]).1

/-- The codes of R35 that come before a command's contents: NO_QUEUE, TENANT_MISMATCH and QUEUE_DISABLED. -/
def refusedUnread (code : Nat) : Bool := code == 0x16 || code == 0x06 || code == 0x07

/-- The engine reads one command, checks it, writes its status byte and advances QHEAD (03 R34). A command that cannot be
read is passed over, without QSTAT.ERR, unless a check that comes before its contents refuses it (log 56). -/
def State.takeCommand (s : State) (fn q : Nat) : State :=
  let h := s.queue q
  let at_ := h.base + 64 * (h.head % h.size)
  let s := s.setQueue q { h with head := (h.head + 1) % 2 ^ 32 }
  match s.readBytes (firstMember s fn) fn h.pasid at_ .read 64 with
  | (s, .error _) =>
    let code := refusal s fn q { kind := 0 } false false
    if refusedUnread code then s.refuseUnread q at_ code else s
  | (s, .ok b) =>
    let (c, reserved) := parseCommand b.bytes
    let code := refusal s fn q c reserved false
    let s := s.writeStatus q at_ code
    if code == 0 then s.acceptCommand fn q { id := 0, cmd := c, source := .doorbell, entry := some at_ } else s

/-- QDB (03 R34): a doorbell's commands are read one after another, at most one in a spine cycle and none in the cycle of the write
(03 R36); the queue's own turn rings it again while one is unread. During a queue-level kill QHEAD stops (19 R337). -/
def execQdb (fn index tail : Nat) (s : State) : Out :=
  match queueBlock s fn index with
  | none => .next s
  | some q =>
    let h := s.queue q
    let n := (tail % 2 ^ 32 + 2 ^ 32 - h.head) % 2 ^ 32
    if h.size < n then .next (s.queueError q)
    else
      let rung := if h.tail == tail % 2 ^ 32 then h.rungAt else s.spine
      let s := s.setQueue q { h with tail := tail % 2 ^ 32, rungAt := rung }
      if (s.queue q).unread && !enqueueWaits s fn index 0 rung then .next (s.takeCommand fn q) else .next s

/-- QCFG_WRITE (03 R32). During a queue-level kill EN stays clear (19 R337). -/
def execQcfgWrite (fn index : Nat) (value : Word) (s : State) : Out :=
  match queueBlock s fn index with
  | none => .next s
  | some q =>
    let h := s.queue q
    let v := value.toNat
    let h := { h with prio := bits v 26 2, pasid := bits v 0 20, log2 := if h.en then h.log2 else bits v 22 4 }
    if !bit v 31 || h.killBusy then .next (s.setQueue q { h with en := false })
    else if 13 ≤ h.log2 then .next ((s.setQueue q h).queueError q)
    else .next (s.setQueue q { h with en := true, err := false })

/-! ## The journal (03 R43) -/

/-- Writes bytes at a physical address a line at a time; whether every byte was written: each is backed, its link up and its
gate open. `fuel` bounds the lines. -/
def State.writePhysLines (s : State) : Nat → Nat → List Byte → State × Bool
  | 0, _, _ => (s, true)
  | fuel + 1, pa, bs =>
    if bs.isEmpty then (s, true)
    else match homeOf s pa with
      | none => (s, false)
      | some h =>
        let m := min bs.length (256 - pa % 256)
        if cxlUp s h && !gated s h.bh then
          ((s.countIssue (sliceEngine h.key)).homeWrite h (natOfBytes (bs.take m)) m 0 15).writePhysLines fuel (pa + m) (bs.drop m)
        else (s, false)

def State.writePhys (s : State) (pa : Nat) (bs : List Byte) : State × Bool := s.writePhysLines (bs.length / 256 + 2) pa bs

/-- The 32 bytes of a record; the layout has no place for the load identity (log 117). -/
def JournalRec.bytes (r : JournalRec) (fn : Nat) : List Byte :=
  let src := match r.source with
    | .doorbell => 0
    | .spawn => 1
    | .continuation => 2
  bytesOf r.seq 8 ++ bytesOf fn 1 ++ bytesOf (r.kind + 16 * src) 1 ++ bytesOf r.queue 2 ++ bytesOf r.time.toNat 4 ++ r.digest

/-- JOURNAL_WRITE (03 R43, R44): the next record that was accepted for the ring leaves the tail for it, in sequence order, at the
place of its sequence number (log 68). A management element services the journal (24 R376). -/
def execJournalWrite (fn : Nat) (s : State) : Out :=
  let f := s.fn fn
  if !f.jen || s.mgmt == 0 then .next s
  else match f.jtail.find? fun r => r.ring && decide (f.jnext ≤ r.seq) with
    | none => .next s
    | some r =>
      match s.writePhys (f.jbase + 32 * (r.seq % 2 ^ f.jlog2)) (r.bytes fn) with
      | (s, true) => .next (s.modFn fn fun f => { f with jnext := r.seq + 1 })
      | (s, false) => .next (s.modFn fn fun f => { f with jerr := true, jen := false })

/-! ## Arbitration (03 R39, R45) -/

/-- A bulkhead takes work of a function: it holds the bulkhead, no change of function is in progress, and the gate is
open. -/
def mayRun (s : State) (fn bh : Nat) : Bool :=
  owns s fn bh && !gated s bh && ((s.bh bh).mode != 2 || ((s.bh bh).joined && (s.pool (s.bh bh).pool).switching.isNone))

/-- The head of a queue is ready (03 R39): its counter reads 0 or is none, and the stores that its spawn releases are
complete. -/
def Accepted.ready (s : State) (fn : Nat) (a : Accepted) : Bool :=
  let c := counterOf s fn a.cmd.wait
  (a.cmd.wait == 0xFFFF || (c.count == 0 && c.parentKill.isNone)) && a.covers.all fun id =>
    match s.elem? a.owner with
    | none => true
    | some e => (e.pending? id).isNone

/-- The bulkhead a command goes to, of those that its queue runs on (22 R356). -/
def Accepted.goesTo (a : Accepted) (ms : List Nat) : Option Nat :=
  if a.cmd.kind == 1 then
    match a.source with
    | .doorbell => ms[a.cmd.w1.toNat % ms.length]?
    | _ => some (bhOf a.owner)
  else ms.head?

/-- The bulkheads that a command works on: a graph on all of its queue's, another command on the one that it goes to. -/
def Accepted.worksOn (a : Accepted) (ms : List Nat) : List Nat := if a.cmd.kind == 0 then ms else (a.goesTo ms).toList

/-- A function has a ready command on the members of pool p under a rotation (04 R52, R53); one that runs counts. -/
def hasReady (s : State) (p : Nat) (rot : Tab Word) (fn : Nat) : Bool :=
  let ms := membersUnder s p rot fn
  s.queues.any fun q => q.2.qmapV && q.2.qmapTag == fn && match q.2.accepted with
    | [] => false
    | a :: _ => (a.dispatched || a.ready s fn) && (a.worksOn ms).any fun b => (s.bh b).mode == 2 && (s.bh b).pool == p

/-- The weight of a process (03 R45). -/
def Function.weight (f : Function) (pasid : Nat) : Nat :=
  match f.pwt.find? fun p => bits p.2.toNat 0 20 == pasid && bits p.2.toNat 20 8 != 0 with
  | none => 0
  | some p => bits p.2.toNat 20 8

/-- A visit of a process is in progress, whose weight was read as it began (03 R45). -/
def Function.visitsNow (f : Function) (pasid : Nat) : Bool := f.visiting == pasid + 1 && f.visits != 0

/-- The queues whose head may be dispatched to a bulkhead. -/
def candidates (s : State) (fn bh : Nat) : List (Nat × HwQueue) :=
  s.queues.filter fun p =>
    p.2.qmapV && p.2.qmapTag == fn && !p.2.killBusy && ((s.fn fn).visitsNow p.2.pasid || (s.fn fn).weight p.2.pasid != 0) && match p.2.accepted with
      | [] => false
      | a :: _ => !a.dispatched && a.ready s fn && a.goesTo (membersFor s fn) == some bh

/-- The least number of a list above a bound, the least of all where there is none. -/
def nextAbove (bound : Option Nat) (l : List Nat) : Nat :=
  let up := match bound with
    | none => l
    | some b => l.filter fun x => decide (b < x)
  match (if up.isEmpty then l else up) with
  | [] => 0
  | x :: xs => xs.foldl min x

/-- The queue that arbitration serves, and the function's arbitration state after it (03 R39). The visit of a process that has no
ready command stays open, with the grants left, until another process is granted (log 136, DESIGN CHOICE). -/
def arbitrate (s : State) (fn bh : Nat) : Option (Nat × Function) :=
  let f := s.fn fn
  let cs := candidates s fn bh
  if cs.isEmpty then none
  else
    let ps := cs.map fun c => c.2.pasid
    let stay := f.visiting != 0 && f.visits != 0 && ps.contains (f.visiting - 1)
    let p := if stay then f.visiting - 1 else nextAbove (if f.visiting == 0 then none else some (f.visiting - 1)) ps
    let visits := if stay then f.visits else f.weight p
    let cs := cs.filter fun c => c.2.pasid == p
    let top := (cs.map fun c => c.2.prio).foldl max 0
    let cs := cs.filter fun c => c.2.prio == top
    let loc := nextAbove (tget? f.lastQueue (4 * p + top)) (cs.map fun c => c.2.qmapLocal)
    (cs.find? fun c => c.2.qmapLocal == loc).map fun c =>
      (c.1, { f with visiting := p + 1, visits := visits - 1, lastQueue := tset f.lastQueue (4 * p + top) loc })

/-- The first accepted command of a queue changed. -/
def State.modHead (s : State) (q : Nat) (f : Accepted → Accepted) : State :=
  s.modQueue q fun h => { h with accepted := modifyAt h.accepted 0 f }

/-- COMMAND_DISPATCH (03 R39): one grant of a bulkhead's scheduler; the join status word is read here (15 R289). -/
def execCommandDispatch (bh : Nat) (s : State) : Out :=
  match holder s bh with
  | none => .next s
  | some fn =>
    if !mayRun s fn bh then .next s
    else match arbitrate s fn bh with
      | none => .next s
      | some (q, f) => .next ((s.setFn fn f).modHead q fun a =>
          { a with dispatched := true, target := bh, join := (counterOf s fn a.cmd.wait).word })

/-! ## Commands (03 R33, R37, R40) -/

/-- The instruction that a command is. -/
def QCommand.instr (c : QCommand) : Instr :=
  let w : BitVec 16 := .ofNat 16 c.wait
  let d : BitVec 16 := .ofNat 16 c.done
  match c.kind with
  | 0 => .graph w d (.ofNat 64 c.address)
  | 1 => .task w d (.ofNat 7 c.label) c.w0 c.w1
  | 2 => .setctr w d (.ofNat 16 c.w0.toNat) (.ofNat 24 (c.w0.toNat / 65536 + 65536 * c.w1.toNat))
  | _ => .arriveCommand w d (.ofNat 16 c.w0.toNat)

/-- The status of the head of a queue is known: it can complete. -/
def State.finishHead (s : State) (q code : Nat) : State :=
  (s.modHead q fun a => { a with status := some code }).modQueue q fun h => { h with graph := none }

/-- Runs the head command of the queue in focus, once it is dispatched and has not ended. -/
def commandRun (body : State → Nat → Accepted → State) (s : State) : Out :=
  match s.focus with
  | .queue q =>
    match (s.queue q).accepted with
    | [] => .next s
    | a :: _ =>
      if a.dispatched && a.status.isNone && (s.queue q).graph.isNone && !(s.queue q).killBusy then .next (body s q a) else .next s
  | _ => .fault .noAgent

/-- TASK (03 R40, 22 R356, 15 R289): delivered where it was dispatched to, while its function runs there. -/
def execTask (wait _done : BitVec 16) (label : BitVec 7) (w0 w1 : Word) (s : State) : Out :=
  commandRun (fun s q a =>
    if !mayRun s (s.queue q).qmapTag a.target then s
    else match routeOf s a.target label.toNat with
      | none => s.finishHead q 0x03
      | some _ =>
        let w1 := if wait == 0xFFFF then w1 else a.join
        let x : Shuttle := { classL := true, source := 0x60000 + q, label := label.toNat, w0 := w0, w1 := w1 }
        (s.modBh a.target fun b => { b with shuttles := b.shuttles ++ [x] }).finishHead q 0) s

/-- SETCTR (03 R37). -/
def execSetctr (_wait _done counter : BitVec 16) (value : BitVec 24) (s : State) : Out :=
  commandRun (fun s q _ => (s.setCounter (s.queue q).qmapTag counter.toNat value.toNat).finishHead q 0) s

/-- ARRIVE_COMMAND (03 R37). -/
def execArriveCommand (_wait _done counter : BitVec 16) (s : State) : Out :=
  commandRun (fun s q _ => (s.arrive (s.queue q).qmapTag counter.toNat false).finishHead q 0) s

/-! ## Graph descriptors (02 R25, R26) -/

/-- Word 0's fields. -/
def Node.kind (n : Node) : Nat := bits n.w0.toNat 0 4
def Node.arrive (n : Node) : Nat := bits n.w0.toNat 16 16
def Node.succA (n : Node) : Nat := bits n.w0.toNat 32 16
def Node.succB (n : Node) : Nat := bits n.w0.toNat 48 16

/-- The instruction that a node is. -/
def Node.instr (n : Node) : Instr :=
  let arrive : BitVec 16 := .ofNat 16 n.arrive
  let a : BitVec 16 := .ofNat 16 n.succA
  let b : BitVec 16 := .ofNat 16 n.succB
  let cmp : BitVec 4 := .ofNat 4 (bits n.w0.toNat 4 4)
  let addr : BitVec 57 := .ofNat 57 n.w1.toNat
  match n.kind with
  | 0 => .loadNode arrive a addr n.w2 (.ofNat 16 n.w3.toNat)
  | 1 => .condNode cmp arrive a b addr n.w2 n.w3
  | 2 => .loopNode cmp (.ofNat 8 (bits n.w0.toNat 8 8)) arrive a b addr n.w2 n.w3
  | 3 => .switchNode arrive b addr (.ofNat 6 n.w2.toNat) (.ofNat 8 (bits n.w2.toNat 8 8)) n.w3
  | _ => .endNode arrive

/-- A node of a graph of `count` nodes and `edges` recompute edges fails a limit or has a reserved field set; a LOAD node that
names an edge the graph does not have fails too (log 119). -/
def Node.bad (n : Node) (count edges : Nat) : Bool :=
  let w0 := n.w0.toNat
  let w1 := n.w1.toNat
  let w2 := n.w2.toNat
  let w3 := n.w3.toNat
  decide (4 < n.kind) || decide (5 < bits w0 4 4) || bits w1 57 7 != 0 || decide (count ≤ n.succA)
    || decide (count ≤ n.succB) || match n.kind with
      | 0 => bits w3 16 48 != 0 || (w3 != 0xFFFF && decide (edges ≤ w3))
      | 3 => w1 % 8 != 0 || bits w2 6 2 != 0 || bits w2 16 48 != 0 || bits w2 8 8 == 0 || decide (4 < bits w2 8 8)
          || (List.range 4).any fun j => decide (count ≤ bits w3 (16 * j) 16)
      | 4 => w0 / 16 % 4096 != 0 || w0 / 2 ^ 32 != 0 || w1 != 0 || w2 != 0 || w3 != 0
      | _ => w1 % 8 != 0

/-- Nodes and edges of their bytes. -/
def parseNodes (bs : List Byte) : Nat → List Node
  | 0 => []
  | n + 1 =>
    { w0 := .ofNat 64 (fieldAt bs 0 8), w1 := .ofNat 64 (fieldAt bs 8 8), w2 := .ofNat 64 (fieldAt bs 16 8),
      w3 := .ofNat 64 (fieldAt bs 24 8) } :: parseNodes (bs.drop 32) n

def parseEdges (bs : List Byte) : Nat → List (Edge × Bool)
  | 0 => []
  | n + 1 =>
    ({ first := fieldAt bs 0 2, last := fieldAt bs 2 2, watermark := fieldAt bs 4 4, buffer := fieldAt bs 8 8,
       word := fieldAt bs 16 8 }, fieldAt bs 24 8 != 0) :: parseEdges (bs.drop 32) n

/-- Reads and checks the graph at an address; `none` where it is refused or cannot be read. An edge whose first or last node the
graph does not have is refused (log 119). -/
def State.readGraph (s : State) (fn q va command : Nat) : State × Option Graph :=
  let rd (s : State) (a n : Nat) := s.readBytes (firstMember s fn) fn (s.queue q).pasid a .read n
  match rd s va 32 with
  | (s, .error _) => (s, none)
  | (s, .ok hd) =>
    let h := hd.bytes
    let n := fieldAt h 0 2
    let entry := fieldAt h 2 2
    let pol := fieldAt h 4 2
    let m := fieldAt h 6 2
    if n == 0 || decide (4096 < n) || decide (n ≤ entry) || bits pol 6 10 != 0 || decide (256 < m)
        || fieldAt h 16 8 != 0 || fieldAt h 24 8 != 0 then (s, none)
    else match rd s (va + 32) (32 * n) with
      | (s, .error _) => (s, none)
      | (s, .ok bs) =>
        let nodes := parseNodes bs.bytes n
        if nodes.any (·.bad n m) then (s, none)
        else match rd s (fieldAt h 8 8) (32 * m) with
          | (s, .error _) => (s, none)
          | (s, .ok es) =>
            let edges := parseEdges es.bytes m
            if edges.any fun e => e.2 || decide (n ≤ e.1.first) || decide (n ≤ e.1.last) then (s, none)
            else
              (s, some
                { command := command, policy := bits pol 0 2, retryLimit := bits pol 2 4, entry := entry, nodes := nodes,
                  edges := edges.map Prod.fst, current := entry })

/-- GRAPH (03 R37, 02 R25): the graph starts, or the command completes with GRAPH_REJECTED. -/
def execGraph (_wait _done : BitVec 16) (address : BitVec 64) (s : State) : Out :=
  commandRun (fun s q a =>
    match s.readGraph (s.queue q).qmapTag q address.toNat a.id with
    | (s, none) => s.finishHead q 0x0B
    | (s, some g) => s.modQueue q fun h => { h with graph := some g }) s

/-! ## The graph scheduler (02 R27-R29) -/

def State.modGraph (s : State) (q : Nat) (f : Graph → Graph) : State :=
  s.modQueue q fun h => { h with graph := h.graph.map f }

/-- A graph-level fault: its record goes to the queue's lowest-numbered bulkhead, and the graph waits for the walk. -/
def State.graphFault (s : State) (q code addr : Nat) : State :=
  let h := s.queue q
  let r : FaultRec :=
    { unit := .graph q, start := .graph, code := code, addr := addr, queue := q, fn := some h.qmapTag, since := s.cycle }
  (s.modGraph q fun g => { g with state := .faulted }).modBh (firstMember s h.qmapTag) fun b =>
    { b with faults := insertFault r b.faults }

/-- The same once the node it belongs to has completed. -/
def State.pastFault (s : State) (q code addr : Nat) : State :=
  (s.graphFault q code addr).modGraph q fun g => { g with past := true }

/-- A 57-bit virtual address as a 64-bit address word. -/
def va57 (a : Nat) : Nat := if bit a 56 then a % 2 ^ 57 + (2 ^ 64 - 2 ^ 57) else a % 2 ^ 57

/-- Reads 8 bytes for the scheduler; poisoned data is a graph-level fault, as a translation fault is (02 R27). -/
def State.readWord (s : State) (q va : Nat) : State × Except Nat Nat :=
  let h := s.queue q
  match s.readBytes (firstMember s h.qmapTag) h.qmapTag h.pasid va .read 8 with
  | (s, .error c) => (s, .error c)
  | (s, .ok b) => if b.poison then (s, .error 0x04) else (s, .ok (natOfBytes b.bytes))

/-- Writes an edge-state word, of 8 bytes (log 119). -/
def State.writeEdge (s : State) (q : Nat) (e : Edge) (v : Nat) : State × Nat :=
  let h := s.queue q
  s.writeBytes (firstMember s h.qmapTag) h.qmapTag h.pasid e.word (bytesOf v 8)

/-- The ARRIVE of a node, none in a replay (02 R28, 21 R349, R354). -/
def State.nodeArrives (s : State) (q i : Nat) (fault : Bool) : State :=
  let h := s.queue q
  match h.graph with
  | none => s
  | some g =>
    match g.nodes[i]? with
    | none => s
    | some n =>
      if !g.replays.isEmpty || n.arrive == 0xFFFF then s else s.childArrives h.qmapTag n.arrive fault none

/-- A replay has run to its last node: KEPT is written and the node that named the edge is dispatched (02 R29). -/
def State.endReplay (s : State) (q : Nat) (g : Graph) (r : Replay) (rest : List Replay) : State :=
  let s := s.modGraph q fun _ => { g with replays := rest, loops := r.loops, current := r.owner, state := .honoured, loadRetries := 0 }
  match g.edges[r.edge]? with
  | none => s
  | some e =>
    match s.writeEdge q e 0 with
    | (s, 0) => s
    | (s, c) => s.graphFault q c e.word

/-- Rule 1 of 02 R29 after a node: each edge that it ends gets its state from one sample of the counter. -/
def State.sampleEdges (s : State) (q free : Nat) : List Edge → State × Option (Nat × Nat)
  | [] => (s, none)
  | e :: es =>
    match s.writeEdge q e (if e.watermark ≤ free then 0 else 1) with
    | (s, 0) => s.sampleEdges q free es
    | (s, c) => (s, some (c, e.word))

/-- A node has completed: its ARRIVE, the edges it ends, then its successor. -/
def State.nodeDone (s : State) (q : Nat) (fault : Bool) (next : Nat) : State :=
  let h := s.queue q
  match h.graph with
  | none => s
  | some g =>
    let i := g.current
    let s := s.nodeArrives q i fault
    let go (s : State) : State :=
      s.modGraph q fun g => { g with prev := some i, current := next, state := .ready, loadRetries := 0 }
    match g.replays with
    | r :: rest =>
      if (g.edges[r.edge]?).any (·.last == i) then s.endReplay q g r rest else go s
    | [] =>
      match s.sampleEdges q (s.fn h.qmapTag).freemem.toNat (g.edges.filter (·.last == i)) with
      | (s, none) => go s
      | (s, some (c, a)) => (go s).pastFault q c a

/-- The current node completes as faulted (19 R324, 21 R354): a replayed LOAD node takes the node that named its edge with
it. A COND, LOOP or SWITCH goes on at successor B, and an END node ends the graph. Where the node had completed before its
fault, the graph goes on. -/
def State.nodeFails (s : State) (q : Nat) : State :=
  match (s.queue q).graph with
  | none => s
  | some g =>
    match g.nodes[g.current]? with
    | none => s
    | some n =>
      if g.past then
        if n.kind == 4 then s.finishHead q 0 else s.modGraph q fun g => { g with past := false, state := .ready }
      else if n.kind == 4 then s.finishHead q 0
      else if n.kind == 0 then
        let (i, ls) := match g.replays.getLast? with
          | none => (g.current, g.loops)
          | some r => (r.owner, r.loops)
        let s := s.modGraph q fun g => { g with replays := [], current := i, loops := ls }
        s.nodeDone q true ((g.nodes[i]?).elim 0 Node.succA)
      else s.nodeDone q true n.succB

/-- The scheduler may run a graph of a queue. -/
def graphRuns (s : State) (q : Nat) : Bool :=
  let fn := (s.queue q).qmapTag
  let ms := membersFor s fn
  !ms.isEmpty && ms.all (mayRun s fn) && !(s.queue q).killBusy

/-- Runs the current node of the graph of the queue in focus. -/
def nodeRun (kind : Nat) (body : State → Nat → Graph → State) (s : State) : Out :=
  match s.focus with
  | .queue q =>
    match (s.queue q).graph with
    | none => .next s
    | some g =>
      if graphRuns s q && (g.state == .ready || g.state == .honoured) && (g.nodes[g.current]?).any (·.kind == kind) then
        .next (body s q g)
      else .next s
  | _ => .fault .noAgent

/-- A comparison of 02 R26. -/
def nodeCompare (cmp : Nat) (w v : BitVec 64) : Bool :=
  match cmp with
  | 0 => w == v
  | 1 => w != v
  | 2 => w.slt v
  | 3 => !w.slt v
  | 4 => w.ult v
  | _ => !w.ult v

/-- Runs a node that reads a condition word W. -/
def conditionRun (kind : Nat) (addr : BitVec 57) (choose : Graph → BitVec 64 → Graph × Nat) (s : State) : Out :=
  nodeRun kind (fun s q g =>
    match s.readWord q (va57 addr.toNat) with
    | (s, .error c) => s.graphFault q c (va57 addr.toNat)
    | (s, .ok w) =>
      let (g, next) := choose g (.ofNat 64 w)
      (s.modGraph q fun _ => g).nodeDone q false next) s

/-- COND_NODE (02 R27). -/
def execCondNode (cmp : BitVec 4) (_arrive succA succB : BitVec 16) (addr : BitVec 57) (value mask : BitVec 64) (s : State) :
    Out :=
  conditionRun 1 addr (fun g w => (g, if nodeCompare cmp.toNat (w &&& mask) value then succA.toNat else succB.toNat)) s

/-- The successors of a node. -/
def Node.successors (n : Node) : List Nat :=
  match n.kind with
  | 0 => [n.succA]
  | 3 => n.succB :: (List.range (bits n.w2.toNat 8 8)).map fun j => bits n.w3.toNat (16 * j) 16
  | 4 => []
  | _ => [n.succA, n.succB]

/-- The nodes reached from a list without passing a stop, `fuel` rounds long. -/
def reach (nodes : List Node) (stops : List Nat) : Nat → List Nat → List Nat
  | 0, l => l
  | fuel + 1, l =>
    let new := (l.flatMap fun i => (nodes[i]?).elim [] Node.successors).filter fun j => !stops.contains j && !l.contains j
    if new.isEmpty then l else reach nodes stops fuel (l ++ new.eraseDups)

/-- A node lies inside the body of the LOOP node at `i` (02 R27): reached from successor A without passing the LOOP or its
successor B; a LOOP that names itself is its own body. -/
def insideBody (g : Graph) (i succA succB p : Nat) : Bool :=
  p == i || (succA != i && (reach g.nodes [i, succB] g.nodes.length [succA]).contains p)

/-- LOOP_NODE (02 R27). -/
def execLoopNode (cmp : BitVec 4) (cap : BitVec 8) (_arrive succA succB : BitVec 16) (addr : BitVec 57)
    (value mask : BitVec 64) (s : State) : Out :=
  conditionRun 2 addr (fun g w =>
    let i := g.current
    let inside := g.prev.any (insideBody g i succA.toNat succB.toNat)
    let iter := (if inside then tget g.loops i 0 else 0) + 1
    let g := { g with loops := tset g.loops i iter }
    if cap != 0 && decide (cap.toNat * 1024 < iter) then ({ g with exhausted := true }, succB.toNat)
    else (g, if nodeCompare cmp.toNat (w &&& mask) value then succA.toNat else succB.toNat)) s

/-- SWITCH_NODE (02 R27). -/
def execSwitchNode (_arrive succB : BitVec 16) (addr : BitVec 57) (shift : BitVec 6) (count : BitVec 8) (succs : BitVec 64)
    (s : State) : Out :=
  conditionRun 3 addr (fun g w =>
    let j := w.toNat / 2 ^ shift.toNat % 4
    (g, if j < count.toNat then bits succs.toNat (16 * j) 16 else succB.toNat)) s

/-- END_NODE (02 R28): the graph completes, after the edges that the node ends have got their state; inside a replay, the replay
ends. -/
def execEndNode (_arrive : BitVec 16) (s : State) : Out :=
  nodeRun 4 (fun s q g =>
    match g.replays with
    | r :: rest => s.endReplay q g r rest
    | [] =>
      match (s.nodeArrives q g.current false).sampleEdges q (s.fn (s.queue q).qmapTag).freemem.toNat
          (g.edges.filter (·.last == g.current)) with
      | (s, none) => s.finishHead q 0
      | (s, some (c, a)) => s.pastFault q c a) s

/-! ## LOAD nodes (02 R28, R29, 14 R263) -/

/-- The image is read as data needing EXE and offered to every bulkhead of the queue. -/
def State.offerImage (s : State) (q va block : Nat) : State :=
  let h := s.queue q
  let rd (s : State) (n : Nat) := s.readBytes (firstMember s h.qmapTag) h.qmapTag h.pasid va .exec n
  match rd s 64 with
  | (s, .error c) => s.graphFault q c va
  | (s, .ok hd) =>
    match rd s (max 64 (fieldAt hd.bytes 8 4)) with
    | (s, .error c) => s.graphFault q c va
    | (s, .ok bs) =>
      let l : Loading := { queue := q, image := va, block := block, bytes := bs.bytes }
      let s := s.modGraph q fun g => { g with state := .running }
      (membersFor s h.qmapTag).foldl (fun s b => s.modBh b fun x => { x with loading := x.loading ++ [l] }) s

/-- LOAD_NODE (02 R28, R29). -/
def execLoadNode (_arrive _succ : BitVec 16) (image : BitVec 57) (block : BitVec 64) (edge : BitVec 16) (s : State) : Out :=
  nodeRun 0 (fun s q g =>
    let offer (s : State) : State := s.offerImage q (va57 image.toNat) block.toNat
    if g.state == .honoured || edge == 0xFFFF then offer s
    else match g.edges[edge.toNat]? with
      | none => offer s
      | some e =>
        match s.readWord q e.word with
        | (s, .error c) => s.graphFault q c e.word
        | (s, .ok 0) => offer s
        | (s, .ok _) => s.modGraph q fun g => { g with state := .dropped }) s

/-- RECOMPUTE_REPLAY (02 R29, 21 R354): the replay of a dropped edge begins; a ninth nested one is REPLAY_DEPTH. -/
def execRecomputeReplay (queue : Nat) (s : State) : Out :=
  match (s.queue queue).graph with
  | none => .next s
  | some g =>
    if g.state != .dropped || !graphRuns s queue then .next s
    else if 8 ≤ g.replays.length then .next (s.graphFault queue 0x52 0)
    else match g.nodes[g.current]? with
      | none => .next s
      | some n =>
        let edge := n.w3.toNat % 65536
        match g.edges[edge]? with
        | none => .next s
        | some e =>
          let r : Replay := { edge := edge, owner := g.current, loops := g.loops }
          .next (s.modGraph queue fun g =>
            { g with replays := r :: g.replays, loops := [], prev := none, current := e.first, state := .ready })

end Sys2Proof.Machine
end

