-- ==== Sys2Proof/Machine/Image.lean ====
section
/-!
DEFINITION. Plynernar images: their header, section table and records (02 R17-R20), and the loader's checks in their order
(02 R22, R23, 10 R200, R211, R212, 12 R218, R221, 17 R296, 09 R180, 24 R378).
-/
namespace Sys2Proof.Machine
open Sys2Proof

/-! ## Records -/

/-- An entry of the section table (02 R18), with its index. -/
structure Entry where
  index : Nat
  type : Nat
  reserved : Nat
  off : Nat
  len : Nat
  count : Nat

/-- An ELEM record, and whether one of its own fields fails check 5. -/
structure ElemEntry where
  addr : Nat
  record : ElemRecord
  bad : Bool

/-- A TILE record. -/
structure TileEntry where
  col : Nat
  row : Nat
  level : TileLevel
  bad : Bool

/-- A SEQ record: the sixteen binding words whole, and the bindings that count. -/
structure SeqEntry where
  col : Nat
  row : Nat
  segs : List DWord
  words : List Nat
  bindings : List Binding
  bindCount : Nat
  program : List DWord
  programCount : Nat
  bad : Bool

/-- A WAVE record. -/
structure WaveRecord where
  elem : Nat
  wave : Nat
  links : WaveEntry
  bad : Bool

/-- A RING record. -/
structure RingEntry where
  island : Nat
  number : Nat
  ring : Ring
  bad : Bool

/-- An ISLE record. -/
structure IsleEntry where
  island : Nat
  isle : Island
  bad : Bool

/-- A SITE record. -/
structure SiteEntry where
  site : Site
  bad : Bool

/-- An EVSEG record. -/
structure EvsegEntry where
  tile : Nat
  segs : List DWord
  bad : Bool

/-- The parts of an image. -/
structure Image where
  policy : Nat
  retryLimit : Nat
  ident : Word
  training : Bool
  isSigned : Bool
  digest : List Byte
  entries : List Entry
  elems : List ElemEntry
  tiles : List TileEntry
  links : List (Link × Bool)
  routes : List (Route × Bool)
  seqs : List SeqEntry
  waves : List WaveRecord
  rings : List RingEntry
  isles : List IsleEntry
  pools : List Nat
  classes : List Nat
  sites : List SiteEntry
  evsegs : List EvsegEntry

/-- n words of a size from an offset. -/
def wordsAt (bs : List Byte) (off size n : Nat) : List Nat := (List.range n).map fun j => fieldAt bs (off + size * j) size

/-- The table of an image. -/
def parseTable (bs : List Byte) (n : Nat) : List Entry :=
  (List.range n).map fun j =>
    let o := 0x40 + 16 * j
    { index := j, type := fieldAt bs o 2, reserved := fieldAt bs (o + 2) 2, off := fieldAt bs (o + 4) 4,
      len := fieldAt bs (o + 8) 4, count := fieldAt bs (o + 12) 4 }

/-- An ELEM record (02 R20). -/
def parseElem (r : List Byte) : ElemEntry :=
  let cfg := fieldAt r 4 4
  let seed := fieldAt r 0x10 4
  let page : Page :=
    { kinds := .ofNat 64 (fieldAt r 8 8), hmap := .ofNat 16 (fieldAt r 0x14 2),
      heddles := (wordsAt r 0x78 8 16).map (.ofNat 64), slots := (wordsAt r 0xF8 4 32).map (.ofNat 32) }
  { addr := fieldAt r 0 2
    record :=
      { policy := bits cfg 0 2, retryLimit := bits cfg 2 4, mode := .ofCode (bits cfg 6 3), fp16 := bit cfg 9,
        preds := .ofNat 8 (bits cfg 10 8), seed := .ofNat 32 seed, consts := (wordsAt r 0x18 4 8).map (.ofNat 32),
        regs := (wordsAt r 0x38 4 16).map (.ofNat 32), page := page }
    bad := fieldAt r 2 2 != 0 || fieldAt r 0 2 % 16 != 0 || bits cfg 18 14 != 0 || decide (4 < bits cfg 6 3) || seed == 0
      || fieldAt r 0x16 2 != 0 || fieldAt r 0x178 8 != 0 }

/-- A TILE record (02 R18). -/
def parseTile (w : Nat) : TileEntry :=
  { col := bits w 12 4, row := bits w 9 3, level := { policy := bits w 7 2, retryLimit := bits w 3 4 },
    bad := w % 8 != 0 || bits w 16 16 != 0 }

/-- A LINK record. -/
def parseLink (w : Nat) : Link × Bool :=
  ({ prod := bits w 0 16, prodPort := bits w 16 3, cons := bits w 19 16, consPort := bits w 35 3, sparse := bit w 38 },
   bits w 39 25 != 0 || bits w 0 4 != 0 || bits w 19 4 != 0)

/-- A ROUTE record. -/
def parseRoute (w : Nat) : Route × Bool :=
  ({ label := bits w 0 7, elem := bits w 7 16, bit := bits w 23 3 }, bits w 26 6 != 0 || bits w 7 4 != 0)

/-- A binding word (10 R211). -/
def parseBinding (w : Nat) : Binding := { elem := bits w 0 16, port := bits w 16 3, kind := bits w 19 2, island := bits w 21 1 }

/-- The reserved bits of a segment register are set (09 R179). -/
def segReserved (w : Nat) : Bool := bits w 57 3 != 0 || bits w 5 3 != 0

/-- A SEQ record (10 R211). -/
def parseSeq (r : List Byte) : SeqEntry :=
  let w0 := fieldAt r 0 4
  let w1 := fieldAt r 4 4
  let n := bits w0 16 5
  let words := wordsAt r 0x88 4 16
  let segs := wordsAt r 0x10 8 15
  { col := bits w0 0 4, row := bits w0 4 3, segs := segs.map (.ofNat 64), words := words,
    bindings := (words.take n).map parseBinding, bindCount := n,
    program := (wordsAt r 0xC8 8 (bits w1 0 9)).map (.ofNat 64), programCount := bits w1 0 9,
    bad := bits w0 7 9 != 0 || bits w0 21 11 != 0 || bits w1 9 23 != 0 || fieldAt r 8 8 != 0 || segs.any segReserved
      || (words.any fun w => bits w 22 10 != 0 || bits w 0 4 != 0) || (words.drop n).any (· != 0) }

/-- The length of the SEQ record that begins a list of bytes. -/
def seqLength (r : List Byte) : Nat := 0xC8 + 8 * bits (fieldAt r 4 4) 0 9

/-- The SEQ records of a section. -/
def seqRecords (bs : List Byte) : Nat → List (List Byte)
  | 0 => []
  | n + 1 => bs.take (seqLength bs) :: seqRecords (bs.drop (seqLength bs)) n

/-- A WAVE record (10 R200). -/
def parseWave (w : Nat) : WaveRecord :=
  { elem := bits w 0 16, wave := bits w 16 6, links := { pred := bits w 24 7, succ := bits w 32 7 },
    bad := bits w 39 25 != 0 || bit w 31 || bits w 22 2 != 0 || decide (0x41 < bits w 24 7) || decide (0x41 < bits w 32 7)
      || bits w 0 4 != 0 }

/-- A RING record (12 R221). -/
def parseRing (w : Nat) : RingEntry :=
  { island := bits w 0 2, number := bits w 2 3,
    ring := { mcol := bits w 5 2, rsel := bits w 7 1, base := bits w 8 13, depth := bits w 21 4 + 1, tlines := bits w 25 12,
              bound := true },
    bad := bits w 37 27 != 0 }

/-- An ISLE record (12 R218). -/
def parseIsle (w : Nat) : IsleEntry :=
  { island := bits w 0 2,
    isle := { configured := true, rpe := bit w 54, rport := bits w 51 3, relem := bits w 35 16, rlab := bits w 28 7,
              re := bit w 27, cport := bits w 24 3, celem := bits w 8 16 },
    bad := bits w 55 9 != 0 || bits w 2 6 != 0 || bits w 8 4 != 0 || bits w 35 4 != 0 }

/-- A SITE record (17 R295). -/
def parseSite (r : List Byte) : SiteEntry :=
  let a := fieldAt r 0 4
  let b := fieldAt r 4 4
  let ws := wordsAt r 0x20 4 32
  { site := { elem := bits a 0 16, slot := bits a 16 5, qport := bits a 21 3, q := bits a 24 3, cons := bits b 0 16,
              consPort := bits b 16 3, pool := bits b 19 4, cls := bits b 23 4, dl := bits (fieldAt r 8 4) 0 16,
              policy := ws.map (.ofNat 32) },
    bad := bits a 27 5 != 0 || bits b 27 5 != 0 || bits a 0 4 != 0 || bits b 0 4 != 0 || bits (fieldAt r 8 4) 16 16 != 0
      || (wordsAt r 0x0C 4 5).any (· != 0) || ws.getD 3 0 != 0 || (ws.drop 27).any (· != 0) }

/-- An EVSEG record (09 R180). -/
def parseEvseg (r : List Byte) : EvsegEntry :=
  let segs := wordsAt r 8 8 15
  { tile := bits (fieldAt r 0 4) 0 1, segs := segs.map (.ofNat 64),
    bad := bits (fieldAt r 0 4) 1 31 != 0 || fieldAt r 4 4 != 0 || segs.any segReserved }

/-- The image of a list of bytes; sections that are absent have no records. -/
def parseImage (bs : List Byte) : Image :=
  let pol := fieldAt bs 0x10 4
  let flags := fieldAt bs 0x0E 2
  let es : List Entry := parseTable bs (fieldAt bs 0x0C 2)
  let records (type size : Nat) : List (List Byte) :=
    match es.find? (·.type == type) with
    | none => []
    | some e => (List.range e.count).map fun j => (bs.drop (e.off + size * j)).take size
  let nums (type size : Nat) : List Nat := (records type size).map natOfBytes
  let site : Option Entry := es.find? fun e => e.type == 9
  { policy := bits pol 0 2, retryLimit := bits pol 2 4, ident := .ofNat 32 (fieldAt bs 0x14 4), training := bit flags 1,
    isSigned := bit flags 0, digest := (bs.drop 0x20).take 32, entries := es, elems := (records 1 384).map parseElem,
    tiles := (nums 2 4).map parseTile, links := (nums 3 8).map parseLink, routes := (nums 4 4).map parseRoute,
    seqs := (match es.find? (fun e : Entry => e.type == 5) with
      | none => []
      | some e => seqRecords (bs.drop e.off) e.count).map parseSeq,
    waves := (nums 6 8).map parseWave, rings := (nums 7 8).map parseRing, isles := (nums 8 8).map parseIsle,
    pools := site.elim [] fun e => wordsAt bs e.off 4 16, classes := site.elim [] fun e => wordsAt bs (e.off + 0x40) 4 16,
    sites := site.elim [] fun e => (List.range e.count).map fun j => parseSite ((bs.drop (e.off + 128 + 160 * j)).take 160),
    evsegs := (records 0x0B 128).map parseEvseg }

/-! ## How an image is rejected (02 R23, R24) -/

/-- A failure: its check, the index of the section, the element and slot it names. -/
structure Reject where
  check : Nat
  index : Nat := 0
  elem : Option Nat := none
  slot : Nat := 0

/-- LDSTAT after a rejection (02 R24): the element address stands in [23:12], its reserved bits left out. -/
def Reject.word (r : Reject) : Word :=
  BitVec.ofNat 32 (r.check % 16 * 2 ^ 28 + r.elem.getD 0 / 16 % 4096 * 2 ^ 12 + r.slot % 32 * 2 ^ 7 + r.index % 128)

/-- A check where a condition fails. -/
def failsIf (b : Bool) (check : Nat) : Option Nat := if b then some check else none

/-- The first record of a list that fails; a record sees those before it. -/
def firstBad {α : Type} (f : List α → α → Option Nat) : List α → List α → Option Nat
  | _, [] => none
  | seen, x :: xs => match f seen x with
    | some c => some c
    | none => firstBad f (seen ++ [x]) xs

/-- The header under check 1 (02 R17). -/
def headerBad (bs : List Byte) : Bool :=
  let n := fieldAt bs 0x0C 2
  fieldAt bs 0 4 != 0x4E594C50 || fieldAt bs 6 2 != 3 || fieldAt bs 8 4 % 8 != 0 || decide (fieldAt bs 8 4 < 0x40)
    || decide (bs.length < fieldAt bs 8 4) || n == 0 || decide (127 < n) || bits (fieldAt bs 0x0E 2) 2 14 != 0
    || bits (fieldAt bs 0x10 4) 6 26 != 0 || fieldAt bs 0x18 8 != 0

/-- The length that a section of a type and count has; `none` where any length will do. -/
def sectionLength (bs : List Byte) (e : Entry) : Option Nat :=
  match e.type with
  | 1 => some (384 * e.count)
  | 2 => some (4 * e.count)
  | 3 => some (8 * e.count)
  | 4 => some (4 * e.count)
  | 5 => some (((seqRecords (bs.drop e.off) e.count).map seqLength).foldl (· + ·) 0)
  | 6 => some (8 * e.count)
  | 7 => some (8 * e.count)
  | 8 => some (8 * e.count)
  | 9 => some (128 + 160 * e.count)
  | 10 => some 3732
  | 11 => some (128 * e.count)
  | _ => none

/-- A table entry under check 2 (02 R18). -/
def entryFails (bs : List Byte) (total n : Nat) (seen : List Entry) (e : Entry) : Bool :=
  let known := decide (1 ≤ e.type) && decide (e.type ≤ 0x0B)
  (!known && (decide (e.type < 0x80) || decide (0xFF < e.type))) || (known && seen.any (·.type == e.type))
    || e.reserved != 0 || decide (e.off < 0x40 + 16 * n) || decide (total < e.off + e.len)
    || (seen.any fun x => overlap x.off x.len e.off e.len && x.len != 0 && e.len != 0)
    || (sectionLength bs e).any (· != e.len)

/-- The first entry that fails, by its index. -/
def tableFails (bs : List Byte) (total n : Nat) : List Entry → List Entry → Option Nat
  | _, [] => none
  | seen, e :: es => if entryFails bs total n seen e then some e.index else tableFails bs total n (seen ++ [e]) es

/-- The bytes that the digest covers (02 R17): the signature in SIGN taken as zero. -/
def digestBytes (bs : List Byte) (im : Image) : List Byte :=
  let body := bs.take (fieldAt bs 8 4)
  let body := match im.entries.find? (·.type == 10) with
    | none => body
    | some e => body.take (e.off + 1312) ++ List.replicate 2420 0 ++ body.drop (e.off + 3732)
  body.drop 0x40

/-- Check 3 (24 R378): the key of SIGN is one of those accepted, and its signature over the digest verifies. -/
def signatureOk (bs : List Byte) (im : Image) (keys : List (List Byte)) : Bool :=
  match im.entries.find? (·.type == 10) with
  | none => false
  | some e =>
    let key := (bs.drop e.off).take 1312
    let sig := (bs.drop (e.off + 1312)).take 2420
    keys.contains (sha3 key) && Config.mldsaVerify key im.digest sig

/-! ## Sections -/

/-- An element address names an element (02 R19). -/
def namesElement (a : Nat) : Bool :=
  if bit a 15 then decide (bits a 11 4 ≤ 1) && bits a 8 3 == 0 else decide (bits a 11 4 ≤ 11) && bits a 11 4 % 3 != 2

def Image.elem? (im : Image) (a : Nat) : Option ElemEntry := im.elems.find? (·.addr == a)
def Image.has (im : Image) (a : Nat) : Bool := (im.elem? a).isSome
def Image.hasLoom (im : Image) (a : Nat) : Bool := im.has a && !bit a 15

/-- An input port that a link feeds; an output port that a link leaves. -/
def Image.linkIn (im : Image) (a p : Nat) : Bool := im.links.any fun l => l.1.cons == a && l.1.consPort == p
def Image.linkOut (im : Image) (a p : Nat) : Bool := im.links.any fun l => l.1.prod == a && l.1.prodPort == p

/-- Every SEQ binding of the image. -/
def Image.bindings (im : Image) : List Binding := im.seqs.flatMap SeqEntry.bindings

/-- How many SEQ bindings name an input, or an output, port. -/
def Image.bound (im : Image) (input : Bool) (a p : Nat) : Nat :=
  (im.bindings.filter fun b => (b.kind == 1) == input && b.elem == a && b.port == p).length

/-- A reply port of an ISLE record; a command port. -/
def Image.replyPort (im : Image) (a p : Nat) : Bool :=
  im.isles.any fun x => x.isle.rpe && x.isle.relem == a && x.isle.rport == p
def Image.commandPort (im : Image) (a p : Nat) : Bool := im.isles.any fun x => x.isle.celem == a && x.isle.cport == p

/-- An ELEM record: its fields and heddles, then its slots (02 R19, R20, R23). -/
def elemFails (im : Image) (index : Nat) : List Nat → List ElemEntry → Option Reject
  | _, [] => none
  | seen, x :: xs =>
    let own := leastCheck [failsIf x.bad 5, failsIf (!namesElement x.addr || seen.contains x.addr) 12]
    let p := x.record.page
    let heddle := (List.range 16).any fun n => heddleBad (p.heddle n)
    match own with
    | some c => some { check := c, index := index, elem := some x.addr }
    | none =>
      if heddle then some { check := 5, index := index, elem := some x.addr }
      else match p.firstBad (if bit x.addr 15 then .evaluator else .loom) false with
        | some (c, n) => some { check := c, index := index, elem := some x.addr, slot := n }
        | none => elemFails im index (seen ++ [x.addr]) xs

/-- A TILE record. -/
def tileCheck (seen : List TileEntry) (x : TileEntry) : Option Nat :=
  leastCheck [failsIf x.bad 5, failsIf (decide (11 < x.col) || seen.any fun y => y.col == x.col && y.row == x.row) 12]

/-- A LINK record (02 R23, 19 R333). -/
def linkCheck (im : Image) (seen : List (Link × Bool)) (x : Link × Bool) : Option Nat :=
  let l := x.1
  let sparse := ((x :: seen).filter fun y => y.1.sparse && y.1.prod == l.prod).map fun y => y.1.prodPort
  leastCheck
    [failsIf x.2 5,
     failsIf (!im.has l.prod || (!isSink l.cons && !im.has l.cons)
       || (!isSink l.cons && seen.any fun y => y.1.cons == l.cons && y.1.consPort == l.consPort)
       || decide (2 < sparse.eraseDups.length)) 10]

/-- A ROUTE record. -/
def routeCheck (im : Image) (seen : List (Route × Bool)) (x : Route × Bool) : Option Nat :=
  leastCheck [failsIf x.2 5, failsIf (!im.has x.1.elem || seen.any fun y => y.1.label == x.1.label) 11]

/-- A static command: an unassigned opcode, a reserved field, a limit (10 R202, R204, R205, R208). -/
def commandCheck (im : Image) (x : SeqEntry) (i : Nat) (c : DWord) : Option Nat :=
  let port (n kind : Nat) : Bool := !(x.bindings[n]?).any (·.kind == kind)
  match decodeSeq c with
  | none => some (if 0x14 < bits c.toNat 59 5 then 4 else 5)
  | some (.deliver _ p _ _) => failsIf (port p.toNat 1) 12
  | some (.accept _ p) => failsIf (port p.toNat 2) 12
  | some (.push n m _ b) =>
    match im.rings.find? fun r => r.island == n.toNat && r.number == m.toNat with
    | none => some 12
    | some r => failsIf ((b.toNat + 1) % (r.ring.tlines + 1) != 0) 12
  | some (.loop _ _ e) => failsIf (decide (e.toNat ≤ i) || decide (x.programCount ≤ e.toNat)) 12
  | _ => none

/-- Loops nest as 10 R208 asks: no loop inside itself, lp1 wholly inside lp0, no lp0 inside lp1. -/
def loopsBad (x : SeqEntry) : Bool :=
  let loops := x.program.zipIdx.filterMap fun p => match decodeSeq p.1 with
    | some (.loop n _ e) => some (p.2, n.toNat, e.toNat)
    | _ => none
  loops.any fun a => loops.any fun b =>
    decide (a.1 < b.1) && decide (b.1 ≤ a.2.2) && (a.2.1 == b.2.1 || b.2.1 == 0 || decide (a.2.2 < b.2.2))

/-- A SEQ record (10 R211, R202, R208). -/
def seqCheck (im : Image) (seen : List SeqEntry) (x : SeqEntry) : Option Nat :=
  let binding (b : Binding) : Option Nat :=
    let a := b.elem
    leastCheck
      [failsIf (!im.has a || decide (1 < im.bound (b.kind == 1) a b.port)
         || (if b.kind == 1 then im.linkIn a b.port else im.linkOut a b.port)) 10,
       failsIf (bit a 15 || bits a 8 3 != x.row || (b.kind != 3 && bits a 11 4 / 3 * 3 + 2 != x.col)) 12]
  leastCheck
    ([failsIf x.bad 5,
      failsIf (!(x.col == 2 || x.col == 5 || x.col == 8 || x.col == 11) || (seen.any fun y => y.col == x.col && y.row == x.row)
        || decide (16 < x.bindCount) || decide (256 < x.programCount) || loopsBad x) 12]
     ++ x.bindings.map binding ++ x.program.zipIdx.map fun p => commandCheck im x p.2 p.1)

/-- A slot of an element holds a memory instruction, and its wave number (05 R71). -/
def slotWave (p : Page) (n : Nat) : Option Nat :=
  let op := bits (p.slot n).toNat 18 8
  if p.kind n == 1 && decide (0xC0 ≤ op) && decide (op ≤ 0xCD) then some (bits (p.slot n).toNat 0 6) else none

/-- A WAVE record (10 R200). -/
def waveCheck (im : Image) (seen : List WaveRecord) (x : WaveRecord) : Option Nat :=
  let mem := match im.elem? x.elem with
    | none => false
    | some e => (List.range 32).any fun n => (slotWave e.record.page n).isSome
  leastCheck [failsIf x.bad 5, failsIf (!mem || seen.any fun y => y.elem == x.elem && y.wave == x.wave) 12]

/-- Where a ring ends. -/
def RingEntry.end_ (x : RingEntry) : Nat := x.ring.base * 64 + x.ring.depth * (x.ring.tlines + 1) * 64

/-- A RING record (12 R221). -/
def ringCheck (seen : List RingEntry) (x : RingEntry) : Option Nat :=
  let tile (y : RingEntry) : Nat × Nat := (y.ring.mcol, 2 * y.island + y.ring.rsel)
  leastCheck
    [failsIf x.bad 5,
     failsIf (decide (0x60000 < x.end_) || seen.any fun y => (y.island == x.island && y.number == x.number)
       || (tile y == tile x && overlap (y.ring.base * 64) (y.end_ - y.ring.base * 64) (x.ring.base * 64)
            (x.end_ - x.ring.base * 64))) 12]

/-- An ISLE record (12 R218). -/
def isleCheck (im : Image) (seen : List IsleEntry) (x : IsleEntry) : Option Nat :=
  let i := x.isle
  let outside (a : Nat) : Bool := bits a 8 3 / 2 != x.island
  leastCheck
    [failsIf x.bad 5,
     failsIf (!im.hasLoom i.celem || im.linkOut i.celem i.cport || im.bound false i.celem i.cport != 0
       || (i.rpe && (!im.hasLoom i.relem || im.linkIn i.relem i.rport || im.bound true i.relem i.rport != 0
            || seen.any fun y => y.isle.rpe && y.isle.relem == i.relem && y.isle.rport == i.rport))) 10,
     failsIf ((seen.any fun y => y.island == x.island) || outside i.celem || (i.rpe && outside i.relem)
       || (i.re && !im.routes.any fun r => r.1.label == i.rlab)) 12]

/-- An instruction slot that holds an opcode. -/
def slotHolds (p : Page) (n op : Nat) : Bool := p.kind n == 1 && bits (p.slot n).toNat 18 8 == op

/-- The pools and classes of the SITE section (17 R295, R296), judged as one item before the site records (log 135, DESIGN CHOICE). -/
def sitePrefixCheck (im : Image) : Option Nat :=
  let cls (w : Nat) : Option Nat :=
    let a := bits w 0 16
    let p := bits w 16 3
    leastCheck
      [failsIf (bits w 20 12 != 0 || bits w 0 4 != 0) 5,
       failsIf (bit w 19 && (im.linkIn a p || im.bound true a p != 0 || im.replyPort a p)) 10,
       failsIf (bit w 19 && !(im.has a && bit a 15)) 12]
  leastCheck
    ([failsIf (im.pools.any fun w => bits w 25 7 != 0 || bits w 9 7 != 0) 5, failsIf (decide (256 < im.sites.length)) 12]
      ++ im.classes.map cls)

/-- A SITE record (17 R296). -/
def siteCheck (im : Image) (seen : List SiteEntry) (x : SiteEntry) : Option Nat :=
  let t := x.site
  let holds := match im.elem? t.elem with
    | none => false
    | some e => slotHolds e.record.page t.slot 0xE8
  leastCheck
    [failsIf x.bad 5,
     failsIf (im.linkIn t.cons t.consPort || im.bound true t.cons t.consPort != 0 || im.replyPort t.cons t.consPort
       || seen.any fun y => y.site.cons == t.cons && y.site.consPort == t.consPort) 10,
     failsIf (!holds || decide (4 < t.q) || !bit (im.classes.getD t.cls 0) 19 || !im.hasLoom t.cons) 12]

/-- An EVSEG record (09 R180). -/
def evsegCheck (im : Image) (seen : List EvsegEntry) (x : EvsegEntry) : Option Nat :=
  leastCheck
    [failsIf x.bad 5,
     failsIf ((seen.any fun y => y.tile == x.tile)
       || !im.elems.any fun e => bit e.addr 15 && bits e.addr 11 4 == x.tile) 12]

/-! ## Slots against other sections (10 R200, R212, 12 R218, 17 R296) -/

/-- A slot lacks the record of a section that it needs. -/
def slotLacks (im : Image) (type : Nat) (x : ElemEntry) (n : Nat) : Bool :=
  let p := x.record.page
  let w := (p.slot n).toNat
  let port := bits w 12 6 - 24
  if p.kind n != 1 then false
  else match type with
    | 6 => match slotWave p n with
      | none => false
      | some v => !im.waves.any fun y => y.elem == x.addr && y.wave == v
    | 5 =>
      let bound (kind : Nat) : Bool := im.bindings.any fun b => b.kind == kind && b.elem == x.addr && b.port == port
      (slotHolds p n 0xE2 && !bound 0) || (slotHolds p n 0xE1 && !bound 3)
    | 8 =>
      if slotHolds p n 0xE0 then !im.commandPort x.addr port
      else match decodeWord (p.slot n) (p.slot (n + 1)) with
        | .error _ => false
        | .ok i => match (formOf i).map Form.dst with
          | some (.o q) => im.commandPort x.addr q.val
          | _ => false
    | 9 =>
      if slotHolds p n 0xE8 then
        match im.sites.filter fun y => y.site.elem == x.addr && y.site.slot == n with
        | [y] =>
          let q := y.site.qport
          y.site.q != 0 && ((bits w 6 6 == 16 + q || bits w 6 6 == 32 + q) || (bits w 0 6 == 16 + q || bits w 0 6 == 32 + q))
        | _ => true
      else false
    | _ => false

/-- The first slot, in ELEM record order, that lacks a record of a section. -/
def slotsFail (im : Image) (type index : Nat) : Option Reject :=
  im.elems.findSome? fun x => (List.range 32).findSome? fun n =>
    if slotLacks im type x n then some { check := 12, index := index, elem := some x.addr, slot := n } else none

/-- One section's checks: its records, then the slots that it relates to. -/
def sectionFails (im : Image) (e : Entry) : Option Reject :=
  let plain (c : Option Nat) : Option Reject := c.map fun n => { check := n, index := e.index }
  match e.type with
  | 1 => elemFails im e.index [] im.elems
  | 2 => plain (firstBad tileCheck [] im.tiles)
  | 3 => plain (firstBad (linkCheck im) [] im.links)
  | 4 => plain (firstBad (routeCheck im) [] im.routes)
  | 5 => (plain (firstBad (seqCheck im) [] im.seqs)).or (slotsFail im 5 e.index)
  | 6 => (plain (firstBad (waveCheck im) [] im.waves)).or (slotsFail im 6 e.index)
  | 7 => plain (firstBad ringCheck [] im.rings)
  | 8 => (plain (firstBad (isleCheck im) [] im.isles)).or (slotsFail im 8 e.index)
  | 9 => ((plain (sitePrefixCheck im)).or (plain (firstBad (siteCheck im) [] im.sites))).or (slotsFail im 9 e.index)
  | 11 => plain (firstBad (evsegCheck im) [] im.evsegs)
  | _ => none

/-- The loader's verdict on an image (02 R23): the first failure, or none. A failure of check 3 has SECTION 0, whether a SIGN section
stands in the table or not (log 135, DESIGN CHOICE). -/
def imageFails (bs : List Byte) (signedOnly : Bool) (keys : List (List Byte)) : Option Reject :=
  let im := parseImage bs
  let n := fieldAt bs 0x0C 2
  let total := fieldAt bs 8 4
  if headerBad bs then some { check := 1 }
  else if total < 0x40 + 16 * n then some { check := 2 }
  else match tableFails bs total n [] im.entries with
    | some i => some { check := 2, index := i }
    | none =>
      if !im.entries.any (·.type == 1) then some { check := 2 }
      else if sha3 (digestBytes bs im) != im.digest then some { check := 1 }
      else if (im.isSigned || signedOnly) && !signatureOk bs im keys then some { check := 3 }
      else
        let elemIndex := (im.entries.find? (·.type == 1)).elim 0 Entry.index
        (im.entries.findSome? (sectionFails im)).or
          ([5, 6, 8, 9].findSome? fun t => if im.entries.any (·.type == t) then none else slotsFail im t elemIndex)

end Sys2Proof.Machine
end

