-- ==== Sys2Proof/Machine/Loader.lean ====
section
/-!
DEFINITION. The loader and the sweeps: validation (02 R22-R24), reconfiguration and end-of-slice sweeps (14 R261, 19 R338,
12 R237, R238, 17 R306), withdrawal of semaphore waits (15 R287), the load (03 R41, 02 R21), retirement (21 R346, R348).
-/
namespace Sys2Proof.Machine
open Sys2Proof

/-! ## Validation (02 R22, R23) -/

/-- The image of a queue is the one at the head of a bulkhead's list. -/
def headOf (s : State) (bh q : Nat) : Option Loading :=
  match (s.bh bh).loading with
  | [] => none
  | l :: _ => if l.queue == q then some l else none

/-- The images of a queue leave the lists of every bulkhead. -/
def State.dropImages (s : State) (q : Nat) : State :=
  { s with bhs := tmap s.bhs fun _ b => { b with loading := b.loading.filter (·.queue != q) } }

/-- The enrolled keys that a bulkhead accepts (24 R378). -/
def acceptedKeys (s : State) (bh : Nat) : List (List Byte) :=
  ((List.range 4).filter fun k => bit (s.bh bh).sigkeys.toNat k).map fun k => tget s.keydg k (List.replicate 32 0)

/-- IMAGE_VALIDATION (02 R22-R24): the image at the head of the list passes, or is rejected with LDSTAT and the launch
completes with LOAD_REJECTED. -/
def execImageValidation (bh : Nat) (s : State) : Out :=
  match (s.bh bh).loading with
  | [] => .next s
  | l :: rest =>
    if l.valid || gated s bh then .next s
    else match imageFails l.bytes (s.bh bh).sigreq (acceptedKeys s bh) with
      | none => .next (s.modBh bh fun b => { b with loading := { l with valid := true } :: rest, ldstat := 0 })
      | some r =>
        let ms := membersFor s (s.queue l.queue).qmapTag
        let s := ms.foldl (fun s b => s.modBh b fun x => { x with ldstat := r.word }) s
        .next ((s.dropImages l.queue).finishHead l.queue 0x0A)

/-! ## The start of a sweep -/

/-- The number of a sweep kind in trace records (23 R364). -/
def SweepKind.number : SweepKind → Nat
  | .reconfigure => 0
  | .endOfSlice => 1
  | .kill => 2

def State.traceSweep (s : State) (bh sub : Nat) (k : SweepKind) (column : Nat) : State :=
  s.trace bh 4 sub 0 (BitVec.ofNat 32 k.number) (BitVec.ofNat 32 column)

/-- Label launches to a bulkhead end as a sweep begins on it (15 R276): OK at an end of slice, whose shuttle stays for the
saved context; else LAUNCH_FAULT, and the shuttle is discarded. -/
def State.endLaunches (s : State) (bh : Nat) (k : SweepKind) : State :=
  let l := (s.bh bh).shuttles
  let s := l.foldl (fun s x => if k == .endOfSlice then s.endLaunch x.launch 0 0 else s.endLaunch x.launch 0x03 3) s
  s.modBh bh fun b =>
    { b with shuttles :=
        if k == .endOfSlice then b.shuttles.map fun x => { x with launch := none }
        else b.shuttles.filter fun x => x.launch.isNone }

/-- A sweep begins on a bulkhead; the ask hub applies 17 R306, an end-of-slice sweep notes the tokens that have started (12 R237),
and the records of a load that is kill-swept are superseded (19 R326). -/
def State.beginSweep (s : State) (bh : Nat) (k : SweepKind) : State :=
  let s := (s.endLaunches bh k).modBh bh fun b => { b with sweep := some { kind := k, column := 0 } }
  let s : State := match k with
    | .kill => s.modBh bh fun b => { b with faults := b.faults.map fun r => { r with gone := r.gone || r.start != .graph } }
    | .endOfSlice =>
      (List.range 4).foldl (fun (s : State) n => s.modIsland (4 * bh + n) fun x => { x with started := x.starts })
        (s.hubSweepStart bh)
    | .reconfigure => s.hubSweepStart bh
  s.traceSweep bh 0 k 0

/-- RECONFIGURATION_SWEEP (14 R261, 02 R22): it begins once the image has passed on every bulkhead of the queue, in a hub cycle before
a decision or a register write (17 R305). -/
def execReconfigurationSweep (bh : Nat) (s : State) : Out :=
  match (s.bh bh).loading with
  | [] => .next s
  | l :: _ =>
    let fn := (s.queue l.queue).qmapTag
    let ok := (membersFor s fn).all fun b => (headOf s b l.queue).any Loading.valid
      || (((s.bh b).loading.all fun y => y.queue != l.queue) && (s.bh b).load.any fun x => x.queue == l.queue && x.image == l.image)
    if l.valid && ok && mayRun s fn bh && (s.bh bh).sweep.isNone && hubMay s bh 4 then .next (s.beginSweep bh .reconfigure) else .next s

/-! ## What a sweep waits for (14 R261, 19 R325, R338) -/

/-- The tiles whose drain belongs to a column: a memory column's own, and at the edges the evaluator tiles. -/
def tilesOf (bh column : Nat) : List Nat :=
  if column == 12 then [64 * bh + 32, 64 * bh + 33]
  else if column % 3 == 2 then (List.range 8).map fun r => 64 * bh + column / 3 * 8 + r
  else []

/-- The elements whose drain belongs to a column. -/
def State.columnElems (s : State) (bh column : Nat) : List (Nat × Elem) :=
  (s.elemsOf bh).filter fun p => if isEv p.1 then column == 12 else colOf p.1 == column

/-- Matrix and streamer islands have come to their end: everything queued at a reconfiguration (12 R238), what has started
at an end of slice (12 R237, 19 R338). -/
def islandsDrained (s : State) (k : SweepKind) (bh : Nat) : Bool :=
  ((List.range 4).all fun n =>
    let x := s.island (4 * bh + n)
    x.exec.isNone && !workBegun s (islandWork (4 * bh + n)) && !engineBusy s (islandEngine (4 * bh + n))
      && (if k == .endOfSlice then !x.started else x.queue.isEmpty)) &&
  (List.range 2).all fun n =>
    let x := s.streamer (2 * bh + n)
    x.running.isEmpty && !workBegun s (streamerWork (2 * bh + n) 4) && !engineBusy s (streamerEngine (2 * bh + n))
      && (k == .endOfSlice || x.queue.isEmpty)

/-- A fused update of a tile is committing a block, which a sweep or a kill waits for (21 R353). -/
def Tile.commits (t : Tile) : Bool :=
  match t.hold with
  | .fupd u => u.staged.isSome
  | _ => false

/-- A tile has ended the accesses that it has issued, and its stores have been applied (14 R261, 19 R338). -/
def tileDrained (s : State) (k : Nat) : Bool :=
  (s.tile k).sbuf.isEmpty && !(s.tile k).commits && !engineBusy s (tileEngine k)
    && s.works.all fun p => p.2.engineKey != tileEngine k || p.1 % 8 == 2

/-- Every element, tile and, at the edges, island of a column is drained. -/
def columnDrained (s : State) (k : SweepKind) (bh column : Nat) : Bool :=
  ((s.columnElems bh column).all fun p => elemDrained s k p.1 p.2)
    && ((tilesOf bh column).all (tileDrained s))
    && (column != 12 || islandsDrained s k bh)

/-- What a sweep discards of an element at a reconfiguration. -/
def Elem.discardRequests (e : Elem) : Elem := { e with issueq := [], pending := [], issue := none, again := [], fence := none }

/-- The sweep has passed an element. -/
def State.passElem (s : State) (k : SweepKind) (key : Nat) : State :=
  let s := if k == .endOfSlice then s
    else ((s.modElem key Elem.discardRequests).dropUnsent (· == key)).modTile (servingTile key) fun t =>
      { t with wrb := t.wrb.filter fun r => r.elem != key }
  s.modElem key fun e => { e with swept := true }

/-- The sweep has passed a tile: what a run met ahead of its consumer is forgotten (09 R187), and a fused update starts its
block again (21 R353). -/
def State.passTile (s : State) (k : Nat) : State :=
  (s.dropEngine (tileEngine k)).modTile k fun x =>
    { x with
      drained := true
      streams := tmap x.streams fun _ y => { y with run := y.run.map fun r => { r with fault := none } }
      hold := match x.hold with
        | .fupd u => .fupd { u with staged := none, targets := [] }
        | h => h }

/-- An island after a reconfiguration sweep: accumulators +0, reflector accumulators uninitialised (12 R238). -/
def Island.cleared (x : Island) : Island := { x with acc := [], qa := [] }

/-- The semaphore wait of a tile's sequencer leaves the waiter lists (15 R286, R287). -/
def State.withdrawSwait (s : State) (k : Nat) : State :=
  { s with slices := tmap s.slices fun _ x =>
      { x with waiters := x.waiters.filter fun w => w.src != .engine (k / 64) (k % 64) } }

/-- The token passes a column; at a reconfiguration a sequencer's wait is withdrawn as an element's is (15 R286, R287). -/
def State.passColumn (s : State) (k : SweepKind) (bh column : Nat) : State :=
  let s := ((s.columnElems bh column).map Prod.fst).foldl (fun s key => s.passElem k key) s
  let s := (tilesOf bh column).foldl State.passTile s
  let s := if k == .reconfigure then (tilesOf bh column).foldl State.withdrawSwait s else s
  let s := if column == 12 && k == .reconfigure then
      (List.range 4).foldl (fun s n => s.modIsland (4 * bh + n) Island.cleared) (s.modHub bh Hub.discardAll)
    else s
  let s := s.modBh bh fun b => { b with sweep := some { kind := k, column := column + 1 } }
  (if column < 12 then s.traceSweep bh 1 k column else s.traceSweep bh 2 k column)

/-- Tiles of a column whose guard touch has not been raised yet. -/
def guardTouches (s : State) (bh column : Nat) : List Nat := (tilesOf bh column).filter fun t => (s.tile t).guardRec.isSome

/-- SWEEP_COLUMN_PASS (19 R338): the token passes the column it is in once every tile of it is drained; a tile raises its
pending guard fault before the sweep drains it (09 R182). -/
def execSweepColumnPass (bh : Nat) (s : State) : Out :=
  match (s.bh bh).sweep with
  | none => .next s
  | some w =>
    if w.kind == .kill || 12 < w.column || gated s bh then .next s
    else if !(guardTouches s bh w.column).isEmpty then .next ((guardTouches s bh w.column).foldl (fun s t => s.raiseGuard t) s)
    else if columnDrained s w.kind bh w.column then .next (s.passColumn w.kind bh w.column) else .next s

/-- SEMW_WITHDRAW (15 R287): a sweep that has reached an element withdraws a pending semw, the newest first, so that what their
fires took comes back in order. -/
def execSemwWithdraw (elem id : Nat) (s : State) : Out :=
  match (s.elem? elem).bind fun e => (e.pending? id).map fun p => (e, p) with
  | none => .next s
  | some (e, p) =>
    match p.kind with
    | .semw b sem _ =>
      if !reached s elem || p.withdrawn || s.sweepKind (bhOf elem) == some .kill
          || e.pending.any (fun q => q.kind.isSemw && decide (id < q.id)) then .next s
      else if inQueue e id then .next ((s.setElem elem { e with issueq := e.issueq.filter (·.id != id) }).withdrawn elem p)
      else
        let q : HomeReq := { src := .elem elem, id := id, pa := 0, op := .withdraw sem, cls := 0, reads := 15, word := 0 }
        let s := s.modElem elem fun e => e.modPending id fun p => { p with withdrawn := true }
        .next (s.sendHome (semSlice b sem) [q])
    | _ => .next s

/-! ## The load (02 R21, 03 R41) -/

/-- An element at residency (02 R20, R21). -/
def ElemRecord.fresh (r : ElemRecord) : Elem :=
  { record := r, regs := r.regs, consts := r.consts, preds := (List.range 8).map fun n => bit r.preds.toNat n, lf := r.seed,
    pages := [some r.page, none, none, none] }

/-- What a tile keeps when a load ends: scratchpad with its marks and soft errors, its banks, translations, watchpoints. -/
def Tile.kept (t : Tile) : Tile :=
  { scratch := t.scratch, poison := t.poison, softC := t.softC, softU := t.softU, banks := t.banks, tlb := t.tlb, watch := t.watch }

/-- The wave tables of the elements that a tile serves. -/
def Image.wavesOf (im : Image) (bh tile : Nat) : Tab WaveEntry :=
  im.waves.foldl (fun t w =>
    if servingTile (elemKey bh w.elem) == tile then tset t (64 * w.elem + w.wave) w.links else t) []

/-- The segments of a record, SEG1 first. -/
def segTable (l : List DWord) : Tab DWord := l.zipIdx.map fun p => (p.2 + 1, p.1)

/-- A tile at residency. -/
def Image.tile (im : Image) (bh n : Nat) (old : Tile) : Tile :=
  let t := { old.kept with waves := im.wavesOf bh (64 * bh + n) }
  if 32 ≤ n then
    match im.evsegs.find? (·.tile == n - 32) with
    | none => t
    | some x => { t with segs := segTable x.segs }
  else
    let col := n / 8 * 3 + 2
    let t := match im.tiles.find? fun x => x.col == col && x.row == n % 8 with
      | none => t
      | some x => { t with policy := x.level.policy, retryLimit := x.level.retryLimit }
    match im.seqs.find? fun x => x.col == col && x.row == n % 8 with
    | none => t
    | some x => { t with segs := segTable x.segs, bindings := x.bindings, program := x.program }

/-- An island at residency. -/
def Image.island (im : Image) (n : Nat) : Island :=
  let x := match im.isles.find? (·.island == n) with
    | none => ({} : Island)
    | some x => x.isle
  { x with rings := (im.rings.filter (·.island == n)).foldl (fun t r => tset t r.number r.ring) [] }

/-- The ask hub at residency: its target log and counts stay (17 R311, R316), and the sequence of its records starts from 0 (17
R310). -/
def Image.hub (im : Image) (old : Hub) : Hub :=
  let pools := im.pools.zipIdx.map fun p =>
    (p.2, ({ size := bits p.1 0 9, refill := bits p.1 16 9, credit := bits p.1 0 9 } : AskPool))
  let classes := im.classes.zipIdx.map fun p =>
    (p.2, ({ elem := bits p.1 0 16, port := bits p.1 16 3, valid := bit p.1 19 } : AskClass))
  { old with sites := im.sites.map SiteEntry.site, pools := pools, classes := classes, table := [], frames := [],
             queue := [], cond := [], writes := [], refilled := 0, seq := 0 }

/-- An element is active: some slot of its record, page 0 of an evaluator element, holds done (21 R346). -/
def Elem.active (e : Elem) : Bool := (List.range 32).any fun n => slotHolds e.record.page n 0x72

/-- RETSTAT.KILLED: an active element of the resident load has been killed (21 R348). -/
def retKilled (s : State) (bh : Nat) : Bool :=
  (s.bh bh).retKilled || (s.elemsOf bh).any fun p => p.2.active && p.2.killed

/-- Everything of a bulkhead's load is gone: elements, engines and their accesses, shuttles, replies; waiting fault records are
superseded, but for those of a graph (19 R326). -/
def State.clearLoad (s : State) (bh : Nat) : State :=
  let killed := retKilled s bh
  let s := ({ s with elems := s.elems.filter fun p => bhOf p.1 != bh } : State).dropWorks bh
  let s := s.mapTiles bh fun _ t => t.kept
  let s := (List.range 4).foldl (fun s n => s.setIsland (4 * bh + n) {}) s
  let s := (List.range 2).foldl (fun s n => s.modStreamer (2 * bh + n) fun x => { tlb := x.tlb }) s
  s.modBh bh fun b =>
    { b with load := none, links := [], routes := [], levels := [], shuttles := [], replies := [], fencehs := [], walks := [],
             retiring := 0, sweep := none, retKilled := killed, faults := b.faults.map fun r => { r with gone := r.gone || r.start != .graph } }

/-- The counters of a bulkhead's engines and elements at a reconfiguration: 0, and FRZ as it was (09 R191). -/
def State.zeroCounters (s : State) (bh : Nat) : State :=
  let zero (home : Nat → Nat) (t : Tab Counters) : Tab Counters :=
    (t.filter fun p => home p.1 != bh || p.2.frz).map fun p =>
      if home p.1 == bh then (p.1, { frz := true, upTo := s.cycle }) else p
  { s with engineCounts := zero (· / 64) s.engineCounts, elemCounts := zero bhOf s.elemCounts,
           zeroed := tset s.zeroed bh s.cycle }

/-- A fabric load becomes resident on a bulkhead. -/
def State.install (s : State) (bh q : Nat) (l : Loading) (im : Image) : State :=
  let h := s.queue q
  let s := s.clearLoad bh
  let load : Load :=
    { fn := h.qmapTag, queue := q, pasid := h.pasid, ident := im.ident, policy := im.policy, retryLimit := im.retryLimit,
      image := l.image, training := im.training, digest := im.digest, since := s.cycle,
      command := (h.graph.map Graph.command).getD 0, members := membersFor s h.qmapTag }
  let levels := im.tiles.foldl (fun t x => if x.col % 3 == 2 then t else tset t (8 * x.col + x.row) x.level) []
  let s := s.modBh bh fun b =>
    { b with load := some load, links := im.links.map Prod.fst, routes := im.routes.map Prod.fst, levels := levels,
             ret := false, retKilled := false, retCode := 0 }
  let s := im.elems.foldl (fun s x => s.setElem (elemKey bh x.addr) x.record.fresh) s
  let s := (List.range 34).foldl (fun s n => s.modTile (64 * bh + n) (im.tile bh n)) s
  let s := (List.range 4).foldl (fun s n => s.setIsland (4 * bh + n) (im.island n)) s
  (s.modHub bh im.hub).zeroCounters bh

/-- CONFIGURATION_LOAD (03 R41, 02 R21): the sweep has passed, and the validated image becomes resident. -/
def execConfigurationLoad (bh : Nat) (s : State) : Out :=
  match (s.bh bh).loading, (s.bh bh).sweep with
  | l :: rest, some w =>
    if l.valid && w.kind == .reconfigure && w.column == 13 && mayRun s (s.queue l.queue).qmapTag bh then
      let s := s.modBh bh fun b => { b with loading := rest }
      .next (s.install bh l.queue l (parseImage l.bytes))
    else .next s
  | _, _ => .next s

/-! ## Retirement (21 R346-R348) -/

/-- Active elements neither retired nor killed: RETSTAT.LEFT. -/
def retLeft (s : State) (bh : Nat) : Nat :=
  ((s.elemsOf bh).filter fun p => p.2.active && !p.2.retired && !p.2.killed).length

/-- A memory tile of a retiring load has come to its end: its sequencer is halted, its command queue is empty and no run is
incomplete, or it has been killed (log 127); and its stores have drained (21 R346). -/
def tileRetires (s : State) (k : Nat) : Bool :=
  let t := s.tile k
  (t.killed || t.serving && t.cmdq.isEmpty && t.current.isNone && t.streams.all fun p => p.2.run.isNone)
    && t.sbuf.isEmpty && !engineBusy s (tileEngine k)

/-- Everything of a retiring load has drained (21 R346 step 2, 14 R252). -/
def loadDrained (s : State) (bh : Nat) : Bool :=
  ((s.elemsOf bh).all fun p => p.2.issueq.isEmpty && p.2.pending.all isCommand && !p.2.beatHeld)
    && ((List.range 34).all fun n => tileRetires s (64 * bh + n))
    && islandsDrained s .reconfigure bh

/-- The LOAD node of a load completes once its part on every member has retired (02 R28, 21 R349). -/
def State.loadCompletes (s : State) (l : Load) : State :=
  let mine (b : Nat) : Bool := (s.bh b).load.any fun x => x.queue == l.queue && x.command == l.command && x.image == l.image
  match (s.queue l.queue).graph with
  | none => s
  | some g =>
    if g.state == .running && g.command == l.command && l.members.all (fun b => mine b && (s.bh b).ret) then
      s.nodeDone l.queue (l.members.any fun b => (s.bh b).retKilled) ((g.nodes[g.current]?).elim 0 Node.succA)
    else s

/-- A beat that finds no room is in progress (06 R94). -/
def Elem.markHeld (e : Elem) (now : Nat) : Elem :=
  { e with issue := e.issue.map fun x => match x.instr with
      | some (_, f) => if x.wait.isSome || roomFor e f then x else x.hold now
      | none => x }

/-- LOAD_RETIRE (21 R346): passive elements stop once every active one has retired or been killed; RETSTAT.RET follows the
drain. -/
def execLoadRetire (bh : Nat) (s : State) : Out :=
  match (s.bh bh).load with
  | none => .next s
  | some l =>
    if !drainRuns s bh || (s.bh bh).ret || (s.bh bh).sweep.isSome then .next s
    else if (s.bh bh).retiring == 0 then
      let active := (s.elemsOf bh).filter fun p => p.2.active
      if active.isEmpty || retLeft s bh != 0 then .next s
      else .next ((s.mapElems bh fun _ e => e.markHeld s.spine).modBh bh fun b => { b with retiring := 1 })
    else if loadDrained s bh then .next ((s.modBh bh fun b => { b with ret := true, retKilled := retKilled s bh }).loadCompletes l)
    else .next s

end Sys2Proof.Machine
end

