-- ==== Sys2Proof/Machine/FaultWalk.lean ====
section
/-!
DEFINITION. The fault controller: the log (19 R328, R329), re-runs and kills (19 R324, R325), the walk of a fault record,
which is the return from an element's exception (19 R322-R326), kill sweeps, queue-level kills (19 R336, R337) and parent
kills (21 R350).
-/
namespace Sys2Proof.Machine
open Sys2Proof

/-! ## The log (19 R328, R329) -/

/-- The number of a level in a record. -/
def Level.number : Level → Nat
  | .element => 0
  | .tile => 1
  | .load => 2
  | .graph => 3
  | .queue => 4
  | .none => 7

/-- The unit field of a record. -/
def FaultUnit.word : FaultUnit → Nat
  | .elem a => a
  | .engine n => 0xFF00 + n
  | .graph _ => 0

/-- The actions of a record. -/
def actIgnore : Nat := 0
def actRetry : Nat := 1
def actKillSelf : Nat := 2
def actQueueKill : Nat := 3
def actSuperseded : Nat := 4
def actLogged : Nat := 5

/-- A record is written to the log of a bulkhead, with its trace event and the interrupt of the function that it is for (19 R329, 24
R367). -/
def State.logFault (s : State) (bh : Nat) (r : FaultRec) (absorbing : Level) (action retries : Nat) : State :=
  let b := s.bh bh
  let x : FaultLogRec :=
    { seq := b.fltcnt, ident := r.ident, code := .ofNat 8 r.code,
      levels := .ofNat 8 (r.start.number + 8 * absorbing.number + 64 * b2n r.imprecise), action := .ofNat 8 action,
      retries := .ofNat 8 (min retries 255), unit := .ofNat 16 r.unit.word,
      queue := .ofNat 16 (s.queue r.queue).qmapLocal, detail := .ofNat 32 r.detail, time := s.spineTime,
      addr := .ofNat 64 r.addr }
  let s := s.setBh bh { b with fltlog := lastN 64 (b.fltlog ++ [x]), fltcnt := b.fltcnt + 1 }
  let s := s.trace bh 7 action r.unit.word (.ofNat 32 r.code) (.ofNat 32 r.detail)
  match r.fn with
  | some fn => if bh < 16 then s.raiseMsi fn 0 else s
  | none => s

/-! ## Elements (19 R324, R325) -/

/-- The requests of an element leave the buffers of its tile, a page fetch of it ends, its remote atomics are not sent, and its
wave state is NONE. -/
def State.dropRequests (s : State) (key : Nat) : State :=
  (({ s with works := tdel s.works (pageWork key) } : State).dropUnsent (· == key)).modTile (servingTile key) fun t =>
    { t with wrb := t.wrb.filter fun r => r.elem != key, waveL := tdel t.waveL (addrOf key) }

/-- The request reaches no point beyond its element: a command that stands in an output port, a page fetch. -/
def Elem.keepsHere (e : Elem) (p : Pending) : Bool :=
  match p.kind with
  | .setpg .. => true
  | .skipped => e.out.any fun l => l.any fun x => match x with
    | .command _ id => id == p.id
    | _ => false
  | _ => false

/-- What an element had sent when it was killed or re-run: it runs to its end, and its reply writes nothing (19 R324, R325). -/
def Elem.sent (e : Elem) : List Pending :=
  (e.pending.filter fun p => p.performed && !e.keepsHere p).map fun p =>
    { p with dest := .none, void := true, popped := [], undo := none }

/-- Element re-run (19 R324, R335): the state of its record; what the rule does not name is kept. -/
def Elem.rerun (e : Elem) : Elem :=
  { e.record.fresh with
    pages := e.pages.set 0 (some e.record.page), stale := e.stale, tg := e.tg, sk := e.sk, retries := e.retries,
    done := e.done, retired := e.retired, shdrop := e.shdrop, astat := e.astat, aold := e.aold, aohi := e.aohi,
    bkcode := e.bkcode, bken := e.bken, pga := e.pga, pgcause := e.pgcause, pgslot := e.pgslot, pgpage := e.pgpage,
    sitesel := e.sitesel, swept := e.swept, pending := e.sent }

/-- Waiting records are superseded (19 R326). -/
def State.supersede (s : State) (bh : Nat) (f : FaultUnit → Bool) : State :=
  s.modBh bh fun b => { b with faults := b.faults.map fun r => if f r.unit then { r with gone := true } else r }

def State.rerunElem (s : State) (key : Nat) : State :=
  ((s.modElem key Elem.rerun).dropRequests key).supersede (bhOf key) (· == .elem (addrOf key))

/-- Element kill (19 R325): it fires nothing more, its output ports are emptied, tokens and shuttles that come are
discarded. -/
def Elem.killedState (e : Elem) : Elem :=
  { e with killed := true, stopped := false, issue := none, again := [], out := List.replicate 8 [], inp := List.replicate 8 [],
           inbox := [], issueq := [], fence := none, pending := e.sent }

def State.killElem (s : State) (key : Nat) : State :=
  ((s.modElem key Elem.killedState).dropRequests key).supersede (bhOf key) (· == .elem (addrOf key))

/-- A fault of an element waits for its walk (19 R323). -/
def faultWaits (s : State) (bh a : Nat) : Bool := (s.bh bh).faults.any fun r => r.unit == .elem a && !r.gone && !r.logOnly

/-- The element goes on firing, unless another fault of its own waits for its walk (19 R323). -/
def State.resumeUnit (s : State) (bh : Nat) (u : FaultUnit) : State :=
  match u with
  | .elem a => s.modElem (elemKey bh a) fun e => { e with stopped := faultWaits s bh a }
  | _ => s

/-! ## Tiles (19 R324) -/

/-- The tile of a unit: the key of a memory or evaluator tile, or the compute tile by 8 * column + row. -/
inductive TileRef where
  | tile (k : Nat)
  | compute (n : Nat)
  | none

def FaultUnit.tile (bh : Nat) : FaultUnit → TileRef
  | .elem a => if bit a 15 then .tile (64 * bh + 32 + bits a 11 4) else .compute (8 * bits a 11 4 + bits a 8 3)
  | .engine n => if n < 32 then .tile (64 * bh + n) else .none
  | .graph _ => .none

/-- The level of a tile: policy, retry limit, count. -/
def State.tileLevel (s : State) (bh : Nat) : TileRef → TileLevel
  | .tile k => let t := s.tile k; { policy := t.policy, retryLimit := t.retryLimit, retries := t.retries }
  | .compute n => tget (s.bh bh).levels n {}
  | .none => {}

/-- The elements of the tile of a unit. -/
def State.unitElems (s : State) (bh : Nat) (t : TileRef) : List (Nat × Elem) :=
  (s.elemsOf bh).filter fun p => match t with
    | .tile k => isEv p.1 && servingTile p.1 == k
    | .compute n => !isEv p.1 && 8 * colOf p.1 + rowOf p.1 == n
    | .none => false

/-- The commands of a memory tile's queue end, and its waiting semaphore request is withdrawn. -/
def State.emptyQueue (s : State) (k : Nat) : State :=
  let t := s.tile k
  (t.cmdq.foldl (fun s c => s.dropOwner (if c.id == 0 then none else some (c.elem, c.id))) (s.dropOwner t.owner)).withdrawSwait k

/-- Tile re-run: every element but those killed before, and the failing one; a memory tile's sequencer restarts. -/
def State.rerunTile (s : State) (bh : Nat) (u : FaultUnit) (t : TileRef) : State :=
  let me (key : Nat) : Bool := u == .elem (addrOf key)
  let s := (s.unitElems bh t).foldl (fun s p => if p.2.killed && !me p.1 then s else s.rerunElem p.1) s
  match t with
  | .tile k =>
    let s := if k % 64 < 32 then
        ((s.emptyQueue k).dropEngine k).modTile k fun x =>
          { x with index := 0, halted := false, current := none, cmdq := [], hold := .none, streams := [], loops := [],
                   guards := [], guardRec := none, waveL := [] }
      else s
    (s.modTile k fun x => { x with retries := x.retries + 1 }).supersede bh (· == .engine (tileEngine k % 64))
  | .compute n =>
    s.modBh bh fun b => let l := tget b.levels n {}; { b with levels := tset b.levels n { l with retries := l.retries + 1 } }
  | .none => s

/-- Tile kill: every element is killed and the sequencer stops; a block that a fused update is committing is committed whole
(log 120). -/
def State.killTile (s : State) (bh : Nat) (t : TileRef) : State :=
  let s := (s.unitElems bh t).foldl (fun s p => s.killElem p.1) s
  match t with
  | .tile k =>
    let s := if (s.tile k).commits then s else s.dropEngine (tileEngine k)
    (s.modTile k fun x => { x with killed := true }).supersede bh (· == .engine (tileEngine k % 64))
  | .compute n => s.modBh bh fun b => { b with levels := tset b.levels n { tget b.levels n {} with killed := true } }
  | .none => s

/-! ## Loads, graphs and queues -/

/-- The bulkheads on which a queue has a load resident. -/
def residents (s : State) (q : Nat) : List Nat := (List.range 16).filter fun b => (s.bh b).load.any (·.queue == q)

/-- Every part of a queue's resident load is to be kill-swept. -/
def State.sweepLoads (s : State) (q : Nat) : State :=
  (residents s q).foldl (fun s b => if s.sweepKind b == some .kill then s else s.beginSweep b .kill) s

/-- The current node of a graph has run: a LOAD node that has been dispatched, a node that has met its fault (21 R349). -/
def Graph.ran (g : Graph) : Bool :=
  match g.state with
  | .running => true
  | .honoured => g.loadRetries != 0
  | .faulted => !g.past
  | _ => false

/-- The running node of a killed graph arrives as faulted, or marks its counter (21 R349, R350). -/
def State.killedNodeArrives (s : State) (q : Nat) (mark : Option Nat) : State :=
  let h := s.queue q
  match h.graph with
  | none => s
  | some g =>
    match g.nodes[g.current]? with
    | none => s
    | some n =>
      if !g.ran || !g.replays.isEmpty || n.arrive == 0xFFFF then s else s.childArrives h.qmapTag n.arrive true mark

/-- What waits for the kill sweeps of a graph's load happens once none is left. -/
def State.settle (s : State) (q : Nat) : State :=
  match (s.queue q).graph with
  | none => s
  | some g =>
    if !(residents s q).isEmpty then s
    else match g.killEnd with
      | none => s
      | some e =>
        let s := s.modGraph q fun g => { g with killEnd := none }
        match e with
        | .redispatch => s.modGraph q fun g => { g with state := .honoured }
        | .faulted => s.nodeFails q
        | .restart =>
          (s.dropImages q).modGraph q fun g =>
            { g with current := g.entry, loops := [], replays := [], prev := none, state := .ready, loadRetries := 0, past := false }
        | .complete code => ((s.killedNodeArrives q none).dropImages q).finishHead q code

/-- The loads of a queue are kill-swept, and what follows is noted. -/
def State.endLoad (s : State) (q : Nat) (e : KillEnd) : State :=
  ((s.modGraph q fun g => { g with killEnd := some e, state := .faulted }).sweepLoads q).settle q

/-- A queue-level kill begins (19 R337 steps 1 and 2): EN clears, QHEAD stops, the loads are kill-swept. -/
def State.startKill (s : State) (q code : Nat) (parent : Bool := false) (record : Option (Nat × FaultRec) := none) : State :=
  if (s.queue q).killBusy then s
  else
    let s := s.modQueue q fun h =>
      { h with en := false, killBusy := true, killNext := code, parentKill := parent, killRecord := record }
    (s.dropImages q).sweepLoads q

/-- QUEUE_LEVEL_KILL (19 R337 steps 3 to 5): once no load of the queue is resident its contexts are deleted, its commands
complete with the code, one record is written, CODE is set, and BUSY falls. -/
def execQueueLevelKill (queue code : Nat) (s : State) : Out :=
  let h := s.queue queue
  if !h.killBusy || h.killNext != code || !(residents s queue).isEmpty then .next s
  else
    let mark := if h.parentKill then some code else none
    let held := s.contexts.filter fun c : Context => c.body.load.any fun l : Load => l.queue == queue
    let s := held.foldl (fun s c => if c.quarantined then s.modBh c.bulkhead fun b => { b with qfull := false } else s) s
    let s := { s with contexts := s.contexts.filter fun c : Context => !(c.body.load.any fun l : Load => l.queue == queue) }
    let s := s.killedNodeArrives queue mark
    let s := h.accepted.foldl (fun s a => s.completeCommand queue { a with faulted := true } code mark) s
    let s := s.modQueue queue fun h => { h with graph := none, killBusy := false, killCode := code, killRecord := none }
    let r : FaultRec := { unit := .graph queue, start := .queue, code := code, queue := queue, fn := some h.qmapTag }
    let (bh, r) := h.killRecord.getD (firstMember s h.qmapTag, r)
    .next (s.logFault bh r .queue actQueueKill 0)

/-- QKILL (19 R336): GO starts a kill with QUEUE_DISABLED; the block of an index at or above the queue count ignores it (03 R31). -/
def execQkill (fn index : Nat) (s : State) : Out :=
  match queueBlock s fn index with
  | none => .next s
  | some q => .next (s.startKill q 0x07)

/-- PARENT_KILL (21 R350): a queue whose head waits on a marked counter is killed with the child's code. -/
def execParentKill (queue : Nat) (s : State) : Out :=
  let h := s.queue queue
  match h.accepted with
  | [] => .next s
  | a :: _ =>
    if a.cmd.wait == 0xFFFF || a.dispatched then .next s
    else match (counterOf s h.qmapTag a.cmd.wait).parentKill with
      | none => .next s
      | some code => .next (s.startKill queue code)

/-! ## The walk (19 R324) -/

/-- The walk at the graph level: whether the load has been kill-swept below it. -/
def State.walkGraph (s : State) (bh : Nat) (r : FaultRec) (q : Nat) (swept : Bool) : State :=
  match (s.queue q).graph with
  | none => s.logFault bh r .none actSuperseded 0
  | some g =>
    let s := s.supersede bh (· == .graph q)
    if g.policy == 1 && decide (g.retries < g.retryLimit) then
      ((s.modGraph q fun g => { g with retries := g.retries + 1 }).logFault bh r .graph actRetry (g.retries + 1)).endLoad q
        .restart
    else match g.policy with
      | 0 =>
        let s := s.logFault bh r .graph actIgnore g.retries
        if swept || r.start == .graph then s.endLoad q .faulted else s.resumeUnit bh r.unit
      | 2 => (s.logFault bh r .graph actKillSelf g.retries).endLoad q (.complete r.code)
      | p => s.startKill q r.code (p == 3) (some (bh, r))

/-- The walk at the fabric-load level. -/
def State.walkLoad (s : State) (bh : Nat) (r : FaultRec) : State :=
  match (s.bh bh).load with
  | none => s.logFault bh r .none actSuperseded 0
  | some l =>
    let q := l.queue
    let n := ((s.queue q).graph.map Graph.loadRetries).getD 0
    match l.policy with
    | 0 => (s.logFault bh r .load actIgnore n).resumeUnit bh r.unit
    | 1 =>
      if n < l.retryLimit then
        ((s.modGraph q fun g => { g with loadRetries := g.loadRetries + 1 }).logFault bh r .load actRetry (n + 1)).endLoad q
          .redispatch
      else s.walkGraph bh r q false
    | 2 => (s.logFault bh r .load actKillSelf n).endLoad q .faulted
    | _ => (s.sweepLoads q).walkGraph bh r q true

/-- The walk at the tile level. -/
def State.walkTile (s : State) (bh : Nat) (r : FaultRec) : State :=
  let t := r.unit.tile bh
  match t with
  | .none => s.walkLoad bh r
  | _ =>
    let l := s.tileLevel bh t
    match l.policy with
    | 0 => (s.logFault bh r .tile actIgnore l.retries).resumeUnit bh r.unit
    | 1 =>
      if l.retries < l.retryLimit then
        (s.logFault bh r .tile actRetry (l.retries + 1)).rerunTile bh r.unit t
      else s.walkLoad bh r
    | 2 => (s.logFault bh r .tile actKillSelf l.retries).killTile bh t
    | _ => (s.killTile bh t).walkLoad bh r

/-- The walk at the element level. -/
def State.walkElem (s : State) (bh : Nat) (r : FaultRec) (key : Nat) (e : Elem) : State :=
  match e.record.policy with
  | 0 => (s.logFault bh r .element actIgnore e.retries).resumeUnit bh r.unit
  | 1 =>
    if e.retries < e.record.retryLimit then
      ((s.modElem key fun e => { e with retries := e.retries + 1 }).logFault bh r .element actRetry (e.retries + 1)).rerunElem
        key
    else s.walkTile bh r
  | 2 => (s.logFault bh r .element actKillSelf e.retries).killElem key
  | _ => (s.killElem key).walkTile bh r

/-- A fault record of a resident load is handled. -/
def State.walkFault (s : State) (bh : Nat) (r : FaultRec) : State :=
  if r.logOnly then s.logFault bh r .none actLogged 0
  else match r.unit with
    | .graph q => if r.gone then s.logFault bh r .none actSuperseded 0 else s.walkGraph bh r q false
    | .elem a =>
      match s.elem? (elemKey bh a) with
      | none => s.logFault bh r .none actSuperseded 0
      | some e =>
        if r.gone || e.killed then s.logFault bh r .none actSuperseded 0
        else match r.start with
          | .element => s.walkElem bh r (elemKey bh a) e
          | .tile => s.walkTile bh r
          | _ => s.walkLoad bh r
    | .engine _ =>
      if r.gone then s.logFault bh r .none actSuperseded 0
      else match r.start with
        | .tile => s.walkTile bh r
        | _ => s.walkLoad bh r

/-- A walk of a record could end the commit of a block of the tile it belongs to, and waits until that has ended (21 R353; log
120). -/
def walkWaits (s : State) (bh : Nat) (u : FaultUnit) : Bool :=
  match u.tile bh with
  | .tile k => (s.tile k).commits
  | _ => false

/-- FAULT_RECORD (19 R322, R324): the record at the head of the controller is walked. A fault of a management element is
logged to the physical function with unit 0xFFFF, and the element goes on (24 R376). -/
def execFaultRecord (bh : Nat) (s : State) : Out :=
  match (s.bh bh).faults with
  | [] => .next s
  | r :: rest =>
    if walkWaits s bh r.unit then .next s
    else
    let s := s.modBh bh fun b => { b with faults := rest }
    if bh < 16 then .next (s.walkFault bh r)
    else
      let s := s.logFault bh { r with unit := .engine 0xFF } .none actLogged 0
      .next ((s.raiseMsi 0 0).resumeUnit bh r.unit)

/-! ## Kill sweeps (19 R325) -/

/-- The semaphore waits of a bulkhead's elements and tiles leave every home slice. -/
def State.withdrawAll (s : State) (bh : Nat) : State :=
  let mine : Source → Bool := fun x => match x with
    | .elem key => bhOf key == bh
    | .engine b _ => b == bh
    | .remote _ _ _ _ => false
  let semw (r : HomeReq) : Bool := mine r.src && match r.op with
    | .semw _ _ => true
    | .withdraw _ => true
    | _ => false
  { s with slices := tmap s.slices fun _ x =>
      { x with waiters := x.waiters.filter fun w => !mine w.src, arrivals := x.arrivals.filter fun r => !semw r } }

/-- A request from one of the bulkhead's parts stands in an arrival queue. -/
def arriving (s : State) (p : Source → Bool) : Bool := s.slices.any fun x => x.2.arrivals.any fun r => p r.src

/-- The token of a kill sweep reaches a column: touches of guard granules are raised (09 R182), its elements' requests that have reached no bank, store buffer or arrival queue
are discarded, and its tiles stop. -/
def State.killColumn (s : State) (bh column : Nat) : State :=
  let s := (guardTouches s bh column).foldl (fun s t => s.raiseGuard t) s
  let s := ((s.columnElems bh column).map Prod.fst).foldl (fun s key =>
    (s.modElem key fun e =>
      { e with swept := true, issueq := [], issue := none, again := [], fence := none, pending := e.sent }).dropRequests key) s
  (tilesOf bh column).foldl (fun s k =>
    (if (s.tile k).commits then s else s.dropEngine (tileEngine k)).modTile k fun x => { x with drained := true }) s

/-- What the column of a kill sweep had sent has been applied, and no block is being committed (19 R325, 21 R353). -/
def columnKilled (s : State) (bh column : Nat) : Bool :=
  let elem (p : Source) : Bool := (s.columnElems bh column).any fun x => p == .elem x.1
  let engine (p : Source) : Bool := (tilesOf bh column).any fun k => p == .engine bh (tileEngine k % 64)
  let island (p : Source) : Bool := match p with
    | .engine b n => column == 12 && b == bh && decide (32 ≤ n) && decide (n < 38)
    | _ => false
  !arriving s (fun p => elem p || engine p || island p)
    && (tilesOf bh column).all fun k => (s.tile k).sbuf.isEmpty && !(s.tile k).commits

/-- The token of a kill sweep passes the edges: semaphore waits leave, asks are freed, the load is gone (15 R287, 17 R306). -/
def State.endKillSweep (s : State) (bh : Nat) : State :=
  let q := ((s.bh bh).load.map Load.queue).getD 0
  let s := ((s.withdrawAll bh).modHub bh Hub.discardAll).traceSweep bh 2 .kill 12
  let s := (s.clearLoad bh).modBh bh fun b =>
    if b.joined && (s.pool b.pool).switching.isSome then { b with saved := true, saveFault := 0 } else b
  s.settle q

/-- KILL_SWEEP (19 R325): the token reaches the column it is in, then passes it once what the column had sent has been applied. -/
def execKillSweep (bh : Nat) (s : State) : Out :=
  match (s.bh bh).sweep with
  | none => .next s
  | some w =>
    if w.kind != .kill || gated s bh then .next s
    else if (s.columnElems bh w.column).any (fun p => !p.2.swept) || (tilesOf bh w.column).any (fun k => !(s.tile k).drained) then
      .next (s.killColumn bh w.column)
    else if !columnKilled s bh w.column then .next s
    else if w.column < 12 then
      .next ((s.modBh bh fun b => { b with sweep := some { w with column := w.column + 1 } }).traceSweep bh 1 .kill w.column)
    else .next (s.endKillSweep bh)

end Sys2Proof.Machine
end

