-- ==== Sys2Proof/Machine/Placing.lean ====
section
/-!
DEFINITION. Placing: partition registers (03 R44, 04 R47-R49), single-bulkhead reset (04 R65-R67), gang switch ticks and
rolling replacement (04 R50-R54, 19 R338-R343), owned virtual networks (04 R55-R57), partition keys (04 R58-R60), windows
(04 R62, R63).
-/
namespace Sys2Proof.Machine
open Sys2Proof

/-- Arithmetic cycles of a microsecond, at 2.7 GHz (24 R372). -/
def cyclesPerUs : Nat := 2700

/-! ## Partition registers -/

/-- QMAP_WRITE (03 R44): ignored while the queue is enabled; a tag above 64 is taken as V = 0, and
reads back so, with the tag as written (log 126, DESIGN CHOICE). -/
def execQmapWrite (queue : Nat) (value : Word) (s : State) : Out :=
  let h := s.queue queue
  let v := value.toNat
  if h.en || 4096 ≤ queue then .next s
  else .next (s.setQueue queue
    { h with qmapV := bit v 31 && decide (bits v 24 7 ≤ 64), qmapTag := bits v 24 7, qmapLocal := bits v 0 12 })

/-- BHCFG_WRITE (04 R47, R48): the value is staged. -/
def execBhcfgWrite (bh : Nat) (value : Word) (s : State) : Out :=
  if 16 ≤ bh then .next s
  else .next (s.modBh bh fun b => { b with staged := BitVec.ofNat 32 (value.toNat / 2 ^ 16 * 2 ^ 16) })

/-! ## Single-bulkhead reset (04 R65-R67) -/

/-- The windows of a bulkhead that enters reset: its own registers are cleared, an OPEN peer closes, and the MISM of a peer clears
with the EN that it waited on (04 R63). -/
def State.resetWindows (s : State) (bh : Nat) : State :=
  let closes (r : WindowReg) : WindowReg := { r with state := if r.state == 2 then 3 else r.state, mism := false }
  let mine := (s.bh bh).windows
  let s := { s with bhs := tmap s.bhs fun _ b =>
      { b with windows := tmap b.windows fun _ w => if w.imp.en && w.imp.expBh == bh then { w with imp := closes w.imp } else w } }
  let s := mine.foldl (fun s p =>
    if p.2.imp.en then
      s.modBh p.2.imp.expBh fun b =>
        { b with windows := tmap b.windows fun n w => if n == p.2.imp.expWin then { w with exp := closes w.exp } else w }
    else s) s
  s.modBh bh fun b => { b with windows := [] }

/-- What waits at the home slices of a gated bulkhead is answered: requests, semaphore waits and the launches of others GATED, those of
its own elements LAUNCH_FAULT (04 R66, R67). -/
def State.answerSlices (s : State) (bh : Nat) : State :=
  (List.range 8).foldl (fun s n =>
    let k := 8 * bh + n
    let x := s.slice k
    let s := s.setSlice k { x with arrivals := [], waiters := [], launches := [] }
    let s := x.arrivals.foldl (fun s r => s.applyReq k r) s
    let s := x.waiters.foldl (fun s w => s.answerSource k w.src w.id 0x0C 0 0 true 0) s
    x.launches.foldl (fun s l =>
      if l.2.src.bulkhead == bh then s.answerSource k l.2.src l.2.id 0x03 l.2.old 0 true l.2.word
      else s.answerSource k l.2.src l.2.id 0x0C 0 0 true l.2.word) s) s

/-- The queues with a load resident on a bulkhead, or with a context saved from it. -/
def queuesOf (s : State) (bh : Nat) : List Nat :=
  let here := ((s.bh bh).load.map Load.queue).toList
  let saved := (s.contexts.filter fun c : Context => c.bulkhead == bh).filterMap fun c => c.body.load.map Load.queue
  (here ++ saved).eraseDups

/-- A reset starts (04 R66, R67): the gate closes, and every queue that uses the bulkhead is killed with BULKHEAD_RESET. -/
def State.startReset (s : State) (bh : Nat) : State :=
  if (s.bh bh).state != 6 then s
  else
    let qs := queuesOf s bh
    let s := s.modBh bh fun b => { b with state := 1, stateSince := s.cycle, joined := false, applied := false }
    let s := (s.resetWindows bh).answerSlices bh
    let rs := (s.bh bh).atomics
    let s := rs.foldl (fun s a => s.answerAtomic a 0x0C 0) (s.modBh bh fun b => { b with atomics := [] })
    qs.foldl (fun s q => s.startKill q 0x53) s

/-- BHRST (04 R65). -/
def execBhrst (bh : Nat) (value : Word) (s : State) : Out :=
  if 16 ≤ bh then .next s
  else
    let s := s.modBh bh fun b => { b with flush := bit value.toNat 30, zero := bit value.toNat 29 }
    .next (if bit value.toNat 31 then s.startReset bh else s)

/-- The clock of a bulkhead runs: its rail is up and its clock source locked, and it is neither frozen nor failed (24 R372,
R375). -/
def Bulkhead.clocked (b : Bulkhead) : Bool := !b.frozen && !b.clockFailed && (b.state == 1 || decide (5 ≤ b.state))

/-- The heartbeat, which advances in every spine cycle in which the clock runs (24 R375). -/
def heartbeat (s : State) (b : Bulkhead) : Nat := b.heart + if b.clocked then s.spine - b.heartAt else 0

/-- The heartbeat is unchanged for 1 ms. -/
def heartLost (s : State) (b : Bulkhead) : Bool := !b.clocked && decide (b.heartAt + 500 * cyclesPerUs ≤ s.spine)

/-- A change of a bulkhead that may start or stop its clock. -/
def State.modClock (s : State) (bh : Nat) (f : Bulkhead → Bulkhead) : State :=
  s.modBh bh fun b => { f b with heart := heartbeat s b, heartAt := s.spine }

/-- A reset moves on to the next state. -/
def State.resetState (s : State) (bh n : Nat) : State :=
  s.modClock bh fun b => { b with state := n, stateSince := s.cycle }

/-- Every dirty line of a bulkhead's slices is written back; one behind a link that is down stays dirty (24 R368). -/
def State.flushSlices (s : State) (bh : Nat) : State :=
  (List.range 8).foldl (fun s n =>
    (s.slice (8 * bh + n)).cache.foldl (fun s l =>
      if l.dirty && (!l.cxl || lineLinkUp s l) then s.cleanLine (8 * bh + n) l else s) s) s

/-- A dirty line is left in the slices of a bulkhead. -/
def slicesDirty (s : State) (bh : Nat) : Bool :=
  (List.range 8).any fun n => (s.slice (8 * bh + n)).cache.any (·.dirty)

/-- GATE (04 R66 state 1): with FLUSH the dirty lines are written back, and a write-back that finds its link down is retried (24
R368); replies to its requests are discarded. -/
def execGate (bh : Nat) (s : State) : Out :=
  if (s.bh bh).state != 1 then .next s
  else
    let s := if (s.bh bh).flush then s.flushSlices bh else s
    let s := s.modBh bh fun b => { b with replies := [], portal := [] }
    .next (if (s.bh bh).flush && slicesDirty s bh then s else s.resetState bh 2)

/-- What a bulkhead keeps when its core rail falls: its partition, reset, thermal, signature and quarantine registers. -/
def Bulkhead.coreLost (b : Bulkhead) : Bulkhead :=
  { mode := b.mode, pool := b.pool, ovn := b.ovn, owner := b.owner, staged := b.staged, flush := b.flush, zero := b.zero,
    state := b.state, stateSince := b.stateSince, temp := b.temp, step := b.step, nextStep := b.nextStep,
    floor := b.floor, trip := b.trip, heart := b.heart, heartAt := b.heartAt, stepSince := b.stepSince, evalAt := b.evalAt, sigreq := b.sigreq,
    sigkeys := b.sigkeys, qbufBase := b.qbufBase, qbufV := b.qbufV, qbusy := b.qbusy, qerr := b.qerr, qfull := b.qfull,
    qcause := b.qcause, qtag := b.qtag }

/-- The counters of a bulkhead are 0, as a reset leaves them (09 R191). -/
def State.dropCounters (s : State) (bh : Nat) : State :=
  { s with engineCounts := s.engineCounts.filter fun p => p.1 / 64 != bh,
           elemCounts := s.elemCounts.filter fun p => bhOf p.1 != bh, zeroed := tset s.zeroed bh s.cycle }

/-- RAIL_OFF (04 R66 state 2): what still waits at the home slices is answered, launches to the bulkhead end with LAUNCH_FAULT
(04 R67), and everything in the core of the bulkhead is lost, unwritten dirty lines too; the bonded DRAM keeps its contents. -/
def execRailOff (bh : Nat) (s : State) : Out :=
  if (s.bh bh).state != 2 then .next s
  else
    let q := ((s.bh bh).load.map Load.queue).getD 0
    let s := ((((s.endLaunches bh .kill).answerSlices bh).withdrawAll bh).dropWorks bh).dropCounters bh
    let s := s.dropUnsent (bhOf · == bh)
    let s := { s with elems := s.elems.filter fun p => bhOf p.1 != bh, tiles := s.tiles.filter fun p => p.1 / 64 != bh,
                      slices := s.slices.filter fun p => p.1 / 8 != bh, islands := s.islands.filter fun p => p.1 / 4 != bh,
                      streamers := s.streamers.filter fun p => p.1 / 2 != bh, hubs := tdel s.hubs bh }
    .next (((s.modClock bh Bulkhead.coreLost).resetState bh 3).settle q)

/-- RAIL_UP (04 R66 state 3). -/
def execRailUp (bh : Nat) (s : State) : Out :=
  if (s.bh bh).state != 3 then .next s else .next (s.resetState bh 4)

/-- PLL_LOCK (04 R66 state 4): the reset enters RELEASE, with the value then staged (04 R48). -/
def execPllLock (bh : Nat) (s : State) : Out :=
  if (s.bh bh).state != 4 then .next s
  else
    .next ((({ s with zeroed := tset s.zeroed bh s.cycle } : State).modBh bh fun b =>
      { b with entering := b.staged, applied := false }).resetState bh 5)

/-- The bulkhead with a BHCFG value applied (04 R48). -/
def Bulkhead.applyCfg (b : Bulkhead) (on : Nat → Bool) : Bulkhead :=
  let v := b.entering.toNat
  let mode := bits v 30 2
  let owner := bits v 16 7
  let bad := mode == 3 || decide (64 < owner) || (mode == 1 && !on (bits v 23 4))
  { b with mode := if bad then 0 else mode, pool := bits v 27 3, ovn := bits v 23 4, owner := owner, applied := true,
           released := 0 }

/-- RELEASE (04 R66 state 5): the staged BHCFG is applied; with ZERO the bonded DRAM and the scratchpads are written to 0. -/
def execRelease (bh : Nat) (s : State) : Out :=
  if (s.bh bh).state != 5 || (s.bh bh).applied then .next s
  else
    let s := s.modBh bh fun b => { b.applyCfg fun n => (s.ovnOf n).on with released := s.cycle }
    if !(s.bh bh).zero then .next s
    else
      let lo := bh * 0x300000000
      let hi := lo + 0x300000000
      let s := { s with mem := s.mem.filter fun c => !(decide (lo ≤ c.1) && decide (c.1 < hi)),
                        poison := s.poison.filter fun g => !(decide (lo ≤ g * 64) && decide (g * 64 < hi)),
                        softC := s.softC.filter fun g => !(decide (lo ≤ g * 64) && decide (g * 64 < hi)),
                        softU := s.softU.filter fun g => !(decide (lo ≤ g * 64) && decide (g * 64 < hi)) }
      .next (s.mapTiles bh fun _ t => { t with scratch := [], poison := [], softC := [], softU := [] })

/-- READY (04 R66 state 6): READY rises and the gate opens; no bulkhead becomes ready whose management element the security
block has not released (24 R377). -/
def execReady (bh : Nat) (s : State) : Out :=
  if (s.bh bh).state != 5 || !(s.bh bh).applied || !bit s.mgmt.toNat (bh / 4) then .next s
  else .next (s.resetState bh 6)

/-! ## Pools (04 R50-R54) -/

/-- The members of a pool, in ascending order; those that take part in a tick. -/
def poolMembers (s : State) (p : Nat) : List Nat :=
  (List.range 16).filter fun b => (s.bh b).mode == 2 && (s.bh b).pool == p
def participants (s : State) (p : Nat) : List Nat := (poolMembers s p).filter fun b => (s.bh b).joined
def readyMembers (s : State) (p : Nat) : List Nat := (poolMembers s p).filter fun b => (s.bh b).state == 6

/-- Length of a tick in cycles (04 R50). -/
def SharedPool.tickCycles (x : SharedPool) : Nat := min 100000 (max 100 x.tick) * cyclesPerUs

/-- The entry j of a rotation: valid, function, slice (04 R51). -/
def rotEntry (rot : Tab Word) (j : Nat) : Bool × Nat × Nat :=
  let w := (tget rot j 0).toNat
  (bit w 15, bits w 0 7, max 1 (bits w 8 7))

/-- An entry may become current (04 R52, 19 R342): its function has a command ready for the pool or a saved context in it, and
none in quarantine. -/
def qualifies (s : State) (p : Nat) (rot : Tab Word) (j : Nat) : Bool :=
  let (v, fn, _) := rotEntry rot j
  let mine := s.contexts.filter fun c : Context => c.fn == fn && (poolMembers s p).contains c.bulkhead
  v && (hasReady s p rot fn || !mine.isEmpty) && !mine.any Context.quarantined

/-- The first entry of a rotation that qualifies, from entry `start` on, of `n`. -/
def nextEntry (s : State) (p : Nat) (rot : Tab Word) (start n : Nat) : Option Nat :=
  ((List.range n).map fun i => (start + i) % 16).find? (qualifies s p rot)

/-- A bulkhead for an incoming function: nothing of the outgoing one is left (19 R339). Counters stay (09 R191); the outgoing
function's windows close as at a reset (04 R63; log 133). -/
def State.blank (s : State) (bh : Nat) : State :=
  let s := ((s.resetWindows bh).clearLoad bh).mapTiles bh fun _ t => { tlb := t.tlb, banks := t.banks }
  let s := (List.range 8).foldl (fun s n => s.modSlice (8 * bh + n) fun x =>
    { x with sems := [], waiters := [], log := [], logCount := 0 }) s
  (s.setHub bh {}).modBh bh fun b =>
    { b with faults := [], fltlog := [], fltcnt := 0, cecnt := 0, uecnt := 0, parcnt := 0, sink := [], sinkcnt := 0,
             dbg := {}, units := [], ldstat := 0, ret := false, retKilled := false, retCode := 0, loading := [] }

/-- An entry becomes current, or the change to it begins: every ready member takes part, and the rotation as written comes into
force (04 R52). -/
def State.beginSwitch (s : State) (p j : Nat) (first : Bool) : State :=
  let (_, fn, slice) := rotEntry (s.pool p).rot j
  let w : Switch := { entry := j, fn := fn, slice := slice, since := s.cycle }
  let s := (poolMembers s p).foldl (fun s b => s.modBh b fun x =>
    if x.state == 6 then { x with saved := first || !x.joined, restored := false, saveFault := 0, units := [], joined := true }
    else { x with joined := false }) s
  s.modPool p fun x =>
    let x := { x with inForce := x.rot }
    if first then { x with switching := some w, current := some j, fn := fn, left := slice } else { x with switching := some w }

/-- Members that came out of reset join a pool that has a current entry; in a change of function they have nothing to save, and
are loaded for the incoming function (04 R53, R54). -/
def State.joinReady (s : State) (p : Nat) : State :=
  (readyMembers s p).foldl (fun s b =>
    if (s.bh b).joined then s
    else (s.blank b).modBh b fun x => { x with joined := true, saved := true, restored := false, saveFault := 0 }) s

/-- POOL_ENABLE (04 R50, R53): a write of POOLCFG. A tick that is due keeps its time; a new length counts from it (log 122). -/
def execPoolEnable (pool : Nat) (value : Word) (s : State) : Out :=
  if 8 ≤ pool then .next s
  else
    let x := s.pool pool
    let v := value.toNat
    let y := { x with en := bit v 31, ovn := bits v 27 4, tick := bits v 0 17 }
    let rises := y.en && !x.en
    let s := s.setPool pool (if rises then { y with nextTick := s.cycle + y.tickCycles } else y)
    if rises && x.current.isNone then
      match nextEntry s pool x.rot 0 16 with
      | none => .next s
      | some j => .next (s.beginSwitch pool j true)
    else .next s

/-- The end of a slice (04 R52): the next entry that qualifies of the rotation as written, where it changes the function; else the
rotation in force goes on, at an entry of the same function or with a fresh slice (log 122). -/
def State.endSlice (s : State) (pool c : Nat) : State :=
  let x := s.pool pool
  match (nextEntry s pool x.rot (c + 1) 15).filter fun j => (rotEntry x.rot j).2.1 != x.fn with
  | some j => s.beginSwitch pool j false
  | none =>
    let same := (nextEntry s pool x.rotation (c + 1) 15).filter fun j => (rotEntry x.rotation j).2.1 == x.fn
    let j := same.getD c
    (s.modPool pool fun x => { x with current := some j, left := (rotEntry x.rotation j).2.2 }).joinReady pool

/-- GANG_SWITCH_TICK (04 R52-R54). A tick while a change of function is in progress changes no slice; members that are ready
again join. -/
def execGangSwitchTick (pool : Nat) (s : State) : Out :=
  let x := s.pool pool
  if !x.en || decide (s.cycle < x.nextTick) then .next s
  else
    let s := s.setPool pool { x with nextTick := x.nextTick + x.tickCycles, ticks := x.ticks + 1 }
    if x.switching.isSome then .next (s.joinReady pool)
    else match x.current with
      | none =>
        match nextEntry s pool x.rot 0 16 with
        | none => .next s
        | some j => .next (s.beginSwitch pool j true)
      | some c =>
        if 1 < x.left then .next ((s.modPool pool fun x => { x with left := x.left - 1 }).joinReady pool)
        else .next (s.endSlice pool c)

/-- The change of function of the pool that a bulkhead takes part in. -/
def switchOf (s : State) (bh : Nat) : Option Switch :=
  let b := s.bh bh
  if b.mode == 2 && b.joined then (s.pool b.pool).switching else none

/-- END_OF_SLICE_SWEEP (19 R338): the sweep starts on a member, in a hub cycle before a decision or a register write (17 R305). -/
def execEndOfSliceSweep (bh : Nat) (s : State) : Out :=
  match switchOf s bh with
  | none => .next s
  | some _ =>
    if (s.bh bh).saved || (s.bh bh).sweep.isSome || gated s bh || !hubMay s bh 4 then .next s
    else .next (s.beginSweep bh .endOfSlice)

/-! ## The save image (19 R340, R341) -/

/-- The units that are saved (19 R339), by number: the tiles of the loom by 8 * column + row, the evaluator tiles, the islands, the
hub, the semaphores. -/
def saveUnits : Nat := 101
def unitIslands : Nat := 98
def unitHub : Nat := 99
def unitSems : Nat := 100

/-- The memory tile that a unit is, by its number in the bulkhead. -/
def unitTile (n : Nat) : Option Nat := if n < 96 && n / 8 % 3 == 2 then some (n / 8 / 3 * 8 + n % 8) else none

/-- Where a unit stands in an image (19 R340): offset and size. -/
def unitPlace (n : Nat) : Nat × Nat :=
  if n == unitHub then (0x1000, 0x10000)
  else if n == unitSems then (0x11000, 0x1000)
  else if n == unitIslands then (0x12000, 0x8000)
  else if 96 ≤ n then (0x21A000 + (n - 96) * 0x10000, 0x10000)
  else match unitTile n with
    | some t => (0x23A000 + 0x64000 * t, 0x64000)
    | none => (0x1A000 + (n / 8 / 3 * 2 + n / 8 % 3) * 0x40000 + n % 8 * 0x8000, 0x8000)

/-- The column of the sweep that a unit is drained with; islands, hub and semaphores follow the edges (19 R338). -/
def unitColumn (n : Nat) : Nat := if n < 98 then n / 8 else 12

/-- An 8-byte token entry. -/
def Token.entry (t : Token) : List Byte :=
  bytesOf (t.data.toNat + t.tag.toNat * 2 ^ 32 + t.skip.toNat * 2 ^ 36 + b2n t.sparse * 2 ^ 44 + 2 ^ 63) 8

/-- A list of entries in a fixed number of places, the free ones 0. -/
def places (n size : Nat) (l : List (List Byte)) : List Byte :=
  (List.range n).flatMap fun k => l.getD k (List.replicate size 0)

/-- The token an output entry holds, if it is filled. -/
def OutEntry.entry : OutEntry → List Byte
  | .token t => t.entry
  | .command t _ => t.entry
  | .reserved .. => List.replicate 8 0

/-- The code of a rounding mode (02 R20). -/
def RMode.code : RMode → Nat
  | .rne => 0
  | .rtz => 1
  | .rdn => 2
  | .rup => 3
  | .sr => 4

/-- The block of an element, 2 KiB (19 R341). -/
def Elem.block (e : Elem) (addr : Nat) : List Byte :=
  let r := e.record
  let p := (e.pages.getD 0 none).getD {}
  let preds := e.preds.zipIdx.foldl (fun n x => n + b2n x.1 * 2 ^ x.2) 0
  let cfg := r.policy % 4 + r.retryLimit % 16 * 4 + r.mode.code * 2 ^ 6 + b2n r.fp16 * 2 ^ 9 + preds * 2 ^ 10
  let words (l : List Word) (n : Nat) : List Byte := places n 4 (l.map fun w => bytesOf w.toNat 4)
  let ptrs := (List.range 4).foldl (fun n k => n + e.ptr.getD k 0 % 8 * 2 ^ (3 * k)) 0
  bytesOf addr 4 ++ bytesOf cfg 4 ++ bytesOf p.kinds.toNat 8 ++ bytesOf e.lf.toNat 4 ++ bytesOf p.hmap.toNat 2 ++ bytesOf 0 2
    ++ words e.consts 8 ++ words e.regs 16 ++ places 16 8 (p.heddles.map fun w => bytesOf w.toNat 8) ++ words p.slots 32
    ++ bytesOf 0 8 ++ bytesOf e.fl.toNat 4
    ++ bytesOf (e.tg.toNat + e.sk.toNat * 16 + ptrs * 2 ^ 12 + b2n e.fence.isSome * 2 ^ 24 + b2n e.halted * 2 ^ 25) 4
    ++ bytesOf e.flt.toNat 4 ++ bytesOf e.fltaddr.toNat 4
    ++ ((List.range 8).flatMap fun k => bytesOf (e.sparseCount.getD k 0) 1 ++ bytesOf (b2n (e.sparseExc.getD k false)) 1)
    ++ places 8 12 (e.inbox.map fun x => bytesOf x.bit 4 ++ bytesOf x.w0.toNat 4 ++ bytesOf x.w1.toNat 4)
    ++ ((List.range 8).flatMap fun k => places 16 8 ((e.inp.getD k []).map Token.entry))
    ++ ((List.range 8).flatMap fun k => places 4 8 ((e.out.getD k []).map OutEntry.entry))
    ++ places 2 12 (e.sendq.map fun x => bytesOf x.label 4 ++ bytesOf x.w0.toNat 4 ++ bytesOf x.w1.toNat 4)
    ++ List.replicate 232 0

/-- The bytes of a scratchpad. -/
def scratchBytes (m : Mem) : List Byte := (List.range 0x60000).map m.get

/-- Bytes in a field of n. -/
def fit (n : Nat) (l : List Byte) : List Byte := l.take n ++ List.replicate (n - l.length) 0

/-- What an image holds of an evaluator element beside its block: held pages and PGSTAT. -/
def Elem.held (e : Elem) : List (Option Page) × Nat × Nat × Nat := (e.pages, e.pgcause.toNat, e.pgslot.toNat, e.pgpage.toNat)

/-- What an image holds of a memory tile beside its scratchpad. -/
def Tile.rest (t : Tile) : Tile := { t with scratch := [], poison := [], softC := [], softU := [], tlb := [], banks := [] }

/-- The contents of a header after its magic (19 R340): bulkhead, function, load identity, tick; the retry counts of elements, tiles,
load and graph; a SAVED bit for each unit. -/
def Context.header (c : Context) : List Nat :=
  [c.bulkhead, c.fn, (c.body.load.map Load.ident).elim 0 BitVec.toNat, c.tick]
    ++ c.elems.map (fun p => p.2.retries) ++ c.tiles.map (fun p => p.2.retries) ++ c.body.levels.map (fun p => p.2.retries)
    ++ c.counts ++ (List.range saveUnits).map fun n => b2n (c.body.units.contains n)

/-- The numbers of the areas whose layout is open. -/
def areaHeader : Nat := 0
def areaHub : Nat := 1
def areaSems : Nat := 2
def areaIslands : Nat := 3
def areaEvaluator : Nat := 4
def areaTile : Nat := 5

/-- Where an element and the tiles stand in a context. -/
def Context.elem (c : Context) (addr : Nat) : Elem := (tget? c.elems (elemKey c.bulkhead addr)).getD {}
def Context.tile (c : Context) (n : Nat) : Tile := tget c.tiles (64 * c.bulkhead + n) {}

/-- The 16 MiB image of a context (19 R340). -/
def Context.image (c : Context) : List Byte :=
  let loom := (List.range 12).flatMap fun col => if col % 3 == 2 then [] else
    (List.range 128).flatMap fun n => (c.elem (col * 2048 + n * 16)).block (col * 2048 + n * 16)
  let ev := (List.range 32).flatMap fun n =>
    let a := 0x8000 + n / 16 * 2048 + n % 16 * 16
    (c.elem a).block a ++ fit 2048 (Config.areaBytes areaEvaluator (c.elem a).held)
  let tiles := (List.range 32).flatMap fun n =>
    scratchBytes (c.tile n).scratch ++ fit 16384 (Config.areaBytes areaTile (c.tile n).rest)
  bytesOf 0x58565753 4 ++ fit 0xFFC (Config.areaBytes areaHeader c.header) ++ fit 0x10000 (Config.areaBytes areaHub c.hub)
    ++ fit 0x1000 (Config.areaBytes areaSems (c.sems, c.waiters)) ++ fit 0x8000 (Config.areaBytes areaIslands (c.islands, c.streamers))
    ++ loom ++ ev ++ tiles ++ List.replicate 0x146000 0

/-- The offsets of the granules of an image that carry the marks of poisoned scratchpad granules (19 R330). -/
def Context.marks (c : Context) : List Nat :=
  (List.range 32).flatMap fun n => (c.tile n).poison.map fun g => 0x23A000 + 0x64000 * n + 64 * g

/-- The token of an entry, if it is valid. -/
def tokenOf (w : Nat) : Option Token :=
  if bit w 63 then
    some { data := .ofNat 32 w, tag := .ofNat 4 (bits w 32 4), skip := .ofNat 8 (bits w 36 8), sparse := bit w 44 }
  else none

/-- An output entry with the token of its place: an entry whose place is valid takes it, a reserved entry not yet filled
stays. -/
def OutEntry.restored (x : Option OutEntry) (t : Option Token) : Option OutEntry :=
  match x, t with
  | some (.command _ id), some t => some (.command t id)
  | some (.reserved id d c), none => some (.reserved id d c)
  | _, some t => some (.token t)
  | _, none => none

/-- The element of a context with what its block holds (19 R341, read back as `Elem.block` writes it). -/
def Elem.ofBlock (e : Elem) (b : List Byte) : Elem :=
  let r := (parseElem (b.take 384)).record
  let word (o : Nat) : Word := .ofNat 32 (fieldAt b o 4)
  let st := fieldAt b 0x184 4
  let out (k : Nat) : List OutEntry :=
    ((wordsAt b (0x600 + 32 * k) 8 4).zipIdx).filterMap fun x => OutEntry.restored ((e.out.getD k [])[x.2]?) (tokenOf x.1)
  { e with
    record := { e.record with policy := r.policy, retryLimit := r.retryLimit, mode := r.mode, fp16 := r.fp16 }
    regs := r.regs, consts := r.consts, preds := (List.range 8).map fun n => bit r.preds.toNat n, lf := r.seed,
    pages := (e.pages.zipIdx).map fun p => if p.2 == 0 then p.1.map (fun _ => r.page) else p.1,
    fl := .ofNat _ (fieldAt b 0x180 4), tg := .ofNat 4 st, sk := .ofNat 8 (bits st 4 8),
    ptr := (List.range 4).map fun k => bits st (12 + 3 * k) 3, fence := if bit st 24 then e.fence else none,
    halted := bit st 25, flt := word 0x188, fltaddr := word 0x18C,
    sparseCount := (List.range 8).map fun k => fieldAt b (0x190 + 2 * k) 1,
    sparseExc := (List.range 8).map fun k => bit (fieldAt b (0x191 + 2 * k) 1) 0,
    inbox := (e.inbox.zipIdx).map fun x =>
      { x.1 with bit := fieldAt b (0x1A0 + 12 * x.2) 4 % 8, w0 := word (0x1A4 + 12 * x.2), w1 := word (0x1A8 + 12 * x.2) }
    inp := (List.range 8).map fun k => (wordsAt b (0x200 + 128 * k) 8 16).filterMap tokenOf
    out := (List.range 8).map out
    sendq := (e.sendq.zipIdx).map fun x =>
      { x.1 with label := fieldAt b (0x700 + 12 * x.2) 4 % 128, w0 := word (0x704 + 12 * x.2), w1 := word (0x708 + 12 * x.2) } }

/-- The memory of a scratchpad that holds bytes from an address. -/
def Mem.ofBytes (a : Nat) : List Byte → Mem
  | [] => []
  | b :: l => if b = 0 then Mem.ofBytes (a + 1) l else (a, b) :: Mem.ofBytes (a + 1) l

/-- Where the block of an element stands in an image. -/
def blockOffset (addr : Nat) : Nat :=
  let col := addr / 2048
  if 16 ≤ col then 0x21A000 + ((col - 16) * 16 + addr % 2048 / 16) * 4096
  else 0x1A000 + ((col / 3 * 2 + col % 3) * 128 + addr % 2048 / 16) * 2048

/-- The contents of an area of n bytes that has been read back: those saved, where its bytes are as they were written. -/
def areaBack {α : Type} [Inhabited α] (area : Nat) (l : List Byte) (off n : Nat) (x : α) : α :=
  let b := (l.drop off).take n
  if b == fit n (Config.areaBytes area x) then x else Config.areaContents area b

/-- An element of a context with what an image holds of it. -/
def Elem.ofImage (e : Elem) (l : List Byte) (addr : Nat) : Elem :=
  let o := blockOffset addr
  let e := e.ofBlock ((l.drop o).take 2048)
  if addr < 0x8000 then e
  else
    let h := areaBack areaEvaluator l (o + 2048) 2048 e.held
    { e with pages := e.pages.take 1 ++ h.1.drop 1, pgcause := .ofNat 4 h.2.1, pgslot := .ofNat 5 h.2.2.1, pgpage := .ofNat 2 h.2.2.2 }

/-- A context with what its image holds (19 R339, R340). -/
def Context.ofImage (c : Context) (l : List Byte) : Context :=
  let sems := areaBack areaSems l 0x11000 0x1000 (c.sems, c.waiters)
  let isles := areaBack areaIslands l 0x12000 0x8000 (c.islands, c.streamers)
  { c with
    hub := areaBack areaHub l 0x1000 0x10000 c.hub, sems := sems.1, waiters := sems.2, islands := isles.1, streamers := isles.2
    elems := c.elems.map fun p => (p.1, p.2.ofImage l (p.1 % 65536))
    tiles := (List.range 32).foldl (fun ts n =>
      let o := 0x23A000 + 0x64000 * n
      tset ts (64 * c.bulkhead + n)
        { areaBack areaTile l (o + 0x60000) 0x4000 (c.tile n).rest with scratch := Mem.ofBytes 0 ((l.drop o).take 0x60000) }) c.tiles }

/-- Where the image of a member lies in its function's save area. -/
def saveAddress (s : State) (fn bh : Nat) : Nat :=
  let i := ((poolMembers s (s.bh bh).pool).filter fun b => decide (b < bh)).length
  va57 ((s.fn fn).saveBase + i * 0x1000000)

/-! ## Saving and restoring (19 R339, R342, R343, 12 R237) -/

/-- An island at the end of a slice (12 R237). -/
def Island.sliceEnd (x : Island) : Island :=
  { x with queue := [], discarded := min 255 (x.discarded + x.queue.length), acc := [], qa := [], restart := x.configured }

/-- The retry counts of the load of a bulkhead and of the graph that it is a node of (19 R324, R340). -/
def retriesOf (s : State) (bh : Nat) : List Nat :=
  (((s.bh bh).load.bind fun l => (s.queue l.queue).graph).elim [0, 0] fun g => [g.loadRetries, g.retries])

/-- The context of a bulkhead as it stands. -/
def State.context (s : State) (bh : Nat) : Context :=
  let slices := s.slices.filter fun p => p.1 / 8 == bh
  { fn := (holder s bh).getD 0, bulkhead := bh, quarantined := false, tick := (s.pool (s.bh bh).pool).ticks, body := s.bh bh,
    elems := s.elems.filter fun p => bhOf p.1 == bh
    tiles := s.tiles.filter fun p => p.1 / 64 == bh
    counts := retriesOf s bh
    islands := s.islands.filter fun p => p.1 / 4 == bh
    streamers := s.streamers.filter fun p => p.1 / 2 == bh
    hub := s.hub bh
    sems := slices.map fun p => (p.1, p.2.sems)
    waiters := slices.map fun p => (p.1, p.2.waiters)
    logs := slices.map fun p => (p.1, (p.2.log, p.2.logCount)) }

/-- A context at the end of a slice. -/
def Context.sliceEnd (c : Context) : Context := { c with islands := c.islands.map fun p => (p.1, p.2.sliceEnd) }

/-- The soft errors of a scratchpad that a save reads are met (19 R330). -/
def State.meetTile (s : State) (k : Nat) : State := s.meetScratch k ((s.tile k).softC ++ (s.tile k).softU)
def State.meetSave (s : State) (bh : Nat) : State := (List.range 32).foldl (fun s n => s.meetTile (64 * bh + n)) s

/-- The save of a member is complete: its context is kept, and the member is blank. -/
def State.finishSave (s : State) (bh : Nat) (quarantined : Bool) : State :=
  let s := (List.range 4).foldl (fun s n => (s.island (4 * bh + n)).queue.foldl (fun s c => s.dropToken c) s) s
  let c := { (s.context bh).sliceEnd with quarantined := quarantined }
  let s := { s with contexts := (s.contexts.filter fun d : Context => d.fn != c.fn || d.bulkhead != bh) ++ [c] }
  (s.blank bh).modBh bh fun b => { b with saved := true, saveFault := 0 }

/-- The end-of-slice sweep has passed a column of a member whose save has not ended. -/
def passedColumn (s : State) (bh column : Nat) : Bool :=
  (switchOf s bh).isSome && !(s.bh bh).saved && !gated s bh && match (s.bh bh).sweep with
    | none => false
    | some w => w.kind == .endOfSlice && decide (column < w.column)

/-- The end-of-slice sweep has passed a member and its save has not ended. -/
def saving (s : State) (bh : Nat) : Bool := passedColumn s bh 12

/-- The next unit that is drained and not SAVED. -/
def nextUnit (s : State) (bh : Nat) : Option Nat :=
  (List.range saveUnits).find? fun n => passedColumn s bh (unitColumn n) && !(s.bh bh).units.contains n

/-- Why a save goes to quarantine (19 R342): stage 1, stage 2, or SAVEAREA invalid. -/
def saveCause (code : Nat) : Nat := if code == 0x40 || code == 0x42 then 1 else 2

/-- A part of the image of a member is written through both stages: where all of it is complete, `done` follows, and a fault leaves
the member to SAVE_QUARANTINE (19 R342). -/
def State.savePart (s : State) (bh fn off size : Nat) (done : Context → State → State) : State :=
  let fault (s : State) (c : Nat) : State := s.modBh bh fun b => { b with saveFault := c }
  if !(s.fn fn).saveV then fault s 3
  else
    let c := (s.context bh).sliceEnd
    match s.writeBytes bh fn (s.fn fn).savePasid (saveAddress s fn bh + off) ((c.image.drop off).take size) with
    | (s, 0) => done c s
    | (s, e) => fault s (saveCause e)

/-- A unit is saved and marked SAVED (19 R339); of a memory tile, the context engine takes every bank first (09 R181). -/
def State.saveUnit (s : State) (bh n : Nat) : State :=
  let fn := (holder s bh).getD 0
  let mark (_ : Context) (s : State) : State := s.modBh bh fun b => { b with units := b.units ++ [n] }
  match unitTile n with
  | none => s.savePart bh fn (unitPlace n).1 (unitPlace n).2 mark
  | some t =>
    let k := 64 * bh + t
    if (List.range 48).all fun j => bankFree s k (64 * j) then
      ((s.takeBanks k).meetTile k).savePart bh fn (unitPlace n).1 (unitPlace n).2 mark
    else s

/-- CONTEXT_SAVE (19 R338-R340, R342): the next drained unit is saved; after the last one the image is written with its header, and
with what has reached units that the sweep had passed. -/
def execContextSave (bh : Nat) (s : State) : Out :=
  if (s.bh bh).saveFault != 0 then .next s
  else match nextUnit s bh with
    | some n => .next (s.saveUnit bh n)
    | none =>
      if !saving s bh then .next s
      else
        let fn := (holder s bh).getD 0
        .next ((s.meetSave bh).savePart bh fn 0 0x1000000 fun c s =>
          (s.markGranules bh fn (s.fn fn).savePasid (saveAddress s fn bh) c.marks).finishSave bh false)

/-- The contexts of a member's queues are killed instead of saved. -/
def State.killMember (s : State) (bh code : Nat) : State :=
  match (s.bh bh).load with
  | none => (s.blank bh).modBh bh fun b => { b with saved := true, saveFault := 0 }
  | some l => s.startKill l.queue code

/-- Granules at physical addresses take marks. -/
def State.markPhys (s : State) (l : List Nat) : State :=
  l.foldl (fun s pa => match homeOf s pa with
    | none => s
    | some h => s.markHome h) s

/-- SAVE_QUARANTINE (19 R342). -/
def execSaveQuarantine (bh : Nat) (s : State) : Out :=
  let b := s.bh bh
  if !saving s bh || b.saveFault == 0 then .next s
  else if !b.qbufV || b.qfull then .next (s.killMember bh 0x55)
  else
    let fn := (holder s bh).getD 0
    let s := s.meetSave bh
    let c := (s.context bh).sliceEnd
    match s.writePhys b.qbufBase c.image with
    | (s', false) => .next (s'.killMember bh 0x55)
    | (s', true) =>
      let s := s'.markPhys (c.marks.map (b.qbufBase + ·))
      let s := s.modBh bh fun x => { x with qfull := true, qcause := b.saveFault, qtag := fn }
      .next ((s.raiseMsi 0 2).finishSave bh true)

/-- SAVE_DEADLINE (19 R343): at T + 2·DL the queues of the dies that have not saved are killed with SAVE_OVERRUN. -/
def execSaveDeadline (pool : Nat) (s : State) : Out :=
  let x := s.pool pool
  match x.switching with
  | none => .next s
  | some w =>
    if s.cycle < w.since + 2 * max 1 x.dl * cyclesPerUs then .next s
    else
      let ms := participants s pool
      let late := ms.filter fun b => ms.any fun c => c / 4 == b / 4 && !(s.bh c).saved
      let qs := late.flatMap fun b =>
        (if (s.bh b).saved then [] else ((s.bh b).load.map Load.queue).toList)
          ++ (s.contexts.filter fun c : Context => c.bulkhead == b && c.fn == x.fn).filterMap fun c => c.body.load.map Load.queue
      let s := qs.eraseDups.foldl (fun s q => s.startKill q 0x54) s
      .next (late.foldl (fun s b =>
        let s := s.modBh b fun x => { x with late := true }
        if (s.bh b).saved || s.sweepKind b == some .kill then s else s.beginSweep b .kill) s)

/-- An element that goes on after restoration: a beat whose semw was withdrawn fires again, the first beat of an issue by its
heddle (15 R287). -/
def Elem.resumed (e : Elem) : Elem :=
  let again (x : Issue) : Option Issue := if x.withdrawn && x.beat == 0 then none else some { x with withdrawn := false }
  let e := { e with swept := false, issue := e.issue.bind again, again := e.again.filterMap again }
  if e.issue.isNone then e.nextIssue else e

/-- A context comes back to its member (19 R339, 12 R238, 17 R306). -/
def State.restoreContext (s : State) (c : Context) : State :=
  let bh := c.bulkhead
  let s := { s with contexts := s.contexts.filter fun d : Context => d.fn != c.fn || d.bulkhead != bh }
  let s := c.elems.foldl (fun s p => s.setElem p.1 p.2.resumed) s
  let s := c.tiles.foldl (fun s p =>
    s.modTile p.1 fun t => { p.2 with tlb := t.tlb, banks := t.banks, poison := [], softC := [], softU := [], drained := false }) s
  let s := c.islands.foldl (fun s p => s.setIsland p.1 p.2) s
  let s := c.streamers.foldl (fun s p => s.modStreamer p.1 fun x => { p.2 with tlb := x.tlb }) s
  let s := c.sems.foldl (fun s p => s.modSlice p.1 fun x => { x with sems := p.2 }) s
  let s := c.waiters.foldl (fun s p => s.modSlice p.1 fun x => { x with waiters := p.2 }) s
  let s := c.logs.foldl (fun s p => s.modSlice p.1 fun x => { x with log := p.2.1, logCount := p.2.2 }) s
  let o := c.body
  (s.setHub bh c.hub).modBh bh fun b =>
    { b with load := o.load, links := o.links, routes := o.routes, levels := o.levels, shuttles := o.shuttles,
             replies := o.replies, fencehs := o.fencehs, ret := o.ret, retKilled := o.retKilled, retCode := o.retCode,
             retiring := o.retiring, ldstat := o.ldstat, faults := o.faults, fltlog := o.fltlog, fltcnt := o.fltcnt,
             cecnt := o.cecnt, uecnt := o.uecnt, parcnt := o.parcnt, sink := o.sink, sinkcnt := o.sinkcnt,
             dbg := o.dbg, loading := o.loading }

/-- A context that cannot be read kills its queue with RESTORE_FAULT (19 R331, R342). -/
def State.refuseContext (s : State) (c : Context) : State :=
  match c.body.load with
  | some l => s.startKill l.queue 0x56
  | none => { s with contexts := s.contexts.filter fun d : Context => d.fn != c.fn || d.bulkhead != c.bulkhead }

/-- CONTEXT_RESTORE (19 R339, R342, R343): a member is loaded for the incoming function, from its saved image or blank, as one of a
late die is; a fault or poison in reading the image kills the context's queue with RESTORE_FAULT. -/
def execContextRestore (bh : Nat) (s : State) : Out :=
  match switchOf s bh with
  | none => .next s
  | some w =>
    if !(s.bh bh).saved || (s.bh bh).restored || gated s bh then .next s
    else
      let late := (s.bh bh).late
      let s := s.blank bh
      let done (s : State) : State := s.modBh bh fun b => { b with restored := true, parked := true }
      match s.contexts.find? fun c : Context => c.fn == w.fn && c.bulkhead == bh && !c.quarantined && !late with
      | none => .next (done s)
      | some c =>
        match s.readBytes bh w.fn (s.fn w.fn).savePasid (saveAddress s w.fn bh) .read 0x1000000 with
        | (s, .ok b) => .next (done (if b.poison then s.refuseContext c else s.restoreContext (c.ofImage b.bytes)))
        | (s, .error _) => .next (done (s.refuseContext c))

/-- GANG_START (19 R343, 04 R54, R59): every member has been loaded and no packet of the outgoing function is left. -/
def execGangStart (pool : Nat) (s : State) : Out :=
  let x := s.pool pool
  match x.switching with
  | none => .next s
  | some w =>
    let ms := participants s pool
    if ms.all (fun b => (s.bh b).restored) && s.packets.all (fun p => p.vc != x.ovn || p.fn != x.fn || x.fn == w.fn) then
      let s := ms.foldl (fun s b => s.modBh b fun y => { y with saved := false, restored := false, parked := false, late := false }) s
      .next (s.setPool pool { x with switching := none, current := some w.entry, fn := w.fn, left := w.slice })
    else .next s

/-- The n granules of a buffer are copied into a process of a function with their marks (19 R330), through the homes of both; up to
the code of the first fault, 0 where there is none. -/
def State.copyGranules (s : State) (bh fn pasid : Nat) : Nat → Nat → Nat → State × Nat
  | 0, _, _ => (s, 0)
  | n + 1, pa, va =>
    match homeOf s pa with
    | none => (s, 0x43)
    | some h =>
      if gated s h.bh then (s, 0x0C)
      else if !cxlUp s h then (s, 0x0F)
      else
        let r := (s.countIssue (sliceEngine h.key)).homeRead h 64 0 15
        match r.s.resolve .none bh fn pasid va .write with
        | (s, .status c) => (s, c)
        | (s, .home d via) => if via.isSome && r.poison then (s, 0x04) else ((s.countIssue (sliceEngine d.key)).homeWrite d r.value 64 0 15 r.poison).copyGranules bh fn pasid n (pa + 64) (va + 64)

/-- RESTORE_QUARANTINE (19 R342): the buffer is copied into the save area through both stages. -/
def execRestoreQuarantine (bh : Nat) (s : State) : Out :=
  let b := s.bh bh
  match s.contexts.find? fun c : Context => c.bulkhead == bh && c.quarantined with
  | none => .next s
  | some c =>
    if !b.qfull then .next s
    else
      let f := s.fn c.fn
      match (if f.saveV then s.copyGranules bh c.fn f.savePasid 0x40000 b.qbufBase (saveAddress s c.fn bh) else (s, 0x40)) with
      | (s, 0) =>
        let s := { s with contexts := s.contexts.map fun d : Context =>
            if d.fn == c.fn && d.bulkhead == bh then { d with quarantined := false } else d }
        .next (s.modBh bh fun x => { x with qfull := false, qerr := false })
      | (s, _) => .next (s.modBh bh fun x => { x with qerr := true })

/-- DISCARD (19 R342): the queues of the held context are killed with QUEUE_DISABLED. -/
def execDiscard (bh : Nat) (s : State) : Out :=
  match s.contexts.find? fun c : Context => c.bulkhead == bh && c.quarantined with
  | none => .next s
  | some c =>
    match c.body.load with
    | some l => .next (s.startKill l.queue 0x07)
    | none =>
      let s := { s with contexts := s.contexts.filter fun d : Context => d.fn != c.fn || d.bulkhead != bh }
      .next (s.modBh bh fun x => { x with qfull := false })

/-! ## Owned virtual networks (04 R55, R56) -/

/-- Slots of a router that owned networks may reserve (04 R55). -/
def ownedSlots : Nat := 1024 - 128

/-- Slots that the other networks with members have reserved on the router of the host port, which every route of a network with
members meets (04 R55). -/
def slotsTaken (s : State) (ovn : Nat) : Nat :=
  s.ovns.foldl (fun n p => if p.2.on && p.1 != ovn && p.2.members != 0 then n + p.2.slots else n) 0

/-- OVN_ENABLE (04 R55, R56): a write of OVNCFG. A network without members has no route to reserve slots on. -/
def execOvnEnable (ovn : Nat) (value : Word) (s : State) : Out :=
  if 16 ≤ ovn then .next s
  else
    let x := s.ovnOf ovn
    let v := value.toNat
    let y := if x.on then { x with en := bit v 31 }
      else { x with en := bit v 31, slots := bits v 16 10, members := BitVec.ofNat 16 v }
    if x.on || !y.en then .next (s.setOvn ovn y)
    else if y.slots < 8 || 256 < y.slots then .next (s.setOvn ovn { y with noslot := true })
    else
      let ok := y.members == 0 || decide (slotsTaken s ovn + y.slots ≤ ownedSlots)
      .next (s.setOvn ovn { y with on := ok, noslot := !ok })

/-- OVN_RELEASE (04 R56). -/
def execOvnRelease (ovn : Nat) (s : State) : Out :=
  let x := s.ovnOf ovn
  if x.on && !x.en && s.packets.all fun p => p.vc != ovn then .next (s.setOvn ovn { x with on := false }) else .next s

/-! ## Partition keys (04 R58-R60) -/

/-- A packet of another device that carries an atomic (15 R280); its network here is the system pair, 16, which a drop record shows
(log 91, DESIGN CHOICE). -/
def peerPacket (p : PeerAtomic) : Packet :=
  { key := p.key, vc := 16, target := p.bh.val, port := 0, fn := 0,
    atomic := some
      { word := p.word, cls := p.cls.val, reads := p.reads.val, peer := some p.device.val, va := p.va.toNat, op := p.op.val,
        size := if p.wide then 8 else 4, v := p.v.toNat, c := p.c.toNat, key := p.key, srcFn := 0, ticket := p.ticket.toNat,
        elem := p.elem.toNat } }

/-- A packet that has left the spine as `out` is accepted at the gate of its bulkhead, or answered GATED or KEY_DROP (04 R58); a
full atomic command queue holds it back, and nothing happens (15 R280). -/
def State.packetArrives (s out : State) (p : Packet) : State :=
  let answer (s : State) (c : Nat) : State := p.atomic.elim s fun a => s.answerAtomic a c 0
  if gated s p.target then answer out 0x0C
  else if keyAccepted s p.target p.key then
    match p.atomic with
    | none => out
    | some a =>
      if 256 ≤ (s.bh p.target).atomics.length then s else out.modBh p.target fun b => { b with atomics := b.atomics ++ [a] }
  else
    let want := ((holder s p.target).map fun o => (s.fn o).fkey).getD 0
    answer (out.dropPacket (p.target / 4) p.key want p.vc) 0x0D

/-- SPINE_PACKET_ARRIVAL (04 R58, 15 R280): a packet of this device, or an atomic of another, reaches the gate of its bulkhead. -/
def execSpinePacketArrival (packet : Arrival) (s : State) : Out :=
  match packet with
  | .peer p => .next (s.packetArrives s (peerPacket p))
  | .inFlight n => match s.packets[n]? with
    | some p => .next (s.packetArrives { s with packets := removeAt s.packets n } p)
    | none => .next s

/-- DROPCNT_CLEAR (04 R60). -/
def execDropcntClear (die : Nat) (value : Word) (s : State) : Out :=
  if bit value.toNat 0 then .next { s with dropcnt := tset s.dropcnt die 0 } else .next s

/-! ## Windows (04 R62, R63) -/

def State.modWindow (s : State) (bh w : Nat) (f : Window → Window) : State :=
  s.modBh bh fun b => { b with windows := tset b.windows w (f (tget b.windows w {})) }

/-- A WEXP as written: a LOG2SIZE outside 16-36 is stored and used as it is (log 126, DESIGN CHOICE). -/
def writeExp (r : WindowReg) (v : Nat) : WindowReg :=
  { r with en := bit v 15, base := bits v 16 41 * 2 ^ 16, log2 := bits v 64 6, perms := bits v 12 3, peer := bits v 0 7 }

/-- A WIMP as written. -/
def writeImp (r : WindowReg) (v : Nat) : WindowReg :=
  { r with en := bit v 15, base := bits v 16 41 * 2 ^ 16, peer := bits v 0 7, expBh := bits v 76 4, expWin := bits v 73 3 }

/-- The importing slots that name an exporting slot and are granted: bulkhead and slot. -/
def importersOf (s : State) (bh w : Nat) : List (Nat × Nat) :=
  (List.range 16).flatMap fun b => ((s.bh b).windows.filter fun p =>
    p.2.imp.en && !p.2.exp.en && p.2.imp.expBh == bh && p.2.imp.expWin == w).map fun p => (b, p.1)

/-- The conditions of a match (04 R63). -/
def windowMatch (s : State) (eb ew ib iw : Nat) : Bool :=
  let e := (s.window eb ew).exp
  let i := (s.window ib iw).imp
  holder s ib == some e.peer && holder s eb == some i.peer && i.base % 2 ^ e.log2 == 0

/-- The match of an offered pair is checked after a write; `last` says which register's EN the write set: 0 neither, 1 the
exporter's, 2 the importer's. -/
def State.checkPair (s : State) (eb ew ib iw last : Nat) : State :=
  let e := s.window eb ew
  let i := s.window ib iw
  if !e.exp.en || e.imp.en || e.exp.state != 1 || i.imp.state != 1 then s
  else if windowMatch s eb ew ib iw then
    (s.modWindow eb ew fun w => { w with exp := { w.exp with state := 2, mism := false } }).modWindow ib iw fun w =>
      { w with imp := { w.imp with state := 2, mism := false } }
  else if last == 1 then s.modWindow eb ew fun w => { w with exp := { w.exp with mism := true } }
  else if last == 2 then s.modWindow ib iw fun w => { w with imp := { w.imp with mism := true } }
  else s

/-- A register after a write of its slot: CLOSED where EN is set in both registers (04 R62); OPEN or CLOSING as it was; else OFFERED
where its EN is set, CLOSED where it is not. -/
def WindowReg.settle (r : WindowReg) (other : Bool) : WindowReg :=
  if r.en && other then { r with state := 0, mism := false }
  else if 2 ≤ r.state then r
  else if r.en then { r with state := 1 }
  else { r with state := 0, mism := false }

def Window.settle (w : Window) : Window :=
  { exp := w.exp.settle w.imp.en, imp := w.imp.settle w.exp.en, err := w.exp.en && w.imp.en }

/-- The peer of an OPEN or CLOSING register: exporter or importer, bulkhead and slot. -/
def windowPeer (s : State) (bh w : Nat) (importing : Bool) : Option (Nat × Nat) :=
  if importing then let i := (s.window bh w).imp; some (i.expBh, i.expWin)
  else (List.range 16).findSome? fun b => ((s.bh b).windows.find? fun p =>
    2 ≤ p.2.imp.state && p.2.imp.expBh == bh && p.2.imp.expWin == w).map fun p => (b, p.1)

/-- A register of a slot's peer closes, where it is OPEN. -/
def State.closePeer (s : State) (peer : Option (Nat × Nat)) (importing : Bool) : State :=
  let close (r : WindowReg) : WindowReg := if r.state == 2 then { r with state := 3 } else r
  match peer with
  | none => s
  | some (b, n) => s.modWindow b n fun w =>
    (if importing then { w with exp := close w.exp } else { w with imp := close w.imp } : Window)

/-- WINDOW_GRANT_WRITE (04 R62, R63). -/
def execWindowGrantWrite (fn bh win : Nat) (importing : Bool) (value : BitVec 128) (s : State) : Out :=
  if !owns s fn bh || 8 ≤ win then .next s
  else
    let v := value.toNat
    let old := s.window bh win
    let oldReg := if importing then old.imp else old.exp
    let peer := windowPeer s bh win importing
    let put (st : Nat) (s : State) : State := s.modWindow bh win fun w =>
      (if importing then { w with imp := { writeImp w.imp v with state := st } }
       else { w with exp := { writeExp w.exp v with state := st } } : Window)
    if oldReg.state == 2 then .next (put 3 (s.closePeer peer importing))
    else if oldReg.state == 3 then .next (put 3 s)
    else
      let otherOpen := (if importing then old.exp else old.imp).state == 2 && bit v 15
      let s := if otherOpen then s.closePeer (windowPeer s bh win !importing) !importing else s
      let s := (put oldReg.state s).modWindow bh win Window.settle
      let w := s.window bh win
      let last := if bit v 15 && !oldReg.en then (if importing then 2 else 1) else 0
      if importing then
        let i := w.imp
        let s := if oldReg.en && !i.en then s.modWindow old.imp.expBh old.imp.expWin fun w => { w with exp := { w.exp with mism := false } }
          else s
        .next (s.checkPair i.expBh i.expWin bh win last)
      else
        let ps := importersOf s bh win
        let s := if oldReg.en && !w.exp.en then ps.foldl (fun s p => s.modWindow p.1 p.2 fun w => { w with imp := { w.imp with mism := false } }) s
          else s
        .next (ps.foldl (fun s p => s.checkPair bh win p.1 p.2 last) s)

/-- An access that was accepted through an exporting slot is not complete: it stands in a store buffer or an arrival queue. -/
def accessesLeft (s : State) (bh win : Nat) : Bool :=
  let via := some (8 * bh + win)
  (s.slices.any fun p => p.2.arrivals.any fun r => r.via == via) || s.tiles.any fun p => p.2.sbuf.any fun x => x.via == via

/-- WINDOW_CLOSE_COMPLETE (04 R63): the register keeps its EN; where that is 1 the slot offers itself again at the next write with
EN = 1 (log 92, DESIGN CHOICE). -/
def execWindowCloseComplete (bh win : Nat) (s : State) : Out :=
  let w := s.window bh win
  let closed (r : WindowReg) : WindowReg := if r.state == 3 then { r with state := 0 } else r
  let close (exp : Bool) (b n : Nat) (s : State) : State := s.modWindow b n fun w =>
    (if exp then { w with exp := closed w.exp } else { w with imp := closed w.imp } : Window)
  if w.imp.state == 3 then
    if accessesLeft s w.imp.expBh w.imp.expWin then .next s
    else .next (close false bh win (close true w.imp.expBh w.imp.expWin s))
  else if w.exp.state == 3 then
    match windowPeer s bh win false with
    | none => if accessesLeft s bh win then .next s else .next (close true bh win s)
    | some (b, n) => if accessesLeft s bh win then .next s else .next (close false b n (close true bh win s))
  else .next s

end Sys2Proof.Machine
end

