-- ==== Sys2Proof/Machine/Pick.lean ====
section
/-!
DEFINITION. The picker of an element (06 R89-R91), throttling (24 R373), and the stall cause a cycle counts (09 R190).
-/
namespace Sys2Proof.Machine
open Sys2Proof

/-- The instruction of a slot with its words, if it holds one (05 R70). -/
def Page.instrAt (p : Page) (n : Nat) : Option (Instr × Word × Word) :=
  if p.kind n != 1 then none
  else
    let lit := if n < 31 && p.kind (n + 1) == 2 then p.slot (n + 1) else 0
    match decodeWord (p.slot n) lit with
    | .ok i => some (i, p.slot n, lit)
    | .error _ => none

/-- The trigger set and the heddle of a slot word (05 R69). -/
def setOfWord (w : Word) : Nat := bits w.toNat 30 2
def heddleOf (p : Page) (w : Word) : DWord := p.heddle (bits w.toNat 26 4)

/-- A slot of the selected page is ready. -/
def readyAt (s : State) (key : Nat) (e : Elem) (n : Nat) : Bool :=
  match e.page.instrAt n with
  | none => false
  | some (i, w, _) =>
    match formOf i with
    | none => false
    | some f => slotReady s key n e (heddleOf e.page w) i f

/-- The lowest slot of a set that a test holds of, highest set first. -/
def firstSlot (p : Page) (ok : Nat → Bool) : Option Nat :=
  [3, 2, 1, 0].findSome? fun set => (List.range 32).find? fun n => p.kind n == 1 && setOfWord (p.slot n) == set && ok n

/-- The picker's choice (06 R91). -/
def pick (s : State) (key : Nat) (e : Elem) : Option Nat := firstSlot e.page (readyAt s key e)

/-! ## Throttling (24 R373) -/

/-- The cycle at which the last change of step takes effect: the next one with c mod 8 = 0, where c counts from the reset release;
a change before the release is in force at it. -/
def stepChange (b : Bulkhead) : Nat :=
  if b.stepSince < b.released then b.released else b.released + ((b.stepSince - b.released) / 8 + 1) * 8

/-- The throttle step in force. -/
def stepInForce (s : State) (b : Bulkhead) : Nat := if stepChange b ≤ s.cycle then b.nextStep else b.step

/-- The current cycle of a bulkhead is removed. -/
def throttled (s : State) (bh : Nat) : Bool :=
  let b := s.bh bh
  decide ((s.cycle - b.released) % 8 < stepInForce s b)

/-! ## Fires (06 R91, R94) -/

/-- The next beat of an issue in progress may run: it waits for no reply and its queues and ports have room (06 R94). -/
def Issue.goesOn (x : Issue) (s : State) (key : Nat) (e : Elem) : Bool :=
  x.wait.isNone && !x.withdrawn && match x.instr with
    | none => false
    | some (i, f) => outputsReady e f && queuesReady e f && extraReady s key x.slot 1 e i

/-- The element fires or advances a beat in this cycle, as far as what it waits for goes: the slot and the beat. -/
def fires (s : State) (key : Nat) (e : Elem) : Option (Nat × Nat) :=
  if !elemRuns s key e || throttled s (bhOf key) then none
  else match e.issue with
    | some x => if x.goesOn s key e then some (x.slot, x.beat) else none
    | none => if sweepHolds s key then none else (pick s key e).map fun n => (n, 0)

/-! ## Stall causes (09 R190) -/

/-- The slot that the stall cause of an element is taken from. -/
def stallSlot (e : Elem) : Option Nat := firstSlot e.page fun n => heddleHolds e (heddleOf e.page (e.page.slot n))

/-- A reconfiguration or end-of-slice sweep is passing a bulkhead, or has passed and left it as it is. -/
def sweeps (s : State) (bh : Nat) (passed : Bool) : Bool :=
  match s.sweepKind bh with
  | some .kill => false
  | some _ => true
  | none => passed

/-- The request at the head of an element's issue queue is a portal's 33rd, which waits (15 R282). -/
def portalWaits (s : State) (key : Nat) (e : Elem) : Bool :=
  match e.issueq with
  | { kind := .amo _ _ _ _ path _ _, .. } :: _ => decide (2 ≤ path) && decide (32 ≤ (s.bh (bhOf key)).portal.length)
  | _ => false

/-- The first stall cause that holds of an element, throttling aside. -/
def elemCause (s : State) (key : Nat) (e : Elem) : Nat :=
  if (e.swept || sweepHolds s key) && sweeps s (bhOf key) e.swept then 0
  else if portalWaits s key e then 3
  else if e.halted then 9
  else match e.issue with
    | some x =>
      match x.wait.bind fun id => (e.pending? id).map Pending.kind with
      | some (.semw ..) => 6
      | some (.ask ..) => 7
      | some _ => 9
      | none => match x.instr with
        | none => 9
        | some (_, f) => if roomFor e f then 9 else 8
    | none =>
      match (stallSlot e).bind fun n => e.page.instrAt n with
      | none => 9
      | some (i, _, _) =>
        match formOf i with
        | none => 9
        | some f => if roomFor e f then 9 else 8

/-- The cause of a cycle in which engines of a bulkhead stall: a sweep's, then a removed cycle, then the others. -/
def causeNow (s : State) (bh cause : Nat) : Nat := if cause != 0 && throttled s bh then 1 else cause

/-- The stall cause of an element that does not fire in this cycle. -/
def stallCause (s : State) (key : Nat) (e : Elem) : Nat := causeNow s (bhOf key) (elemCause s key e)

end Sys2Proof.Machine
end

