-- ==== Sys2Proof/Machine/Counting.lean ====
section
/-!
DEFINITION. What the engines and elements count in cycles in which they do not issue (09 R190, R191).
-/
namespace Sys2Proof.Machine
open Sys2Proof

/-! ## Clocks and removed cycles (24 R372, R373) -/

/-- The clock of a bulkhead runs, outside any reset (23 R365, 24 R372, R375). A management element lies in the spine, whose clocks
stop in a freeze with SPINE (00 R2). -/
def clockRuns (s : State) (bh : Nat) : Bool :=
  if 16 ≤ bh then !s.spineFrozen else !(s.bh bh).frozen && !(s.bh bh).clockFailed && (s.bh bh).state == 6

/-- The removed cycles among the first `x` after a release, at a step. -/
def removedUpTo (step x : Nat) : Nat := x / 8 * step + min (x % 8) step

/-- The removed cycles of [a, b) of a bulkhead: at the older step up to the last change of step, at the new one after it. -/
def removedIn (k : Bulkhead) (a b : Nat) : Nat :=
  let n (step a b : Nat) : Nat := removedUpTo step (b - k.released) - removedUpTo step (a - k.released)
  let t := max a (min b (stepChange k))
  n k.step a t + n k.nextStep t b

/-- The block counts every cycle before `upTo` that it has not counted: as IDLE (`none`), or as stalled by a cause, where the cycles
that throttling removes count as its own unless a sweep holds. -/
def Counters.pass (c : Counters) (k : Bulkhead) (throttles : Bool) (cause : Option Nat) (upTo : Nat) : Counters :=
  let n := upTo - c.upTo
  let c' := match cause with
    | none => c.idled n
    | some 0 => c.stalled 0 n
    | some x =>
      let r := if throttles then removedIn k c.upTo upTo else 0
      (c.stalled 1 r).stalled x (n - r)
  { c' with upTo := max c.upTo upTo }

/-! ## Causes of engines, throttling aside (09 R190) -/

/-- Something that a tile serves waits for a cause: a request of its reorder buffer, an atomic or a page that hands over, the store that
drains next, an access or a fused update of its sequencer. -/
def tileWaits (s : State) (k cause : Nat) : Bool :=
  let t := s.tile k
  (t.wrb.zipIdx.any fun p => performable t p.2 p.1 && performWait s k p.1 == cause)
    || (s.works.any fun p => p.2.engineKey == tileEngine k && p.2.waits == cause)
    || (s.elems.any fun p => servingTile p.1 == k && headWait s p.1 p.2 == cause)
    || (cause == 2 && fupdWalks s k)
    || match t.sbuf with
      | [] => false
      | x :: _ =>
        if x.scratch then cause == 5 && !bankServes s k x.addr
        else if !missFree s k then cause == 3
        else cause == 4 && (homeOf s x.addr).any fun h => sliceFull s h.key

/-- A stream of a memory tile waits for room: its ring is full, or the port that it feeds. -/
def streamFull (s : State) (k : Nat) : Bool :=
  let t := s.tile k
  t.streams.any fun p => match p.2.user.map StreamJob.what with
    | some (.push island ring _ _) =>
      let x := s.ring (k / 64) island ring
      decide (x.depth ≤ x.count)
    | some (.deliver b _ _ _ (_ :: _)) => match t.bindings[b]? with
      | none => false
      | some x => !consumerRoom s (k / 64) { prod := 0, prodPort := 0, cons := x.elem, consPort := x.port, sparse := false }
    | _ => false

/-- The first cause that holds of a memory tile. -/
def tileCause (s : State) (k : Nat) : Nat :=
  let t := s.tile k
  if sweeps s (k / 64) t.drained then 0
  else if tileWaits s k 2 then 2
  else if tileWaits s k 3 then 3
  else if tileWaits s k 4 then 4
  else if tileWaits s k 5 then 5
  else if tileWaits s k 8 || streamFull s k || decide (8 ≤ t.cmdq.length) then 8
  else 9

/-- The token at the head of an island's queue waits for room in the reply port (12 R231, R236). -/
def replyFull (s : State) (k : Nat) : Bool :=
  let x := s.island k
  x.exec.isNone && match x.queue with
    | [] => false
    | c :: _ =>
      let replies : Bool := match decodeToken c.hi c.lo with
        | some (.msig kind _ _) => kind.toNat == 0
        | some (.qcnt _) => true
        | _ => false
      replies && x.rpe && !consumerRoom s (k / 4) { prod := 0, prodPort := 0, cons := x.relem, consPort := x.rport, sparse := false }

/-- The first cause that holds of a matrix island. -/
def islandCause (s : State) (k : Nat) : Nat :=
  if sweeps s (k / 4) false then 0
  else if s.works.any fun p => p.2.engineKey == islandEngine k && p.2.waits == 5 then 5
  else if replyFull s k || decide (8 ≤ (s.island k).queue.length) then 8
  else 9

/-- The first cause that holds of a streamer island; a full command queue has no room (log 123). -/
def streamerCause (s : State) (k : Nat) : Nat :=
  let waits (c : Nat) : Bool := s.works.any fun p => p.2.engineKey == streamerEngine k && p.2.waits == c
  if sweeps s (k / 2) false then 0
  else if waits 2 then 2
  else if waits 3 then 3
  else if waits 4 then 4
  else if 16 ≤ (s.streamer k).queue.length then 8
  else 9

/-- The first cause that holds of a home slice, which throttling leaves alone. -/
def sliceCause (s : State) (bh : Nat) : Nat := if sweeps s bh false then 0 else 9

/-- The cause of an engine of a bulkhead, by its index of 09 R191. -/
def engineCause (s : State) (bh n : Nat) : Nat :=
  if n < 32 then tileCause s (64 * bh + n)
  else if n < 36 then islandCause s (4 * bh + (n - 32))
  else if n < 38 then streamerCause s (2 * bh + (n - 36))
  else sliceCause s bh

/-! ## Cycles that pass -/

/-- An engine counts the cycles up to `upTo`. The block of an evaluator tile sums those of its elements, and holds of its own the
walks and the slices that its requests wait for (09 R191; log 123). -/
def State.passEngine (s : State) (bh upTo n : Nat) : State :=
  if n == 38 || n == 39 then
    let k := 64 * bh + n - 6
    let stall (c : Nat) : State := s.modEngineCount (64 * bh + n) (·.stalled c (upTo - s.cycle))
    if tileWaits s k 2 then stall 2 else if tileWaits s k 4 then stall 4 else s
  else
    s.modEngineCount (64 * bh + n) (·.pass (s.bh bh) (decide (n < 40)) (if (s.bh bh).load.isSome then some (engineCause s bh n) else none) upTo)

/-- An element counts the cycles up to `upTo`. -/
def State.passElement (s : State) (upTo key : Nat) : State :=
  s.modElemCount key (·.pass (s.bh (bhOf key)) (!isMgmt key)
    (match s.elem? key with
      | none => none
      | some e => if (s.bh (bhOf key)).load.isSome || isMgmt key then some (elemCause s key e) else none) upTo)

/-- The engines and elements of a bulkhead that count: those listed, and all that a resident load uses. -/
def countingEngines (s : State) (bh : Nat) : List Nat :=
  if (s.bh bh).load.isSome then List.range 48 else (s.engineCounts.filter fun p => p.1 / 64 == bh).map fun p => p.1 % 64
def countingElems (s : State) (bh : Nat) : List Nat :=
  ((s.elemsOf bh).map Prod.fst ++ (s.elemCounts.filter fun p => bhOf p.1 == bh).map Prod.fst).eraseDups

/-- The engines and elements of a bulkhead whose clock runs count the cycles up to `upTo`. -/
def State.passBulkhead (s : State) (upTo bh : Nat) : State :=
  if !clockRuns s bh then s
  else
    let es := countingEngines s bh
    let ks := countingElems s bh
    ks.foldl (fun (s : State) k => s.passElement upTo k) (es.foldl (fun (s : State) n => s.passEngine bh upTo n) s)

/-- The elements that a watchpoint has met halt at the end of the cycle of the access (23 R361). -/
def State.haltWatched (s : State) : State :=
  s.elems.foldl (fun s p => match p.2.haltNext with
    | none => s
    | some (slot, word, wave) => (s.modElem p.1 fun e => { e with haltNext := none }).haltElem p.1 2 slot word wave) s

/-- n cycles pass (00 R5): what did not issue in them counts, and watched elements halt at the end of the first. -/
def State.passCycles (s : State) (n : Nat) : State :=
  if n == 0 then s
  else
    let s := (List.range 20).foldl (fun (s : State) bh => s.passBulkhead (s.cycle + n) bh) s.haltWatched
    { s with cycle := s.cycle + n }

end Sys2Proof.Machine
end

