-- ==== Sys2Proof/Machine/Debug.lean ====
section
/-!
DEFINITION. Counters and logs cleared by the host (09 R191, 19 R329, 23 R357), halts and releases (23 R358, R359), sampling
(23 R362), the trace unit (23 R363, R364), freeze (23 R365), thermal evaluation (24 R373-R375).
-/
namespace Sys2Proof.Machine
open Sys2Proof

/-- A function reaches the registers of a bulkhead that it owns, unless the spine answers GATED for it (04 R66, 23 R365). -/
def reaches (s : State) (fn bh : Nat) : Bool := owns s fn bh && !gated s bh

/-! ## Clears -/

/-- The counter block after a write of CTL (09 R191). -/
def Counters.control (c : Counters) (v : Nat) : Counters :=
  if bit v 0 then { frz := bit v 1, upTo := c.upTo, fire := c.fire } else { c with frz := bit v 1 }

/-- The 16 elements of an evaluator tile, by its engine index 38 or 39. -/
def evaluatorKeys (bh engine : Nat) : List Nat :=
  (List.range 16).map fun j => elemKey bh (0x8000 + 2048 * (engine - 38) + 16 * j)

/-- The counters of an engine of a bulkhead changed, by its index (09 R191); those of an evaluator tile are its elements'. -/
def State.modCounters (s : State) (bh engine : Nat) (f : Counters → Counters) : State :=
  if 48 ≤ engine then s
  else
    let s := s.modEngineCount (64 * bh + engine) f
    if engine == 38 || engine == 39 then (evaluatorKeys bh engine).foldl (fun s key => s.modElemCount key f) s else s

/-- COUNTER_CLEAR (09 R191): a write of an engine's CTL. -/
def execCounterClear (fn bh engine : Nat) (value : Word) (s : State) : Out :=
  if reaches s fn bh then .next (s.modCounters bh engine (·.control value.toNat)) else .next s

/-- SINKLOG_CLEAR (19 R329). -/
def execSinklogClear (fn bh : Nat) (value : Word) (s : State) : Out :=
  if reaches s fn bh && bit value.toNat 0 then .next (s.modBh bh fun b => { b with sink := [], sinkcnt := 0 }) else .next s

/-- The debug block of a bulkhead changed. -/
def State.modDebug (s : State) (bh : Nat) (f : Debug → Debug) : State := s.modBh bh fun b => { b with dbg := f b.dbg }

/-- HALTLOG_CLEAR (23 R357). -/
def execHaltlogClear (fn bh : Nat) (value : Word) (s : State) : Out :=
  if reaches s fn bh && bit value.toNat 0 then .next (s.modDebug bh fun d => { d with haltLog := [], hlogcnt := 0 }) else .next s

/-! ## Halts and releases (23 R358, R359) -/

/-- A halted element after a release in a cycle: the first fire after it passes the breakpoints, and a step halts after one fire. A
halt of the same cycle stands, since the release comes first. -/
def Elem.release (e : Elem) (cycle : Nat) (step : Bool) : Elem :=
  if e.halted && e.haltAt != some cycle then { e with halted := false, stepping := step, skipBreak := true } else e

/-- DEBUG_RELEASE (23 R359). -/
def execDebugRelease (fn bh elem : Nat) (s : State) : Out :=
  if reaches s fn bh then .next (s.modElem (elemKey bh elem) (·.release s.cycle false)) else .next s

/-- DEBUG_STEP (23 R359). -/
def execDebugStep (fn bh elem : Nat) (s : State) : Out :=
  if reaches s fn bh then .next (s.modElem (elemKey bh elem) (·.release s.cycle true)) else .next s

/-- DEBUG_RELEASE_ALL (23 R357, R359). -/
def execDebugReleaseAll (fn bh : Nat) (s : State) : Out :=
  if reaches s fn bh then .next (s.mapElems bh fun _ e => e.release s.cycle false) else .next s

/-- The slot breakpoint mask of an element (23 R357). -/
def slotBreaks (s : State) (key : Nat) : Word := tget (s.bh (bhOf key)).dbg.sbp (addrOf key / 16) 0

/-- The picker's choice meets a slot breakpoint that it tests (23 R358, R359). -/
def breaksAt (s : State) (key : Nat) (e : Elem) (n : Nat) : Bool := bit (slotBreaks s key).toNat n && !e.skipBreak

/-- SLOT_BREAKPOINT_HALT (23 R358): the element halts before the slot fires. -/
def execSlotBreakpointHalt (elem : Nat) (s : State) : Out :=
  match s.elem? elem with
  | none => .next s
  | some e =>
    match e.issue, fires s elem e with
    | none, some (n, _) => if breaksAt s elem e n then .next (s.haltElem elem 1 n 0 0) else .next s
    | _, _ => .next s

/-! ## Sampling (23 R362) -/

/-- Period and ring size. -/
def Debug.period (d : Debug) : Nat := 2 ^ (if 8 ≤ d.smplog2p && d.smplog2p ≤ 24 then d.smplog2p else 12)
def Debug.ring (d : Debug) : Nat := 2 ^ (if 4 ≤ d.smplog2 && d.smplog2 ≤ 20 then d.smplog2 else 4)

/-- The next configured element in ascending address order. -/
def nextSampled (s : State) (bh from_ : Nat) : Option (Nat × Elem) :=
  let l := s.elemsOf bh
  (l.find? fun p => decide (from_ ≤ addrOf p.1)).orElse fun _ => l.head?

/-- The slot and beat with which an element fires in this cycle: it has fired already, or its next beat would take effect. -/
def firesNow (s : State) (key : Nat) (e : Elem) : Option (Nat × Nat) :=
  let c := s.elemCount key
  let would (n b : Nat) (i : Instr) (w l : Word) : Option (Nat × Nat) :=
    match runElement i { s with focus := .elem key n w l } with
    | .next t => if (t.elemCount key).counted s.cycle then some (n, b) else none
    | _ => none
  if c.counted s.cycle then some c.fire
  else match fires s key e, e.issue with
    | none, _ => none
    | some (n, b), some x => x.instr.bind fun y => would n b y.1 x.word x.lit
    | some (n, b), none => if breaksAt s key e n then none else (e.page.instrAt n).bind fun y => would n b y.1 y.2.1 y.2.2

/-- The record of an element in this cycle. -/
def sampleRecord (s : State) (key : Nat) (e : Elem) : Nat :=
  let f := firesNow s key e
  let slot := match f with
    | some (n, _) => some n
    | none => match e.issue with
      | some x => some x.slot
      | none => stallSlot e
  let bt := f.elim 0 Prod.snd
  let set := slot.elim 0 fun n => setOfWord (e.page.slot n)
  let cause := if f.isSome then 0 else stallCause s key e
  addrOf key + slot.getD 0x1F * 2 ^ 16 + b2n f.isSome * 2 ^ 24 + b2n e.halted * 2 ^ 25 + cause * 2 ^ 26 + set * 2 ^ 30
    + bt % 16 * 2 ^ 32 + (((s.bh (bhOf key)).load.map Load.ident).getD 0).toNat * 2 ^ 64 + s.time.toNat * 2 ^ 96

/-- SAMPLE (23 R362). -/
def execSample (bh : Nat) (s : State) : Out :=
  let d := (s.bh bh).dbg
  if !d.smpen || decide (s.cycle < d.smpat) then .next s
  else
    let s := s.modDebug bh fun d => { d with smpat := d.smpat + d.period }
    match nextSampled s bh d.smpnext with
    | none => .next s
    | some (key, e) =>
      let s := s.modDebug bh fun d => { d with smpnext := addrOf key + 1 }
      let drop (s : State) : State := s.modDebug bh fun d => { d with smpdrop := d.smpdrop + 1 }
      if (d.smptail + 1) % d.ring == d.smphead % d.ring then .next (drop s)
      else
        let r := s.engineWrite .none bh (segVa (d.smpbase + 16 * d.smptail) 0) (sampleRecord s key e) 16 0 15 false
        if r.status == 0 then .next (r.s.modDebug bh fun d => { d with smptail := (d.smptail + 1) % d.ring })
        else .next ((drop r.s).modDebug bh fun d => { d with smpen := false })

/-! ## The trace unit (23 R363, R364) -/

/-- An event inserted by ascending unit, after those of its own. -/
def insertUnit (r : TraceRec) : List TraceRec → List TraceRec
  | [] => [r]
  | x :: xs => if r.unit.toNat < x.unit.toNat then r :: x :: xs else x :: insertUnit r xs

/-- One record is written, or lost to a full buffer. -/
def Debug.put (d : Debug) (r : TraceRec) : Debug :=
  if d.trfull && !d.trwrap then { d with trdrop := d.trdrop + 1 }
  else
    { d with trace := tset d.trace d.trptr r, trptr := (d.trptr + 1) % 16384,
             trfull := d.trfull || d.trptr + 1 == 16384 }

/-- TRACE_RECORD (23 R363): the events of the oldest cycle, once it is over: four are written in unit order, the rest lost. -/
def execTraceRecord (bh : Nat) (s : State) : Out :=
  let d := (s.bh bh).dbg
  match d.events with
  | [] => .next s
  | r :: _ =>
    if r.time == s.time then .next s
    else
      let now := (d.events.filter (·.time == r.time)).foldl (fun l x => insertUnit x l) []
      let d := { d with events := d.events.filter (·.time != r.time), trdrop := d.trdrop + BitVec.ofNat 32 (now.length - 4) }
      .next (s.modDebug bh fun _ => (now.take 4).foldl Debug.put d)

/-! ## Freeze (23 R365) -/

/-- FREEZE (23 R365): a write of FRZCTL. -/
def execFreeze (value : Word) (s : State) : Out :=
  let v := value.toNat
  let s := { s with frzspine := bit v 30, frzmask := BitVec.ofNat 16 v }
  if !bit v 31 then .next s
  else
    let s := (List.range 16).foldl (fun (s : State) n => if bit v n then s.modClock n fun b => { b with frozen := true } else s) s
    .next { s with spineFrozen := s.spineFrozen || bit v 30 }

/-! ## Thermal evaluation (24 R373-R375) -/

/-- The step after an evaluation without a trip. -/
def nextThermalStep (step floor temp : Nat) : Nat :=
  max floor (if 95 ≤ temp then min (step + 1) 7 else if temp ≤ 90 then max (step - 1) floor else step)

/-- THERMAL_EVALUATION (24 R375): every 100 µs, by a management element that has been released. -/
def execThermalEvaluation (bh : Nat) (temp : Byte) (s : State) : Out :=
  let b := s.bh bh
  if decide (16 ≤ bh) || !bit s.mgmt.toNat (bh / 4) || decide (s.cycle < b.evalAt) then .next s
  else
    let old := stepInForce s b
    let hot := decide (110 ≤ temp.toNat)
    let new := if hot then max b.floor old else nextThermalStep old b.floor temp.toNat
    let lost := !hot && !b.frozen && b.state == 6 && heartLost s b
    let s := s.setBh bh
      { b with temp := temp, step := old, nextStep := new, stepSince := s.cycle, evalAt := b.evalAt + 100 * cyclesPerUs,
               trip := b.trip || hot, flush := b.flush || hot }
    let message (p : Bool) (s : State) : State := if p then s.raiseMsi 0 3 else s
    let s := if hot || lost then s.startReset bh else s
    .next (message (new != old) (message lost (message hot s)))

end Sys2Proof.Machine
end

