-- ==== Sys2Proof/Machine/Remote.lean ====
section
/-!
DEFINITION. Remote atomics at their target and their completion records (15 R280, R281), and the compatibility portal
(15 R282, R283).
-/
namespace Sys2Proof.Machine
open Sys2Proof

/-- REMOTE_ATOMIC_APPLY (15 R280): the oldest atomic of the command queue is translated in the target function's space and
enters the arrival queue of its home slice; a code that it meets answers it. -/
def execRemoteAtomicApply (bh : Nat) (s : State) : Out :=
  match (s.bh bh).atomics with
  | [] => .next s
  | a :: rest =>
    if gated s bh || !walkerFree s bh then .next s
    else
      let fn := (holder s bh).getD 0
      let s := s.modBh bh fun b => { b with atomics := rest }
      match s.resolve .none bh fn (loadPasid s bh) a.va .update with
      | (s, .status c) => .next (s.answerAtomic a c 0)
      | (s, .home h via) =>
        .next (s.sendHome (8 * h.bh + h.slice)
          [{ src := .remote a.elem a.peer a.ticket a.srcFn, id := 0, pa := h.pa, op := .amo a.op a.size a.v a.c,
             cls := a.cls, reads := a.reads, word := a.word, via := via, fn := fn }])

/-- A remote atomic of a function has not left its device: it is in its element's issue queue, on the spine, in a command
queue or at a home slice. -/
def remoteInside (s : State) (fn : Nat) (r : RemoteRec) : Bool :=
  let mine (a : RemoteAtomic) : Bool := a.peer.isNone && a.srcFn == fn && a.ticket == r.ticket
  !r.sent || (s.packets.any fun p => p.atomic.any mine) || (s.bhs.any fun p => p.2.atomics.any mine)
    || s.slices.any fun p => p.2.arrivals.any fun q => match q.src with
      | .remote _ none t f => f == fn && t == r.ticket
      | _ => false

/-- The 16 bytes of a completion record (15 R281). -/
def RemoteRec.bytes (r : RemoteRec) (status old : Nat) : List Byte :=
  bytesOf (if status == 0 then old else 0) 8 ++ bytesOf r.ticket 2 ++ bytesOf status 1 ++ bytesOf 0 1
    ++ bytesOf (addrOf r.elem) 2 ++ bytesOf 0 2

/-- REMOTE_COMPLETION (15 R281): a reply, from a device of the pod with the status and old value given here, or of this
device, is written as a record, then RCQTAIL advances, and software has one more record to read. -/
def execRemoteCompletion (fn index status old : Nat) (s : State) : Out :=
  let f := s.fn fn
  match f.remote[index]? with
  | none => .next s
  | some r =>
    if r.reply.isNone && remoteInside s fn r then .next s
    else
      let (st, v) := r.reply.getD (status % 256, old)
      let (s, code) := s.writeBytes (bhOf r.elem) fn r.pasid (va57 (f.rcqbase + 16 * f.rcqtail)) (r.bytes st v)
      let s := s.modFn fn fun f =>
        let f := { f with remote := removeAt f.remote index }
        if code == 0 then { f with rcqtail := (f.rcqtail + 1) % 2 ^ f.rcqlog2, rcqunread := f.rcqunread + 1 } else f
      .next (s.modElem r.elem (·.dropPending r.id))

/-- The reply of a portal request. -/
def State.portalReply (s : State) (bh index status old : Nat) : State :=
  match (s.bh bh).portal[index]? with
  | none => s
  | some p =>
    let s := s.modBh bh fun b => { b with portal := removeAt b.portal index }
    s.reply { elem := p.elem, id := p.id, status := status, value := if status == 0 then old % 2 ^ (8 * p.size) else 0, atomic := true }

/-- PORTAL_COMPLETION (15 R283): a completion returns; one that is not successful is PORTAL_FAULT. -/
def execPortalCompletion (bh index : Nat) (ok : Bool) (old : Nat) (s : State) : Out :=
  .next (s.portalReply bh index (if ok then 0 else 0x15) old)

/-- 50 ms in cycles. -/
def portalLimit : Nat := 50000 * cyclesPerUs

/-- PORTAL_TIMEOUT (15 R283). -/
def execPortalTimeout (bh index : Nat) (s : State) : Out :=
  match (s.bh bh).portal[index]? with
  | none => .next s
  | some p => if p.since + portalLimit ≤ s.cycle then .next (s.portalReply bh index 0x15 0) else .next s

end Sys2Proof.Machine
end

