-- ==== Sys2Proof/Machine/Shootdown.lean ====
section
/-!
DEFINITION. Shootdowns of translations (14 R265, R266).
-/
namespace Sys2Proof.Machine
open Sys2Proof

/-- log2 of a page size of SDCTL. -/
def sizeLog2 (size : Nat) : Nat :=
  match size % 4 with
  | 0 => 12
  | 1 => 16
  | 2 => 21
  | _ => 30

/-- Two aligned ranges, given by a base and log2 of a size, meet. -/
def rangesMeet (a la b lb : Nat) : Bool := overlap (a / 2 ^ la * 2 ^ la) (2 ^ la) (b / 2 ^ lb * 2 ^ lb) (2 ^ lb)

/-- Every cached translation of the device. -/
def allEntries (s : State) : List TlbEntry :=
  (s.tiles.flatMap fun p => p.2.tlb) ++ (s.streamers.flatMap fun p => p.2.tlb) ++ (s.bhs.flatMap fun p => p.2.tlb2)

/-- Step 2: matching entries leave every TLB. -/
def State.removeEntries (s : State) (m : TlbEntry → Bool) : State :=
  { s with
    tiles := tmap s.tiles fun _ t => { t with tlb := t.tlb.filter fun e => !m e }
    streamers := tmap s.streamers fun _ t => { t with tlb := t.tlb.filter fun e => !m e }
    bhs := tmap s.bhs fun _ b => { b with tlb2 := b.tlb2.filter fun e => !m e } }

/-- A physical range as the pieces of 4 KiB that its homes keep it in (09 R174, R175). -/
def homePieces (s : State) (base len : Nat) : List (Nat × Nat) :=
  (List.range (len / 4096)).filterMap fun i => (homeOf s (base + 4096 * i)).map fun h => (h.pa, 4096)

/-- The ranges of the entries that a shootdown removes. -/
def rangesOf (s : State) (es : List TlbEntry) : List (Nat × Nat) := es.flatMap fun e => homePieces s e.pa (2 ^ e.log2)

/-- The function and process whose translation an access of a bulkhead went through: those of its load, or of the exporter of the
window that it was accepted through (04 R64). -/
def throughOf (s : State) (bh : Nat) (via : Option Nat) : Nat × Nat :=
  match via with
  | none => (loadFn s bh, loadPasid s bh)
  | some w => ((holder s (w / 8)).getD 0, loadPasid s (w / 8))

/-- The window slot of its exporter that an access of an engine under way went through. -/
def Work.via (s : State) (w : Work) : Option Nat :=
  match w.now.map Access.place with
  | some (.va a) => (importSlot s w.bh a).map fun x => 8 * x.imp.expBh + x.imp.expWin
  | _ => none

/-- The tile of a work commits or reads a block: where the arrays that it writes lie in device memory. -/
def Tile.blockTargets (t : Tile) : Option (Nat × List Nat) :=
  match t.hold with
  | .fupd u => some (u.index, (u.targets.filter fun x => !x.1).map Prod.snd)
  | _ => none

/-- The function and process whose translation a request of an element went through. -/
def requestThrough (s : State) (key id : Nat) : Nat × Nat :=
  throughOf s (bhOf key) (((s.elem? key).bind fun e => e.pending? id).bind Pending.via)

/-- The accesses of the device that have been translated and are not complete: what each is, the function and process whose
translation it went through, and the physical address it reached (14 R266 step 3). A reply on its way, and an atomic whose launch
runs, may be of any address. -/
def translatedAccesses (s : State) : List (Translated × (Nat × Nat) × Option Nat) :=
  (s.tiles.flatMap fun p =>
      ((p.2.sbuf.filter fun x => !x.scratch).map fun x =>
        (Translated.request x.id, throughOf s (bhOf x.elem) x.via, some x.addr))
      ++ match p.2.blockTargets with
        | none => []
        | some (n, l) => l.map fun pa => (.block p.1 n, throughOf s (p.1 / 64) none, some pa))
    ++ (s.slices.flatMap fun p => p.2.arrivals.filterMap fun r => match r.src with
      | .elem key => some (.request r.id, throughOf s (bhOf key) r.via, some r.pa)
      | .engine _ _ => none
      | .remote .. => some (.remote r.src, (r.fn, loadPasid s (p.1 / 8)), some r.pa))
    ++ (s.works.filterMap fun p => p.2.line.map fun n =>
      (.access p.2.serial p.2.answers.length, throughOf s p.2.bh (p.2.via s), some (n * 256)))
    ++ (s.elems.flatMap fun p => p.2.pending.flatMap fun x => x.pieces.map fun pa =>
      (.request x.id, throughOf s (bhOf p.1) x.via, some pa))
    ++ (s.slices.flatMap fun p => p.2.launches.filterMap fun l => match l.2.src with
      | .elem key => some (.request l.2.id, requestThrough s key l.2.id, none)
      | _ => none)
    ++ s.bhs.flatMap fun p => (p.2.replies.filter fun r => r.point.isSome && r.piece.isNone).map fun r =>
      (.request r.id, requestThrough s r.elem r.id, none)

/-- A physical address lies in one of the ranges. -/
def inRanges (l : List (Nat × Nat)) (pa : Nat) : Bool := l.any fun r => decide (r.1 ≤ pa) && decide (pa < r.1 + r.2)

/-- What a shootdown that removes these entries waits for: the accesses that were translated through one of them. -/
def translatedThrough (s : State) (es : List TlbEntry) : List Translated :=
  (translatedAccesses s).filterMap fun x =>
    let (w, (fn, pasid), pa) := x
    if es.any fun e => e.fn == fn && (e.pasid.isNone || e.pasid == some pasid)
        && pa.elim true (inRanges (homePieces s e.pa (2 ^ e.log2)))
    then some w else none

/-- An access is not complete at tenant scope. -/
def accessLeft (s : State) : Translated → Bool
  | .request id => s.elems.any fun p => (p.2.pending? id).isSome
  | .access serial n => s.works.any fun p => p.2.serial == serial && p.2.answers.length == n && p.2.line.isSome
  | .block tile n => match (s.tile tile).blockTargets with
    | none => false
    | some (m, l) => m == n && !l.isEmpty
  | .remote src => s.slices.any fun p => p.2.arrivals.any fun r => r.src == src

/-- SDCTL or S2SDCTL after a write: KIND, SIZE, WB and the low field. -/
def ctlWord (kind size : Nat) (wb : Bool) (low : Nat) : Word :=
  BitVec.ofNat 32 (kind % 4 * 2 ^ 27 + size % 4 * 2 ^ 25 + b2n wb * 2 ^ 24 + low % 2 ^ 20)

/-- SDCTL or S2SDCTL with the fields that a GO names; the others read as they were written (14 R265). -/
def ctlWith (w : Word) (kind : Nat) (size : Option Nat := none) (wb : Option Bool := none) (low : Option Nat := none) : Word :=
  ctlWord kind (size.getD (bits w.toNat 25 2)) (wb.getD (bit w.toNat 24)) (low.getD (bits w.toNat 0 20))

/-- A GO of SDCTL (14 R265, R266): the register takes the fields it names; `beyond` says that its PASID lies at or beyond the
process-context table, and nothing is done. -/
def State.shoot (s : State) (fn : Nat) (ctl : Word → Word) (beyond wb : Bool) (m : TlbEntry → Bool) : State :=
  if (s.fn fn).sdbusy then s
  else
    let s := s.modFn fn fun f => { f with sdctl := ctl f.sdctl }
    if beyond then s.modFn fn fun f => { f with sderr := true }
    else
      let es := (allEntries s).filter m
      (s.removeEntries m).modFn fn fun f =>
        { f with sdbusy := true, sderr := false, sdwait := translatedThrough s es, sdlines := if wb then rangesOf s es else [] }

/-- A PASID at or beyond the process-context table of a function. -/
def pasidOver (s : State) (fn pasid : Nat) : Bool := decide (2 ^ (s.fn fn).pctxLog2 ≤ pasid)

/-- SHOOTDOWN_PAGE (14 R266). -/
def execShootdownPage (fn pasid size : Nat) (wb : Bool) (s : State) : Out :=
  let a := (s.fn fn).sdaddr % 2 ^ 57
  .next (s.shoot fn (fun w => ctlWith w 0 (some size) (some wb) (some pasid)) (pasidOver s fn pasid) wb fun e =>
    e.fn == fn && e.pasid == some pasid && rangesMeet e.base e.log2 a (sizeLog2 size))

/-- SHOOTDOWN_PASID (14 R266). -/
def execShootdownPasid (fn pasid : Nat) (s : State) : Out :=
  .next (s.shoot fn (fun w => ctlWith w 1 none none (some pasid)) (pasidOver s fn pasid) false fun e =>
    e.fn == fn && e.pasid == some pasid)

/-- SHOOTDOWN_FUNCTION (14 R266). -/
def execShootdownFunction (fn : Nat) (s : State) : Out :=
  .next (s.shoot fn (ctlWith · 2) false false fun e => e.fn == fn && e.pasid.isSome)

/-- A GO of S2SDCTL (14 R265, R266): its lines are those of the removed entries, or of the region given. -/
def State.shoot2 (s : State) (ctl : Word → Word) (wb : Bool) (region : Option (Nat × Nat)) (m : TlbEntry → Bool) : State :=
  if s.s2busy then s
  else
    let es := (allEntries s).filter m
    let l := match region with
      | some r => homePieces s r.1 r.2
      | none => rangesOf s es
    { s.removeEntries m with
      s2sdctl := ctl s.s2sdctl, s2busy := true, s2err := false, s2wait := translatedThrough s es, s2lines := if wb then l else [] }

/-- S2_SHOOTDOWN_PAGE (14 R266): one intermediate page of a tag. -/
def execS2ShootdownPage (tag size : Nat) (wb : Bool) (s : State) : Out :=
  .next (s.shoot2 (fun w => ctlWith w 0 (some size) (some wb) (some tag)) wb none fun e =>
    e.fn == tag && rangesMeet e.ipa e.log2 s.s2sdaddr (sizeLog2 size))

/-- S2_SHOOTDOWN_TAG (14 R266). -/
def execS2ShootdownTag (tag : Nat) (s : State) : Out :=
  .next (s.shoot2 (fun w => ctlWith w 1 none none (some tag)) false none fun e => e.fn == tag)

/-- S2_SHOOTDOWN_REGION (14 R266): the 1 GiB region of physical memory at S2SDADDR. -/
def execS2ShootdownRegion (wb : Bool) (s : State) : Out :=
  let lo := s.s2sdaddr / 2 ^ 30 * 2 ^ 30
  .next (s.shoot2 (fun w => ctlWith w 2 none (some wb)) wb (some (lo, 2 ^ 30)) fun e => overlap e.pa (2 ^ e.log2) lo (2 ^ 30))

/-- Step 4: the cached lines of the ranges, by slice. -/
def linesIn (s : State) (l : List (Nat × Nat)) : List (Nat × CacheLine) :=
  s.slices.flatMap fun p => (p.2.cache.filter fun x => l.any fun r => overlap (x.line * 256) 256 r.1 r.2).map fun x => (p.1, x)

/-- A line is written back if it is dirty, and evicted. -/
def State.evict (s : State) (k : Nat) (x : CacheLine) : State :=
  let s := if x.dirty then s.writeBack x else s
  s.modSlice k fun y => { y with cache := y.cache.filter fun z => z.line != x.line }

/-- The ranges are written back and evicted, unless a dirty line's link is down: it is retried (24 R368). -/
def State.evictAll (s : State) (l : List (Nat × Nat)) : Option State :=
  let xs := linesIn s l
  if xs.any fun p => p.2.dirty && p.2.cxl && !lineLinkUp s p.2 then none
  else some (xs.foldl (fun s p => s.evict p.1 p.2) s)

/-- SHOOTDOWN_COMPLETE (14 R266 steps 3 to 5), of a function's SDCTL, or of S2SDCTL under number 65. -/
def execShootdownComplete (fn : Nat) (s : State) : Out :=
  if fn == 65 then
    if !s.s2busy || s.s2wait.any (accessLeft s) then .next s
    else match s.evictAll s.s2lines with
      | none => .next s
      | some s => .next { s with s2busy := false, s2wait := [], s2lines := [] }
  else
    let f := s.fn fn
    if !f.sdbusy || f.sdwait.any (accessLeft s) then .next s
    else match s.evictAll f.sdlines with
      | none => .next s
      | some s => .next (s.modFn fn fun f => { f with sdbusy := false, sdwait := [], sdlines := [] })

end Sys2Proof.Machine
end

