-- ==== Sys2Proof/Machine/Registers.lean ====
section
/-!
DEFINITION. What a read of a register returns (00 R8, 24 R366): the register maps of every chapter, by function, BAR and
offset, 32 bits at a time. A read changes nothing. A field that only the device sets is read from the state that it names.
-/
namespace Sys2Proof.Machine
open Sys2Proof

/-! ## Fields put together -/

/-- The half of a 64-bit register that lies at an offset. -/
def half64 (off v : Nat) : Nat := if off / 4 % 2 == 0 then v % 2 ^ 32 else v / 2 ^ 32 % 2 ^ 32

/-- Word `n` of a value of several words. -/
def wordAt (v n : Nat) : Nat := v / 2 ^ (32 * n) % 2 ^ 32

/-- BHCFG in force, OVNCFG and POOLCFG as words. -/
def Bulkhead.cfgWord (b : Bulkhead) : Nat := b.mode % 4 * 2 ^ 30 + b.pool % 8 * 2 ^ 27 + b.ovn % 16 * 2 ^ 23 + b.owner % 128 * 2 ^ 16
def Ovn.word (x : Ovn) : Nat := b2n x.en * 2 ^ 31 + x.slots % 1024 * 2 ^ 16 + x.members.toNat
def SharedPool.word (x : SharedPool) : Nat := b2n x.en * 2 ^ 31 + x.ovn % 16 * 2 ^ 27 + x.tick % 2 ^ 17

/-- WEXP and WIMP of a window slot (04 R62), 128 bits each. -/
def Window.wexp (w : Window) : Nat :=
  let e := w.exp
  e.peer % 128 + e.perms % 8 * 2 ^ 12 + b2n e.en * 2 ^ 15 + e.base % 2 ^ 57
    + (e.log2 % 64 + e.state % 4 * 64 + b2n w.err * 256 + b2n e.mism * 512) * 2 ^ 64
def Window.wimp (w : Window) : Nat :=
  let i := w.imp
  i.peer % 128 + b2n i.en * 2 ^ 15 + i.base % 2 ^ 57
    + (i.state % 4 * 64 + b2n i.mism * 256 + i.expWin % 8 * 512 + i.expBh % 16 * 4096) * 2 ^ 64

/-- BHRST (04 R65). -/
def Bulkhead.rstWord (b : Bulkhead) : Nat :=
  b2n b.flush * 2 ^ 30 + b2n b.zero * 2 ^ 29 + b.mode % 4 * 2 ^ 14 + b.owner % 128 * 2 ^ 7 + b.state % 8 * 16
    + b2n (b.state != 6) * 2 + b2n (b.state == 6)

/-- RETSTAT (21 R348). -/
def retstat (s : State) (bh : Nat) : Nat :=
  let b := s.bh bh
  b2n b.ret * 2 ^ 31 + b2n (retKilled s bh) * 2 ^ 30 + b.retCode.toNat * 2 ^ 11 + retLeft s bh % 2 ^ 11

/-- QCFG, QSTAT and QKILL (03 R31, R32, 19 R336). -/
def HwQueue.cfgWord (h : HwQueue) : Nat := b2n h.en * 2 ^ 31 + h.prio % 4 * 2 ^ 26 + h.log2 % 16 * 2 ^ 22 + h.pasid % 2 ^ 20
/-- QSTAT.STALLED (03 R37): the head waits on a counter that is not 0. -/
def stalled (s : State) (h : HwQueue) : Bool :=
  match h.accepted with
  | [] => false
  | a :: _ => !a.dispatched && a.cmd.wait != 0xFFFF && (counterOf s h.qmapTag a.cmd.wait).count != 0
def HwQueue.statWord (s : State) (h : HwQueue) : Nat := b2n h.err + b2n (stalled s h) * 2
def HwQueue.killWord (h : HwQueue) : Nat := b2n h.killBusy * 2 ^ 30 + h.killCode % 256

/-- A record of the fault log (19 R328), 32 bytes. -/
def FaultLogRec.word (r : FaultLogRec) : Nat :=
  r.seq.toNat + r.ident.toNat * 2 ^ 32 + r.code.toNat * 2 ^ 64 + r.levels.toNat * 2 ^ 72 + r.action.toNat * 2 ^ 80
    + r.retries.toNat * 2 ^ 88 + r.unit.toNat * 2 ^ 96 + r.queue.toNat * 2 ^ 112 + r.detail.toNat * 2 ^ 128
    + r.time.toNat * 2 ^ 160 + r.addr.toNat * 2 ^ 192
/-- A record of the exception-sink log (19 R333). -/
def SinkRec.word (r : SinkRec) : Nat :=
  r.elem.toNat + r.tag.toNat * 2 ^ 16 + r.data.toNat * 2 ^ 32 + r.more.toNat * 2 ^ 64 + r.time.toNat * 2 ^ 96
/-- A record of a launch log (15 R278). -/
def LaunchRec.word (r : LaunchRec) : Nat :=
  r.elem.toNat + r.cause.toNat * 2 ^ 16 + r.status.toNat * 2 ^ 24 + r.desc.toNat * 2 ^ 32 + r.addr.toNat * 2 ^ 64
    + r.time.toNat * 2 ^ 96
/-- A record of a drop log (04 R60). -/
def DropRec.word (r : DropRec) : Nat :=
  r.port % 2 ^ 11 * 2 ^ 16 + r.vc % 32 * 2 ^ 27 + r.want.toNat * 2 ^ 32 + r.seen.toNat * 2 ^ 48 + r.time.toNat * 2 ^ 64
/-- A halt record (23 R360). -/
def HaltRec.word (r : HaltRec) : Nat :=
  r.elem.toNat + r.slot % 32 * 2 ^ 16 + r.cause % 8 * 2 ^ 21 + r.wave % 64 * 2 ^ 24 + r.detail.toNat * 2 ^ 32
    + r.time.toNat * 2 ^ 96
/-- A trace record (23 R364). -/
def TraceRec.word (r : TraceRec) : Nat :=
  r.unit.toNat + r.sub % 16 * 2 ^ 24 + r.kind % 16 * 2 ^ 28 + r.b.toNat * 2 ^ 32 + r.a.toNat * 2 ^ 64 + r.time.toNat * 2 ^ 96

/-! ## Blocks of a bulkhead in a function's BAR0 -/

/-- The counters of an engine (09 R191); an evaluator tile's block sums those of its elements, with the walks that its requests
wait for (log 123). -/
def countersOf (s : State) (bh engine : Nat) : Counters :=
  let own := s.engineCount (64 * bh + engine)
  if engine == 38 || engine == 39 then
    let zero : Counters := { stall := (List.range 10).map fun n => if n == 2 then own.stall.getD 2 0 else 0,
                             pfdrop := own.pfdrop, cmiss := own.cmiss, frz := own.frz }
    (evaluatorKeys bh engine).foldl (fun c key =>
      let e := s.elemCount key
      { c with stall := (List.range 10).map fun n => c.stall.getD n 0 + e.stall.getD n 0, issue := c.issue + e.issue,
               idle := c.idle + e.idle }) zero
  else own

def readCounters (c : Counters) (off : Nat) : Nat :=
  if off < 0x28 then (c.stall.getD (off / 4) 0).toNat
  else match off with
    | 0x28 => c.issue.toNat
    | 0x2C => c.idle.toNat
    | 0x30 => c.pfdrop.toNat
    | 0x34 => c.cmiss.toNat
    | 0x38 => b2n c.frz * 2
    | _ => 0

/-- QST0, QST1 (12 R240). -/
def Reflector.status (r : Reflector) : Nat :=
  b2n r.init * 2 ^ 31 + r.mode % 4 * 2 ^ 29 + (r.n - 1) % 128 * 2 ^ 22 + r.v.length % 256 * 2 ^ 14 + r.spills % 256 * 64

/-- The registers of a matrix or streamer island (12 R240). -/
def readIsland (s : State) (bh i off : Nat) : Nat :=
  if i < 4 then
    let x := s.island (4 * bh + i)
    match off with
    | 0x00 => x.flags.toNat % 32
    | 0x04 => x.istat.toNat
    | 0x08 => (tget x.qa 0 {}).status
    | 0x0C => (tget x.qa 1 {}).status
    | 0x10 => x.rstw.toNat
    | _ => 0
  else
    let x := s.streamer (2 * bh + (i - 4))
    match off with
    | 0x00 => x.flags.toNat % 32 + b2n x.nans * 64 + b2n x.edge * 128
    | 0x04 => x.retired.toNat * 65536 + min 16 x.queue.length * 2048
    | _ => 0

/-- SEMCNT (15 R288). -/
def readSem (s : State) (bh sem : Nat) : Nat :=
  let x := s.slice (8 * bh + sem / 128)
  min 255 (x.waiters.filter fun w => w.sem == sem).length * 2 ^ 24 + tget x.sems sem 0 % 2 ^ 24

/-- A launch log and its count (15 R278). -/
def readLaunchLog (x : Slice) (off : Nat) : Nat :=
  if off < 0x100 then match x.log[off / 16]? with
    | none => 0
    | some r => wordAt r.word (off / 4 % 4)
  else if off == 0x100 then x.logCount % 256 else 0

/-- The hub block (17 R316). -/
def readHubReg (h : Hub) (off : Nat) : Nat :=
  if off < 0x008 then half64 off (h.tlbase % 2 ^ 57)
  else if 0x8000 ≤ off then (h.policyWord ((off - 0x8000) / 0x80) (off % 0x80 / 4)).toNat
  else if 0x100 ≤ off && off < 0x140 then (h.poolWord ((off - 0x100) / 4)).toNat
  else if 0x140 ≤ off && off < 0x180 then (h.poolStWord ((off - 0x140) / 4)).toNat
  else match off with
    | 0x008 => b2n h.tlen * 2 ^ 31 + b2n h.tlerr * 2 ^ 30 + h.tllog2 % 32
    | 0x00C => h.tltail % 2 ^ 20
    | 0x010 => h.tlhead % 2 ^ 20
    | 0x200 => h.table.length % 1024
    | 0x204 => h.stray.toNat
    | 0x208 => h.tldrop.toNat
    | 0x20C => h.perrcnt.toNat
    | _ => 0

/-- The fault block (19 R329). -/
def readFaultBlock (b : Bulkhead) (off : Nat) : Nat :=
  if off < 0x800 then match b.fltlog[off / 32]? with
    | none => 0
    | some r => wordAt r.word (off / 4 % 8)
  else if 0x1000 ≤ off && off < 0x1400 then match b.sink[(off - 0x1000) / 16]? with
    | none => 0
    | some r => wordAt r.word (off / 4 % 4)
  else match off with
    | 0x800 => b.fltcnt.toNat
    | 0x804 => b.cecnt.toNat
    | 0x808 => b.uecnt.toNat
    | 0x80C => b.parcnt.toNat
    | 0x1400 => b.sinkcnt.toNat
    | _ => 0

/-- A watchpoint register (23 R361). -/
def readWatch (x : Watchpoint) (off : Nat) : Nat :=
  if off < 8 then half64 off (x.addr % 2 ^ 57)
  else if off == 8 then x.ctl.toNat / 2 ^ 26 * 2 ^ 26 + x.log2 % 32
  else x.count.toNat

/-- The debug block (23 R357-R363). -/
def readDebugReg (s : State) (bh off : Nat) : Nat :=
  let d := (s.bh bh).dbg
  if off < 0x4000 then (tget d.sbp (off / 4) 0).toNat
  else if 0x4100 ≤ off && off < 0x4200 then match d.haltLog[(off - 0x4100) / 16]? with
    | none => 0
    | some r => wordAt r.word (off / 4 % 4)
  else if 0x4200 ≤ off && off < 0x4A00 then
    readWatch (tget (s.tile (64 * bh + (off - 0x4200) / 0x40)).watch (off % 0x40 / 16) {}) (off % 16)
  else if 0x5000 ≤ off && off < 0x5008 then half64 off (d.smpbase % 2 ^ 57)
  else match off with
    | 0x4004 => ((s.elemsOf bh).filter fun p => p.2.halted).length % 2 ^ 11
    | 0x4008 => d.hlogcnt.toNat
    | 0x5008 => b2n d.smpen * 2 ^ 31 + d.smplog2p % 32 * 2 ^ 16 + d.smplog2 % 32
    | 0x500C => d.smptail % 2 ^ 20
    | 0x5010 => d.smphead % 2 ^ 20
    | 0x5014 => d.smpdrop.toNat
    | 0x6000 => b2n d.tren * 2 ^ 31 + b2n d.trwrap * 2 ^ 30 + b2n ((s.bh bh).mode == 1) * 2 ^ 29 + d.trmask.toNat
    | 0x6004 => d.trptr % 2 ^ 14
    | 0x6008 => d.trdrop.toNat
    | _ => 0

/-- A register of BAR0 that belongs to a bulkhead; 0 for a function that does not own it. -/
def readBulkheadReg (s : State) (fn off : Nat) : Nat :=
  let bh := off / 0x10000 % 16
  let o := off % 0x10000
  if 0xB00000 ≤ off then
    let bh := (off - 0xB00000) / 0x40000
    if owns s fn bh then match tget? (s.bh bh).dbg.trace ((off - 0xB00000) % 0x40000 / 16) with
      | none => 0
      | some r => wordAt r.word (off / 4 % 4)
    else 0
  else if !owns s fn bh then 0
  else match off / 0x100000 with
    | 4 => if o / 0x40 < 48 then readCounters (countersOf s bh (o / 0x40)) (o % 0x40) else 0
    | 5 => if o / 0x100 < 6 then readIsland s bh (o / 0x100) (o % 0x100) else 0
    | 6 => if o / 4 < 1024 then readSem s bh (o / 4) else 0
    | 7 => if o / 0x200 < 8 then readLaunchLog (s.slice (8 * bh + o / 0x200)) (o % 0x200) else 0
    | 8 => readHubReg (s.hub bh) o
    | 9 => readFaultBlock (s.bh bh) o
    | 10 => readDebugReg s bh o
    | _ => 0

/-! ## A function's BAR0 -/

/-- A register of a queue's block (03 R31). -/
def readQueueReg (s : State) (fn loc off : Nat) : Nat :=
  match queueBlock s fn loc with
  | none => 0
  | some q =>
    let h := s.queue q
    if off < 0x08 then half64 off h.base
    else if 0x80 ≤ off then half64 off (tget h.gtab ((off - 0x80) / 8) 0)
    else match off with
      | 0x08 => h.cfgWord
      | 0x0C => h.head % 2 ^ 32
      | 0x14 => h.statWord s
      | 0x18 => h.killWord
      | _ => 0

/-- SDCTL and S2SDCTL as they read (14 R265). -/
def sdctlRead (busy err : Bool) (w : Word) : Nat := b2n busy * 2 ^ 30 + b2n err * 2 ^ 29 + w.toNat % 2 ^ 29

def readBar0 (s : State) (fn off : Nat) : Nat :=
  let f := s.fn fn
  if 0xF00000 ≤ off then readQueueReg s fn ((off - 0xF00000) / 0x100) (off % 0x100)
  else if 0x400000 ≤ off then readBulkheadReg s fn off
  else if 0x20000 ≤ off && off < 0x20400 then
    let bh := (off - 0x20000) / 0x40
    if !owns s fn bh then 0
    else if off % 0x40 == 0 then (s.bh bh).ldstat.toNat
    else if off % 0x40 == 4 then retstat s bh
    else 0
  else if 0x30000 ≤ off && off < 0x31000 then
    let bh := (off - 0x30000) / 0x100
    let w := tget (s.bh bh).windows (off % 0x100 / 0x20) {}
    if owns s fn bh then wordAt (if off % 0x20 < 0x10 then w.wexp else w.wimp) (off / 4 % 4) else 0
  else if 0x200100 ≤ off && off < 0x200200 then (tget f.pwt ((off - 0x200100) / 4) 0).toNat % 2 ^ 28
  else if 0x210000 ≤ off && off < 0x220000 then
    if (off - 0x210000) / 4 < f.ctrs then (counterOf s fn ((off - 0x210000) / 4)).word.toNat else 0
  else if 0x200000 ≤ off && off < 0x200008 then half64 off (f.pctx % 2 ^ 52 + f.pctxLog2 % 32)
  else if 0x200020 ≤ off && off < 0x200028 then half64 off (f.sdaddr % 2 ^ 57)
  else if 0x200030 ≤ off && off < 0x200038 then half64 off (b2n f.saveV * 2 ^ 63 + f.saveBase % 2 ^ 57)
  else if 0x220000 ≤ off && off < 0x220008 then half64 off (f.rcqbase % 2 ^ 57)
  else match off with
    | 0x200010 => f.freemem.toNat
    | 0x200028 => sdctlRead f.sdbusy f.sderr f.sdctl
    | 0x200038 => f.savePasid % 2 ^ 20
    | 0x220008 => b2n f.rcqen * 2 ^ 31 + f.rcqlog2 % 32
    | 0x22000C => f.rcqtail % 2 ^ 16
    | 0x220010 => f.rcqhead % 2 ^ 16
    | _ => 0

/-! ## The physical function's BAR2 -/

/-- The partition block (04 R47-R60, 19 R343). -/
def readPartition (s : State) (off : Nat) : Nat :=
  if off < 0x400 then
    if off % 0x40 == 0 then (s.bh (off / 0x40)).staged.toNat
    else if off % 0x40 == 4 then (s.bh (off / 0x40)).rstWord
    else 0
  else if off < 0x800 then if (off - 0x400) / 4 ≤ 64 then (s.fn ((off - 0x400) / 4)).fkey.toNat else 0
  else if off < 0xA00 then
    let p := s.pool ((off - 0x800) / 0x40)
    let o := off % 0x40
    if o == 0 then p.word
    else if o == 4 then p.dl % 2 ^ 16
    else if 0x20 ≤ o then
      (tget p.rot ((o - 0x20) / 2) 0).toNat % 2 ^ 16 + (tget p.rot ((o - 0x20) / 2 + 1) 0).toNat % 2 ^ 16 * 2 ^ 16
    else 0
  else if 0xC00 ≤ off && off < 0xC80 then
    let x := s.ovnOf ((off - 0xC00) / 8)
    if off % 8 == 0 then x.word else b2n x.noslot * 2 + b2n x.on
  else if 0xE00 ≤ off && off < 0xE10 then tget s.dropcnt ((off - 0xE00) / 4) 0 % 2 ^ 32
  else 0

/-- A record of a drop log (04 R60). -/
def readDropLog (s : State) (off : Nat) : Nat :=
  match (tget s.drops (off / 0x400) [])[off % 0x400 / 16]? with
  | none => 0
  | some r => wordAt r.word (off / 4 % 4)

/-- DEVREADY.BH of a bulkhead: its READY, once the management element of its die is ready, since none is ready before (24 R370, R377;
log 124). -/
def bulkheadReady (s : State) (n : Nat) : Bool := (s.bh n).state == 6 && bit s.mgmt.toNat (n / 4)

/-- The device registers (24 R370, R374, R378). -/
def readDeviceReg (s : State) (off : Nat) : Nat :=
  if off == 0x60000 then
    b2n s.sec * 2 ^ 31 + s.mgmt.toNat * 2 ^ 27 + s.cxl.toNat * 2 ^ 25 + b2n s.doe * 2 ^ 24 + s.isl.toNat * 2 ^ 16
      + (List.range 16).foldl (fun m n => m + b2n (bulkheadReady s n) * 2 ^ n) 0
  else if off == 0x60004 then s.ualrdy.toNat
  else if 0x60100 ≤ off && off < 0x60140 then
    let b := s.bh ((off - 0x60100) / 4)
    b.temp.toNat * 2 ^ 24 + stepInForce s b % 8 * 2 ^ 16 + b.floor % 8 * 2 ^ 8 + b2n b.trip
  else if 0x60200 ≤ off && off < 0x60280 then
    let l := (tget s.keydg ((off - 0x60200) / 0x20) []).drop (off % 0x20)
    (l.take 4).foldr (fun b n => b.toNat + 256 * n) 0
  else if 0x60300 ≤ off && off < 0x60340 then
    let b := s.bh ((off - 0x60300) / 4)
    b2n b.sigreq * 2 ^ 31 + b.sigkeys.toNat
  else 0

/-- QBUF and QCTL (19 R342). -/
def readQuarantine (b : Bulkhead) (off : Nat) : Nat :=
  if off < 8 then half64 off (b.qbufBase % 2 ^ 52 + b2n b.qbufV)
  else if off == 8 then
    b2n b.qbusy * 2 ^ 30 + b2n b.qerr * 2 ^ 29 + b2n b.qfull * 2 ^ 28 + b.qcause % 4 * 2 ^ 7 + b.qtag % 128
  else 0

/-- FNCFG (03 R44). -/
def readFncfg (s : State) (t off : Nat) : Nat :=
  let f := s.fn t
  if 0x08 ≤ off && off < 0x10 then half64 off (f.jbase % 2 ^ 52)
  else match off with
    | 0x00 => f.qslots % 2 ^ 16
    | 0x04 => f.ctrs % 2 ^ 15
    | 0x10 => b2n f.jen * 2 ^ 31 + f.jlog2 % 32
    | 0x14 => b2n (!queuesInOrder s t) * 2 + b2n f.jerr
    | _ => 0

def readBar2 (s : State) (off : Nat) : Nat :=
  if off < 0x1000 then readPartition s off
  else if off < 0x2000 then readDropLog s (off - 0x1000)
  else if off < 0x2208 then
    let f := s.fn ((off - 0x2000) / 8)
    if off % 8 == 0 then f.gzbase % 2 ^ 12 + f.gzcount % 2 ^ 13 * 2 ^ 16 else 0
  else if 0x10000 ≤ off && off < 0x14000 then
    let g := tget s.gazetteer ((off - 0x10000) / 4) {}
    b2n g.valid * 2 ^ 31 + g.device % 128 * 2 ^ 24 + g.bh % 16 * 2 ^ 20 + g.key.toNat
  else if 0x20000 ≤ off && off < 0x20410 then
    let f := s.fn ((off - 0x20000) / 0x10)
    if off % 0x10 < 8 then half64 off (f.s2root % 2 ^ 52 + b2n f.s2v) else 0
  else if 0x21000 ≤ off && off < 0x21008 then half64 off (s.s2sdaddr % 2 ^ 52)
  else if off == 0x21008 then sdctlRead s.s2busy s.s2err s.s2sdctl
  else if 0x30000 ≤ off && off < 0x34000 then (tget s.cxlmap ((off - 0x30000) / 4) 0).toNat
  else if 0x40000 ≤ off && off < 0x40400 then readQuarantine (s.bh ((off - 0x40000) / 0x40)) (off % 0x40)
  else if off == 0x50000 then b2n s.frzspine * 2 ^ 30 + s.frzmask.toNat
  else if off == 0x50004 then (List.range 16).foldl (fun m n => m + b2n (s.bh n).frozen * 2 ^ n) 0
  else if 0x60000 ≤ off && off < 0x60400 then readDeviceReg s off
  else if 0x70000 ≤ off && off < 0x74000 then
    let h := s.queue ((off - 0x70000) / 4)
    b2n h.qmapV * 2 ^ 31 + h.qmapTag % 128 * 2 ^ 24 + h.qmapLocal % 4096
  else if 0x74000 ≤ off && off < 0x74820 then readFncfg s ((off - 0x74000) / 0x20) (off % 0x20)
  else 0

/-- The 32 bits at an offset of a register map (24 R366): 0 where no register lies; only the physical function has BAR2. -/
def registerWord (s : State) (fn bar off : Nat) : Word :=
  BitVec.ofNat 32
    (if 64 < fn || off % 4 != 0 then 0
    else if bar == 0 then readBar0 s fn off
    else if bar == 2 && fn == 0 then readBar2 s off
    else 0)

/-- A register of BAR0 lies in a bulkhead, whose gate answers for it. -/
def insideBulkhead (bar off : Nat) : Option Nat :=
  if bar == 0 && decide (0x400000 ≤ off) && decide (off < 0xB00000) then some (off / 0x10000 % 16) else none

/-- A read of 32 bits (24 R366). The host gets no word while the spine's clocks stand, and GATED instead of one from a bulkhead that is
frozen or in reset (04 R66, 23 R365). -/
def readRegister (s : State) (fn bar off : Nat) : Option Word :=
  if s.spineFrozen || (insideBulkhead bar off).any (gated s) then none else some (registerWord s fn bar off)

/-! ## The IEEE 1687 network (23 R365) -/

/-- The segment of a unit of a frozen bulkhead, by its number among those of the save image, which the IEEE 1149.1 port shifts
out. -/
def readSegment (s : State) (bh n : Nat) : Option (List Byte) :=
  if (s.bh bh).frozen then some (((s.context bh).image.drop (unitPlace n).1).take (unitPlace n).2) else none

/-- The offset begins a 64-bit register or a half of a 128-bit one (03 R31, R44, 04 R62, 09 R172, 14 R265, 15 R281, 17 R316, 19 R340, R342, 23 R361, R362, 24
R378). -/
def isWide (bar off : Nat) : Bool :=
  if off % 8 != 0 then false
  else if bar == 2 then
    (0x20000 ≤ off && off < 0x20410 && off % 0x10 == 0) || off == 0x21000
      || (0x40000 ≤ off && off < 0x40400 && off % 0x40 == 0) || (0x60200 ≤ off && off < 0x60280)
      || (0x74000 ≤ off && off < 0x74820 && off % 0x20 == 8)
  else
    (0x30000 ≤ off && off < 0x31000) || off == 0x200000 || off == 0x200020 || off == 0x200030 || off == 0x220000
      || (0xF00000 ≤ off && (off % 0x100 == 0 || 0x80 ≤ off % 0x100))
      || (0x800000 ≤ off && off < 0x900000 && off % 0x10000 == 0)
      || (0xA00000 ≤ off && off < 0xB00000
        && (off % 0x10000 == 0x5000 || (0x4200 ≤ off % 0x10000 && off % 0x10000 < 0x4A00 && off % 0x10 == 0)))

end Sys2Proof.Machine
end

