-- ==== Sys2Proof/Machine/Host.lean ====
section
/-!
DEFINITION. The host and the links: MSI-X (24 R367), CXL and UALink ports (24 R368, R369), spine errors (04 R68), boot and
the SPDM responder (24 R377, R379), and writes of registers (00 R8, 24 R366).
-/
namespace Sys2Proof.Machine
open Sys2Proof

/-! ## Interrupts and links -/

/-- MSIX_UNMASK (24 R367): one message is sent for a pending vector. -/
def execMsixUnmask (fn vector : Nat) (s : State) : Out :=
  .next (s.modFn fn fun f =>
    let b := BitVec.ofNat 4 (2 ^ vector)
    { f with msiMask := f.msiMask &&& ~~~b, msiPending := f.msiPending &&& ~~~b,
             msiSent := if bit f.msiPending.toNat vector then f.msiSent ++ [vector] else f.msiSent })

/-- CXL_LINK_DOWN (24 R368). -/
def execCxlLinkDown (port : Nat) (s : State) : Out := .next { s with cxl := s.cxl &&& ~~~(BitVec.ofNat 2 (2 ^ port)) }

/-- CXL_LINK_UP (24 R368). -/
def execCxlLinkUp (port : Nat) (s : State) : Out := .next { s with cxl := s.cxl ||| BitVec.ofNat 2 (2 ^ port) }

/-- UALINK_PORT_READY (24 R369, R370). -/
def execUalinkPortReady (port : Nat) (s : State) : Out := .next { s with ualrdy := s.ualrdy ||| BitVec.ofNat 16 (2 ^ port) }

/-- What is under way is lost: with a port that has failed, what left on it; with an error of a router, what was there, which is free
(log 5). -/
def State.loses (s : State) (failed port : Option Nat) : Bool × State :=
  match failed with
  | some p => (port == some p, s)
  | none => let (w, s) := s.takeFree; (bit w.toNat 0, s)

/-- A remote atomic out in the pod ends with LINK_FAULT where it is lost. -/
def State.loseRemote (s : State) (failed : Option Nat) (fn : Nat) (r : RemoteRec) : State :=
  if r.reply.isSome || remoteInside s fn r then s
  else match s.loses failed r.port with
    | (true, s) => s.remoteReply fn r.ticket 0x0F 0
    | (false, s) => s

/-- The requests of a portal, from its `n`-th entry down. -/
def State.losePortal (s : State) (failed : Option Nat) (bh : Nat) : Nat → State
  | 0 => s
  | n + 1 =>
    match (s.bh bh).portal[n]? with
    | none => s.losePortal failed bh n
    | some p =>
      match s.loses failed p.port with
      | (true, s) => (s.portalReply bh n 0x0F 0).losePortal failed bh n
      | (false, s) => s.losePortal failed bh n

/-- The reads that a streamer has sent to another device. -/
def State.loseRead (s : State) (failed : Option Nat) (k : Nat) (w : Work) : State :=
  if w.port.isNone then s
  else match s.loses failed w.port with
    | (true, s) => s.setWork k (w.answer { status := 0x0F })
    | (false, s) => s

/-- Requests that have left bulkheads for other devices or the host, and are lost. -/
def State.loseSent (s : State) (failed : Option Nat) : State :=
  let s := s.fns.foldl (fun s p => p.2.remote.foldl (fun s r => s.loseRemote failed p.1 r) s) s
  let s := (List.range 16).foldl (fun s b => s.losePortal failed b (s.bh b).portal.length) s
  s.works.foldl (fun s p => s.loseRead failed p.1 p.2) s

/-- UALINK_PORT_FAIL (24 R369): requests on the port complete with LINK_FAULT; those not sent move to another ready port. -/
def execUalinkPortFail (port : Nat) (s : State) : Out :=
  .next (({ s with ualrdy := s.ualrdy &&& ~~~(BitVec.ofNat 16 (2 ^ port)) } : State).loseSent (some port))

/-- The bulkhead that a source sends from is another one. -/
def Source.outside (bh : Nat) : Source → Bool
  | .remote .. => false
  | x => x.bulkhead != bh

/-- The remote atomics on the spine, from the `n`-th packet down. -/
def State.losePackets (s : State) : Nat → State
  | 0 => s
  | n + 1 =>
    match s.packets[n]? with
    | none => s.losePackets n
    | some p =>
      match s.loses none none with
      | (true, s) =>
        let s := { s with packets := removeAt s.packets n }
        (p.atomic.elim s fun a => s.answerAtomic a 0x0F 0).losePackets n
      | (false, s) => s.losePackets n

/-- The requests of other bulkheads on their way to a slice. -/
def State.loseRequests (s : State) (k : Nat) : State :=
  let l := (s.slice k).arrivals
  l.foldl (fun s r =>
    if !r.src.outside (k / 8) || r.op.isWithdrawal then s
    else match s.loses none none with
      | (true, s) => (s.modSlice k fun x => { x with arrivals := x.arrivals.erase r }).refuseReq k r 0x0F
      | (false, s) => s) s

/-- The replies on their way to a bulkhead from the slices of another one. -/
def State.loseReplies (s : State) (dest : Nat) : State :=
  let (l, s) := (s.bh dest).replies.foldr (fun r (p : List Reply × State) =>
    if r.point.all (fun k => k / 8 == dest) then (r :: p.1, p.2)
    else match p.2.loses none none with
      | (true, s) => ({ r with status := 0x0F, value := 0 } :: p.1, s)
      | (false, s) => (r :: p.1, s)) ([], s)
  s.modBh dest fun b => { b with replies := l }

/-- SPINE_UNCORRECTABLE_ERROR (04 R68): the packets in the router of a bulkhead complete with LINK_FAULT. Routes are not stated: any
packet under way between bulkheads, or to the ports, may be there. The physical function sees the error (log 125). -/
def execSpineUncorrectableError (bh : Nat) (s : State) : Out :=
  let s := { s with spineErrors := s.spineErrors ++ [(bh, s.spineTime)] }
  let s := s.losePackets s.packets.length
  let s := (s.slices.map Prod.fst).foldl State.loseRequests s
  .next (((List.range 16).foldl State.loseReplies s).loseSent none)

/-! ## Boot and SPDM (24 R377, R379) -/

/-- The pages of the management elements of a die: four elements of four pages each, with the verified firmware (24 R376; log
131). -/
def managementPages (firmware die : Nat) : List (Nat × Elem) :=
  (List.range 4).map fun n =>
    let page (p : Nat) : Page := (parsePage ((List.range 68).flatMap fun i => bytesOf (Config.firmwareWord firmware die n p i).toNat 4)).1
    (elemKey (16 + die) (0x8000 + 16 * n), { record := { page := page 0 }, pages := (List.range 4).map fun p => some (page p) })

/-- The package at its next reset: everything is as after power-on, with the firmware that the physical function has staged, if it
has; the spec gives the staging no register, and which it is is free (24 R377; log 131). -/
def State.packageReset (s : State) : State :=
  let (w, s) := s.takeFree
  { State.reset with agenda := s.agenda, fresh := s.fresh, firmware := if bit w.toNat 0 then w.toNat / 2 else s.firmware }

/-- POWER_ON_BOOT (24 R376, R377, R370): where both firmwares verify, the security block sets SEC, and the management elements are
released with their pages; else MGMT stays 0 and no bulkhead becomes ready. The responder waits for no other bit, and whether
a class of islands passes its self-test is free. A boot of a package that runs is a package reset. -/
def execPowerOnBoot (secOk : Bool) (mgmtOk : BitVec 4) (s : State) : Out :=
  let s := if s.doe then s.packageReset else s
  let (w, s) := s.takeFree
  let s := { s with doe := true, isl := BitVec.ofNat 3 w.toNat }
  if secOk && mgmtOk == 15 then
    .next (((List.range 4).flatMap (managementPages s.firmware)).foldl (fun (s : State) p => s.setElem p.1 p.2)
      { s with sec := true, mgmt := 15 })
  else .next ((List.range 16).foldl (fun s b => s.modBh b fun x => { x with state := 5, applied := true }) { s with mgmt := 0 })

/-- The fault records of the management element of a die, as the physical function is shown them (24 R376); the spec names no register
for them (log 131). -/
def managementLog (s : State) (die : Nat) : List FaultLogRec := (s.bh (16 + die)).fltlog

/-- A response is sent, once the responder is ready. -/
def State.respond (s : State) (code : Nat) (request facts : List Byte) : Out :=
  if s.doe then .next { s with spdm := s.spdm ++ [(code, Config.spdmMessage code request facts)] } else .next s

/-- GET_VERSION: SPDM 1.3. -/
def execGetVersion (request : List Byte) (s : State) : Out := s.respond 0x84 request [0x13]
/-- GET_CAPABILITIES: secure sessions are not supported. -/
def execGetCapabilities (request : List Byte) (s : State) : Out := s.respond 0xE1 request [0]
/-- NEGOTIATE_ALGORITHMS: ML-DSA-44 and SHA3-256, by their names. -/
def execNegotiateAlgorithms (request : List Byte) (s : State) : Out := s.respond 0xE3 request [44, 1]
/-- GET_DIGESTS: the digest of the certificate of slot 0. -/
def execGetDigests (request : List Byte) (s : State) : Out :=
  s.respond 0x81 request (sha3 Config.identityCertificate)
/-- GET_CERTIFICATE: the certificate of slot 0. -/
def execGetCertificate (request : List Byte) (s : State) : Out := s.respond 0x82 request Config.identityCertificate
/-- CHALLENGE: a signature by the device identity key. -/
def execChallenge (request : List Byte) (s : State) : Out := s.respond 0x83 request (Config.identitySign request)

/-- The two registers of an open window (04 R62). -/
def Window.bytes (w : Window) : List Byte := bytesOf w.wexp 16 ++ bytesOf w.wimp 16

/-- Measurement 3 (24 R379): the partition state in register order. -/
def partitionState (s : State) : List Byte :=
  ((List.range 16).flatMap fun b => bytesOf (s.bh b).cfgWord 4)
    ++ ((List.range 65).flatMap fun t => bytesOf (s.fn t).fkey.toNat 4)
    ++ ((List.range 8).flatMap fun p => bytesOf (s.pool p).word 4)
    ++ ((List.range 16).flatMap fun n => bytesOf (s.ovnOf n).word 4)
    ++ ((List.range 16).flatMap fun b => (List.range 8).flatMap fun w =>
      let x := s.window b w
      if x.exp.state == 2 || x.imp.state == 2 then x.bytes else [])

/-- The measurements (24 R379). -/
def measurements (s : State) : List Byte :=
  Config.firmwareDigest s.firmware 1 ++ Config.firmwareDigest s.firmware 2 ++ partitionState s
    ++ (List.range 16).flatMap fun b => ((s.bh b).load.map Load.digest).getD (List.replicate 32 0)

/-- GET_MEASUREMENTS. -/
def execGetMeasurements (request : List Byte) (s : State) : Out := s.respond 0xE0 request (measurements s)

/-! ## Register writes (00 R8, 24 R366) -/

/-- The low 32 bits of a written value. -/
def low32 (v : BitVec 64) : Word := BitVec.ofNat 32 v.toNat

/-- A write of SDCTL: its fields are kept; GO, while BUSY is 0, runs the shootdown of its KIND, and a reserved KIND sets ERR (14
R265). -/
def writeSdctl (fn : Nat) (w : Word) (s : State) : Out :=
  let v := w.toNat
  let s := s.modFn fn fun f => { f with sdctl := ctlWord (bits v 27 2) (bits v 25 2) (bit v 24) (bits v 0 20) }
  if !bit v 31 || (s.fn fn).sdbusy then .next s
  else match bits v 27 2 with
    | 0 => execShootdownPage fn (bits v 0 20) (bits v 25 2) (bit v 24) s
    | 1 => execShootdownPasid fn (bits v 0 20) s
    | 2 => execShootdownFunction fn s
    | _ => .next (s.modFn fn fun f => { f with sderr := true })

/-- A write of S2SDCTL. -/
def writeS2sdctl (w : Word) (s : State) : Out :=
  let v := w.toNat
  let s := { s with s2sdctl := ctlWord (bits v 27 2) (bits v 25 2) (bit v 24) (bits v 0 7) }
  if !bit v 31 || s.s2busy then .next s
  else match bits v 27 2 with
    | 0 => execS2ShootdownPage (bits v 0 7) (bits v 25 2) (bit v 24) s
    | 1 => execS2ShootdownTag (bits v 0 7) s
    | 2 => execS2ShootdownRegion (bit v 24) s
    | _ => .next { s with s2err := true }

/-- A register of a queue's block (03 R31). -/
def writeQueueReg (fn loc off : Nat) (v : BitVec 64) (s : State) : Out :=
  match queueBlock s fn loc with
  | none => .next s
  | some q =>
    if off == 0x00 then
      .next (s.modQueue q fun h => if h.en then h else { h with base := v.toNat / 64 * 64 })
    else if off == 0x08 then execQcfgWrite fn loc (low32 v) s
    else if off == 0x10 then execQdb fn loc (v.toNat % 2 ^ 32) s
    else if off == 0x18 then (if bit v.toNat 31 then execQkill fn loc s else .next s)
    else if 0x80 ≤ off && off % 8 == 0 then
      .next (s.modQueue q fun h => { h with gtab := tset h.gtab ((off - 0x80) / 8) v.toNat })
    else .next s

/-- A register of an ask hub's block (17 R316); pool and policy words wait for step 6 of the hub cycle (17 R305). -/
def writeHubReg (bh off : Nat) (v : BitVec 64) (s : State) : Out :=
  let w := low32 v
  let n := v.toNat
  if off == 0x000 then .next (s.modHub bh fun h => { h with tlbase := bits n 6 51 * 64 })
  else if off == 0x008 then
    .next (s.modHub bh fun h =>
      { h with tlen := bit n 31, tllog2 := if 4 ≤ bits n 0 5 && bits n 0 5 ≤ 20 then bits n 0 5 else 4 })
  else if off == 0x010 then .next (s.modHub bh fun h => { h with tlhead := bits n 0 20 })
  else if 0x100 ≤ off && off < 0x140 && off % 4 == 0 then
    .next (s.modHub bh fun h =>
      { h with writes := h.writes ++ [{ index := 0x140 + (off - 0x100) / 4, site := 0, value := w }] })
  else if 0x8000 ≤ off && off % 4 == 0 then
    .next (s.modHub bh fun h =>
      { h with writes := h.writes ++ [{ index := 0x120 + off % 0x80 / 4, site := (off - 0x8000) / 0x80, value := w }] })
  else .next s

/-- An element address names an element (02 R19). -/
def isElement (a : Nat) : Bool :=
  a % 16 == 0 && if bit a 15 then decide (bits a 11 4 < 2) && bits a 8 3 == 0
    else decide (bits a 11 4 < 12) && bits a 11 4 % 3 != 2

/-- A register of a debug block (23 R357-R363). -/
def writeDebugReg (fn bh off : Nat) (v : BitVec 64) (s : State) : Out :=
  let w := low32 v
  let n := v.toNat
  if off < 0x4000 then
    if off % 4 == 0 && isElement (off / 4 * 16) then .next (s.modDebug bh fun d => { d with sbp := tset d.sbp (off / 4) w })
    else .next s
  else if off == 0x4000 then
    if !bit n 31 then .next s
    else if bit n 29 then execDebugReleaseAll fn bh s
    else if bit n 30 then execDebugStep fn bh (bits n 0 16) s
    else execDebugRelease fn bh (bits n 0 16) s
  else if off == 0x4008 then execHaltlogClear fn bh w s
  else if 0x4200 ≤ off && off < 0x4A00 then
    let k := 64 * bh + (off - 0x4200) / 0x40
    let m := off % 0x40 / 0x10
    let put (f : Watchpoint → Watchpoint) : State := s.modTile k fun t => { t with watch := tset t.watch m (f (tget t.watch m {})) }
    if off % 0x10 == 0 then .next (put fun x => { x with addr := n % 2 ^ 57 })
    else if off % 0x10 == 8 then
      .next (put fun x => { x with ctl := BitVec.ofNat 32 (bits n 26 6 * 2 ^ 26 + bits n 0 5), log2 := bits n 0 5 })
    else if off % 0x10 == 12 then .next (put fun x => { x with count := w })
    else .next s
  else if off == 0x5000 then .next (s.modDebug bh fun d => { d with smpbase := bits n 6 51 * 64 })
  else if off == 0x5008 then
    .next (s.modDebug bh fun d =>
      let e := { d with smpen := bit n 31, smplog2p := bits n 16 5, smplog2 := bits n 0 5 }
      if bit n 31 && !d.smpen then { e with smpat := s.cycle + e.period } else e)
  else if off == 0x5010 then .next (s.modDebug bh fun d => { d with smphead := bits n 0 20 })
  else if off == 0x6000 then
    .next (s.modDebug bh fun d =>
      { d with tren := bit n 31 && (s.bh bh).mode == 1, trwrap := bit n 30, trmask := BitVec.ofNat 8 n })
  else .next s

/-- IFLAGS of a matrix or streamer island: a 1 clears its bit (12 R240). -/
def writeIslandReg (bh i : Nat) (n : Nat) (s : State) : State :=
  let m : Flags := BitVec.ofNat 6 (n % 32)
  if i < 4 then s.modIsland (4 * bh + i) fun x => { x with flags := x.flags &&& ~~~m }
  else s.modStreamer (2 * bh + (i - 4)) fun x =>
    { x with flags := x.flags &&& ~~~m, edge := x.edge && !bit n 7, nans := x.nans && !bit n 6 }

/-- A register of BAR0 that lies in a bulkhead, for a function that reaches it. -/
def writeBulkheadReg (fn off : Nat) (v : BitVec 64) (s : State) : Out :=
  let n := v.toNat
  let block := off / 0x100000
  let bh := off / 0x10000 % 16
  let o := off % 0x10000
  if !reaches s fn bh then .next s
  else if block == 4 then (if o % 0x40 == 0x38 then execCounterClear fn bh (o / 0x40) (low32 v) s else .next s)
  else if block == 5 then (if o % 0x100 == 0 && o / 0x100 < 6 then .next (writeIslandReg bh (o / 0x100) n s) else .next s)
  else if block == 6 then (if o % 4 == 0 && o / 4 < 1024 then execSemcntWrite fn bh (o / 4) (low32 v) s else .next s)
  else if block == 7 then
    (if o % 0x200 == 0x100 && o / 0x200 < 8 then
      .next (s.modSlice (8 * bh + o / 0x200) fun x => { x with logCount := x.logCount &&& (255 - n % 256) })
    else .next s)
  else if block == 8 then writeHubReg bh o v s
  else if block == 9 then (if o == 0x1400 then execSinklogClear fn bh (low32 v) s else .next s)
  else if block == 10 then writeDebugReg fn bh o v s
  else .next s

/-- A half of WEXP or WIMP is written: the grant of the slot with that half replaced (04 R62). -/
def writeWindowHalf (fn off : Nat) (v : BitVec 64) (s : State) : Out :=
  let bh := (off - 0x30000) / 0x100
  let n := off % 0x100 / 0x20
  let importing := decide (0x10 ≤ off % 0x20)
  let w := s.window bh n
  let old := if importing then w.wimp else w.wexp
  let x := if off % 0x10 == 0 then old / 2 ^ 64 * 2 ^ 64 + v.toNat else old % 2 ^ 64 + v.toNat * 2 ^ 64
  execWindowGrantWrite fn bh n importing (BitVec.ofNat 128 x) s

/-- A register of a function's BAR0. -/
def writeBar0 (fn off : Nat) (v : BitVec 64) (s : State) : Out :=
  let n := v.toNat
  let f (g : Function → Function) : Out := .next (s.modFn fn g)
  if 0xF00000 ≤ off then writeQueueReg fn ((off - 0xF00000) / 0x100) (off % 0x100) v s
  else if 0x400000 ≤ off then writeBulkheadReg fn off v s
  else if 0x30000 ≤ off && off < 0x31000 && off % 8 == 0 then writeWindowHalf fn off v s
  else if off == 0x200000 then f fun x => { x with pctx := bits n 6 46 * 64, pctxLog2 := bits n 0 5 }
  else if off == 0x200010 then f fun x => { x with freemem := low32 v }
  else if off == 0x200020 then f fun x => { x with sdaddr := bits n 12 45 * 4096 }
  else if off == 0x200028 then writeSdctl fn (low32 v) s
  else if off == 0x200030 then f fun x => { x with saveV := bit n 63, saveBase := bits n 12 45 * 4096 }
  else if off == 0x200038 then f fun x => { x with savePasid := bits n 0 20 }
  else if 0x200100 ≤ off && off < 0x200200 && off % 4 == 0 then
    f fun x => { x with pwt := tset x.pwt ((off - 0x200100) / 4) (BitVec.ofNat 32 (n % 2 ^ 28)) }
  else if off == 0x220000 then f fun x => { x with rcqbase := bits n 6 51 * 64 }
  else if off == 0x220008 then f fun x => { x with rcqen := bit n 31, rcqlog2 := bits n 0 5 }
  else if off == 0x220010 then
    f fun x =>
      let size := 2 ^ x.rcqlog2
      { x with rcqhead := bits n 0 16, rcqunread := x.rcqunread - (bits n 0 16 + size - x.rcqhead % size) % size }
  else .next s

/-- The lines of a CXL region still cached in home slices (09 R176). -/
def regionCached (s : State) (i : Nat) : Bool :=
  s.slices.any fun p => p.2.cache.any fun l =>
    let x := l.line * 256 - 0x2000000000000
    l.cxl && x / 0x20000000000 * 2048 + x % 0x20000000000 / 2 ^ 30 == i

/-- A register of a function's limits (03 R44). -/
def writeFncfg (t off : Nat) (n : Nat) (s : State) : Out :=
  let f (g : Function → Function) : Out := .next (s.modFn t g)
  if off == 0x00 then f fun x => { x with qslots := bits n 0 16 }
  else if off == 0x04 then f fun x => { x with ctrs := min 16384 (bits n 0 15) }
  else if off == 0x08 then f fun x => if x.jen then x else { x with jbase := bits n 12 40 * 4096 }
  else if off == 0x10 then
    f fun x =>
      { x with jen := bit n 31,
               jlog2 := if x.jen then x.jlog2 else if 6 ≤ bits n 0 5 && bits n 0 5 ≤ 16 then bits n 0 5 else 6,
               jerr := x.jerr && !bit n 31 }
  else .next s

/-- A register of the partition block, below 0x1000 (04 R47-R60, 19 R343). -/
def writePartition (off : Nat) (v : BitVec 64) (s : State) : Out :=
  let n := v.toNat
  let w := low32 v
  if off < 0x400 then
    if off % 0x40 == 0 then execBhcfgWrite (off / 0x40) w s
    else if off % 0x40 == 4 then execBhrst (off / 0x40) w s
    else .next s
  else if off < 0x800 then
    if off % 4 == 0 && (off - 0x400) / 4 ≤ 64 then .next (s.modFn ((off - 0x400) / 4) fun x => { x with fkey := BitVec.ofNat 16 n })
    else .next s
  else if off < 0xA00 then
    let p := (off - 0x800) / 0x40
    let o := off % 0x40
    if o == 0 then execPoolEnable p w s
    else if o == 4 then .next (s.modPool p fun x => { x with dl := bits n 0 16 })
    else if 0x20 ≤ o && o % 4 == 0 then
      let j := (o - 0x20) / 2
      let entry (n : Nat) : Word := BitVec.ofNat 32 (n / 128 % 512 / 2 * 256 + n % 128)
      .next (s.modPool p fun x => { x with rot := tset (tset x.rot j (entry (bits n 0 16))) (j + 1) (entry (bits n 16 16)) })
    else .next s
  else if off < 0xC00 then .next s
  else if off < 0xC80 then (if off % 8 == 0 then execOvnEnable ((off - 0xC00) / 8) w s else .next s)
  else if 0xE00 ≤ off && off < 0xE10 && off % 4 == 0 then execDropcntClear ((off - 0xE00) / 4) w s
  else .next s

/-- A device register, from 0x6_0000 (24 R370, R374, R378). -/
def writeDeviceReg (off : Nat) (v : BitVec 64) (s : State) : Out :=
  let n := v.toNat
  if 0x60100 ≤ off && off < 0x60140 && off % 4 == 0 then
    .next (s.modBh ((off - 0x60100) / 4) fun b => { b with floor := bits n 8 3, trip := b.trip && !bit n 0 })
  else if 0x60200 ≤ off && off < 0x60280 && off % 8 == 0 then
    let k := (off - 0x60200) / 0x20
    let old := tget s.keydg k (List.replicate 32 0)
    let i := off % 0x20
    .next { s with keydg := tset s.keydg k (old.take i ++ bytesOf n 8 ++ old.drop (i + 8)) }
  else if 0x60300 ≤ off && off < 0x60340 && off % 4 == 0 then
    .next (s.modBh ((off - 0x60300) / 4) fun b => { b with sigreq := bit n 31, sigkeys := BitVec.ofNat 4 n })
  else .next s

/-- QBUF and QCTL of a bulkhead (19 R342). -/
def writeQuarantine (bh off : Nat) (n : Nat) (s : State) : Out :=
  if off == 0 then .next (s.modBh bh fun b => { b with qbufBase := bits n 24 28 * 2 ^ 24, qbufV := bit n 0 })
  else if off == 8 then
    if bit n 31 then execRestoreQuarantine bh s else if bit n 27 then execDiscard bh s else .next s
  else .next s

/-- A register of the physical function's BAR2. -/
def writeBar2 (off : Nat) (v : BitVec 64) (s : State) : Out :=
  let n := v.toNat
  if off < 0x1000 then writePartition off v s
  else if 0x2000 ≤ off && off < 0x2208 then
    if off % 8 == 0 then
      .next (s.modFn ((off - 0x2000) / 8) fun x => { x with gzbase := bits n 0 12, gzcount := min 4096 (bits n 16 13) })
    else .next s
  else if 0x10000 ≤ off && off < 0x14000 then
    if off % 4 == 0 then
      let g : Gazette := { valid := bit n 31, device := bits n 24 7, bh := bits n 20 4, key := BitVec.ofNat 16 n }
      .next { s with gazetteer := tset s.gazetteer ((off - 0x10000) / 4) g }
    else .next s
  else if 0x20000 ≤ off && off < 0x20410 then
    if off % 0x10 == 0 then
      .next (s.modFn ((off - 0x20000) / 0x10) fun x => { x with s2root := bits n 12 40 * 4096, s2v := bit n 0 })
    else .next s
  else if off == 0x21000 then .next { s with s2sdaddr := bits n 12 40 * 4096 }
  else if off == 0x21008 then writeS2sdctl (low32 v) s
  else if 0x30000 ≤ off && off < 0x34000 then
    let i := (off - 0x30000) / 4
    if off % 4 != 0 || regionCached s i then .next s
    else .next { s with cxlmap := tset s.cxlmap i (BitVec.ofNat 32 (bits n 30 2 * 2 ^ 30 + bits n 0 4)) }
  else if 0x40000 ≤ off && off < 0x40400 then writeQuarantine ((off - 0x40000) / 0x40) (off % 0x40) n s
  else if off == 0x50000 then execFreeze (low32 v) s
  else if 0x60000 ≤ off && off < 0x60400 then writeDeviceReg off v s
  else if 0x70000 ≤ off && off < 0x74000 then (if off % 4 == 0 then execQmapWrite ((off - 0x70000) / 4) (low32 v) s else .next s)
  else if 0x74000 ≤ off && off < 0x74820 then writeFncfg ((off - 0x74000) / 0x20) (off % 0x20) n s
  else .next s

/-- A write of a whole register, 64 bits or 32, to an offset that begins one; only the physical function has BAR2. -/
def writeRegister (fn bar off : Nat) (v : BitVec 64) (s : State) : Out :=
  if bar == 0 then writeBar0 fn off v s
  else if bar == 2 && fn == 0 then writeBar2 off v s
  else .next s

/-- REGISTER_WRITE (00 R8, 24 R366): a write of 64 bits, or of 32 bits, which writes one half of a 64-bit register and
leaves the other as it reads. A write where no register lies, and one of a function above 64, is ignored. -/
def execRegisterWrite (fn bar offset : Nat) (wide : Bool) (value : BitVec 64) (s : State) : Out :=
  if 64 < fn then .next s
  else if wide then writeRegister fn bar offset value s
  else
    let w := (low32 value).toNat
    if isWide bar offset then
      writeRegister fn bar offset (BitVec.ofNat 64 (w + (registerWord s fn bar (offset + 4)).toNat * 2 ^ 32)) s
    else if offset % 8 == 4 && isWide bar (offset - 4) then
      writeRegister fn bar (offset - 4) (BitVec.ofNat 64 (w * 2 ^ 32 + (registerWord s fn bar (offset - 4)).toNat)) s
    else writeRegister fn bar offset (BitVec.ofNat 64 w) s

end Sys2Proof.Machine
end

