-- ==== Sys2Proof/Machine/Dispatch.lean ====
section
/-!
DEFINITION. The one dispatch: every constructor of `Instr` to its meaning.
-/
namespace Sys2Proof.Machine
open Sys2Proof

/-- The meaning of an instruction or step in a state. -/
def exec (i : Instr) (s : State) : Host.Outcome State Fault Refusal :=
  match i with
  | .addiS32 t dst a imm => Sys2Proof.Machine.execAddiS32 t dst a imm s
  | .addS32 t dst a b => Sys2Proof.Machine.execAddS32 t dst a b s
  | .addsS32 t dst a b => Sys2Proof.Machine.execAddsS32 t dst a b s
  | .subS32 t dst a b => Sys2Proof.Machine.execSubS32 t dst a b s
  | .subsS32 t dst a b => Sys2Proof.Machine.execSubsS32 t dst a b s
  | .negS32 t dst a => Sys2Proof.Machine.execNegS32 t dst a s
  | .absS32 t dst a => Sys2Proof.Machine.execAbsS32 t dst a s
  | .addS16 t dst a b => Sys2Proof.Machine.execAddS16 t dst a b s
  | .addsS16 t dst a b => Sys2Proof.Machine.execAddsS16 t dst a b s
  | .subS16 t dst a b => Sys2Proof.Machine.execSubS16 t dst a b s
  | .subsS16 t dst a b => Sys2Proof.Machine.execSubsS16 t dst a b s
  | .mulS32 t dst a b => Sys2Proof.Machine.execMulS32 t dst a b s
  | .mulhS32 t dst a b => Sys2Proof.Machine.execMulhS32 t dst a b s
  | .mulhN32 t dst a b => Sys2Proof.Machine.execMulhN32 t dst a b s
  | .macS32 t dst a b => Sys2Proof.Machine.execMacS32 t dst a b s
  | .mulS16 t dst a b => Sys2Proof.Machine.execMulS16 t dst a b s
  | .dotS8 t dst a b => Sys2Proof.Machine.execDotS8 t dst a b s
  | .dotN8 t dst a b => Sys2Proof.Machine.execDotN8 t dst a b s
  | .divS32 t dst a b => Sys2Proof.Machine.execDivS32 t dst a b s
  | .divN32 t dst a b => Sys2Proof.Machine.execDivN32 t dst a b s
  | .remS32 t dst a b => Sys2Proof.Machine.execRemS32 t dst a b s
  | .remN32 t dst a b => Sys2Proof.Machine.execRemN32 t dst a b s
  | .minS32 t dst a b => Sys2Proof.Machine.execMinS32 t dst a b s
  | .maxS32 t dst a b => Sys2Proof.Machine.execMaxS32 t dst a b s
  | .minN32 t dst a b => Sys2Proof.Machine.execMinN32 t dst a b s
  | .maxN32 t dst a b => Sys2Proof.Machine.execMaxN32 t dst a b s
  | .and t dst a b => Sys2Proof.Machine.execAnd t dst a b s
  | .or t dst a b => Sys2Proof.Machine.execOr t dst a b s
  | .xor t dst a b => Sys2Proof.Machine.execXor t dst a b s
  | .not t dst a => Sys2Proof.Machine.execNot t dst a s
  | .andi t dst a imm => Sys2Proof.Machine.execAndi t dst a imm s
  | .shl t dst a b => Sys2Proof.Machine.execShl t dst a b s
  | .shr t dst a b => Sys2Proof.Machine.execShr t dst a b s
  | .sar t dst a b => Sys2Proof.Machine.execSar t dst a b s
  | .shli t dst a imm => Sys2Proof.Machine.execShli t dst a imm s
  | .shri t dst a imm => Sys2Proof.Machine.execShri t dst a imm s
  | .sari t dst a imm => Sys2Proof.Machine.execSari t dst a imm s
  | .clz t dst a => Sys2Proof.Machine.execClz t dst a s
  | .ctz t dst a => Sys2Proof.Machine.execCtz t dst a s
  | .popc t dst a => Sys2Proof.Machine.execPopc t dst a s
  | .ldi t dst imm => Sys2Proof.Machine.execLdi t dst imm s
  | .ldhi t dst imm => Sys2Proof.Machine.execLdhi t dst imm s
  | .lit t dst lit => Sys2Proof.Machine.execLit t dst lit s
  | .ceqS32 t dst a b => Sys2Proof.Machine.execCeqS32 t dst a b s
  | .cneS32 t dst a b => Sys2Proof.Machine.execCneS32 t dst a b s
  | .cltS32 t dst a b => Sys2Proof.Machine.execCltS32 t dst a b s
  | .cleS32 t dst a b => Sys2Proof.Machine.execCleS32 t dst a b s
  | .cgtS32 t dst a b => Sys2Proof.Machine.execCgtS32 t dst a b s
  | .cgeS32 t dst a b => Sys2Proof.Machine.execCgeS32 t dst a b s
  | .cltN32 t dst a b => Sys2Proof.Machine.execCltN32 t dst a b s
  | .cleN32 t dst a b => Sys2Proof.Machine.execCleN32 t dst a b s
  | .cgtN32 t dst a b => Sys2Proof.Machine.execCgtN32 t dst a b s
  | .cgeN32 t dst a b => Sys2Proof.Machine.execCgeN32 t dst a b s
  | .ceqF32 t dst a b => Sys2Proof.Machine.execCeqF32 t dst a b s
  | .cneF32 t dst a b => Sys2Proof.Machine.execCneF32 t dst a b s
  | .cltF32 t dst a b => Sys2Proof.Machine.execCltF32 t dst a b s
  | .cleF32 t dst a b => Sys2Proof.Machine.execCleF32 t dst a b s
  | .cunF32 t dst a b => Sys2Proof.Machine.execCunF32 t dst a b s
  | .pand t dst a b => Sys2Proof.Machine.execPand t dst a b s
  | .por t dst a b => Sys2Proof.Machine.execPor t dst a b s
  | .pxor t dst a b => Sys2Proof.Machine.execPxor t dst a b s
  | .ceqF64 t dst a b => Sys2Proof.Machine.execCeqF64 t dst a b s
  | .cltF64 t dst a b => Sys2Proof.Machine.execCltF64 t dst a b s
  | .cleF64 t dst a b => Sys2Proof.Machine.execCleF64 t dst a b s
  | .cunF64 t dst a b => Sys2Proof.Machine.execCunF64 t dst a b s
  | .ctag t dst a imm => Sys2Proof.Machine.execCtag t dst a imm s
  | .mov t dst a => Sys2Proof.Machine.execMov t dst a s
  | .tagv t dst a b => Sys2Proof.Machine.execTagv t dst a b s
  | .selv t dst a imm => Sys2Proof.Machine.execSelv t dst a imm s
  | .drop t a => Sys2Proof.Machine.execDrop t a s
  | .selPn t n dst a b => Sys2Proof.Machine.execSelPn t n dst a b s
  | .send t payload label => Sys2Proof.Machine.execSend t payload label s
  | .sendr t label a b => Sys2Proof.Machine.execSendr t label a b s
  | .done t code => Sys2Proof.Machine.execDone t code s
  | .spawn t dst a b => Sys2Proof.Machine.execSpawn t dst a b s
  | .faddF32 t dst a b => Sys2Proof.Machine.execFaddF32 t dst a b s
  | .fsubF32 t dst a b => Sys2Proof.Machine.execFsubF32 t dst a b s
  | .fmulF32 t dst a b => Sys2Proof.Machine.execFmulF32 t dst a b s
  | .fmacF32 t dst a b => Sys2Proof.Machine.execFmacF32 t dst a b s
  | .fnmacF32 t dst a b => Sys2Proof.Machine.execFnmacF32 t dst a b s
  | .fminF32 t dst a b => Sys2Proof.Machine.execFminF32 t dst a b s
  | .fmaxF32 t dst a b => Sys2Proof.Machine.execFmaxF32 t dst a b s
  | .fabsF32 t dst a => Sys2Proof.Machine.execFabsF32 t dst a s
  | .fnegF32 t dst a => Sys2Proof.Machine.execFnegF32 t dst a s
  | .fcpsgnF32 t dst a b => Sys2Proof.Machine.execFcpsgnF32 t dst a b s
  | .frsqsF32 t dst a => Sys2Proof.Machine.execFrsqsF32 t dst a s
  | .frcpsF32 t dst a => Sys2Proof.Machine.execFrcpsF32 t dst a s
  | .fex2sF32 t dst a => Sys2Proof.Machine.execFex2sF32 t dst a s
  | .flg2sF32 t dst a => Sys2Proof.Machine.execFlg2sF32 t dst a s
  | .fclsF32 t dst a => Sys2Proof.Machine.execFclsF32 t dst a s
  | .frndF32 t dst a => Sys2Proof.Machine.execFrndF32 t dst a s
  | .faddH16 t dst a b => Sys2Proof.Machine.execFaddH16 t dst a b s
  | .fsubH16 t dst a b => Sys2Proof.Machine.execFsubH16 t dst a b s
  | .fmulH16 t dst a b => Sys2Proof.Machine.execFmulH16 t dst a b s
  | .fmacH16 t dst a b => Sys2Proof.Machine.execFmacH16 t dst a b s
  | .fminH16 t dst a b => Sys2Proof.Machine.execFminH16 t dst a b s
  | .fmaxH16 t dst a b => Sys2Proof.Machine.execFmaxH16 t dst a b s
  | .fdotH16 t dst a b => Sys2Proof.Machine.execFdotH16 t dst a b s
  | .fdmacH16 t dst a b => Sys2Proof.Machine.execFdmacH16 t dst a b s
  | .cvtF32S32 t dst a => Sys2Proof.Machine.execCvtF32S32 t dst a s
  | .cvtS32F32 t dst a => Sys2Proof.Machine.execCvtS32F32 t dst a s
  | .cvtF32N32 t dst a => Sys2Proof.Machine.execCvtF32N32 t dst a s
  | .cvtN32F32 t dst a => Sys2Proof.Machine.execCvtN32F32 t dst a s
  | .cvtH16F32 t dst a b => Sys2Proof.Machine.execCvtH16F32 t dst a b s
  | .cvtlF32H16 t dst a => Sys2Proof.Machine.execCvtlF32H16 t dst a s
  | .cvthF32H16 t dst a => Sys2Proof.Machine.execCvthF32H16 t dst a s
  | .cvtS8F32 t dst a => Sys2Proof.Machine.execCvtS8F32 t dst a s
  | .cvtMx8e4F32 t dst a b => Sys2Proof.Machine.execCvtMx8e4F32 t dst a b s
  | .cvtMx8e5F32 t dst a b => Sys2Proof.Machine.execCvtMx8e5F32 t dst a b s
  | .cvtF32Mx8e4 t dst a b => Sys2Proof.Machine.execCvtF32Mx8e4 t dst a b s
  | .cvtF32Mx8e5 t dst a b => Sys2Proof.Machine.execCvtF32Mx8e5 t dst a b s
  | .cvtWf8F32 t dst a b => Sys2Proof.Machine.execCvtWf8F32 t dst a b s
  | .cvtF32Wf8 t dst a b => Sys2Proof.Machine.execCvtF32Wf8 t dst a b s
  | .cvtWf5F32 t dst a b => Sys2Proof.Machine.execCvtWf5F32 t dst a b s
  | .cvtF32Wf5 t dst a b => Sys2Proof.Machine.execCvtF32Wf5 t dst a b s
  | .cvtWf3F32 t dst a b => Sys2Proof.Machine.execCvtWf3F32 t dst a b s
  | .cvtF32Wf3 t dst a b => Sys2Proof.Machine.execCvtF32Wf3 t dst a b s
  | .faddF64 t dst a b => Sys2Proof.Machine.execFaddF64 t dst a b s
  | .fsubF64 t dst a b => Sys2Proof.Machine.execFsubF64 t dst a b s
  | .fmulF64 t dst a b => Sys2Proof.Machine.execFmulF64 t dst a b s
  | .fmacF64 t dst a b => Sys2Proof.Machine.execFmacF64 t dst a b s
  | .fdivF64 t dst a b => Sys2Proof.Machine.execFdivF64 t dst a b s
  | .fsqrtF64 t dst a => Sys2Proof.Machine.execFsqrtF64 t dst a s
  | .fminF64 t dst a b => Sys2Proof.Machine.execFminF64 t dst a b s
  | .fmaxF64 t dst a b => Sys2Proof.Machine.execFmaxF64 t dst a b s
  | .cvtF64F32 t dst a => Sys2Proof.Machine.execCvtF64F32 t dst a s
  | .cvtF32F64 t dst a => Sys2Proof.Machine.execCvtF32F64 t dst a s
  | .cvtF64S32 t dst a => Sys2Proof.Machine.execCvtF64S32 t dst a s
  | .cvtS32F64 t dst a => Sys2Proof.Machine.execCvtS32F64 t dst a s
  | .fabsF64 t dst a => Sys2Proof.Machine.execFabsF64 t dst a s
  | .fnegF64 t dst a => Sys2Proof.Machine.execFnegF64 t dst a s
  | .ldN32 t dst a wave => Sys2Proof.Machine.execLdN32 t dst a wave s
  | .ldS16 t dst a wave => Sys2Proof.Machine.execLdS16 t dst a wave s
  | .ldN16 t dst a wave => Sys2Proof.Machine.execLdN16 t dst a wave s
  | .ldS8 t dst a wave => Sys2Proof.Machine.execLdS8 t dst a wave s
  | .ldN8 t dst a wave => Sys2Proof.Machine.execLdN8 t dst a wave s
  | .stN32 t data a wave => Sys2Proof.Machine.execStN32 t data a wave s
  | .stN16 t data a wave => Sys2Proof.Machine.execStN16 t data a wave s
  | .stN8 t data a wave => Sys2Proof.Machine.execStN8 t data a wave s
  | .pf t a wave => Sys2Proof.Machine.execPf t a wave s
  | .gstN32 t data a wave => Sys2Proof.Machine.execGstN32 t data a wave s
  | .gstN16 t data a wave => Sys2Proof.Machine.execGstN16 t data a wave s
  | .gstN8 t data a wave => Sys2Proof.Machine.execGstN8 t data a wave s
  | .ldN64 t dst a wave => Sys2Proof.Machine.execLdN64 t dst a wave s
  | .stN64 t data a wave => Sys2Proof.Machine.execStN64 t data a wave s
  | .amo t dst a b lit => Sys2Proof.Machine.execAmo t dst a b lit s
  | .amoc t dst a b lit => Sys2Proof.Machine.execAmoc t dst a b lit s
  | .sems t dst a b => Sys2Proof.Machine.execSems t dst a b s
  | .semw t dst a b => Sys2Proof.Machine.execSemw t dst a b s
  | .arrive t dst a b => Sys2Proof.Machine.execArrive t dst a b s
  | .fencel t dst a b => Sys2Proof.Machine.execFencel t dst a b s
  | .fenceh t dst a b => Sys2Proof.Machine.execFenceh t dst a b s
  | .fence t lit => Sys2Proof.Machine.execFence t lit s
  | .ifence t => Sys2Proof.Machine.execIfence t s
  | .mcmd t target a b => Sys2Proof.Machine.execMcmd t target a b s
  | .scmd t target a b => Sys2Proof.Machine.execScmd t target a b s
  | .qcmd t target a b => Sys2Proof.Machine.execQcmd t target a b s
  | .ask t dst a b => Sys2Proof.Machine.execAsk t dst a b s
  | .answer t a b => Sys2Proof.Machine.execAnswer t a b s
  | .setpg t page => Sys2Proof.Machine.execSetpg t page s
  | .nop t => Sys2Proof.Machine.execNop t s
  | .trap t code => Sys2Proof.Machine.execTrap t code s
  | .bkpt t code => Sys2Proof.Machine.execBkpt t code s
  | .srd t dst index => Sys2Proof.Machine.execSrd t dst index s
  | .swr t value index => Sys2Proof.Machine.execSwr t value index s
  | .vectorBeat elem => Sys2Proof.Machine.execVectorBeat elem s
  | .tokenDelivery elem port => Sys2Proof.Machine.execTokenDelivery elem port s
  | .sendQueueDrain elem => Sys2Proof.Machine.execSendQueueDrain elem s
  | .shuttleArrival bh index => Sys2Proof.Machine.execShuttleArrival bh index s
  | .handOver elem => Sys2Proof.Machine.execHandOver elem s
  | .performRequest tile index => Sys2Proof.Machine.execPerformRequest tile index s
  | .storeBufferDrain tile => Sys2Proof.Machine.execStoreBufferDrain tile s
  | .homeSliceApply slice => Sys2Proof.Machine.execHomeSliceApply slice s
  | .replyReturn bh index => Sys2Proof.Machine.execReplyReturn bh index s
  | .pageWalk tile index => Sys2Proof.Machine.execPageWalk tile index s
  | .runAheadPrefetch tile st => Sys2Proof.Machine.execRunAheadPrefetch tile st s
  | .fenceComplete elem => Sys2Proof.Machine.execFenceComplete elem s
  | .fencehReply bh index => Sys2Proof.Machine.execFencehReply bh index s
  | .pageFetchInstall elem => Sys2Proof.Machine.execPageFetchInstall elem s
  | .elementRetire elem => Sys2Proof.Machine.execElementRetire elem s
  | .halt => Sys2Proof.Machine.execHalt s
  | .streamRd st base count stride => Sys2Proof.Machine.execStreamRd st base count stride s
  | .streamWr st base count stride => Sys2Proof.Machine.execStreamWr st base count stride s
  | .snextRd st count stride => Sys2Proof.Machine.execSnextRd st count stride s
  | .snextWr st count stride => Sys2Proof.Machine.execSnextWr st count stride s
  | .sadd st delta => Sys2Proof.Machine.execSadd st delta s
  | .deliver st port row level => Sys2Proof.Machine.execDeliver st port row level s
  | .push island ring st bytes => Sys2Proof.Machine.execPush island ring st bytes s
  | .accept st port => Sys2Proof.Machine.execAccept st port s
  | .spcopy sta stb => Sys2Proof.Machine.execSpcopy sta stb s
  | .galloc g offset bytes => Sys2Proof.Machine.execGalloc g offset bytes s
  | .gfree g => Sys2Proof.Machine.execGfree g s
  | .sbar mask => Sys2Proof.Machine.execSbar mask s
  | .loop n count stop => Sys2Proof.Machine.execLoop n count stop s
  | .lpset n reg value => Sys2Proof.Machine.execLpset n reg value s
  | .segw n half value => Sys2Proof.Machine.execSegw n half value s
  | .qwait => Sys2Proof.Machine.execQwait s
  | .fupd desc => Sys2Proof.Machine.execFupd desc s
  | .fupdReadPhase tile => Sys2Proof.Machine.execFupdReadPhase tile s
  | .fupdCommit tile => Sys2Proof.Machine.execFupdCommit tile s
  | .notify mask label => Sys2Proof.Machine.execNotify mask label s
  | .ssig sem n => Sys2Proof.Machine.execSsig sem n s
  | .swait sem n => Sys2Proof.Machine.execSwait sem n s
  | .swaitRetry tile => Sys2Proof.Machine.execSwaitRetry tile s
  | .streamLineAccess tile st ahead => Sys2Proof.Machine.execStreamLineAccess tile st ahead s
  | .runComplete tile st => Sys2Proof.Machine.execRunComplete tile st s
  | .enginePortTake tile binding => Sys2Proof.Machine.execEnginePortTake tile binding s
  | .strmPairMove tile binding => Sys2Proof.Machine.execStrmPairMove tile binding s
  | .streamerCommandStart streamer => Sys2Proof.Machine.execStreamerCommandStart streamer s
  | .copy streamer run => Sys2Proof.Machine.execCopy streamer run s
  | .cred streamer run => Sys2Proof.Machine.execCred streamer run s
  | .gather streamer run => Sys2Proof.Machine.execGather streamer run s
  | .scatter streamer run => Sys2Proof.Machine.execScatter streamer run s
  | .fill streamer run => Sys2Proof.Machine.execFill streamer run s
  | .xpose streamer run => Sys2Proof.Machine.execXpose streamer run s
  | .streamerCommandEnd streamer run => Sys2Proof.Machine.execStreamerCommandEnd streamer run s
  | .controlTokenTake island => Sys2Proof.Machine.execControlTokenTake island s
  | .mma acc accum ra rb fa fb m n k => Sys2Proof.Machine.execMma acc accum ra rb fa fb m n k s
  | .accw acc f sat oa m n => Sys2Proof.Machine.execAccw acc f sat oa m n s
  | .accl acc oa m n => Sys2Proof.Machine.execAccl acc oa m n s
  | .msig kind n sem => Sys2Proof.Machine.execMsig kind n sem s
  | .rpop ring => Sys2Proof.Machine.execRpop ring s
  | .qinit q mode n oa var c => Sys2Proof.Machine.execQinit q mode n oa var c s
  | .qadd q ring p => Sys2Proof.Machine.execQadd q ring p s
  | .qapl q tr ring oa c => Sys2Proof.Machine.execQapl q tr ring oa c s
  | .qapr q tr ring oa r => Sys2Proof.Machine.execQapr q tr ring oa r s
  | .qcnt q => Sys2Proof.Machine.execQcnt q s
  | .qspl q oa => Sys2Proof.Machine.execQspl q oa s
  | .qldv q oa => Sys2Proof.Machine.execQldv q oa s
  | .tokenRetire island => Sys2Proof.Machine.execTokenRetire island s
  | .islandRestart island => Sys2Proof.Machine.execIslandRestart island s
  | .continuationLaunchEnd slice launch => Sys2Proof.Machine.execContinuationLaunchEnd slice launch s
  | .semwWithdraw elem id => Sys2Proof.Machine.execSemwWithdraw elem id s
  | .remoteAtomicApply bh => Sys2Proof.Machine.execRemoteAtomicApply bh s
  | .remoteCompletion fn index status old => Sys2Proof.Machine.execRemoteCompletion fn index status old s
  | .portalCompletion bh index ok old => Sys2Proof.Machine.execPortalCompletion bh index ok old s
  | .portalTimeout bh index => Sys2Proof.Machine.execPortalTimeout bh index s
  | .askDecide hub => Sys2Proof.Machine.execAskDecide hub s
  | .askFrameDelivery hub => Sys2Proof.Machine.execAskFrameDelivery hub s
  | .answerAccept hub => Sys2Proof.Machine.execAnswerAccept hub s
  | .askDue hub entry => Sys2Proof.Machine.execAskDue hub entry s
  | .poolRefill hub => Sys2Proof.Machine.execPoolRefill hub s
  | .conditioningToken hub site => Sys2Proof.Machine.execConditioningToken hub site s
  | .hubRegisterWrite hub => Sys2Proof.Machine.execHubRegisterWrite hub s
  | .qdb fn index tail => Sys2Proof.Machine.execQdb fn index tail s
  | .qcfgWrite fn index value => Sys2Proof.Machine.execQcfgWrite fn index value s
  | .journalWrite fn => Sys2Proof.Machine.execJournalWrite fn s
  | .commandDispatch bh => Sys2Proof.Machine.execCommandDispatch bh s
  | .graph wait done address => Sys2Proof.Machine.execGraph wait done address s
  | .task wait done label w0 w1 => Sys2Proof.Machine.execTask wait done label w0 w1 s
  | .setctr wait done counter value => Sys2Proof.Machine.execSetctr wait done counter value s
  | .arriveCommand wait done counter => Sys2Proof.Machine.execArriveCommand wait done counter s
  | .commandComplete queue id => Sys2Proof.Machine.execCommandComplete queue id s
  | .loadNode arrive succ image block edge => Sys2Proof.Machine.execLoadNode arrive succ image block edge s
  | .condNode cmp arrive succA succB addr value mask => Sys2Proof.Machine.execCondNode cmp arrive succA succB addr value mask s
  | .loopNode cmp cap arrive succA succB addr value mask => Sys2Proof.Machine.execLoopNode cmp cap arrive succA succB addr value mask s
  | .switchNode arrive succB addr shift count succs => Sys2Proof.Machine.execSwitchNode arrive succB addr shift count succs s
  | .endNode arrive => Sys2Proof.Machine.execEndNode arrive s
  | .recomputeReplay queue => Sys2Proof.Machine.execRecomputeReplay queue s
  | .imageValidation bh => Sys2Proof.Machine.execImageValidation bh s
  | .reconfigurationSweep bh => Sys2Proof.Machine.execReconfigurationSweep bh s
  | .sweepColumnPass bh => Sys2Proof.Machine.execSweepColumnPass bh s
  | .configurationLoad bh => Sys2Proof.Machine.execConfigurationLoad bh s
  | .loadRetire bh => Sys2Proof.Machine.execLoadRetire bh s
  | .faultRecord bh => Sys2Proof.Machine.execFaultRecord bh s
  | .killSweep bh => Sys2Proof.Machine.execKillSweep bh s
  | .queueLevelKill queue code => Sys2Proof.Machine.execQueueLevelKill queue code s
  | .qkill fn index => Sys2Proof.Machine.execQkill fn index s
  | .parentKill queue => Sys2Proof.Machine.execParentKill queue s
  | .qmapWrite queue value => Sys2Proof.Machine.execQmapWrite queue value s
  | .bhcfgWrite bh value => Sys2Proof.Machine.execBhcfgWrite bh value s
  | .bhrst bh value => Sys2Proof.Machine.execBhrst bh value s
  | .gate bh => Sys2Proof.Machine.execGate bh s
  | .railOff bh => Sys2Proof.Machine.execRailOff bh s
  | .railUp bh => Sys2Proof.Machine.execRailUp bh s
  | .pllLock bh => Sys2Proof.Machine.execPllLock bh s
  | .release bh => Sys2Proof.Machine.execRelease bh s
  | .ready bh => Sys2Proof.Machine.execReady bh s
  | .poolEnable pool value => Sys2Proof.Machine.execPoolEnable pool value s
  | .gangSwitchTick pool => Sys2Proof.Machine.execGangSwitchTick pool s
  | .endOfSliceSweep bh => Sys2Proof.Machine.execEndOfSliceSweep bh s
  | .contextSave bh => Sys2Proof.Machine.execContextSave bh s
  | .contextRestore bh => Sys2Proof.Machine.execContextRestore bh s
  | .saveQuarantine bh => Sys2Proof.Machine.execSaveQuarantine bh s
  | .saveDeadline pool => Sys2Proof.Machine.execSaveDeadline pool s
  | .gangStart pool => Sys2Proof.Machine.execGangStart pool s
  | .restoreQuarantine bh => Sys2Proof.Machine.execRestoreQuarantine bh s
  | .discard bh => Sys2Proof.Machine.execDiscard bh s
  | .ovnEnable ovn value => Sys2Proof.Machine.execOvnEnable ovn value s
  | .ovnRelease ovn => Sys2Proof.Machine.execOvnRelease ovn s
  | .spinePacketArrival packet => Sys2Proof.Machine.execSpinePacketArrival packet s
  | .dropcntClear die value => Sys2Proof.Machine.execDropcntClear die value s
  | .windowGrantWrite fn bh win importing value => Sys2Proof.Machine.execWindowGrantWrite fn bh win importing value s
  | .windowCloseComplete bh win => Sys2Proof.Machine.execWindowCloseComplete bh win s
  | .shootdownPage fn pasid size wb => Sys2Proof.Machine.execShootdownPage fn pasid size wb s
  | .shootdownPasid fn pasid => Sys2Proof.Machine.execShootdownPasid fn pasid s
  | .shootdownFunction fn => Sys2Proof.Machine.execShootdownFunction fn s
  | .s2ShootdownPage tag size wb => Sys2Proof.Machine.execS2ShootdownPage tag size wb s
  | .s2ShootdownTag tag => Sys2Proof.Machine.execS2ShootdownTag tag s
  | .s2ShootdownRegion wb => Sys2Proof.Machine.execS2ShootdownRegion wb s
  | .shootdownComplete fn => Sys2Proof.Machine.execShootdownComplete fn s
  | .counterClear fn bh engine value => Sys2Proof.Machine.execCounterClear fn bh engine value s
  | .semcntWrite fn bh sem value => Sys2Proof.Machine.execSemcntWrite fn bh sem value s
  | .sinklogClear fn bh value => Sys2Proof.Machine.execSinklogClear fn bh value s
  | .haltlogClear fn bh value => Sys2Proof.Machine.execHaltlogClear fn bh value s
  | .debugRelease fn bh elem => Sys2Proof.Machine.execDebugRelease fn bh elem s
  | .debugStep fn bh elem => Sys2Proof.Machine.execDebugStep fn bh elem s
  | .debugReleaseAll fn bh => Sys2Proof.Machine.execDebugReleaseAll fn bh s
  | .slotBreakpointHalt elem => Sys2Proof.Machine.execSlotBreakpointHalt elem s
  | .sample bh => Sys2Proof.Machine.execSample bh s
  | .traceRecord bh => Sys2Proof.Machine.execTraceRecord bh s
  | .freeze value => Sys2Proof.Machine.execFreeze value s
  | .thermalEvaluation bh temp => Sys2Proof.Machine.execThermalEvaluation bh temp s
  | .msixUnmask fn vector => Sys2Proof.Machine.execMsixUnmask fn vector s
  | .cxlLinkDown port => Sys2Proof.Machine.execCxlLinkDown port s
  | .cxlLinkUp port => Sys2Proof.Machine.execCxlLinkUp port s
  | .ualinkPortFail port => Sys2Proof.Machine.execUalinkPortFail port s
  | .powerOnBoot secOk mgmtOk => Sys2Proof.Machine.execPowerOnBoot secOk mgmtOk s
  | .getVersion request => Sys2Proof.Machine.execGetVersion request s
  | .getCapabilities request => Sys2Proof.Machine.execGetCapabilities request s
  | .negotiateAlgorithms request => Sys2Proof.Machine.execNegotiateAlgorithms request s
  | .getDigests request => Sys2Proof.Machine.execGetDigests request s
  | .getCertificate request => Sys2Proof.Machine.execGetCertificate request s
  | .challenge request => Sys2Proof.Machine.execChallenge request s
  | .getMeasurements request => Sys2Proof.Machine.execGetMeasurements request s
  | .registerWrite fn bar offset wide value => Sys2Proof.Machine.execRegisterWrite fn bar offset wide value s
  | .ualinkPortReady port => Sys2Proof.Machine.execUalinkPortReady port s
  | .spineUncorrectableError bh => Sys2Proof.Machine.execSpineUncorrectableError bh s

end Sys2Proof.Machine
end

