-- ==== Sys2Proof/Machine/Turns.lean ====
section
/-!
DEFINITION. Turns: how the step finds the instruction of an agent and runs it (06 R91, 10 R201, 12 R220, 14 R248, 24 R373),
what a cycle of an agent counts (09 R190), which steps a stopped clock holds back (04 R66, 23 R365, 24 R372), and how a word
is placed to be the next one that an element runs.
-/
namespace Sys2Proof.Machine
open Sys2Proof

/-! ## Which steps an agenda may name -/

/-- The row is a step of a part: it is not decoded from a slot, a command or a token. -/
def isStep (i : Instr) : Bool :=
  if (formOf i).isSome then false
  else match i with
    | .halt | .streamRd .. | .streamWr .. | .snextRd .. | .snextWr .. | .sadd .. | .deliver .. | .push .. => false
    | .accept .. | .spcopy .. | .galloc .. | .gfree .. | .sbar .. | .loop .. | .lpset .. | .segw .. | .qwait .. => false
    | .fupd .. | .notify .. | .ssig .. | .swait .. => false
    | .mma .. | .accw .. | .accl .. | .msig .. | .rpop .. | .qinit .. | .qadd .. | .qapl .. | .qapr .. => false
    | .qcnt .. | .qspl .. | .qldv .. => false
    | .graph .. | .task .. | .setctr .. | .arriveCommand .. => false
    | .loadNode .. | .condNode .. | .loopNode .. | .switchNode .. | .endNode .. => false
    | _ => true

/-! ## Clocks -/

/-- The bulkhead whose clock a step needs: it takes place inside that bulkhead. -/
def clockOf (i : Instr) : Option Nat :=
  match i with
  | .vectorBeat e | .tokenDelivery e _ | .sendQueueDrain e | .handOver e | .fenceComplete e => some (bhOf e)
  | .pageFetchInstall e | .elementRetire e | .semwWithdraw e _ | .slotBreakpointHalt e => some (bhOf e)
  | .shuttleArrival b _ | .replyReturn b _ | .fencehReply b _ => some b
  | .performRequest t _ | .storeBufferDrain t | .pageWalk t _ | .runAheadPrefetch t _ | .fupdReadPhase t => some (t / 64)
  | .fupdCommit t | .swaitRetry t | .streamLineAccess t _ _ | .runComplete t _ | .enginePortTake t _ => some (t / 64)
  | .strmPairMove t _ => some (t / 64)
  | .streamerCommandStart k | .copy k _ | .cred k _ | .gather k _ | .scatter k _ | .fill k _ => some (k / 2)
  | .xpose k _ | .streamerCommandEnd k _ => some (k / 2)
  | .controlTokenTake n | .tokenRetire n | .islandRestart n => some (n / 4)
  | .continuationLaunchEnd k _ | .homeSliceApply k => some (k / 8)
  | .askDecide h | .askFrameDelivery h | .answerAccept h | .askDue h _ | .poolRefill h => some h
  | .conditioningToken h _ | .hubRegisterWrite h => some h
  | .imageValidation b | .reconfigurationSweep b | .sweepColumnPass b | .configurationLoad b | .loadRetire b => some b
  | .killSweep b | .endOfSliceSweep b | .contextSave b | .contextRestore b | .sample b | .faultRecord b => some b
  | _ => none

/-- A step of the spine, the host or another outside part: it does not happen while the spine's clock is stopped (23 R365). -/
def isSpine (i : Instr) : Bool := (clockOf i).isNone

/-- The bulkhead whose throttling removes a cycle of the step (24 R373). -/
def throttleOf (i : Instr) : Option Nat :=
  match i with
  | .vectorBeat e | .slotBreakpointHalt e => if isMgmt e then none else some (bhOf e)
  | .tokenRetire n => some (n / 4)
  | .streamerCommandStart k | .streamerCommandEnd k _ => some (k / 2)
  | .copy k _ | .cred k _ | .gather k _ | .scatter k _ | .fill k _ | .xpose k _ => some (k / 2)
  | _ => none

/-- What moves at most once in a cycle has moved in this one: an element that has fired, a home slice that has served (06 R91, 15
R267). -/
def moved (s : State) (i : Instr) : Bool :=
  match i with
  | .vectorBeat e | .slotBreakpointHalt e => (s.elemCount e).counted s.cycle
  | .homeSliceApply k => (s.engineCount (sliceEngine k)).counted s.cycle
  | _ => false

/-- The engines of a queue find no free walker of the bulkhead whose walkers they use. -/
def queueWalks (s : State) (q : Nat) : Bool := !walkerFree s (firstMember s (s.queue q).qmapTag)

/-- A step of an engine that translates without a first-level TLB waits for a free walker (09 R173; log 113). -/
def walkerWanted (s : State) (i : Instr) : Bool :=
  match i with
  | .contextSave b | .contextRestore b | .restoreQuarantine b | .sample b | .answerAccept b => !walkerFree s b
  | .remoteCompletion fn n _ _ => ((s.fn fn).remote[n]?).any fun r => !walkerFree s (bhOf r.elem)
  | .commandComplete q _ | .queueLevelKill q _ => queueWalks s q
  | _ => false

/-- A step may happen now, as far as clocks, walkers, throttling and its pace go. -/
def mayHappen (s : State) (i : Instr) : Bool :=
  !walkerWanted s i && (match clockOf i with
    | some b => clockRuns s b
    | none => !(s.spineFrozen && isSpine i))
    && !moved s i
    && match throttleOf i with
      | some b => !throttled s b
      | none => true

/-! ## Elements (06 R91) -/

/-- One cycle of an element: the next beat of its issue, or a fire of the picker's choice. -/
def elemTurn (key : Nat) (s : State) : Out :=
  match s.elem? key with
  | none => .next s
  | some e =>
    if !clockRuns s (bhOf key) || (s.elemCount key).counted s.cycle then .next s
    else match fires s key e with
      | none => .next s
      | some (n, _) =>
        if e.issue.isSome then exec (.vectorBeat key) s
        else if breaksAt s key e n then exec (.slotBreakpointHalt key) s
        else match e.page.instrAt n with
          | none => .next s
          | some (i, w, l) => exec i { s with focus := .elem key n w l }

/-! ## Sequencers and islands (10 R201, 12 R220) -/

/-- The command a sequencer executes: the queued one it has taken, or that of its index. -/
def Tile.command (t : Tile) : Option DWord :=
  match t.current with
  | some c => some (c.hi ++ c.lo)
  | none => if t.serving then none else t.program[t.index]?

/-- One cycle of a sequencer: it attempts its command, one in a cycle (10 R201); serving its queue, it takes the oldest one first. -/
def sequencerTurn (k : Nat) (s : State) : Out :=
  if !clockRuns s (k / 64) || throttled s (k / 64) || !tileRuns s k || decide (s.cycle < (s.tile k).seqAt) then .next s
  else
    let t := s.tile k
    let s := match t.current, t.cmdq with
      | none, c :: rest => if t.serving then s.setTile k { t with current := some c, cmdq := rest } else s
      | _, _ => s
    match (s.tile k).command with
    | none => .next s
    | some c =>
      match decodeSeq c with
      | none => .next (s.seqIllegal k)
      | some i => exec i { s with focus := .sequencer k }

/-- One cycle of a matrix island: it attempts the token at the head of its queue. -/
def islandTurn (k : Nat) (s : State) : Out :=
  if !clockRuns s (k / 4) || throttled s (k / 4) then .next s
  else match (s.island k).queue with
    | [] => .next s
    | c :: _ =>
      match decodeToken c.hi c.lo with
      | none => .next (if tokenMayRun s k (s.island k) && (s.island k).exec.isNone then s.tokenIllegal k else s)
      | some i => exec i { s with focus := .island k }

/-! ## Queues (03 R37, 02 R27) -/

/-- A turn of a queue: a command that its doorbell has announced is read, or the current node of its graph or its dispatched head
command moves on. -/
def queueTurn (q : Nat) (s : State) : Out :=
  if s.spineFrozen || queueWalks s q then .next s
  else
    let h := s.queue q
    if h.unread && h.takenAt != some s.spine then execQdb h.qmapTag h.qmapLocal h.tail s
    else match h.graph with
      | some g =>
        match g.nodes[g.current]? with
        | none => .next s
        | some n => exec n.instr { s with focus := .queue q }
      | none =>
        match h.accepted with
        | [] => .next s
        | a :: _ => exec a.cmd.instr { s with focus := .queue q }

/-! ## Turns -/

/-- A free turn, where the agenda names none (log 1). -/
def freeTurn (n : Nat) : Turn :=
  let arg := Config.freeChoice (n + 1)
  match Config.freeChoice n % 6, Config.freeEvent n with
  | 0, _ => .cycles arg
  | 1, _ => .elem arg
  | 2, _ => .sequencer arg
  | 3, _ => .island arg
  | 4, _ => .queue arg
  | _, some i => .event i
  | _, none => .cycles 0

/-- The turn that is next, and the state without it. -/
def State.nextTurn (s : State) : Turn × State :=
  match s.agenda with
  | t :: rest => (t, { s with agenda := rest })
  | [] => (freeTurn s.fresh, { s with fresh := s.fresh + 2 })

/-- One turn. -/
def runTurn (t : Turn) (s : State) : Out :=
  match t with
  | .cycles n => .next (s.passCycles n)
  | .elem key => elemTurn key s
  | .sequencer k => sequencerTurn k s
  | .island k => islandTurn k s
  | .queue q => queueTurn q s
  | .event i => if isStep i && mayHappen s i then exec i { s with focus := .none } else .next s

/-! ## Placing a word (log 2) -/

/-- A page whose slot 0 holds a word, with its literal in slot 1 where its opcode takes one; heddle 0 tests nothing. -/
def Page.ofWord (w lit : Word) : Page :=
  let x := isXOpcode w
  { kinds := if x then 9 else 1, hmap := 1,
    slots := [w, if x then lit else 0] ++ List.replicate 30 0 }

/-- An element that holds the word in slot 0, with zero tokens on its input ports. -/
def Elem.ofWord (w lit : Word) : Elem :=
  let p := Page.ofWord w lit
  { record := { page := p }, pages := [some p, none, none, none],
    inp := List.replicate 8 [Token.zero, Token.zero] }

/-- The element that may run an instruction: the first of the loom, or the first evaluator element where only those run it
(05 R81). -/
def placeFor (i : Instr) : Nat := if (slotCheck .loom i).isNone then 0 else 0x8000

/-- An element that has fired in this cycle has not: it may fire in the next step. -/
def State.unfire (s : State) (key : Nat) : State :=
  if (s.elemCount key).counted s.cycle then s.modElemCount key fun c => { c with upTo := s.cycle } else s

/-- The state with a slot word and its literal where the next step's element fires from. -/
def State.placeWord (s : State) (w lit : Word) : State :=
  match decodeWord w lit with
  | .error _ => { s.setElem 0 (Elem.ofWord w lit) with agenda := .elem 0 :: s.agenda }
  | .ok i =>
    let key := placeFor i
    let s := { (s.unfire key).setElem key (Elem.ofWord w lit) with agenda := .elem key :: s.agenda }
    match i with
    | .ask .. =>
      s.setHub 0 { s.hub 0 with sites :=
        [{ elem := key, slot := 0, qport := 0, q := 1, cons := 0, consPort := 0, pool := 0, cls := 0, dl := 0,
           policy := List.replicate 32 0 }] }
    | _ => s

end Sys2Proof.Machine
end

