-- ==== Sys2Proof/Machine/Step.lean ====
section
/-!
DEFINITION. The step: one turn of the agenda, or a free one where it names none (14 R248; log 1), and a word placed where
the next step fetches it (log 2).
-/
namespace Sys2Proof.Machine
open Sys2Proof

/-- One step of the device. -/
def step (s : State) : Host.Outcome State Fault Refusal :=
  let (t, s) := s.nextTurn
  runTurn t s

/-- The state with an instruction of `nbits` bits `w`, the bits above them 0, where the next step runs it. -/
def State.withFetchWord (s : State) (nbits w : Nat) : State :=
  s.placeWord (BitVec.ofNat 32 (w % 2 ^ nbits)) (BitVec.ofNat 32 (w % 2 ^ nbits / 2 ^ 32))

end Sys2Proof.Machine
end

