-- ==== Sys2Proof/Laws/Encoding.lean ====
section
/-!
SUPPORT. What the decoder reads from a word that the encoder built: one lemma per field.
-/
namespace Sys2Proof.Laws
open Sys2Proof

/-- Operand numbers are six bits, and the decoder reads each back (05 R76). -/
theorem operand_lt (o : Operand) : o.toNat < 64 := by
  cases o <;> simp only [Operand.toNat] <;> omega

@[simp] theorem operand_ofNat_toNat (o : Operand) : Operand.ofNat o.toNat = o := by
  cases o with
  | d n => revert n; decide
  | i n => revert n; decide
  | o n => revert n; decide
  | k n => revert n; decide
  | c n => revert n; decide
  | p n => revert n; decide
  | _ => decide

theorem toNat_lt_of_le {n m : Nat} (x : BitVec n) (h : 2 ^ n ≤ m) : x.toNat < m := Nat.lt_of_lt_of_le x.isLt h

theorem wordR_toNat {op top a b : Nat} (t : Trig) (ho : op < 256) (ht : top < 64) (ha : a < 64) (hb : b < 64) :
    (wordR t op top a b).toNat = t.set.val * 2 ^ 30 + t.heddle.val * 2 ^ 26 + op * 2 ^ 18 + top * 2 ^ 12 + a * 2 ^ 6 + b := by
  have h1 := t.set.isLt
  have h2 := t.heddle.isLt
  simp only [wordR, BitVec.toNat_ofNat]
  omega

theorem wordL_toNat {op top i : Nat} (t : Trig) (ho : op < 256) (ht : top < 64) (hi : i < 4096) :
    (wordL t op top i).toNat = t.set.val * 2 ^ 30 + t.heddle.val * 2 ^ 26 + op * 2 ^ 18 + top * 2 ^ 12 + i := by
  have h1 := t.set.isLt
  have h2 := t.heddle.isLt
  simp only [wordL, BitVec.toNat_ofNat]
  omega

/-- A slot word of any format, by what the decoder reads of it. -/
structure WordReads (w lit : Word) (t : Trig) (op reg imm : Nat) : Prop where
  trig : (WordFields.of w lit).t = t
  opcodeRow : wordField w 22 4 = op / 16
  opcodeCol : wordField w 18 4 = op % 16
  regField : wordField w 12 6 = reg
  aField : wordField w 6 6 = imm / 64
  low12 : wordField w 0 12 = imm
  low6 : wordField w 0 6 = imm % 64
  low18 : wordField w 0 18 = reg * 4096 + imm
  imm2 : wordField w 0 2 = imm % 4
  imm3 : wordField w 0 3 = imm % 8
  imm5 : wordField w 0 5 = imm % 32
  imm7 : wordField w 0 7 = imm % 128
  bit5 : wordField w 5 1 = imm / 32 % 2
  bits3 : wordField w 3 3 = imm / 8 % 8
  bits7 : wordField w 7 5 = imm / 128
  bits2 : wordField w 2 16 = (reg * 4096 + imm) / 4

theorem reads_of_toNat {w : Word} (lit : Word) {t : Trig} {op reg imm : Nat} (ho : op < 256) (ht : reg < 64)
    (hi : imm < 4096)
    (h : w.toNat = t.set.val * 2 ^ 30 + t.heddle.val * 2 ^ 26 + op * 2 ^ 18 + reg * 2 ^ 12 + imm) :
    WordReads w lit t op reg imm := by
  have h1 := t.set.isLt
  have h2 := t.heddle.isLt
  constructor
  · obtain ⟨s, k⟩ := t
    simp only [WordFields.t, WordFields.of, wordField, h, Trig.mk.injEq, Fin.ext_iff, Fin.ofNat]
    dsimp only at h1 h2 ⊢
    omega
  all_goals simp only [wordField, h]; omega

/-! The fields of a slot word as the rows of 05 R79 read them. -/

@[simp] theorem of_w (w lit : Word) : (WordFields.of w lit).w = w := rfl
@[simp] theorem of_lit (w lit : Word) : (WordFields.of w lit).lit = lit := rfl
@[simp] theorem of_top (w lit : Word) : (WordFields.of w lit).top = .ofNat (wordField w 12 6) := rfl
@[simp] theorem of_a (w lit : Word) : (WordFields.of w lit).a = .ofNat (wordField w 6 6) := rfl
@[simp] theorem of_b (w lit : Word) : (WordFields.of w lit).b = .ofNat (wordField w 0 6) := rfl
@[simp] theorem of_imm2 (w lit : Word) : (WordFields.of w lit).imm2 = .ofNat 2 (wordField w 0 2) := rfl
@[simp] theorem of_imm3 (w lit : Word) : (WordFields.of w lit).imm3 = .ofNat 3 (wordField w 0 3) := rfl
@[simp] theorem of_imm5 (w lit : Word) : (WordFields.of w lit).imm5 = .ofNat 5 (wordField w 0 5) := rfl
@[simp] theorem of_imm6 (w lit : Word) : (WordFields.of w lit).imm6 = .ofNat 6 (wordField w 0 6) := rfl
@[simp] theorem of_label (w lit : Word) : (WordFields.of w lit).label = .ofNat 7 (wordField w 0 7) := rfl
@[simp] theorem of_imm12 (w lit : Word) : (WordFields.of w lit).imm12 = .ofNat 12 (wordField w 0 12) := rfl

theorem zero_ok {w : Word} {lo n : Nat} (h : wordField w lo n = 0) (lit : Word) (i : Instr) :
    (WordFields.of w lit).zero lo n i = .ok i := by
  simp [WordFields.zero, WordFields.of, h]

/-- A word in R, S, M or E format, by what the decoder reads of it. -/
structure ReadsR (w lit : Word) (t : Trig) (op rg a n : Nat) : Prop where
  trig : (WordFields.of w lit).t = t
  opcodeRow : wordField w 22 4 = op / 16
  opcodeCol : wordField w 18 4 = op % 16
  reg : wordField w 12 6 = rg
  aField : wordField w 6 6 = a
  low6 : wordField w 0 6 = n
  imm2 : wordField w 0 2 = n % 4
  imm3 : wordField w 0 3 = n % 8
  imm5 : wordField w 0 5 = n % 32
  bit5 : wordField w 5 1 = n / 32
  bits3 : wordField w 3 3 = n / 8

theorem readsR_wordR (lit : Word) (op : Nat) (t : Trig) (reg a n : Nat) (ho : op < 256) (hr : reg < 64) (ha : a < 64)
    (hn : n < 64) : ReadsR (wordR t op reg a n) lit t op reg a n := by
  have r : WordReads (wordR t op reg a n) lit t op reg (a * 64 + n) :=
    reads_of_toNat lit ho hr (by omega) (by rw [wordR_toNat t ho hr ha hn]; omega)
  exact ⟨r.trig, r.opcodeRow, r.opcodeCol, r.regField, r.aField.trans (by omega), r.low6.trans (by omega),
    r.imm2.trans (by omega), r.imm3.trans (by omega), r.imm5.trans (by omega), r.bit5.trans (by omega),
    r.bits3.trans (by omega)⟩

/-- A word in L or X format, by what the decoder reads of it. -/
structure ReadsL (w lit : Word) (t : Trig) (op rg n : Nat) : Prop where
  trig : (WordFields.of w lit).t = t
  opcodeRow : wordField w 22 4 = op / 16
  opcodeCol : wordField w 18 4 = op % 16
  reg : wordField w 12 6 = rg
  low12 : wordField w 0 12 = n
  low18 : wordField w 0 18 = rg * 4096 + n
  imm2 : wordField w 0 2 = n % 4
  imm7 : wordField w 0 7 = n % 128
  bits7 : wordField w 7 5 = n / 128
  bits2 : wordField w 2 16 = (rg * 4096 + n) / 4

theorem readsL_wordL (lit : Word) (op : Nat) (t : Trig) (reg n : Nat) (ho : op < 256) (hr : reg < 64) (hn : n < 4096) :
    ReadsL (wordL t op reg n) lit t op reg n := by
  have r : WordReads (wordL t op reg n) lit t op reg n := reads_of_toNat lit ho hr hn (wordL_toNat t ho hr hn)
  exact ⟨r.trig, r.opcodeRow, r.opcodeCol, r.regField, r.low12, r.low18, r.imm2, r.imm7, r.bits7, r.bits2⟩

/-- The bytes of a word come back as the word. -/
theorem wordOfBytes_bytes (w : Word) :
    wordOfBytes (BitVec.ofNat 8 w.toNat) (BitVec.ofNat 8 (w.toNat / 256)) (BitVec.ofNat 8 (w.toNat / 256 / 256))
      (BitVec.ofNat 8 (w.toNat / 256 / 256 / 256)) = w := by
  apply BitVec.eq_of_toNat_eq
  have h := w.isLt
  simp only [wordOfBytes, BitVec.toNat_append, BitVec.toNat_ofNat]
  rw [← Nat.shiftLeft_add_eq_or_of_lt (by omega), ← Nat.shiftLeft_add_eq_or_of_lt (by omega),
    ← Nat.shiftLeft_add_eq_or_of_lt (by omega)]
  simp only [Nat.shiftLeft_eq]
  omega

/-- Decoding the bytes of one word, where the word's meaning takes no literal. -/
theorem decode_one {w : Word} {i : Instr} (hl : i.hasLiteral = false) (h : ∀ lit, decodeWord w lit = .ok i)
    (he : encode i = [w]) (rest : List Byte) : decode (encodeBytes i ++ rest) = .ok (i, rest) := by
  have e : encodeBytes i ++ rest = BitVec.ofNat 8 w.toNat :: BitVec.ofNat 8 (w.toNat / 256)
      :: BitVec.ofNat 8 (w.toNat / 256 / 256) :: BitVec.ofNat 8 (w.toNat / 256 / 256 / 256) :: rest := by
    simp only [encodeBytes, he, List.flatMap_cons, List.flatMap_nil, bytesOfNat, List.append_nil, List.cons_append,
      List.nil_append]
  rw [e, decode.eq_def]
  simp only [wordOfBytes_bytes, h, hl]
  split <;> rfl

/-- Decoding the bytes of a word and its literal. -/
theorem decode_two {w lit : Word} {i : Instr} (hl : i.hasLiteral = true) (h : decodeWord w lit = .ok i)
    (he : encode i = [w, lit]) (rest : List Byte) : decode (encodeBytes i ++ rest) = .ok (i, rest) := by
  have e : encodeBytes i ++ rest = BitVec.ofNat 8 w.toNat :: BitVec.ofNat 8 (w.toNat / 256)
      :: BitVec.ofNat 8 (w.toNat / 256 / 256) :: BitVec.ofNat 8 (w.toNat / 256 / 256 / 256)
      :: BitVec.ofNat 8 lit.toNat :: BitVec.ofNat 8 (lit.toNat / 256)
      :: BitVec.ofNat 8 (lit.toNat / 256 / 256) :: BitVec.ofNat 8 (lit.toNat / 256 / 256 / 256) :: rest := by
    simp only [encodeBytes, he, List.flatMap_cons, List.flatMap_nil, bytesOfNat, List.append_nil, List.cons_append,
      List.nil_append]
  rw [e, decode.eq_def]
  simp only [wordOfBytes_bytes, h, hl, if_true]

theorem round_R (op : Nat) (t : Trig) (reg a n : Nat) {i : Instr} (he : encode i = [wordR t op reg a n])
    (hl : i.hasLiteral = false) (ho : op < 256) (hr : reg < 64) (ha : a < 64) (hn : n < 64)
    (h : ∀ w lit, ReadsR w lit t op reg a n → decodeWord w lit = .ok i) (rest : List Byte) :
    decode (encodeBytes i ++ rest) = .ok (i, rest) :=
  decode_one hl (fun lit => h _ lit (readsR_wordR lit op t reg a n ho hr ha hn)) he rest

theorem round_RX (op : Nat) (t : Trig) (reg a n : Nat) (lit : Word) {i : Instr}
    (he : encode i = [wordR t op reg a n, lit])
    (hl : i.hasLiteral = true) (ho : op < 256) (hr : reg < 64) (ha : a < 64) (hn : n < 64)
    (h : ∀ w, ReadsR w lit t op reg a n → decodeWord w lit = .ok i) (rest : List Byte) :
    decode (encodeBytes i ++ rest) = .ok (i, rest) :=
  decode_two hl (h _ (readsR_wordR lit op t reg a n ho hr ha hn)) he rest

theorem round_L (op : Nat) (t : Trig) (reg n : Nat) {i : Instr} (he : encode i = [wordL t op reg n])
    (hl : i.hasLiteral = false) (ho : op < 256) (hr : reg < 64) (hn : n < 4096)
    (h : ∀ w lit, ReadsL w lit t op reg n → decodeWord w lit = .ok i) (rest : List Byte) :
    decode (encodeBytes i ++ rest) = .ok (i, rest) :=
  decode_one hl (fun lit => h _ lit (readsL_wordL lit op t reg n ho hr hn)) he rest

theorem round_LX (op : Nat) (t : Trig) (reg n : Nat) (lit : Word) {i : Instr} (he : encode i = [wordL t op reg n, lit])
    (hl : i.hasLiteral = true) (ho : op < 256) (hr : reg < 64) (hn : n < 4096)
    (h : ∀ w, ReadsL w lit t op reg n → decodeWord w lit = .ok i) (rest : List Byte) :
    decode (encodeBytes i ++ rest) = .ok (i, rest) :=
  decode_two hl (h _ (readsL_wordL lit op t reg n ho hr hn)) he rest

end Sys2Proof.Laws
end

