-- ==== Sys2Proof/Laws/PerInstr.lean ====
section
/-!
SUPPORT. Statements about every instruction as syntax, one lemma per constructor. RoundTrip: the decoder reads back, from
the bytes the encoder writes (05 R70-R74, R76, R79), every instruction that has a slot form, with every operand.
-/
namespace Sys2Proof.Laws.RoundTrip
open Sys2Proof Sys2Proof.Machine Sys2Proof.Laws

/-- An instruction of a slot comes back from its own bytes, whatever bytes follow. -/
def Statement (i : Instr) : Prop :=
  (formOf i).isSome = true → ∀ rest : List Byte, decode (encodeBytes i ++ rest) = .ok (i, rest)

theorem addiS32 (t : Trig) (d : Operand) (a : Operand) (i : BitVec 6) : Statement (.addiS32 t d a i) := fun _ =>
  round_R 0x01 t d.toNat a.toNat i.toNat rfl rfl (by decide) (operand_lt d) (operand_lt a) (toNat_lt_of_le i (by decide)) fun w lit r => by
    simp [decodeWord, decodeRow0, r.trig, r.opcodeRow, r.opcodeCol, r.reg, r.aField, r.low6]
theorem addS32 (t : Trig) (d : Operand) (a : Operand) (b : Operand) : Statement (.addS32 t d a b) := fun _ =>
  round_R 0x02 t d.toNat a.toNat b.toNat rfl rfl (by decide) (operand_lt d) (operand_lt a) (operand_lt b) fun w lit r => by
    simp [decodeWord, decodeRow0, r.trig, r.opcodeRow, r.opcodeCol, r.reg, r.aField, r.low6]
theorem addsS32 (t : Trig) (d : Operand) (a : Operand) (b : Operand) : Statement (.addsS32 t d a b) := fun _ =>
  round_R 0x03 t d.toNat a.toNat b.toNat rfl rfl (by decide) (operand_lt d) (operand_lt a) (operand_lt b) fun w lit r => by
    simp [decodeWord, decodeRow0, r.trig, r.opcodeRow, r.opcodeCol, r.reg, r.aField, r.low6]
theorem subS32 (t : Trig) (d : Operand) (a : Operand) (b : Operand) : Statement (.subS32 t d a b) := fun _ =>
  round_R 0x04 t d.toNat a.toNat b.toNat rfl rfl (by decide) (operand_lt d) (operand_lt a) (operand_lt b) fun w lit r => by
    simp [decodeWord, decodeRow0, r.trig, r.opcodeRow, r.opcodeCol, r.reg, r.aField, r.low6]
theorem subsS32 (t : Trig) (d : Operand) (a : Operand) (b : Operand) : Statement (.subsS32 t d a b) := fun _ =>
  round_R 0x05 t d.toNat a.toNat b.toNat rfl rfl (by decide) (operand_lt d) (operand_lt a) (operand_lt b) fun w lit r => by
    simp [decodeWord, decodeRow0, r.trig, r.opcodeRow, r.opcodeCol, r.reg, r.aField, r.low6]
theorem negS32 (t : Trig) (d : Operand) (a : Operand) : Statement (.negS32 t d a) := fun _ =>
  round_R 0x06 t d.toNat a.toNat 0 rfl rfl (by decide) (operand_lt d) (operand_lt a) (by decide) fun w lit r => by
    simp [decodeWord, decodeRow0, r.trig, r.opcodeRow, r.opcodeCol, r.reg, r.aField, WordFields.noB, zero_ok r.low6]
theorem absS32 (t : Trig) (d : Operand) (a : Operand) : Statement (.absS32 t d a) := fun _ =>
  round_R 0x07 t d.toNat a.toNat 0 rfl rfl (by decide) (operand_lt d) (operand_lt a) (by decide) fun w lit r => by
    simp [decodeWord, decodeRow0, r.trig, r.opcodeRow, r.opcodeCol, r.reg, r.aField, WordFields.noB, zero_ok r.low6]
theorem addS16 (t : Trig) (d : Operand) (a : Operand) (b : Operand) : Statement (.addS16 t d a b) := fun _ =>
  round_R 0x08 t d.toNat a.toNat b.toNat rfl rfl (by decide) (operand_lt d) (operand_lt a) (operand_lt b) fun w lit r => by
    simp [decodeWord, decodeRow0, r.trig, r.opcodeRow, r.opcodeCol, r.reg, r.aField, r.low6]
theorem addsS16 (t : Trig) (d : Operand) (a : Operand) (b : Operand) : Statement (.addsS16 t d a b) := fun _ =>
  round_R 0x09 t d.toNat a.toNat b.toNat rfl rfl (by decide) (operand_lt d) (operand_lt a) (operand_lt b) fun w lit r => by
    simp [decodeWord, decodeRow0, r.trig, r.opcodeRow, r.opcodeCol, r.reg, r.aField, r.low6]
theorem subS16 (t : Trig) (d : Operand) (a : Operand) (b : Operand) : Statement (.subS16 t d a b) := fun _ =>
  round_R 0x0A t d.toNat a.toNat b.toNat rfl rfl (by decide) (operand_lt d) (operand_lt a) (operand_lt b) fun w lit r => by
    simp [decodeWord, decodeRow0, r.trig, r.opcodeRow, r.opcodeCol, r.reg, r.aField, r.low6]
theorem subsS16 (t : Trig) (d : Operand) (a : Operand) (b : Operand) : Statement (.subsS16 t d a b) := fun _ =>
  round_R 0x0B t d.toNat a.toNat b.toNat rfl rfl (by decide) (operand_lt d) (operand_lt a) (operand_lt b) fun w lit r => by
    simp [decodeWord, decodeRow0, r.trig, r.opcodeRow, r.opcodeCol, r.reg, r.aField, r.low6]
theorem mulS32 (t : Trig) (d : Operand) (a : Operand) (b : Operand) : Statement (.mulS32 t d a b) := fun _ =>
  round_R 0x10 t d.toNat a.toNat b.toNat rfl rfl (by decide) (operand_lt d) (operand_lt a) (operand_lt b) fun w lit r => by
    simp [decodeWord, decodeRow1, r.trig, r.opcodeRow, r.opcodeCol, r.reg, r.aField, r.low6]
theorem mulhS32 (t : Trig) (d : Operand) (a : Operand) (b : Operand) : Statement (.mulhS32 t d a b) := fun _ =>
  round_R 0x11 t d.toNat a.toNat b.toNat rfl rfl (by decide) (operand_lt d) (operand_lt a) (operand_lt b) fun w lit r => by
    simp [decodeWord, decodeRow1, r.trig, r.opcodeRow, r.opcodeCol, r.reg, r.aField, r.low6]
theorem mulhN32 (t : Trig) (d : Operand) (a : Operand) (b : Operand) : Statement (.mulhN32 t d a b) := fun _ =>
  round_R 0x12 t d.toNat a.toNat b.toNat rfl rfl (by decide) (operand_lt d) (operand_lt a) (operand_lt b) fun w lit r => by
    simp [decodeWord, decodeRow1, r.trig, r.opcodeRow, r.opcodeCol, r.reg, r.aField, r.low6]
theorem macS32 (t : Trig) (d : Operand) (a : Operand) (b : Operand) : Statement (.macS32 t d a b) := fun _ =>
  round_R 0x13 t d.toNat a.toNat b.toNat rfl rfl (by decide) (operand_lt d) (operand_lt a) (operand_lt b) fun w lit r => by
    simp [decodeWord, decodeRow1, r.trig, r.opcodeRow, r.opcodeCol, r.reg, r.aField, r.low6]
theorem mulS16 (t : Trig) (d : Operand) (a : Operand) (b : Operand) : Statement (.mulS16 t d a b) := fun _ =>
  round_R 0x14 t d.toNat a.toNat b.toNat rfl rfl (by decide) (operand_lt d) (operand_lt a) (operand_lt b) fun w lit r => by
    simp [decodeWord, decodeRow1, r.trig, r.opcodeRow, r.opcodeCol, r.reg, r.aField, r.low6]
theorem dotS8 (t : Trig) (d : Operand) (a : Operand) (b : Operand) : Statement (.dotS8 t d a b) := fun _ =>
  round_R 0x15 t d.toNat a.toNat b.toNat rfl rfl (by decide) (operand_lt d) (operand_lt a) (operand_lt b) fun w lit r => by
    simp [decodeWord, decodeRow1, r.trig, r.opcodeRow, r.opcodeCol, r.reg, r.aField, r.low6]
theorem dotN8 (t : Trig) (d : Operand) (a : Operand) (b : Operand) : Statement (.dotN8 t d a b) := fun _ =>
  round_R 0x16 t d.toNat a.toNat b.toNat rfl rfl (by decide) (operand_lt d) (operand_lt a) (operand_lt b) fun w lit r => by
    simp [decodeWord, decodeRow1, r.trig, r.opcodeRow, r.opcodeCol, r.reg, r.aField, r.low6]
theorem divS32 (t : Trig) (d : Operand) (a : Operand) (b : Operand) : Statement (.divS32 t d a b) := fun _ =>
  round_R 0x18 t d.toNat a.toNat b.toNat rfl rfl (by decide) (operand_lt d) (operand_lt a) (operand_lt b) fun w lit r => by
    simp [decodeWord, decodeRow1, r.trig, r.opcodeRow, r.opcodeCol, r.reg, r.aField, r.low6]
theorem divN32 (t : Trig) (d : Operand) (a : Operand) (b : Operand) : Statement (.divN32 t d a b) := fun _ =>
  round_R 0x19 t d.toNat a.toNat b.toNat rfl rfl (by decide) (operand_lt d) (operand_lt a) (operand_lt b) fun w lit r => by
    simp [decodeWord, decodeRow1, r.trig, r.opcodeRow, r.opcodeCol, r.reg, r.aField, r.low6]
theorem remS32 (t : Trig) (d : Operand) (a : Operand) (b : Operand) : Statement (.remS32 t d a b) := fun _ =>
  round_R 0x1A t d.toNat a.toNat b.toNat rfl rfl (by decide) (operand_lt d) (operand_lt a) (operand_lt b) fun w lit r => by
    simp [decodeWord, decodeRow1, r.trig, r.opcodeRow, r.opcodeCol, r.reg, r.aField, r.low6]
theorem remN32 (t : Trig) (d : Operand) (a : Operand) (b : Operand) : Statement (.remN32 t d a b) := fun _ =>
  round_R 0x1B t d.toNat a.toNat b.toNat rfl rfl (by decide) (operand_lt d) (operand_lt a) (operand_lt b) fun w lit r => by
    simp [decodeWord, decodeRow1, r.trig, r.opcodeRow, r.opcodeCol, r.reg, r.aField, r.low6]
theorem minS32 (t : Trig) (d : Operand) (a : Operand) (b : Operand) : Statement (.minS32 t d a b) := fun _ =>
  round_R 0x1C t d.toNat a.toNat b.toNat rfl rfl (by decide) (operand_lt d) (operand_lt a) (operand_lt b) fun w lit r => by
    simp [decodeWord, decodeRow1, r.trig, r.opcodeRow, r.opcodeCol, r.reg, r.aField, r.low6]
theorem maxS32 (t : Trig) (d : Operand) (a : Operand) (b : Operand) : Statement (.maxS32 t d a b) := fun _ =>
  round_R 0x1D t d.toNat a.toNat b.toNat rfl rfl (by decide) (operand_lt d) (operand_lt a) (operand_lt b) fun w lit r => by
    simp [decodeWord, decodeRow1, r.trig, r.opcodeRow, r.opcodeCol, r.reg, r.aField, r.low6]
theorem minN32 (t : Trig) (d : Operand) (a : Operand) (b : Operand) : Statement (.minN32 t d a b) := fun _ =>
  round_R 0x1E t d.toNat a.toNat b.toNat rfl rfl (by decide) (operand_lt d) (operand_lt a) (operand_lt b) fun w lit r => by
    simp [decodeWord, decodeRow1, r.trig, r.opcodeRow, r.opcodeCol, r.reg, r.aField, r.low6]
theorem maxN32 (t : Trig) (d : Operand) (a : Operand) (b : Operand) : Statement (.maxN32 t d a b) := fun _ =>
  round_R 0x1F t d.toNat a.toNat b.toNat rfl rfl (by decide) (operand_lt d) (operand_lt a) (operand_lt b) fun w lit r => by
    simp [decodeWord, decodeRow1, r.trig, r.opcodeRow, r.opcodeCol, r.reg, r.aField, r.low6]
theorem and (t : Trig) (d : Operand) (a : Operand) (b : Operand) : Statement (.and t d a b) := fun _ =>
  round_R 0x20 t d.toNat a.toNat b.toNat rfl rfl (by decide) (operand_lt d) (operand_lt a) (operand_lt b) fun w lit r => by
    simp [decodeWord, decodeRow2, r.trig, r.opcodeRow, r.opcodeCol, r.reg, r.aField, r.low6]
theorem or (t : Trig) (d : Operand) (a : Operand) (b : Operand) : Statement (.or t d a b) := fun _ =>
  round_R 0x21 t d.toNat a.toNat b.toNat rfl rfl (by decide) (operand_lt d) (operand_lt a) (operand_lt b) fun w lit r => by
    simp [decodeWord, decodeRow2, r.trig, r.opcodeRow, r.opcodeCol, r.reg, r.aField, r.low6]
theorem xor (t : Trig) (d : Operand) (a : Operand) (b : Operand) : Statement (.xor t d a b) := fun _ =>
  round_R 0x22 t d.toNat a.toNat b.toNat rfl rfl (by decide) (operand_lt d) (operand_lt a) (operand_lt b) fun w lit r => by
    simp [decodeWord, decodeRow2, r.trig, r.opcodeRow, r.opcodeCol, r.reg, r.aField, r.low6]
theorem not (t : Trig) (d : Operand) (a : Operand) : Statement (.not t d a) := fun _ =>
  round_R 0x26 t d.toNat a.toNat 0 rfl rfl (by decide) (operand_lt d) (operand_lt a) (by decide) fun w lit r => by
    simp [decodeWord, decodeRow2, r.trig, r.opcodeRow, r.opcodeCol, r.reg, r.aField, WordFields.noB, zero_ok r.low6]
theorem andi (t : Trig) (d : Operand) (a : Operand) (i : BitVec 6) : Statement (.andi t d a i) := fun _ =>
  round_R 0x27 t d.toNat a.toNat i.toNat rfl rfl (by decide) (operand_lt d) (operand_lt a) (toNat_lt_of_le i (by decide)) fun w lit r => by
    simp [decodeWord, decodeRow2, r.trig, r.opcodeRow, r.opcodeCol, r.reg, r.aField, r.low6]
theorem shl (t : Trig) (d : Operand) (a : Operand) (b : Operand) : Statement (.shl t d a b) := fun _ =>
  round_R 0x28 t d.toNat a.toNat b.toNat rfl rfl (by decide) (operand_lt d) (operand_lt a) (operand_lt b) fun w lit r => by
    simp [decodeWord, decodeRow2, r.trig, r.opcodeRow, r.opcodeCol, r.reg, r.aField, r.low6]
theorem shr (t : Trig) (d : Operand) (a : Operand) (b : Operand) : Statement (.shr t d a b) := fun _ =>
  round_R 0x29 t d.toNat a.toNat b.toNat rfl rfl (by decide) (operand_lt d) (operand_lt a) (operand_lt b) fun w lit r => by
    simp [decodeWord, decodeRow2, r.trig, r.opcodeRow, r.opcodeCol, r.reg, r.aField, r.low6]
theorem sar (t : Trig) (d : Operand) (a : Operand) (b : Operand) : Statement (.sar t d a b) := fun _ =>
  round_R 0x2A t d.toNat a.toNat b.toNat rfl rfl (by decide) (operand_lt d) (operand_lt a) (operand_lt b) fun w lit r => by
    simp [decodeWord, decodeRow2, r.trig, r.opcodeRow, r.opcodeCol, r.reg, r.aField, r.low6]
theorem shli (t : Trig) (d : Operand) (a : Operand) (i : BitVec 5) : Statement (.shli t d a i) := fun _ =>
  round_R 0x2C t d.toNat a.toNat i.toNat rfl rfl (by decide) (operand_lt d) (operand_lt a) (toNat_lt_of_le i (by decide)) fun w lit r => by
    simp [decodeWord, decodeRow2, r.trig, r.opcodeRow, r.opcodeCol, r.reg, r.aField, WordFields.noB5, zero_ok
      (r.bit5.trans (by have := i.isLt; omega)), r.imm5.trans (Nat.mod_eq_of_lt i.isLt)]
theorem shri (t : Trig) (d : Operand) (a : Operand) (i : BitVec 5) : Statement (.shri t d a i) := fun _ =>
  round_R 0x2D t d.toNat a.toNat i.toNat rfl rfl (by decide) (operand_lt d) (operand_lt a) (toNat_lt_of_le i (by decide)) fun w lit r => by
    simp [decodeWord, decodeRow2, r.trig, r.opcodeRow, r.opcodeCol, r.reg, r.aField, WordFields.noB5, zero_ok
      (r.bit5.trans (by have := i.isLt; omega)), r.imm5.trans (Nat.mod_eq_of_lt i.isLt)]
theorem sari (t : Trig) (d : Operand) (a : Operand) (i : BitVec 5) : Statement (.sari t d a i) := fun _ =>
  round_R 0x2E t d.toNat a.toNat i.toNat rfl rfl (by decide) (operand_lt d) (operand_lt a) (toNat_lt_of_le i (by decide)) fun w lit r => by
    simp [decodeWord, decodeRow2, r.trig, r.opcodeRow, r.opcodeCol, r.reg, r.aField, WordFields.noB5, zero_ok
      (r.bit5.trans (by have := i.isLt; omega)), r.imm5.trans (Nat.mod_eq_of_lt i.isLt)]
theorem clz (t : Trig) (d : Operand) (a : Operand) : Statement (.clz t d a) := fun _ =>
  round_R 0x30 t d.toNat a.toNat 0 rfl rfl (by decide) (operand_lt d) (operand_lt a) (by decide) fun w lit r => by
    simp [decodeWord, decodeRow3, r.trig, r.opcodeRow, r.opcodeCol, r.reg, r.aField, WordFields.noB, zero_ok r.low6]
theorem ctz (t : Trig) (d : Operand) (a : Operand) : Statement (.ctz t d a) := fun _ =>
  round_R 0x31 t d.toNat a.toNat 0 rfl rfl (by decide) (operand_lt d) (operand_lt a) (by decide) fun w lit r => by
    simp [decodeWord, decodeRow3, r.trig, r.opcodeRow, r.opcodeCol, r.reg, r.aField, WordFields.noB, zero_ok r.low6]
theorem popc (t : Trig) (d : Operand) (a : Operand) : Statement (.popc t d a) := fun _ =>
  round_R 0x32 t d.toNat a.toNat 0 rfl rfl (by decide) (operand_lt d) (operand_lt a) (by decide) fun w lit r => by
    simp [decodeWord, decodeRow3, r.trig, r.opcodeRow, r.opcodeCol, r.reg, r.aField, WordFields.noB, zero_ok r.low6]
theorem ldi (t : Trig) (d : Operand) (i : BitVec 12) : Statement (.ldi t d i) := fun _ =>
  round_L 0x37 t d.toNat i.toNat rfl rfl (by decide) (operand_lt d) (toNat_lt_of_le i (by decide)) fun w lit r => by
    simp [decodeWord, decodeRow3, r.trig, r.opcodeRow, r.opcodeCol, r.reg, r.low12]
theorem ldhi (t : Trig) (d : Operand) (i : BitVec 12) : Statement (.ldhi t d i) := fun _ =>
  round_L 0x38 t d.toNat i.toNat rfl rfl (by decide) (operand_lt d) (toNat_lt_of_le i (by decide)) fun w lit r => by
    simp [decodeWord, decodeRow3, r.trig, r.opcodeRow, r.opcodeCol, r.reg, r.low12]
theorem lit (t : Trig) (d : Operand) (lit : Word) : Statement (.lit t d lit) := fun _ =>
  round_LX 0x3F t d.toNat 0 lit rfl rfl (by decide) (operand_lt d) (by decide) fun w r => by
    simp [decodeWord, decodeRow3, r.trig, r.opcodeRow, r.opcodeCol, r.reg, WordFields.noImm12, zero_ok r.low12]
theorem ceqS32 (t : Trig) (d : Operand) (a : Operand) (b : Operand) : Statement (.ceqS32 t d a b) := fun _ =>
  round_R 0x40 t d.toNat a.toNat b.toNat rfl rfl (by decide) (operand_lt d) (operand_lt a) (operand_lt b) fun w lit r => by
    simp [decodeWord, decodeRow4, r.trig, r.opcodeRow, r.opcodeCol, r.reg, r.aField, r.low6]
theorem cneS32 (t : Trig) (d : Operand) (a : Operand) (b : Operand) : Statement (.cneS32 t d a b) := fun _ =>
  round_R 0x41 t d.toNat a.toNat b.toNat rfl rfl (by decide) (operand_lt d) (operand_lt a) (operand_lt b) fun w lit r => by
    simp [decodeWord, decodeRow4, r.trig, r.opcodeRow, r.opcodeCol, r.reg, r.aField, r.low6]
theorem cltS32 (t : Trig) (d : Operand) (a : Operand) (b : Operand) : Statement (.cltS32 t d a b) := fun _ =>
  round_R 0x42 t d.toNat a.toNat b.toNat rfl rfl (by decide) (operand_lt d) (operand_lt a) (operand_lt b) fun w lit r => by
    simp [decodeWord, decodeRow4, r.trig, r.opcodeRow, r.opcodeCol, r.reg, r.aField, r.low6]
theorem cleS32 (t : Trig) (d : Operand) (a : Operand) (b : Operand) : Statement (.cleS32 t d a b) := fun _ =>
  round_R 0x43 t d.toNat a.toNat b.toNat rfl rfl (by decide) (operand_lt d) (operand_lt a) (operand_lt b) fun w lit r => by
    simp [decodeWord, decodeRow4, r.trig, r.opcodeRow, r.opcodeCol, r.reg, r.aField, r.low6]
theorem cgtS32 (t : Trig) (d : Operand) (a : Operand) (b : Operand) : Statement (.cgtS32 t d a b) := fun _ =>
  round_R 0x44 t d.toNat a.toNat b.toNat rfl rfl (by decide) (operand_lt d) (operand_lt a) (operand_lt b) fun w lit r => by
    simp [decodeWord, decodeRow4, r.trig, r.opcodeRow, r.opcodeCol, r.reg, r.aField, r.low6]
theorem cgeS32 (t : Trig) (d : Operand) (a : Operand) (b : Operand) : Statement (.cgeS32 t d a b) := fun _ =>
  round_R 0x45 t d.toNat a.toNat b.toNat rfl rfl (by decide) (operand_lt d) (operand_lt a) (operand_lt b) fun w lit r => by
    simp [decodeWord, decodeRow4, r.trig, r.opcodeRow, r.opcodeCol, r.reg, r.aField, r.low6]
theorem cltN32 (t : Trig) (d : Operand) (a : Operand) (b : Operand) : Statement (.cltN32 t d a b) := fun _ =>
  round_R 0x46 t d.toNat a.toNat b.toNat rfl rfl (by decide) (operand_lt d) (operand_lt a) (operand_lt b) fun w lit r => by
    simp [decodeWord, decodeRow4, r.trig, r.opcodeRow, r.opcodeCol, r.reg, r.aField, r.low6]
theorem cleN32 (t : Trig) (d : Operand) (a : Operand) (b : Operand) : Statement (.cleN32 t d a b) := fun _ =>
  round_R 0x47 t d.toNat a.toNat b.toNat rfl rfl (by decide) (operand_lt d) (operand_lt a) (operand_lt b) fun w lit r => by
    simp [decodeWord, decodeRow4, r.trig, r.opcodeRow, r.opcodeCol, r.reg, r.aField, r.low6]
theorem cgtN32 (t : Trig) (d : Operand) (a : Operand) (b : Operand) : Statement (.cgtN32 t d a b) := fun _ =>
  round_R 0x48 t d.toNat a.toNat b.toNat rfl rfl (by decide) (operand_lt d) (operand_lt a) (operand_lt b) fun w lit r => by
    simp [decodeWord, decodeRow4, r.trig, r.opcodeRow, r.opcodeCol, r.reg, r.aField, r.low6]
theorem cgeN32 (t : Trig) (d : Operand) (a : Operand) (b : Operand) : Statement (.cgeN32 t d a b) := fun _ =>
  round_R 0x49 t d.toNat a.toNat b.toNat rfl rfl (by decide) (operand_lt d) (operand_lt a) (operand_lt b) fun w lit r => by
    simp [decodeWord, decodeRow4, r.trig, r.opcodeRow, r.opcodeCol, r.reg, r.aField, r.low6]
theorem ceqF32 (t : Trig) (d : Operand) (a : Operand) (b : Operand) : Statement (.ceqF32 t d a b) := fun _ =>
  round_R 0x4A t d.toNat a.toNat b.toNat rfl rfl (by decide) (operand_lt d) (operand_lt a) (operand_lt b) fun w lit r => by
    simp [decodeWord, decodeRow4, r.trig, r.opcodeRow, r.opcodeCol, r.reg, r.aField, r.low6]
theorem cneF32 (t : Trig) (d : Operand) (a : Operand) (b : Operand) : Statement (.cneF32 t d a b) := fun _ =>
  round_R 0x4B t d.toNat a.toNat b.toNat rfl rfl (by decide) (operand_lt d) (operand_lt a) (operand_lt b) fun w lit r => by
    simp [decodeWord, decodeRow4, r.trig, r.opcodeRow, r.opcodeCol, r.reg, r.aField, r.low6]
theorem cltF32 (t : Trig) (d : Operand) (a : Operand) (b : Operand) : Statement (.cltF32 t d a b) := fun _ =>
  round_R 0x4C t d.toNat a.toNat b.toNat rfl rfl (by decide) (operand_lt d) (operand_lt a) (operand_lt b) fun w lit r => by
    simp [decodeWord, decodeRow4, r.trig, r.opcodeRow, r.opcodeCol, r.reg, r.aField, r.low6]
theorem cleF32 (t : Trig) (d : Operand) (a : Operand) (b : Operand) : Statement (.cleF32 t d a b) := fun _ =>
  round_R 0x4D t d.toNat a.toNat b.toNat rfl rfl (by decide) (operand_lt d) (operand_lt a) (operand_lt b) fun w lit r => by
    simp [decodeWord, decodeRow4, r.trig, r.opcodeRow, r.opcodeCol, r.reg, r.aField, r.low6]
theorem cunF32 (t : Trig) (d : Operand) (a : Operand) (b : Operand) : Statement (.cunF32 t d a b) := fun _ =>
  round_R 0x4E t d.toNat a.toNat b.toNat rfl rfl (by decide) (operand_lt d) (operand_lt a) (operand_lt b) fun w lit r => by
    simp [decodeWord, decodeRow4, r.trig, r.opcodeRow, r.opcodeCol, r.reg, r.aField, r.low6]
theorem pand (t : Trig) (d : Operand) (a : Operand) (b : Operand) : Statement (.pand t d a b) := fun _ =>
  round_R 0x50 t d.toNat a.toNat b.toNat rfl rfl (by decide) (operand_lt d) (operand_lt a) (operand_lt b) fun w lit r => by
    simp [decodeWord, decodeRow5, r.trig, r.opcodeRow, r.opcodeCol, r.reg, r.aField, r.low6]
theorem por (t : Trig) (d : Operand) (a : Operand) (b : Operand) : Statement (.por t d a b) := fun _ =>
  round_R 0x51 t d.toNat a.toNat b.toNat rfl rfl (by decide) (operand_lt d) (operand_lt a) (operand_lt b) fun w lit r => by
    simp [decodeWord, decodeRow5, r.trig, r.opcodeRow, r.opcodeCol, r.reg, r.aField, r.low6]
theorem pxor (t : Trig) (d : Operand) (a : Operand) (b : Operand) : Statement (.pxor t d a b) := fun _ =>
  round_R 0x52 t d.toNat a.toNat b.toNat rfl rfl (by decide) (operand_lt d) (operand_lt a) (operand_lt b) fun w lit r => by
    simp [decodeWord, decodeRow5, r.trig, r.opcodeRow, r.opcodeCol, r.reg, r.aField, r.low6]
theorem ceqF64 (t : Trig) (d : Operand) (a : Operand) (b : Operand) : Statement (.ceqF64 t d a b) := fun _ =>
  round_R 0x55 t d.toNat a.toNat b.toNat rfl rfl (by decide) (operand_lt d) (operand_lt a) (operand_lt b) fun w lit r => by
    simp [decodeWord, decodeRow5, r.trig, r.opcodeRow, r.opcodeCol, r.reg, r.aField, r.low6]
theorem cltF64 (t : Trig) (d : Operand) (a : Operand) (b : Operand) : Statement (.cltF64 t d a b) := fun _ =>
  round_R 0x56 t d.toNat a.toNat b.toNat rfl rfl (by decide) (operand_lt d) (operand_lt a) (operand_lt b) fun w lit r => by
    simp [decodeWord, decodeRow5, r.trig, r.opcodeRow, r.opcodeCol, r.reg, r.aField, r.low6]
theorem cleF64 (t : Trig) (d : Operand) (a : Operand) (b : Operand) : Statement (.cleF64 t d a b) := fun _ =>
  round_R 0x57 t d.toNat a.toNat b.toNat rfl rfl (by decide) (operand_lt d) (operand_lt a) (operand_lt b) fun w lit r => by
    simp [decodeWord, decodeRow5, r.trig, r.opcodeRow, r.opcodeCol, r.reg, r.aField, r.low6]
theorem cunF64 (t : Trig) (d : Operand) (a : Operand) (b : Operand) : Statement (.cunF64 t d a b) := fun _ =>
  round_R 0x58 t d.toNat a.toNat b.toNat rfl rfl (by decide) (operand_lt d) (operand_lt a) (operand_lt b) fun w lit r => by
    simp [decodeWord, decodeRow5, r.trig, r.opcodeRow, r.opcodeCol, r.reg, r.aField, r.low6]
theorem ctag (t : Trig) (d : Operand) (a : Operand) (i : BitVec 3) : Statement (.ctag t d a i) := fun _ =>
  round_R 0x59 t d.toNat a.toNat i.toNat rfl rfl (by decide) (operand_lt d) (operand_lt a) (toNat_lt_of_le i (by decide)) fun w lit r => by
    simp [decodeWord, decodeRow5, r.trig, r.opcodeRow, r.opcodeCol, r.reg, r.aField, WordFields.noB53, zero_ok
      (r.bits3.trans (by have := i.isLt; omega)), r.imm3.trans (Nat.mod_eq_of_lt i.isLt)]
theorem mov (t : Trig) (d : Operand) (a : Operand) : Statement (.mov t d a) := fun _ =>
  round_R 0x60 t d.toNat a.toNat 0 rfl rfl (by decide) (operand_lt d) (operand_lt a) (by decide) fun w lit r => by
    simp [decodeWord, decodeRow6, r.trig, r.opcodeRow, r.opcodeCol, r.reg, r.aField, WordFields.noB, zero_ok r.low6]
theorem tagv (t : Trig) (d : Operand) (a : Operand) (b : Operand) : Statement (.tagv t d a b) := fun _ =>
  round_R 0x61 t d.toNat a.toNat b.toNat rfl rfl (by decide) (operand_lt d) (operand_lt a) (operand_lt b) fun w lit r => by
    simp [decodeWord, decodeRow6, r.trig, r.opcodeRow, r.opcodeCol, r.reg, r.aField, r.low6]
theorem selv (t : Trig) (d : Operand) (a : Operand) (i : BitVec 3) : Statement (.selv t d a i) := fun _ =>
  round_R 0x62 t d.toNat a.toNat i.toNat rfl rfl (by decide) (operand_lt d) (operand_lt a) (toNat_lt_of_le i (by decide)) fun w lit r => by
    simp [decodeWord, decodeRow6, r.trig, r.opcodeRow, r.opcodeCol, r.reg, r.aField, WordFields.noB53, zero_ok
      (r.bits3.trans (by have := i.isLt; omega)), r.imm3.trans (Nat.mod_eq_of_lt i.isLt)]
theorem drop (t : Trig) (a : Operand) : Statement (.drop t a) := fun _ =>
  round_R 0x63 t 0 a.toNat 0 rfl rfl (by decide) (by decide) (operand_lt a) (by decide) fun w lit r => by
    simp [decodeWord, decodeRow6, r.trig, r.opcodeRow, r.opcodeCol, r.reg, r.aField, WordFields.noTopB,
      WordFields.noB, zero_ok r.low6]
theorem selPn (t : Trig) (n : Fin 8) (d : Operand) (a : Operand) (b : Operand) : Statement (.selPn t n d a b) := fun _ =>
  round_R (0x68 + n.val) t d.toNat a.toNat b.toNat rfl rfl (by omega) (operand_lt d) (operand_lt a) (operand_lt b) fun w lit r => by
    obtain ⟨k, hk⟩ := n
    obtain rfl | rfl | rfl | rfl | rfl | rfl | rfl | rfl : k = 0 ∨ k = 1 ∨ k = 2 ∨ k = 3 ∨ k = 4 ∨ k = 5 ∨ k = 6 ∨ k = 7 :=
      by omega
    all_goals simp [decodeWord, decodeRow6, r.trig, r.opcodeRow, r.opcodeCol, r.reg, r.aField, r.low6]
theorem send (t : Trig) (x : Operand) (l : BitVec 7) : Statement (.send t x l) := fun _ =>
  round_L 0x70 t x.toNat l.toNat rfl rfl (by decide) (operand_lt x) (toNat_lt_of_le l (by decide)) fun w lit r => by
    simp [decodeWord, decodeRow7, r.trig, r.opcodeRow, r.opcodeCol, r.reg, WordFields.noImm117, zero_ok
      (r.bits7.trans (by have := l.isLt; omega)), r.imm7.trans (Nat.mod_eq_of_lt l.isLt)]
theorem sendr (t : Trig) (d : Operand) (a : Operand) (b : Operand) : Statement (.sendr t d a b) := fun _ =>
  round_R 0x71 t d.toNat a.toNat b.toNat rfl rfl (by decide) (operand_lt d) (operand_lt a) (operand_lt b) fun w lit r => by
    simp [decodeWord, decodeRow7, r.trig, r.opcodeRow, r.opcodeCol, r.reg, r.aField, r.low6]
theorem done (t : Trig) (c : BitVec 12) : Statement (.done t c) := fun _ =>
  round_L 0x72 t 0 c.toNat rfl rfl (by decide) (by decide) (toNat_lt_of_le c (by decide)) fun w lit r => by
    simp [decodeWord, decodeRow7, r.trig, r.opcodeRow, r.opcodeCol, r.low12, WordFields.noTop, zero_ok r.reg]
theorem spawn (t : Trig) (d : Operand) (a : Operand) (b : Operand) : Statement (.spawn t d a b) := fun _ =>
  round_R 0x7C t d.toNat a.toNat b.toNat rfl rfl (by decide) (operand_lt d) (operand_lt a) (operand_lt b) fun w lit r => by
    simp [decodeWord, decodeRow7, r.trig, r.opcodeRow, r.opcodeCol, r.reg, r.aField, r.low6]
theorem faddF32 (t : Trig) (d : Operand) (a : Operand) (b : Operand) : Statement (.faddF32 t d a b) := fun _ =>
  round_R 0x80 t d.toNat a.toNat b.toNat rfl rfl (by decide) (operand_lt d) (operand_lt a) (operand_lt b) fun w lit r => by
    simp [decodeWord, decodeRow8, r.trig, r.opcodeRow, r.opcodeCol, r.reg, r.aField, r.low6]
theorem fsubF32 (t : Trig) (d : Operand) (a : Operand) (b : Operand) : Statement (.fsubF32 t d a b) := fun _ =>
  round_R 0x81 t d.toNat a.toNat b.toNat rfl rfl (by decide) (operand_lt d) (operand_lt a) (operand_lt b) fun w lit r => by
    simp [decodeWord, decodeRow8, r.trig, r.opcodeRow, r.opcodeCol, r.reg, r.aField, r.low6]
theorem fmulF32 (t : Trig) (d : Operand) (a : Operand) (b : Operand) : Statement (.fmulF32 t d a b) := fun _ =>
  round_R 0x82 t d.toNat a.toNat b.toNat rfl rfl (by decide) (operand_lt d) (operand_lt a) (operand_lt b) fun w lit r => by
    simp [decodeWord, decodeRow8, r.trig, r.opcodeRow, r.opcodeCol, r.reg, r.aField, r.low6]
theorem fmacF32 (t : Trig) (d : Operand) (a : Operand) (b : Operand) : Statement (.fmacF32 t d a b) := fun _ =>
  round_R 0x83 t d.toNat a.toNat b.toNat rfl rfl (by decide) (operand_lt d) (operand_lt a) (operand_lt b) fun w lit r => by
    simp [decodeWord, decodeRow8, r.trig, r.opcodeRow, r.opcodeCol, r.reg, r.aField, r.low6]
theorem fnmacF32 (t : Trig) (d : Operand) (a : Operand) (b : Operand) : Statement (.fnmacF32 t d a b) := fun _ =>
  round_R 0x84 t d.toNat a.toNat b.toNat rfl rfl (by decide) (operand_lt d) (operand_lt a) (operand_lt b) fun w lit r => by
    simp [decodeWord, decodeRow8, r.trig, r.opcodeRow, r.opcodeCol, r.reg, r.aField, r.low6]
theorem fminF32 (t : Trig) (d : Operand) (a : Operand) (b : Operand) : Statement (.fminF32 t d a b) := fun _ =>
  round_R 0x85 t d.toNat a.toNat b.toNat rfl rfl (by decide) (operand_lt d) (operand_lt a) (operand_lt b) fun w lit r => by
    simp [decodeWord, decodeRow8, r.trig, r.opcodeRow, r.opcodeCol, r.reg, r.aField, r.low6]
theorem fmaxF32 (t : Trig) (d : Operand) (a : Operand) (b : Operand) : Statement (.fmaxF32 t d a b) := fun _ =>
  round_R 0x86 t d.toNat a.toNat b.toNat rfl rfl (by decide) (operand_lt d) (operand_lt a) (operand_lt b) fun w lit r => by
    simp [decodeWord, decodeRow8, r.trig, r.opcodeRow, r.opcodeCol, r.reg, r.aField, r.low6]
theorem fabsF32 (t : Trig) (d : Operand) (a : Operand) : Statement (.fabsF32 t d a) := fun _ =>
  round_R 0x87 t d.toNat a.toNat 0 rfl rfl (by decide) (operand_lt d) (operand_lt a) (by decide) fun w lit r => by
    simp [decodeWord, decodeRow8, r.trig, r.opcodeRow, r.opcodeCol, r.reg, r.aField, WordFields.noB, zero_ok r.low6]
theorem fnegF32 (t : Trig) (d : Operand) (a : Operand) : Statement (.fnegF32 t d a) := fun _ =>
  round_R 0x88 t d.toNat a.toNat 0 rfl rfl (by decide) (operand_lt d) (operand_lt a) (by decide) fun w lit r => by
    simp [decodeWord, decodeRow8, r.trig, r.opcodeRow, r.opcodeCol, r.reg, r.aField, WordFields.noB, zero_ok r.low6]
theorem fcpsgnF32 (t : Trig) (d : Operand) (a : Operand) (b : Operand) : Statement (.fcpsgnF32 t d a b) := fun _ =>
  round_R 0x89 t d.toNat a.toNat b.toNat rfl rfl (by decide) (operand_lt d) (operand_lt a) (operand_lt b) fun w lit r => by
    simp [decodeWord, decodeRow8, r.trig, r.opcodeRow, r.opcodeCol, r.reg, r.aField, r.low6]
theorem frsqsF32 (t : Trig) (d : Operand) (a : Operand) : Statement (.frsqsF32 t d a) := fun _ =>
  round_R 0x8A t d.toNat a.toNat 0 rfl rfl (by decide) (operand_lt d) (operand_lt a) (by decide) fun w lit r => by
    simp [decodeWord, decodeRow8, r.trig, r.opcodeRow, r.opcodeCol, r.reg, r.aField, WordFields.noB, zero_ok r.low6]
theorem frcpsF32 (t : Trig) (d : Operand) (a : Operand) : Statement (.frcpsF32 t d a) := fun _ =>
  round_R 0x8B t d.toNat a.toNat 0 rfl rfl (by decide) (operand_lt d) (operand_lt a) (by decide) fun w lit r => by
    simp [decodeWord, decodeRow8, r.trig, r.opcodeRow, r.opcodeCol, r.reg, r.aField, WordFields.noB, zero_ok r.low6]
theorem fex2sF32 (t : Trig) (d : Operand) (a : Operand) : Statement (.fex2sF32 t d a) := fun _ =>
  round_R 0x8C t d.toNat a.toNat 0 rfl rfl (by decide) (operand_lt d) (operand_lt a) (by decide) fun w lit r => by
    simp [decodeWord, decodeRow8, r.trig, r.opcodeRow, r.opcodeCol, r.reg, r.aField, WordFields.noB, zero_ok r.low6]
theorem flg2sF32 (t : Trig) (d : Operand) (a : Operand) : Statement (.flg2sF32 t d a) := fun _ =>
  round_R 0x8D t d.toNat a.toNat 0 rfl rfl (by decide) (operand_lt d) (operand_lt a) (by decide) fun w lit r => by
    simp [decodeWord, decodeRow8, r.trig, r.opcodeRow, r.opcodeCol, r.reg, r.aField, WordFields.noB, zero_ok r.low6]
theorem fclsF32 (t : Trig) (d : Operand) (a : Operand) : Statement (.fclsF32 t d a) := fun _ =>
  round_R 0x8E t d.toNat a.toNat 0 rfl rfl (by decide) (operand_lt d) (operand_lt a) (by decide) fun w lit r => by
    simp [decodeWord, decodeRow8, r.trig, r.opcodeRow, r.opcodeCol, r.reg, r.aField, WordFields.noB, zero_ok r.low6]
theorem frndF32 (t : Trig) (d : Operand) (a : Operand) : Statement (.frndF32 t d a) := fun _ =>
  round_R 0x8F t d.toNat a.toNat 0 rfl rfl (by decide) (operand_lt d) (operand_lt a) (by decide) fun w lit r => by
    simp [decodeWord, decodeRow8, r.trig, r.opcodeRow, r.opcodeCol, r.reg, r.aField, WordFields.noB, zero_ok r.low6]
theorem faddH16 (t : Trig) (d : Operand) (a : Operand) (b : Operand) : Statement (.faddH16 t d a b) := fun _ =>
  round_R 0x90 t d.toNat a.toNat b.toNat rfl rfl (by decide) (operand_lt d) (operand_lt a) (operand_lt b) fun w lit r => by
    simp [decodeWord, decodeRow9, r.trig, r.opcodeRow, r.opcodeCol, r.reg, r.aField, r.low6]
theorem fsubH16 (t : Trig) (d : Operand) (a : Operand) (b : Operand) : Statement (.fsubH16 t d a b) := fun _ =>
  round_R 0x91 t d.toNat a.toNat b.toNat rfl rfl (by decide) (operand_lt d) (operand_lt a) (operand_lt b) fun w lit r => by
    simp [decodeWord, decodeRow9, r.trig, r.opcodeRow, r.opcodeCol, r.reg, r.aField, r.low6]
theorem fmulH16 (t : Trig) (d : Operand) (a : Operand) (b : Operand) : Statement (.fmulH16 t d a b) := fun _ =>
  round_R 0x92 t d.toNat a.toNat b.toNat rfl rfl (by decide) (operand_lt d) (operand_lt a) (operand_lt b) fun w lit r => by
    simp [decodeWord, decodeRow9, r.trig, r.opcodeRow, r.opcodeCol, r.reg, r.aField, r.low6]
theorem fmacH16 (t : Trig) (d : Operand) (a : Operand) (b : Operand) : Statement (.fmacH16 t d a b) := fun _ =>
  round_R 0x93 t d.toNat a.toNat b.toNat rfl rfl (by decide) (operand_lt d) (operand_lt a) (operand_lt b) fun w lit r => by
    simp [decodeWord, decodeRow9, r.trig, r.opcodeRow, r.opcodeCol, r.reg, r.aField, r.low6]
theorem fminH16 (t : Trig) (d : Operand) (a : Operand) (b : Operand) : Statement (.fminH16 t d a b) := fun _ =>
  round_R 0x94 t d.toNat a.toNat b.toNat rfl rfl (by decide) (operand_lt d) (operand_lt a) (operand_lt b) fun w lit r => by
    simp [decodeWord, decodeRow9, r.trig, r.opcodeRow, r.opcodeCol, r.reg, r.aField, r.low6]
theorem fmaxH16 (t : Trig) (d : Operand) (a : Operand) (b : Operand) : Statement (.fmaxH16 t d a b) := fun _ =>
  round_R 0x95 t d.toNat a.toNat b.toNat rfl rfl (by decide) (operand_lt d) (operand_lt a) (operand_lt b) fun w lit r => by
    simp [decodeWord, decodeRow9, r.trig, r.opcodeRow, r.opcodeCol, r.reg, r.aField, r.low6]
theorem fdotH16 (t : Trig) (d : Operand) (a : Operand) (b : Operand) : Statement (.fdotH16 t d a b) := fun _ =>
  round_R 0x96 t d.toNat a.toNat b.toNat rfl rfl (by decide) (operand_lt d) (operand_lt a) (operand_lt b) fun w lit r => by
    simp [decodeWord, decodeRow9, r.trig, r.opcodeRow, r.opcodeCol, r.reg, r.aField, r.low6]
theorem fdmacH16 (t : Trig) (d : Operand) (a : Operand) (b : Operand) : Statement (.fdmacH16 t d a b) := fun _ =>
  round_R 0x97 t d.toNat a.toNat b.toNat rfl rfl (by decide) (operand_lt d) (operand_lt a) (operand_lt b) fun w lit r => by
    simp [decodeWord, decodeRow9, r.trig, r.opcodeRow, r.opcodeCol, r.reg, r.aField, r.low6]
theorem cvtF32S32 (t : Trig) (d : Operand) (a : Operand) : Statement (.cvtF32S32 t d a) := fun _ =>
  round_R 0x98 t d.toNat a.toNat 0 rfl rfl (by decide) (operand_lt d) (operand_lt a) (by decide) fun w lit r => by
    simp [decodeWord, decodeRow9, r.trig, r.opcodeRow, r.opcodeCol, r.reg, r.aField, WordFields.noB, zero_ok r.low6]
theorem cvtS32F32 (t : Trig) (d : Operand) (a : Operand) : Statement (.cvtS32F32 t d a) := fun _ =>
  round_R 0x99 t d.toNat a.toNat 0 rfl rfl (by decide) (operand_lt d) (operand_lt a) (by decide) fun w lit r => by
    simp [decodeWord, decodeRow9, r.trig, r.opcodeRow, r.opcodeCol, r.reg, r.aField, WordFields.noB, zero_ok r.low6]
theorem cvtF32N32 (t : Trig) (d : Operand) (a : Operand) : Statement (.cvtF32N32 t d a) := fun _ =>
  round_R 0x9A t d.toNat a.toNat 0 rfl rfl (by decide) (operand_lt d) (operand_lt a) (by decide) fun w lit r => by
    simp [decodeWord, decodeRow9, r.trig, r.opcodeRow, r.opcodeCol, r.reg, r.aField, WordFields.noB, zero_ok r.low6]
theorem cvtN32F32 (t : Trig) (d : Operand) (a : Operand) : Statement (.cvtN32F32 t d a) := fun _ =>
  round_R 0x9B t d.toNat a.toNat 0 rfl rfl (by decide) (operand_lt d) (operand_lt a) (by decide) fun w lit r => by
    simp [decodeWord, decodeRow9, r.trig, r.opcodeRow, r.opcodeCol, r.reg, r.aField, WordFields.noB, zero_ok r.low6]
theorem cvtH16F32 (t : Trig) (d : Operand) (a : Operand) (b : Operand) : Statement (.cvtH16F32 t d a b) := fun _ =>
  round_R 0x9C t d.toNat a.toNat b.toNat rfl rfl (by decide) (operand_lt d) (operand_lt a) (operand_lt b) fun w lit r => by
    simp [decodeWord, decodeRow9, r.trig, r.opcodeRow, r.opcodeCol, r.reg, r.aField, r.low6]
theorem cvtlF32H16 (t : Trig) (d : Operand) (a : Operand) : Statement (.cvtlF32H16 t d a) := fun _ =>
  round_R 0x9D t d.toNat a.toNat 0 rfl rfl (by decide) (operand_lt d) (operand_lt a) (by decide) fun w lit r => by
    simp [decodeWord, decodeRow9, r.trig, r.opcodeRow, r.opcodeCol, r.reg, r.aField, WordFields.noB, zero_ok r.low6]
theorem cvthF32H16 (t : Trig) (d : Operand) (a : Operand) : Statement (.cvthF32H16 t d a) := fun _ =>
  round_R 0x9E t d.toNat a.toNat 0 rfl rfl (by decide) (operand_lt d) (operand_lt a) (by decide) fun w lit r => by
    simp [decodeWord, decodeRow9, r.trig, r.opcodeRow, r.opcodeCol, r.reg, r.aField, WordFields.noB, zero_ok r.low6]
theorem cvtS8F32 (t : Trig) (d : Operand) (a : Operand) : Statement (.cvtS8F32 t d a) := fun _ =>
  round_R 0x9F t d.toNat a.toNat 0 rfl rfl (by decide) (operand_lt d) (operand_lt a) (by decide) fun w lit r => by
    simp [decodeWord, decodeRow9, r.trig, r.opcodeRow, r.opcodeCol, r.reg, r.aField, WordFields.noB, zero_ok r.low6]
theorem cvtMx8e4F32 (t : Trig) (d : Operand) (a : Operand) (b : Operand) : Statement (.cvtMx8e4F32 t d a b) := fun _ =>
  round_R 0xA0 t d.toNat a.toNat b.toNat rfl rfl (by decide) (operand_lt d) (operand_lt a) (operand_lt b) fun w lit r => by
    simp [decodeWord, decodeRowA, r.trig, r.opcodeRow, r.opcodeCol, r.reg, r.aField, r.low6]
theorem cvtMx8e5F32 (t : Trig) (d : Operand) (a : Operand) (b : Operand) : Statement (.cvtMx8e5F32 t d a b) := fun _ =>
  round_R 0xA1 t d.toNat a.toNat b.toNat rfl rfl (by decide) (operand_lt d) (operand_lt a) (operand_lt b) fun w lit r => by
    simp [decodeWord, decodeRowA, r.trig, r.opcodeRow, r.opcodeCol, r.reg, r.aField, r.low6]
theorem cvtF32Mx8e4 (t : Trig) (d : Operand) (a : Operand) (b : Operand) : Statement (.cvtF32Mx8e4 t d a b) := fun _ =>
  round_R 0xA2 t d.toNat a.toNat b.toNat rfl rfl (by decide) (operand_lt d) (operand_lt a) (operand_lt b) fun w lit r => by
    simp [decodeWord, decodeRowA, r.trig, r.opcodeRow, r.opcodeCol, r.reg, r.aField, r.low6]
theorem cvtF32Mx8e5 (t : Trig) (d : Operand) (a : Operand) (b : Operand) : Statement (.cvtF32Mx8e5 t d a b) := fun _ =>
  round_R 0xA3 t d.toNat a.toNat b.toNat rfl rfl (by decide) (operand_lt d) (operand_lt a) (operand_lt b) fun w lit r => by
    simp [decodeWord, decodeRowA, r.trig, r.opcodeRow, r.opcodeCol, r.reg, r.aField, r.low6]
theorem cvtWf8F32 (t : Trig) (d : Operand) (a : Operand) (b : Operand) : Statement (.cvtWf8F32 t d a b) := fun _ =>
  round_R 0xA4 t d.toNat a.toNat b.toNat rfl rfl (by decide) (operand_lt d) (operand_lt a) (operand_lt b) fun w lit r => by
    simp [decodeWord, decodeRowA, r.trig, r.opcodeRow, r.opcodeCol, r.reg, r.aField, r.low6]
theorem cvtF32Wf8 (t : Trig) (d : Operand) (a : Operand) (b : Operand) : Statement (.cvtF32Wf8 t d a b) := fun _ =>
  round_R 0xA5 t d.toNat a.toNat b.toNat rfl rfl (by decide) (operand_lt d) (operand_lt a) (operand_lt b) fun w lit r => by
    simp [decodeWord, decodeRowA, r.trig, r.opcodeRow, r.opcodeCol, r.reg, r.aField, r.low6]
theorem cvtWf5F32 (t : Trig) (d : Operand) (a : Operand) (b : Operand) : Statement (.cvtWf5F32 t d a b) := fun _ =>
  round_R 0xA6 t d.toNat a.toNat b.toNat rfl rfl (by decide) (operand_lt d) (operand_lt a) (operand_lt b) fun w lit r => by
    simp [decodeWord, decodeRowA, r.trig, r.opcodeRow, r.opcodeCol, r.reg, r.aField, r.low6]
theorem cvtF32Wf5 (t : Trig) (d : Operand) (a : Operand) (b : Operand) : Statement (.cvtF32Wf5 t d a b) := fun _ =>
  round_R 0xA7 t d.toNat a.toNat b.toNat rfl rfl (by decide) (operand_lt d) (operand_lt a) (operand_lt b) fun w lit r => by
    simp [decodeWord, decodeRowA, r.trig, r.opcodeRow, r.opcodeCol, r.reg, r.aField, r.low6]
theorem cvtWf3F32 (t : Trig) (d : Operand) (a : Operand) (b : Operand) : Statement (.cvtWf3F32 t d a b) := fun _ =>
  round_R 0xA8 t d.toNat a.toNat b.toNat rfl rfl (by decide) (operand_lt d) (operand_lt a) (operand_lt b) fun w lit r => by
    simp [decodeWord, decodeRowA, r.trig, r.opcodeRow, r.opcodeCol, r.reg, r.aField, r.low6]
theorem cvtF32Wf3 (t : Trig) (d : Operand) (a : Operand) (b : Operand) : Statement (.cvtF32Wf3 t d a b) := fun _ =>
  round_R 0xA9 t d.toNat a.toNat b.toNat rfl rfl (by decide) (operand_lt d) (operand_lt a) (operand_lt b) fun w lit r => by
    simp [decodeWord, decodeRowA, r.trig, r.opcodeRow, r.opcodeCol, r.reg, r.aField, r.low6]
theorem faddF64 (t : Trig) (d : Operand) (a : Operand) (b : Operand) : Statement (.faddF64 t d a b) := fun _ =>
  round_R 0xB0 t d.toNat a.toNat b.toNat rfl rfl (by decide) (operand_lt d) (operand_lt a) (operand_lt b) fun w lit r => by
    simp [decodeWord, decodeRowB, r.trig, r.opcodeRow, r.opcodeCol, r.reg, r.aField, r.low6]
theorem fsubF64 (t : Trig) (d : Operand) (a : Operand) (b : Operand) : Statement (.fsubF64 t d a b) := fun _ =>
  round_R 0xB1 t d.toNat a.toNat b.toNat rfl rfl (by decide) (operand_lt d) (operand_lt a) (operand_lt b) fun w lit r => by
    simp [decodeWord, decodeRowB, r.trig, r.opcodeRow, r.opcodeCol, r.reg, r.aField, r.low6]
theorem fmulF64 (t : Trig) (d : Operand) (a : Operand) (b : Operand) : Statement (.fmulF64 t d a b) := fun _ =>
  round_R 0xB2 t d.toNat a.toNat b.toNat rfl rfl (by decide) (operand_lt d) (operand_lt a) (operand_lt b) fun w lit r => by
    simp [decodeWord, decodeRowB, r.trig, r.opcodeRow, r.opcodeCol, r.reg, r.aField, r.low6]
theorem fmacF64 (t : Trig) (d : Operand) (a : Operand) (b : Operand) : Statement (.fmacF64 t d a b) := fun _ =>
  round_R 0xB3 t d.toNat a.toNat b.toNat rfl rfl (by decide) (operand_lt d) (operand_lt a) (operand_lt b) fun w lit r => by
    simp [decodeWord, decodeRowB, r.trig, r.opcodeRow, r.opcodeCol, r.reg, r.aField, r.low6]
theorem fdivF64 (t : Trig) (d : Operand) (a : Operand) (b : Operand) : Statement (.fdivF64 t d a b) := fun _ =>
  round_R 0xB4 t d.toNat a.toNat b.toNat rfl rfl (by decide) (operand_lt d) (operand_lt a) (operand_lt b) fun w lit r => by
    simp [decodeWord, decodeRowB, r.trig, r.opcodeRow, r.opcodeCol, r.reg, r.aField, r.low6]
theorem fsqrtF64 (t : Trig) (d : Operand) (a : Operand) : Statement (.fsqrtF64 t d a) := fun _ =>
  round_R 0xB5 t d.toNat a.toNat 0 rfl rfl (by decide) (operand_lt d) (operand_lt a) (by decide) fun w lit r => by
    simp [decodeWord, decodeRowB, r.trig, r.opcodeRow, r.opcodeCol, r.reg, r.aField, WordFields.noB, zero_ok r.low6]
theorem fminF64 (t : Trig) (d : Operand) (a : Operand) (b : Operand) : Statement (.fminF64 t d a b) := fun _ =>
  round_R 0xB6 t d.toNat a.toNat b.toNat rfl rfl (by decide) (operand_lt d) (operand_lt a) (operand_lt b) fun w lit r => by
    simp [decodeWord, decodeRowB, r.trig, r.opcodeRow, r.opcodeCol, r.reg, r.aField, r.low6]
theorem fmaxF64 (t : Trig) (d : Operand) (a : Operand) (b : Operand) : Statement (.fmaxF64 t d a b) := fun _ =>
  round_R 0xB7 t d.toNat a.toNat b.toNat rfl rfl (by decide) (operand_lt d) (operand_lt a) (operand_lt b) fun w lit r => by
    simp [decodeWord, decodeRowB, r.trig, r.opcodeRow, r.opcodeCol, r.reg, r.aField, r.low6]
theorem cvtF64F32 (t : Trig) (d : Operand) (a : Operand) : Statement (.cvtF64F32 t d a) := fun _ =>
  round_R 0xB8 t d.toNat a.toNat 0 rfl rfl (by decide) (operand_lt d) (operand_lt a) (by decide) fun w lit r => by
    simp [decodeWord, decodeRowB, r.trig, r.opcodeRow, r.opcodeCol, r.reg, r.aField, WordFields.noB, zero_ok r.low6]
theorem cvtF32F64 (t : Trig) (d : Operand) (a : Operand) : Statement (.cvtF32F64 t d a) := fun _ =>
  round_R 0xB9 t d.toNat a.toNat 0 rfl rfl (by decide) (operand_lt d) (operand_lt a) (by decide) fun w lit r => by
    simp [decodeWord, decodeRowB, r.trig, r.opcodeRow, r.opcodeCol, r.reg, r.aField, WordFields.noB, zero_ok r.low6]
theorem cvtF64S32 (t : Trig) (d : Operand) (a : Operand) : Statement (.cvtF64S32 t d a) := fun _ =>
  round_R 0xBA t d.toNat a.toNat 0 rfl rfl (by decide) (operand_lt d) (operand_lt a) (by decide) fun w lit r => by
    simp [decodeWord, decodeRowB, r.trig, r.opcodeRow, r.opcodeCol, r.reg, r.aField, WordFields.noB, zero_ok r.low6]
theorem cvtS32F64 (t : Trig) (d : Operand) (a : Operand) : Statement (.cvtS32F64 t d a) := fun _ =>
  round_R 0xBB t d.toNat a.toNat 0 rfl rfl (by decide) (operand_lt d) (operand_lt a) (by decide) fun w lit r => by
    simp [decodeWord, decodeRowB, r.trig, r.opcodeRow, r.opcodeCol, r.reg, r.aField, WordFields.noB, zero_ok r.low6]
theorem fabsF64 (t : Trig) (d : Operand) (a : Operand) : Statement (.fabsF64 t d a) := fun _ =>
  round_R 0xBC t d.toNat a.toNat 0 rfl rfl (by decide) (operand_lt d) (operand_lt a) (by decide) fun w lit r => by
    simp [decodeWord, decodeRowB, r.trig, r.opcodeRow, r.opcodeCol, r.reg, r.aField, WordFields.noB, zero_ok r.low6]
theorem fnegF64 (t : Trig) (d : Operand) (a : Operand) : Statement (.fnegF64 t d a) := fun _ =>
  round_R 0xBD t d.toNat a.toNat 0 rfl rfl (by decide) (operand_lt d) (operand_lt a) (by decide) fun w lit r => by
    simp [decodeWord, decodeRowB, r.trig, r.opcodeRow, r.opcodeCol, r.reg, r.aField, WordFields.noB, zero_ok r.low6]
theorem ldN32 (t : Trig) (d : Operand) (a : Operand) (w : BitVec 6) : Statement (.ldN32 t d a w) := fun _ =>
  round_R 0xC0 t d.toNat a.toNat w.toNat rfl rfl (by decide) (operand_lt d) (operand_lt a) (toNat_lt_of_le w (by decide)) fun w lit r => by
    simp [decodeWord, decodeRowC, r.trig, r.opcodeRow, r.opcodeCol, r.reg, r.aField, r.low6]
theorem ldS16 (t : Trig) (d : Operand) (a : Operand) (w : BitVec 6) : Statement (.ldS16 t d a w) := fun _ =>
  round_R 0xC1 t d.toNat a.toNat w.toNat rfl rfl (by decide) (operand_lt d) (operand_lt a) (toNat_lt_of_le w (by decide)) fun w lit r => by
    simp [decodeWord, decodeRowC, r.trig, r.opcodeRow, r.opcodeCol, r.reg, r.aField, r.low6]
theorem ldN16 (t : Trig) (d : Operand) (a : Operand) (w : BitVec 6) : Statement (.ldN16 t d a w) := fun _ =>
  round_R 0xC2 t d.toNat a.toNat w.toNat rfl rfl (by decide) (operand_lt d) (operand_lt a) (toNat_lt_of_le w (by decide)) fun w lit r => by
    simp [decodeWord, decodeRowC, r.trig, r.opcodeRow, r.opcodeCol, r.reg, r.aField, r.low6]
theorem ldS8 (t : Trig) (d : Operand) (a : Operand) (w : BitVec 6) : Statement (.ldS8 t d a w) := fun _ =>
  round_R 0xC3 t d.toNat a.toNat w.toNat rfl rfl (by decide) (operand_lt d) (operand_lt a) (toNat_lt_of_le w (by decide)) fun w lit r => by
    simp [decodeWord, decodeRowC, r.trig, r.opcodeRow, r.opcodeCol, r.reg, r.aField, r.low6]
theorem ldN8 (t : Trig) (d : Operand) (a : Operand) (w : BitVec 6) : Statement (.ldN8 t d a w) := fun _ =>
  round_R 0xC4 t d.toNat a.toNat w.toNat rfl rfl (by decide) (operand_lt d) (operand_lt a) (toNat_lt_of_le w (by decide)) fun w lit r => by
    simp [decodeWord, decodeRowC, r.trig, r.opcodeRow, r.opcodeCol, r.reg, r.aField, r.low6]
theorem stN32 (t : Trig) (d : Operand) (a : Operand) (w : BitVec 6) : Statement (.stN32 t d a w) := fun _ =>
  round_R 0xC5 t d.toNat a.toNat w.toNat rfl rfl (by decide) (operand_lt d) (operand_lt a) (toNat_lt_of_le w (by decide)) fun w lit r => by
    simp [decodeWord, decodeRowC, r.trig, r.opcodeRow, r.opcodeCol, r.reg, r.aField, r.low6]
theorem stN16 (t : Trig) (d : Operand) (a : Operand) (w : BitVec 6) : Statement (.stN16 t d a w) := fun _ =>
  round_R 0xC6 t d.toNat a.toNat w.toNat rfl rfl (by decide) (operand_lt d) (operand_lt a) (toNat_lt_of_le w (by decide)) fun w lit r => by
    simp [decodeWord, decodeRowC, r.trig, r.opcodeRow, r.opcodeCol, r.reg, r.aField, r.low6]
theorem stN8 (t : Trig) (d : Operand) (a : Operand) (w : BitVec 6) : Statement (.stN8 t d a w) := fun _ =>
  round_R 0xC7 t d.toNat a.toNat w.toNat rfl rfl (by decide) (operand_lt d) (operand_lt a) (toNat_lt_of_le w (by decide)) fun w lit r => by
    simp [decodeWord, decodeRowC, r.trig, r.opcodeRow, r.opcodeCol, r.reg, r.aField, r.low6]
theorem pf (t : Trig) (a : Operand) (w : BitVec 6) : Statement (.pf t a w) := fun _ =>
  round_R 0xC8 t 0 a.toNat w.toNat rfl rfl (by decide) (by decide) (operand_lt a) (toNat_lt_of_le w (by decide)) fun w lit r => by
    simp [decodeWord, decodeRowC, r.trig, r.opcodeRow, r.opcodeCol, r.aField, r.low6, WordFields.noTop, zero_ok
      r.reg]
theorem gstN32 (t : Trig) (d : Operand) (a : Operand) (w : BitVec 6) : Statement (.gstN32 t d a w) := fun _ =>
  round_R 0xC9 t d.toNat a.toNat w.toNat rfl rfl (by decide) (operand_lt d) (operand_lt a) (toNat_lt_of_le w (by decide)) fun w lit r => by
    simp [decodeWord, decodeRowC, r.trig, r.opcodeRow, r.opcodeCol, r.reg, r.aField, r.low6]
theorem gstN16 (t : Trig) (d : Operand) (a : Operand) (w : BitVec 6) : Statement (.gstN16 t d a w) := fun _ =>
  round_R 0xCA t d.toNat a.toNat w.toNat rfl rfl (by decide) (operand_lt d) (operand_lt a) (toNat_lt_of_le w (by decide)) fun w lit r => by
    simp [decodeWord, decodeRowC, r.trig, r.opcodeRow, r.opcodeCol, r.reg, r.aField, r.low6]
theorem gstN8 (t : Trig) (d : Operand) (a : Operand) (w : BitVec 6) : Statement (.gstN8 t d a w) := fun _ =>
  round_R 0xCB t d.toNat a.toNat w.toNat rfl rfl (by decide) (operand_lt d) (operand_lt a) (toNat_lt_of_le w (by decide)) fun w lit r => by
    simp [decodeWord, decodeRowC, r.trig, r.opcodeRow, r.opcodeCol, r.reg, r.aField, r.low6]
theorem ldN64 (t : Trig) (d : Operand) (a : Operand) (w : BitVec 6) : Statement (.ldN64 t d a w) := fun _ =>
  round_R 0xCC t d.toNat a.toNat w.toNat rfl rfl (by decide) (operand_lt d) (operand_lt a) (toNat_lt_of_le w (by decide)) fun w lit r => by
    simp [decodeWord, decodeRowC, r.trig, r.opcodeRow, r.opcodeCol, r.reg, r.aField, r.low6]
theorem stN64 (t : Trig) (d : Operand) (a : Operand) (w : BitVec 6) : Statement (.stN64 t d a w) := fun _ =>
  round_R 0xCD t d.toNat a.toNat w.toNat rfl rfl (by decide) (operand_lt d) (operand_lt a) (toNat_lt_of_le w (by decide)) fun w lit r => by
    simp [decodeWord, decodeRowC, r.trig, r.opcodeRow, r.opcodeCol, r.reg, r.aField, r.low6]
theorem amo (t : Trig) (d : Operand) (a : Operand) (b : Operand) (lit : Word) : Statement (.amo t d a b lit) := fun _ =>
  round_RX 0xD0 t d.toNat a.toNat b.toNat lit rfl rfl (by decide) (operand_lt d) (operand_lt a) (operand_lt b) fun w r => by
    simp [decodeWord, decodeRowD, r.trig, r.opcodeRow, r.opcodeCol, r.reg, r.aField, r.low6]
theorem amoc (t : Trig) (d : Operand) (a : Operand) (b : Operand) (lit : Word) : Statement (.amoc t d a b lit) := fun _ =>
  round_RX 0xD1 t d.toNat a.toNat b.toNat lit rfl rfl (by decide) (operand_lt d) (operand_lt a) (operand_lt b) fun w r => by
    simp [decodeWord, decodeRowD, r.trig, r.opcodeRow, r.opcodeCol, r.reg, r.aField, r.low6]
theorem sems (t : Trig) (d : Operand) (a : Operand) (b : Operand) : Statement (.sems t d a b) := fun _ =>
  round_R 0xD2 t d.toNat a.toNat b.toNat rfl rfl (by decide) (operand_lt d) (operand_lt a) (operand_lt b) fun w lit r => by
    simp [decodeWord, decodeRowD, r.trig, r.opcodeRow, r.opcodeCol, r.reg, r.aField, r.low6]
theorem semw (t : Trig) (d : Operand) (a : Operand) (b : Operand) : Statement (.semw t d a b) := fun _ =>
  round_R 0xD3 t d.toNat a.toNat b.toNat rfl rfl (by decide) (operand_lt d) (operand_lt a) (operand_lt b) fun w lit r => by
    simp [decodeWord, decodeRowD, r.trig, r.opcodeRow, r.opcodeCol, r.reg, r.aField, r.low6]
theorem arrive (t : Trig) (d : Operand) (a : Operand) (b : Operand) : Statement (.arrive t d a b) := fun _ =>
  round_R 0xD4 t d.toNat a.toNat b.toNat rfl rfl (by decide) (operand_lt d) (operand_lt a) (operand_lt b) fun w lit r => by
    simp [decodeWord, decodeRowD, r.trig, r.opcodeRow, r.opcodeCol, r.reg, r.aField, r.low6]
theorem fencel (t : Trig) (d : Operand) (a : Operand) (b : Operand) : Statement (.fencel t d a b) := fun _ =>
  round_R 0xD8 t d.toNat a.toNat b.toNat rfl rfl (by decide) (operand_lt d) (operand_lt a) (operand_lt b) fun w lit r => by
    simp [decodeWord, decodeRowD, r.trig, r.opcodeRow, r.opcodeCol, r.reg, r.aField, r.low6]
theorem fenceh (t : Trig) (d : Operand) (a : Operand) (b : Operand) : Statement (.fenceh t d a b) := fun _ =>
  round_R 0xD9 t d.toNat a.toNat b.toNat rfl rfl (by decide) (operand_lt d) (operand_lt a) (operand_lt b) fun w lit r => by
    simp [decodeWord, decodeRowD, r.trig, r.opcodeRow, r.opcodeCol, r.reg, r.aField, r.low6]
theorem fence (t : Trig) (lit : Word) : Statement (.fence t lit) := fun _ =>
  round_LX 0xDA t 0 0 lit rfl rfl (by decide) (by decide) (by decide) fun w r => by
    simp [decodeWord, decodeRowD, r.trig, r.opcodeRow, r.opcodeCol, WordFields.noLow, zero_ok r.low18]
theorem ifence (t : Trig) : Statement (.ifence t) := fun _ =>
  round_L 0xDB t 0 0 rfl rfl (by decide) (by decide) (by decide) fun w lit r => by
    simp [decodeWord, decodeRowD, r.trig, r.opcodeRow, r.opcodeCol, WordFields.noLow, zero_ok r.low18]
theorem mcmd (t : Trig) (d : Operand) (a : Operand) (b : Operand) : Statement (.mcmd t d a b) := fun _ =>
  round_R 0xE0 t d.toNat a.toNat b.toNat rfl rfl (by decide) (operand_lt d) (operand_lt a) (operand_lt b) fun w lit r => by
    simp [decodeWord, decodeRowE, r.trig, r.opcodeRow, r.opcodeCol, r.reg, r.aField, r.low6]
theorem scmd (t : Trig) (d : Operand) (a : Operand) (b : Operand) : Statement (.scmd t d a b) := fun _ =>
  round_R 0xE1 t d.toNat a.toNat b.toNat rfl rfl (by decide) (operand_lt d) (operand_lt a) (operand_lt b) fun w lit r => by
    simp [decodeWord, decodeRowE, r.trig, r.opcodeRow, r.opcodeCol, r.reg, r.aField, r.low6]
theorem qcmd (t : Trig) (d : Operand) (a : Operand) (b : Operand) : Statement (.qcmd t d a b) := fun _ =>
  round_R 0xE2 t d.toNat a.toNat b.toNat rfl rfl (by decide) (operand_lt d) (operand_lt a) (operand_lt b) fun w lit r => by
    simp [decodeWord, decodeRowE, r.trig, r.opcodeRow, r.opcodeCol, r.reg, r.aField, r.low6]
theorem ask (t : Trig) (d : Operand) (a : Operand) (b : Operand) : Statement (.ask t d a b) := fun _ =>
  round_R 0xE8 t d.toNat a.toNat b.toNat rfl rfl (by decide) (operand_lt d) (operand_lt a) (operand_lt b) fun w lit r => by
    simp [decodeWord, decodeRowE, r.trig, r.opcodeRow, r.opcodeCol, r.reg, r.aField, r.low6]
theorem answer (t : Trig) (a : Operand) (b : Operand) : Statement (.answer t a b) := fun _ =>
  round_R 0xE9 t 0 a.toNat b.toNat rfl rfl (by decide) (by decide) (operand_lt a) (operand_lt b) fun w lit r => by
    simp [decodeWord, decodeRowE, r.trig, r.opcodeRow, r.opcodeCol, r.aField, r.low6, WordFields.noTop, zero_ok
      r.reg]
theorem setpg (t : Trig) (n : BitVec 2) : Statement (.setpg t n) := fun _ =>
  round_L 0xEA t 0 n.toNat rfl rfl (by decide) (by decide) (toNat_lt_of_le n (by decide)) fun w lit r => by
    simp [decodeWord, decodeRowE, r.trig, r.opcodeRow, r.opcodeCol, WordFields.noTopImm112, zero_ok (r.bits2.trans
      (by have := n.isLt; omega)), r.imm2.trans (Nat.mod_eq_of_lt n.isLt)]
theorem nop (t : Trig) : Statement (.nop t) := fun _ =>
  round_L 0xF0 t 0 0 rfl rfl (by decide) (by decide) (by decide) fun w lit r => by
    simp [decodeWord, decodeRowF, r.trig, r.opcodeRow, r.opcodeCol, WordFields.noLow, zero_ok r.low18]
theorem trap (t : Trig) (c : BitVec 12) : Statement (.trap t c) := fun _ =>
  round_L 0xF1 t 0 c.toNat rfl rfl (by decide) (by decide) (toNat_lt_of_le c (by decide)) fun w lit r => by
    simp [decodeWord, decodeRowF, r.trig, r.opcodeRow, r.opcodeCol, r.low12, WordFields.noTop, zero_ok r.reg]
theorem bkpt (t : Trig) (c : BitVec 12) : Statement (.bkpt t c) := fun _ =>
  round_L 0xF2 t 0 c.toNat rfl rfl (by decide) (by decide) (toNat_lt_of_le c (by decide)) fun w lit r => by
    simp [decodeWord, decodeRowF, r.trig, r.opcodeRow, r.opcodeCol, r.low12, WordFields.noTop, zero_ok r.reg]
theorem srd (t : Trig) (d : Operand) (i : BitVec 12) : Statement (.srd t d i) := fun _ =>
  round_L 0xF3 t d.toNat i.toNat rfl rfl (by decide) (operand_lt d) (toNat_lt_of_le i (by decide)) fun w lit r => by
    simp [decodeWord, decodeRowF, r.trig, r.opcodeRow, r.opcodeCol, r.reg, r.low12]
theorem swr (t : Trig) (d : Operand) (i : BitVec 12) : Statement (.swr t d i) := fun _ =>
  round_L 0xF4 t d.toNat i.toNat rfl rfl (by decide) (operand_lt d) (toNat_lt_of_le i (by decide)) fun w lit r => by
    simp [decodeWord, decodeRowF, r.trig, r.opcodeRow, r.opcodeCol, r.reg, r.low12]
theorem vectorBeat (elem : Nat) : Statement (.vectorBeat elem) := fun h => nomatch h
theorem halt : Statement (.halt) := fun h => nomatch h
theorem streamRd (st : BitVec 3) (base : Word) (count : BitVec 12) (stride : BitVec 12) : Statement (.streamRd st base count stride) := fun h => nomatch h
theorem streamWr (st : BitVec 3) (base : Word) (count : BitVec 12) (stride : BitVec 12) : Statement (.streamWr st base count stride) := fun h => nomatch h
theorem snextRd (st : BitVec 3) (count : BitVec 12) (stride : BitVec 12) : Statement (.snextRd st count stride) := fun h => nomatch h
theorem snextWr (st : BitVec 3) (count : BitVec 12) (stride : BitVec 12) : Statement (.snextWr st count stride) := fun h => nomatch h
theorem sadd (st : BitVec 3) (delta : Word) : Statement (.sadd st delta) := fun h => nomatch h
theorem deliver (st : BitVec 3) (port : BitVec 4) (row : BitVec 12) (level : BitVec 3) : Statement (.deliver st port row level) := fun h => nomatch h
theorem push (island : BitVec 2) (ring : BitVec 3) (st : BitVec 3) (bytes : BitVec 12) : Statement (.push island ring st bytes) := fun h => nomatch h
theorem accept (st : BitVec 3) (port : BitVec 4) : Statement (.accept st port) := fun h => nomatch h
theorem spcopy (sta : BitVec 3) (stb : BitVec 3) : Statement (.spcopy sta stb) := fun h => nomatch h
theorem galloc (g : BitVec 6) (offset : BitVec 19) (bytes : BitVec 19) : Statement (.galloc g offset bytes) := fun h => nomatch h
theorem gfree (g : BitVec 6) : Statement (.gfree g) := fun h => nomatch h
theorem sbar (mask : Byte) : Statement (.sbar mask) := fun h => nomatch h
theorem loop (n : BitVec 1) (count : BitVec 16) (stop : BitVec 8) : Statement (.loop n count stop) := fun h => nomatch h
theorem lpset (n : BitVec 1) (reg : BitVec 2) (value : BitVec 16) : Statement (.lpset n reg value) := fun h => nomatch h
theorem segw (n : BitVec 4) (half : BitVec 1) (value : Word) : Statement (.segw n half value) := fun h => nomatch h
theorem qwait : Statement (.qwait) := fun h => nomatch h
theorem fupd (desc : BitVec 19) : Statement (.fupd desc) := fun h => nomatch h
theorem notify (mask : Byte) (label : BitVec 7) : Statement (.notify mask label) := fun h => nomatch h
theorem ssig (sem : BitVec 10) (n : BitVec 16) : Statement (.ssig sem n) := fun h => nomatch h
theorem swait (sem : BitVec 10) (n : BitVec 16) : Statement (.swait sem n) := fun h => nomatch h
theorem mma (acc : BitVec 2) (accum : BitVec 1) (ra : BitVec 3) (rb : BitVec 3) (fa : BitVec 4) (fb : BitVec 4) (m : BitVec 7) (n : BitVec 8) (k : BitVec 3) : Statement (.mma acc accum ra rb fa fb m n k) := fun h => nomatch h
theorem accw (acc : BitVec 2) (f : BitVec 4) (sat : BitVec 1) (oa : BitVec 16) (m : BitVec 7) (n : BitVec 8) : Statement (.accw acc f sat oa m n) := fun h => nomatch h
theorem accl (acc : BitVec 2) (oa : BitVec 16) (m : BitVec 7) (n : BitVec 8) : Statement (.accl acc oa m n) := fun h => nomatch h
theorem msig (kind : BitVec 2) (n : BitVec 16) (sem : BitVec 10) : Statement (.msig kind n sem) := fun h => nomatch h
theorem rpop (ring : BitVec 3) : Statement (.rpop ring) := fun h => nomatch h
theorem qinit (q : BitVec 1) (mode : BitVec 2) (n : BitVec 7) (oa : BitVec 16) (var : BitVec 2) (c : BitVec 7) : Statement (.qinit q mode n oa var c) := fun h => nomatch h
theorem qadd (q : BitVec 1) (ring : BitVec 3) (p : BitVec 7) : Statement (.qadd q ring p) := fun h => nomatch h
theorem qapl (q : BitVec 1) (tr : BitVec 1) (ring : BitVec 3) (oa : BitVec 16) (c : BitVec 7) : Statement (.qapl q tr ring oa c) := fun h => nomatch h
theorem qapr (q : BitVec 1) (tr : BitVec 1) (ring : BitVec 3) (oa : BitVec 16) (r : BitVec 7) : Statement (.qapr q tr ring oa r) := fun h => nomatch h
theorem qcnt (q : BitVec 1) : Statement (.qcnt q) := fun h => nomatch h
theorem qspl (q : BitVec 1) (oa : BitVec 16) : Statement (.qspl q oa) := fun h => nomatch h
theorem qldv (q : BitVec 1) (oa : BitVec 16) : Statement (.qldv q oa) := fun h => nomatch h
theorem graph (wait : BitVec 16) (done : BitVec 16) (address : BitVec 64) : Statement (.graph wait done address) := fun h => nomatch h
theorem task (wait : BitVec 16) (done : BitVec 16) (label : BitVec 7) (w0 : Word) (w1 : Word) : Statement (.task wait done label w0 w1) := fun h => nomatch h
theorem setctr (wait : BitVec 16) (done : BitVec 16) (counter : BitVec 16) (value : BitVec 24) : Statement (.setctr wait done counter value) := fun h => nomatch h
theorem arriveCommand (wait : BitVec 16) (done : BitVec 16) (counter : BitVec 16) : Statement (.arriveCommand wait done counter) := fun h => nomatch h
theorem loadNode (arrive : BitVec 16) (succ : BitVec 16) (image : BitVec 57) (block : BitVec 64) (edge : BitVec 16) : Statement (.loadNode arrive succ image block edge) := fun h => nomatch h
theorem condNode (cmp : BitVec 4) (arrive : BitVec 16) (succA : BitVec 16) (succB : BitVec 16) (addr : BitVec 57) (value : BitVec 64) (mask : BitVec 64) : Statement (.condNode cmp arrive succA succB addr value mask) := fun h => nomatch h
theorem loopNode (cmp : BitVec 4) (cap : BitVec 8) (arrive : BitVec 16) (succA : BitVec 16) (succB : BitVec 16) (addr : BitVec 57) (value : BitVec 64) (mask : BitVec 64) : Statement (.loopNode cmp cap arrive succA succB addr value mask) := fun h => nomatch h
theorem switchNode (arrive : BitVec 16) (succB : BitVec 16) (addr : BitVec 57) (shift : BitVec 6) (count : BitVec 8) (succs : BitVec 64) : Statement (.switchNode arrive succB addr shift count succs) := fun h => nomatch h
theorem endNode (arrive : BitVec 16) : Statement (.endNode arrive) := fun h => nomatch h
theorem slotBreakpointHalt (elem : Nat) : Statement (.slotBreakpointHalt elem) := fun h => nomatch h
theorem tokenDelivery (elem : Nat) (port : Nat) : Statement (.tokenDelivery elem port) := fun h => nomatch h
theorem sendQueueDrain (elem : Nat) : Statement (.sendQueueDrain elem) := fun h => nomatch h
theorem shuttleArrival (bh : Nat) (index : Nat) : Statement (.shuttleArrival bh index) := fun h => nomatch h
theorem handOver (elem : Nat) : Statement (.handOver elem) := fun h => nomatch h
theorem performRequest (tile : Nat) (index : Nat) : Statement (.performRequest tile index) := fun h => nomatch h
theorem storeBufferDrain (tile : Nat) : Statement (.storeBufferDrain tile) := fun h => nomatch h
theorem homeSliceApply (slice : Nat) : Statement (.homeSliceApply slice) := fun h => nomatch h
theorem replyReturn (bh : Nat) (index : Nat) : Statement (.replyReturn bh index) := fun h => nomatch h
theorem pageWalk (tile : Nat) (index : Nat) : Statement (.pageWalk tile index) := fun h => nomatch h
theorem runAheadPrefetch (tile : Nat) (st : Nat) : Statement (.runAheadPrefetch tile st) := fun h => nomatch h
theorem fenceComplete (elem : Nat) : Statement (.fenceComplete elem) := fun h => nomatch h
theorem fencehReply (bh : Nat) (index : Nat) : Statement (.fencehReply bh index) := fun h => nomatch h
theorem pageFetchInstall (elem : Nat) : Statement (.pageFetchInstall elem) := fun h => nomatch h
theorem elementRetire (elem : Nat) : Statement (.elementRetire elem) := fun h => nomatch h
theorem fupdReadPhase (tile : Nat) : Statement (.fupdReadPhase tile) := fun h => nomatch h
theorem fupdCommit (tile : Nat) : Statement (.fupdCommit tile) := fun h => nomatch h
theorem swaitRetry (tile : Nat) : Statement (.swaitRetry tile) := fun h => nomatch h
theorem streamLineAccess (tile : Nat) (st : Nat) (ahead : Nat) : Statement (.streamLineAccess tile st ahead) := fun h => nomatch h
theorem runComplete (tile : Nat) (st : Nat) : Statement (.runComplete tile st) := fun h => nomatch h
theorem enginePortTake (tile : Nat) (binding : Nat) : Statement (.enginePortTake tile binding) := fun h => nomatch h
theorem strmPairMove (tile : Nat) (binding : Nat) : Statement (.strmPairMove tile binding) := fun h => nomatch h
theorem streamerCommandStart (streamer : Nat) : Statement (.streamerCommandStart streamer) := fun h => nomatch h
theorem copy (streamer : Nat) (run : Nat) : Statement (.copy streamer run) := fun h => nomatch h
theorem cred (streamer : Nat) (run : Nat) : Statement (.cred streamer run) := fun h => nomatch h
theorem gather (streamer : Nat) (run : Nat) : Statement (.gather streamer run) := fun h => nomatch h
theorem scatter (streamer : Nat) (run : Nat) : Statement (.scatter streamer run) := fun h => nomatch h
theorem fill (streamer : Nat) (run : Nat) : Statement (.fill streamer run) := fun h => nomatch h
theorem xpose (streamer : Nat) (run : Nat) : Statement (.xpose streamer run) := fun h => nomatch h
theorem streamerCommandEnd (streamer : Nat) (run : Nat) : Statement (.streamerCommandEnd streamer run) := fun h => nomatch h
theorem controlTokenTake (island : Nat) : Statement (.controlTokenTake island) := fun h => nomatch h
theorem tokenRetire (island : Nat) : Statement (.tokenRetire island) := fun h => nomatch h
theorem islandRestart (island : Nat) : Statement (.islandRestart island) := fun h => nomatch h
theorem continuationLaunchEnd (slice : Nat) (launch : Nat) : Statement (.continuationLaunchEnd slice launch) := fun h => nomatch h
theorem semwWithdraw (elem : Nat) (id : Nat) : Statement (.semwWithdraw elem id) := fun h => nomatch h
theorem remoteAtomicApply (bh : Nat) : Statement (.remoteAtomicApply bh) := fun h => nomatch h
theorem remoteCompletion (fn : Nat) (index : Nat) (status : Nat) (old : Nat) : Statement (.remoteCompletion fn index status old) := fun h => nomatch h
theorem portalCompletion (bh : Nat) (index : Nat) (ok : Bool) (old : Nat) : Statement (.portalCompletion bh index ok old) := fun h => nomatch h
theorem portalTimeout (bh : Nat) (index : Nat) : Statement (.portalTimeout bh index) := fun h => nomatch h
theorem askDecide (hub : Nat) : Statement (.askDecide hub) := fun h => nomatch h
theorem askFrameDelivery (hub : Nat) : Statement (.askFrameDelivery hub) := fun h => nomatch h
theorem answerAccept (hub : Nat) : Statement (.answerAccept hub) := fun h => nomatch h
theorem askDue (hub : Nat) (entry : Nat) : Statement (.askDue hub entry) := fun h => nomatch h
theorem poolRefill (hub : Nat) : Statement (.poolRefill hub) := fun h => nomatch h
theorem conditioningToken (hub : Nat) (site : Nat) : Statement (.conditioningToken hub site) := fun h => nomatch h
theorem hubRegisterWrite (hub : Nat) : Statement (.hubRegisterWrite hub) := fun h => nomatch h
theorem qdb (fn : Nat) (index : Nat) (tail : Nat) : Statement (.qdb fn index tail) := fun h => nomatch h
theorem qcfgWrite (fn : Nat) (index : Nat) (value : Word) : Statement (.qcfgWrite fn index value) := fun h => nomatch h
theorem journalWrite (fn : Nat) : Statement (.journalWrite fn) := fun h => nomatch h
theorem commandDispatch (bh : Nat) : Statement (.commandDispatch bh) := fun h => nomatch h
theorem commandComplete (queue : Nat) (id : Nat) : Statement (.commandComplete queue id) := fun h => nomatch h
theorem recomputeReplay (queue : Nat) : Statement (.recomputeReplay queue) := fun h => nomatch h
theorem imageValidation (bh : Nat) : Statement (.imageValidation bh) := fun h => nomatch h
theorem reconfigurationSweep (bh : Nat) : Statement (.reconfigurationSweep bh) := fun h => nomatch h
theorem sweepColumnPass (bh : Nat) : Statement (.sweepColumnPass bh) := fun h => nomatch h
theorem configurationLoad (bh : Nat) : Statement (.configurationLoad bh) := fun h => nomatch h
theorem loadRetire (bh : Nat) : Statement (.loadRetire bh) := fun h => nomatch h
theorem faultRecord (bh : Nat) : Statement (.faultRecord bh) := fun h => nomatch h
theorem killSweep (bh : Nat) : Statement (.killSweep bh) := fun h => nomatch h
theorem queueLevelKill (queue : Nat) (code : Nat) : Statement (.queueLevelKill queue code) := fun h => nomatch h
theorem qkill (fn : Nat) (index : Nat) : Statement (.qkill fn index) := fun h => nomatch h
theorem parentKill (queue : Nat) : Statement (.parentKill queue) := fun h => nomatch h
theorem qmapWrite (queue : Nat) (value : Word) : Statement (.qmapWrite queue value) := fun h => nomatch h
theorem bhcfgWrite (bh : Nat) (value : Word) : Statement (.bhcfgWrite bh value) := fun h => nomatch h
theorem bhrst (bh : Nat) (value : Word) : Statement (.bhrst bh value) := fun h => nomatch h
theorem gate (bh : Nat) : Statement (.gate bh) := fun h => nomatch h
theorem railOff (bh : Nat) : Statement (.railOff bh) := fun h => nomatch h
theorem railUp (bh : Nat) : Statement (.railUp bh) := fun h => nomatch h
theorem pllLock (bh : Nat) : Statement (.pllLock bh) := fun h => nomatch h
theorem release (bh : Nat) : Statement (.release bh) := fun h => nomatch h
theorem ready (bh : Nat) : Statement (.ready bh) := fun h => nomatch h
theorem poolEnable (pool : Nat) (value : Word) : Statement (.poolEnable pool value) := fun h => nomatch h
theorem gangSwitchTick (pool : Nat) : Statement (.gangSwitchTick pool) := fun h => nomatch h
theorem endOfSliceSweep (bh : Nat) : Statement (.endOfSliceSweep bh) := fun h => nomatch h
theorem contextSave (bh : Nat) : Statement (.contextSave bh) := fun h => nomatch h
theorem contextRestore (bh : Nat) : Statement (.contextRestore bh) := fun h => nomatch h
theorem saveQuarantine (bh : Nat) : Statement (.saveQuarantine bh) := fun h => nomatch h
theorem saveDeadline (pool : Nat) : Statement (.saveDeadline pool) := fun h => nomatch h
theorem gangStart (pool : Nat) : Statement (.gangStart pool) := fun h => nomatch h
theorem restoreQuarantine (bh : Nat) : Statement (.restoreQuarantine bh) := fun h => nomatch h
theorem discard (bh : Nat) : Statement (.discard bh) := fun h => nomatch h
theorem ovnEnable (ovn : Nat) (value : Word) : Statement (.ovnEnable ovn value) := fun h => nomatch h
theorem ovnRelease (ovn : Nat) : Statement (.ovnRelease ovn) := fun h => nomatch h
theorem spinePacketArrival (packet : Arrival) : Statement (.spinePacketArrival packet) := fun h => nomatch h
theorem dropcntClear (die : Nat) (value : Word) : Statement (.dropcntClear die value) := fun h => nomatch h
theorem windowGrantWrite (fn : Nat) (bh : Nat) (win : Nat) (importing : Bool) (value : BitVec 128) : Statement (.windowGrantWrite fn bh win importing value) := fun h => nomatch h
theorem windowCloseComplete (bh : Nat) (win : Nat) : Statement (.windowCloseComplete bh win) := fun h => nomatch h
theorem shootdownPage (fn : Nat) (pasid : Nat) (size : Nat) (wb : Bool) : Statement (.shootdownPage fn pasid size wb) := fun h => nomatch h
theorem shootdownPasid (fn : Nat) (pasid : Nat) : Statement (.shootdownPasid fn pasid) := fun h => nomatch h
theorem shootdownFunction (fn : Nat) : Statement (.shootdownFunction fn) := fun h => nomatch h
theorem s2ShootdownPage (tag : Nat) (size : Nat) (wb : Bool) : Statement (.s2ShootdownPage tag size wb) := fun h => nomatch h
theorem s2ShootdownTag (tag : Nat) : Statement (.s2ShootdownTag tag) := fun h => nomatch h
theorem s2ShootdownRegion (wb : Bool) : Statement (.s2ShootdownRegion wb) := fun h => nomatch h
theorem shootdownComplete (fn : Nat) : Statement (.shootdownComplete fn) := fun h => nomatch h
theorem counterClear (fn : Nat) (bh : Nat) (engine : Nat) (value : Word) : Statement (.counterClear fn bh engine value) := fun h => nomatch h
theorem semcntWrite (fn : Nat) (bh : Nat) (sem : Nat) (value : Word) : Statement (.semcntWrite fn bh sem value) := fun h => nomatch h
theorem sinklogClear (fn : Nat) (bh : Nat) (value : Word) : Statement (.sinklogClear fn bh value) := fun h => nomatch h
theorem haltlogClear (fn : Nat) (bh : Nat) (value : Word) : Statement (.haltlogClear fn bh value) := fun h => nomatch h
theorem debugRelease (fn : Nat) (bh : Nat) (elem : Nat) : Statement (.debugRelease fn bh elem) := fun h => nomatch h
theorem debugStep (fn : Nat) (bh : Nat) (elem : Nat) : Statement (.debugStep fn bh elem) := fun h => nomatch h
theorem debugReleaseAll (fn : Nat) (bh : Nat) : Statement (.debugReleaseAll fn bh) := fun h => nomatch h
theorem sample (bh : Nat) : Statement (.sample bh) := fun h => nomatch h
theorem traceRecord (bh : Nat) : Statement (.traceRecord bh) := fun h => nomatch h
theorem freeze (value : Word) : Statement (.freeze value) := fun h => nomatch h
theorem thermalEvaluation (bh : Nat) (temp : Byte) : Statement (.thermalEvaluation bh temp) := fun h => nomatch h
theorem msixUnmask (fn : Nat) (vector : Nat) : Statement (.msixUnmask fn vector) := fun h => nomatch h
theorem cxlLinkDown (port : Nat) : Statement (.cxlLinkDown port) := fun h => nomatch h
theorem cxlLinkUp (port : Nat) : Statement (.cxlLinkUp port) := fun h => nomatch h
theorem ualinkPortFail (port : Nat) : Statement (.ualinkPortFail port) := fun h => nomatch h
theorem powerOnBoot (secOk : Bool) (mgmtOk : BitVec 4) : Statement (.powerOnBoot secOk mgmtOk) := fun h => nomatch h
theorem getVersion (request : List Byte) : Statement (.getVersion request) := fun h => nomatch h
theorem getCapabilities (request : List Byte) : Statement (.getCapabilities request) := fun h => nomatch h
theorem negotiateAlgorithms (request : List Byte) : Statement (.negotiateAlgorithms request) := fun h => nomatch h
theorem getDigests (request : List Byte) : Statement (.getDigests request) := fun h => nomatch h
theorem getCertificate (request : List Byte) : Statement (.getCertificate request) := fun h => nomatch h
theorem challenge (request : List Byte) : Statement (.challenge request) := fun h => nomatch h
theorem getMeasurements (request : List Byte) : Statement (.getMeasurements request) := fun h => nomatch h
theorem registerWrite (fn : Nat) (bar : Nat) (offset : Nat) (wide : Bool) (value : BitVec 64) : Statement (.registerWrite fn bar offset wide value) := fun h => nomatch h
theorem ualinkPortReady (port : Nat) : Statement (.ualinkPortReady port) := fun h => nomatch h
theorem spineUncorrectableError (bh : Nat) : Statement (.spineUncorrectableError bh) := fun h => nomatch h

end Sys2Proof.Laws.RoundTrip
end

