-- ==== Sys2Proof/Safety.lean ====
section
/-!
DEFINITION. The vocabulary of the claims: when a slot fires (05 R75-R77, 06 R89-R95), what a completed beat leaves, results as
exact integers, and the invariants.
-/
namespace Sys2Proof.Safety
open Sys2Proof Sys2Proof.Machine

/-! ## Beats -/

/-- A beat of an element: the element by its key and as it stands, the form of its instruction, and the issue the beat
belongs to. -/
structure Beat where
  key : Nat
  elem : Elem
  form : Form
  run : Issue

/-- The beat is the first of a slot: the slot is in focus, ready (06 R89) and no sweep holds its element (06 R114); N and the
heddle are those its word names. -/
abbrev Beat.Fires (x : Beat) (i : Instr) (t : Trig) (s : State) : Prop :=
  x.elem.issue = none ∧ sweepHolds s x.key = false ∧ s.focus = .elem x.key x.run.slot x.run.word x.run.lit
    ∧ slotReady s x.key x.run.slot x.elem x.run.heddle i x.form = true
    ∧ x.run = { slot := x.run.slot, word := x.run.word, lit := x.run.lit, heddle := x.elem.page.heddle t.heddle.val,
                n := heddleN (x.elem.page.heddle t.heddle.val), beat := 0 }

/-- The element in focus. -/
def focusElem : Focus → Option Nat
  | .elem key _ _ _ => some key
  | _ => none

/-- The beat is the next of an issue in progress (06 R93, R94): it holds for no reply, and what it pushes has room. -/
abbrev Beat.GoesOn (x : Beat) (i : Instr) (s : State) : Prop :=
  x.elem.issue = some x.run ∧ x.run.wait = none ∧ x.run.withdrawn = false ∧ focusElem s.focus = some x.key
    ∧ outputsReady x.elem x.form = true ∧ queuesReady x.elem x.form = true
    ∧ extraReady s x.key x.run.slot 1 x.elem i = true

/-- The beat of a well-formed instruction may run now: its element may fire (06 R114), no soft error stands in what it
reads (19 R332), and it is the first beat of a ready slot or the next one of an issue in progress. -/
abbrev Beat.Ready (x : Beat) (i : Instr) (t : Trig) (s : State) : Prop :=
  s.elem? x.key = some x.elem ∧ formOf i = some x.form ∧ slotCheck (elemKind x.key) i = none
    ∧ elemRuns s x.key x.elem = true ∧ x.elem.parity = false ∧ (x.Fires i t s ∨ x.GoesOn i s)

/-- The element as the beat begins: a fire is past the slot breakpoints (23 R359). -/
abbrev Beat.start (x : Beat) : Elem := match x.elem.issue with
  | none => { x.elem with skipBreak := false }
  | some _ => x.elem

/-- What the beat reads (05 R76, R77). -/
abbrev Beat.reads (x : Beat) : Reads := readFields x.key x.run.slot x.run.heddle x.run.beat x.run.n x.form.fields x.start

/-- The word read by field n, in the order of 05 R77. -/
abbrev Beat.val (x : Beat) (n : Nat) : Word := x.reads.val n

/-- The state after a complete beat that leaves the element as `e` and everything outside it as `s`: the beat counts as
ISSUE, and the issue goes on or ends (06 R93-R95, R101). -/
abbrev Beat.ends (x : Beat) (s : State) (e : Elem) : State := (s.countFire x.key x.run.slot x.run.beat).endBeat x.key e x.run

/-- The element `e` with a word written to d, tag level 0, and flags raised (05 R76, 06 R85, 07 R132). -/
abbrev Beat.put (x : Beat) (s : State) (e : Elem) (d : Operand) (v : Word) (f : Flags) (underflowed : Bool) : Elem :=
  (e.write (sparsePorts s x.key) d v (mkTag 0 (x.reads.exc || f.isFloat)) underflowed).orFlags f

/-- The same with a pair. -/
abbrev Beat.putPair (x : Beat) (s : State) (e : Elem) (d : Operand) (v : Nat) (f : Flags) (underflowed : Bool) : Elem :=
  (e.write2 (sparsePorts s x.key) d v (mkTag 0 (x.reads.exc || f.isFloat)) underflowed).orFlags f

/-- The state after a beat that meets a fault at fire: its pops stand, nothing else of its effect happens, and the exception
is taken (19 R323). -/
abbrev Beat.takes (x : Beat) (s : State) (code detail addr : Nat) : State :=
  (s.countFire x.key x.run.slot x.run.beat).faultBeat x.key { x.reads.e with parity := false } x.run.slot code false detail addr

/-- The request that a beat places in the memory issue queue (10 R193). -/
def Beat.request (x : Beat) (s : State) (q : Issued) : Req :=
  { id := s.nextId, elem := x.key, kind := q.kind, slot := x.run.slot, wave := q.wave, beat := x.run.beat,
    last := x.run.beat + 1 == x.run.n, addr := q.addr, va := q.at_.va, cls := q.at_.cls, reads := q.at_.reads }

/-- The record of the request, kept until it is complete; `exc` is the exception bit that the value written gets. -/
def Beat.record (x : Beat) (s : State) (q : Issued) (exc : Bool := x.reads.exc) : Pending :=
  { id := s.nextId, kind := q.kind, classes := q.classes, isStore := q.kind.isStore, seg0 := q.kind.isStore && q.at_.seg0,
    barrier := q.kind.isBarrier, slot := x.run.slot, wave := q.wave, dest := q.dest, exc := exc, wide := q.wide,
    popped := x.reads.popped,
    undo := if q.kind.isSemw then some (undoOf x.elem x.reads.e x.run.heddle (x.run.beat + 1 == x.run.n && match q.dest with
        | .operand _ => false
        | _ => true) (issueOf s x.reads))
      else none }

/-- The element with the request at the end of its issue queue, and its entry reserved where the reply goes to a port
(10 R194). -/
def Beat.withRequest (x : Beat) (s : State) (e : Elem) (q : Issued) (exc : Bool := x.reads.exc) : Elem :=
  let e := match q.dest with
    | .port n => e.reserve (sparsePorts s x.key) n s.nextId q.wide exc
    | _ => e
  { e with issueq := e.issueq ++ [x.request s q], pending := e.pending ++ [x.record s q exc] }

/-- The state after a beat that places a request and leaves the element else as `e`: where the reply goes to an operand that
is no port the beat holds for it, else it is complete (10 R194). -/
def Beat.asksFrom (x : Beat) (s : State) (e : Elem) (q : Issued) (exc : Bool := x.reads.exc) : State :=
  let s' := { s with nextId := s.nextId + 1 }
  match q.dest with
  | .operand _ => (s'.countFire x.key x.run.slot x.run.beat).setElem x.key
      { x.withRequest s e q exc with issue := some { x.run with wait := some s.nextId } }
  | _ => x.ends s' (x.withRequest s e q exc)

/-- The state after a beat that waits for room or for an earlier effect: nothing has happened, and it is tried again
(06 R94). -/
def Beat.holds (x : Beat) (s : State) : State :=
  s.setElem x.key { x.start with issue := some (x.run.hold s.spine) }

/-- The same from the element as the reads leave it. -/
abbrev Beat.asks (x : Beat) (s : State) (q : Issued) : State := x.asksFrom s x.reads.e q

/-- Every beat of i that may run answers a next state, in which d holds the value and fl the flags that f gives from the
words read, and nothing else has changed than a completed beat changes. -/
def Writes (i : Instr) (t : Trig) (d : Operand) (f : (Nat → Word) → Word × Flags) : Prop :=
  ∀ (x : Beat) (s : State), x.Ready i t s →
    exec i s = .next (x.ends s (x.put s x.reads.e d (f x.val).1 (f x.val).2 false))

/-- The same for an instruction that reads pairs: f gives the word written from the 64-bit values read. -/
def WritesFromPairs (i : Instr) (t : Trig) (d : Operand) (f : (Nat → Nat) → Word × Flags) : Prop :=
  ∀ (x : Beat) (s : State), x.Ready i t s →
    exec i s = .next (x.ends s (x.put s x.reads.e d (f x.reads.pair).1 (f x.reads.pair).2 false))

/-- Every beat of i that may run writes to d the pair of a result that takes no rounding mode. -/
def WritesPair (i : Instr) (t : Trig) (d : Operand) (f : Reads → FRes) : Prop :=
  ∀ (x : Beat) (s : State), x.Ready i t s →
    exec i s = .next (x.ends s (x.putPair s x.reads.e d (f x.reads).bits (f x.reads).flags (f x.reads).ufZero))

/-- The element as a rounding instruction finds it once its operands are read: in SR mode lf has stepped (07 R128). -/
def stepped (e : Elem) : Elem := if e.record.mode = .sr then { e with lf := lfStep e.lf } else e

/-- The mode of an element and its generator, which a rounded result depends on. -/
abbrev Rounding := RMode → Nat → FRes

/-- Every beat of i that may run writes to d the result that f rounds from what the beat reads, in the element's mode and
with its stepped generator, and raises the result's flags. -/
def WritesRounded (i : Instr) (t : Trig) (d : Operand) (f : Reads → Rounding) : Prop :=
  ∀ (x : Beat) (s : State), x.Ready i t s →
    let e := stepped x.reads.e
    let y := f x.reads e.record.mode e.lf.toNat
    exec i s = .next (x.ends s (x.put s e d (BitVec.ofNat 32 y.bits) y.flags y.ufZero))

/-- The same with a binary64 result. -/
def WritesRoundedPair (i : Instr) (t : Trig) (d : Operand) (f : Reads → Rounding) : Prop :=
  ∀ (x : Beat) (s : State), x.Ready i t s →
    let e := stepped x.reads.e
    let y := f x.reads e.record.mode e.lf.toNat
    exec i s = .next (x.ends s (x.putPair s e d y.bits y.flags y.ufZero))

/-- The same with two lanes, lane 0 rounded before lane 1, each after a step of the generator in SR mode (08 R140). -/
def WritesLanes (i : Instr) (t : Trig) (d : Operand) (f : Nat → Reads → Rounding) : Prop :=
  ∀ (x : Beat) (s : State), x.Ready i t s →
    let e0 := stepped x.reads.e
    let e1 := stepped e0
    let y0 := f 0 x.reads e0.record.mode e0.lf.toNat
    let y1 := f 1 x.reads e0.record.mode e1.lf.toNat
    exec i s = .next (x.ends s (x.put s e1 d (BitVec.ofNat 32 (y0.bits + 65536 * y1.bits)) (y0.flags ||| y1.flags)
      (y0.ufZero && y1.ufZero)))

/-- Every beat of i that may run writes to d a result that takes no rounding mode. -/
def WritesResult (i : Instr) (t : Trig) (d : Operand) (f : Reads → FRes) : Prop :=
  ∀ (x : Beat) (s : State), x.Ready i t s →
    exec i s = .next (x.ends s (x.put s x.reads.e d (BitVec.ofNat 32 (f x.reads).bits) (f x.reads).flags
      (f x.reads).ufZero))

/-! ## Sequencers, islands, queues -/

/-- The state in which a step of an engine runs: its accesses get the answers that have come so far (14 R248, log 12). -/
abbrev answered (s : State) (key bh engine rank : Nat) : State :=
  { s with asking := some (((tget? s.works key).getD (s.newWork bh engine rank)).answers, none) }

/-- The state once a step of an engine that asked for no further access has taken effect: its work is done. -/
abbrev settled (key : Nat) (t : State) : State := { t with asking := none, works := tdel t.works key }

/-- What an attempt of a step of an engine comes to, `t` being the state that its step gives: `done` of it where the step asked for
no further access, and else nothing but that access moving on (14 R248, log 12). -/
def tried (s : State) (key bh engine rank : Nat) (t : State) (done : State → State) : State :=
  match t.asked with
  | none => done (settled key t)
  | some a => ({ s with nextId := s.nextId + 1 } : State).progress key ((tget? s.works key).getD (s.newWork bh engine rank)) a

/-- A command may run in the sequencer of a tile (10 R201): the tile, as it stands, is in focus, its engines may act, and
the command is the queued one being executed or comes from the static program. -/
abbrev Serves (k : Nat) (t : Tile) (s : State) : Prop :=
  s.focus = .sequencer k ∧ tget? s.tiles k = some t ∧ tileRuns s k = true ∧ (t.current.isSome = true ∨ t.serving = false)

/-- The same for a command of the static program. -/
abbrev ServesStatic (k : Nat) (t : Tile) (s : State) : Prop := Serves k t s ∧ t.current = none

/-- The state with a tile as given, after a command that has been executed. -/
abbrev executed (k : Nat) (t : Tile) (s : State) : State := (s.setTile k t).seqEnd k none false

/-- The tile with a stream of it as given. -/
def withStream (t : Tile) (st : Nat) (x : Stream) : Tile := { t with streams := tset t.streams st x }

/-- A token may run in an island (12 R220): the island, as it stands, is in focus, it may start work, and the token stands
at the head of its queue with no other being executed. -/
abbrev Takes (k : Nat) (x : Island) (c : EngineCmd) (rest : List EngineCmd) (s : State) : Prop :=
  s.focus = .island k ∧ tget? s.islands k = some x ∧ x.queue = c :: rest ∧ startRuns s (k / 4) = true ∧ x.exec = none

/-- The state in which the step of a token runs, whose work takes its rank from the rings that it names (09 R181). -/
abbrev tokenState (s : State) (k : Nat) (rings : List Nat) : State :=
  answered s (islandWork k) (k / 4) (32 + k % 4) (if rings.isEmpty then rankElement else rankRing)

/-- The ring is bound and holds a tile. -/
abbrev Holds (x : Island) (m : BitVec 3) : Prop := (x.ring m.toNat).bound = true ∧ (x.ring m.toNat).count ≠ 0

/-- The state after a token's effect: it has left the queue and is being executed, with the rings that it names. -/
abbrev applied (k : Nat) (c : EngineCmd) (rest : List EngineCmd) (rings : List Nat) (s : State) : State :=
  (s.countIssue (islandEngine k)).modIsland k fun z => { z with queue := rest, exec := some (c, rings), started := false }

/-- A queue's head command may run (03 R37): it has been dispatched and has not ended, no graph of it runs, and no kill of its
queue is busy (19 R337). -/
abbrev Dispatched (q : Nat) (a : Accepted) (s : State) : Prop :=
  s.focus = .queue q ∧ (s.queue q).accepted.head? = some a ∧ a.dispatched = true ∧ a.status = none
    ∧ (s.queue q).graph = none ∧ (s.queue q).killBusy = false

/-- A node of a kind may run (02 R27): it is the current one of the graph of the queue in focus, whose bulkheads may act. -/
abbrev AtNode (q : Nat) (g : Graph) (kind : Nat) (s : State) : Prop :=
  s.focus = .queue q ∧ (s.queue q).graph = some g ∧ graphRuns s q = true ∧ (g.state = .ready ∨ g.state = .honoured)
    ∧ (g.nodes[g.current]?).map Node.kind = some kind


/-! ## Frames -/

/-- An element instruction whose effect lies in its element: no queue, engine or special register takes part. -/
def plainInstr (i : Instr) : Bool :=
  match formOf i with
  | none => false
  | some f => !f.sendQ && !f.issueQ && (f.fields.all fun x => x.accept != .outPort && x.accept != .registerOrOut)
      && match i with
        | .done .. => false
        | .srd .. => false
        | .swr .. => false
        | _ => true

/-- A field writes register n: its operand is d n, or the even register below it in a pair (05 R76, R78). -/
def fieldWritesReg (n : Nat) (x : Field) : Bool :=
  x.write && match x.op with
    | .d m => m.val == n || (x.wide && m.val + 1 == n)
    | _ => false

/-- A field writes predicate n. -/
def fieldWritesPred (n : Nat) (x : Field) : Bool := x.write && x.op == .p (Fin.ofNat 8 n)

/-- A field pushes on output port n. -/
def fieldWritesPort (n : Nat) (x : Field) : Bool := x.write && x.op == .o (Fin.ofNat 8 n)

/-- The byte of a device address as home slice k holds it: in its cached line, or else in memory. -/
def sliceByte (s : State) (k a : Nat) : Byte :=
  match (s.slice k).cache.find? (·.line == a / 256) with
  | some l => l.data.get a
  | none => s.mem.get a

/-! ## Invariants -/

/-- Memory is in its canonical form everywhere (log 3): device memory, the bytes of cached lines, the scratchpads and those of
saved contexts; and no slice caches a line twice (09 R183). -/
abbrev Canonical (s : State) : Prop :=
  s.mem.wf = true
    ∧ (∀ p ∈ s.slices, (∀ l ∈ p.2.cache, l.data.wf = true) ∧ (p.2.cache.map CacheLine.line).Nodup)
    ∧ (∀ p ∈ s.tiles, p.2.scratch.wf = true)
    ∧ ∀ c ∈ s.contexts, ∀ p ∈ c.tiles, p.2.scratch.wf = true

/-- What the set-up registers hold: reserved fields of the CXL map read 0 (09 R176), a gazetteer entry names a device and a
bulkhead (04 R61), a network in force has 8 to 256 slots (04 R56), and no management element is released before the firmware has been
verified (24 R377). -/
abbrev SetUp (s : State) : Prop :=
  (∀ p ∈ s.cxlmap, bits p.2.toNat 4 26 = 0)
    ∧ (∀ p ∈ s.gazetteer, p.2.device < 128 ∧ p.2.bh < 16)
    ∧ (∀ p ∈ s.ovns, p.2.on = true → 8 ≤ p.2.slots ∧ p.2.slots ≤ 256)
    ∧ (s.sec = false → s.mgmt = 0)

/-! ## Exact results -/

/-- The word of an integer, modulo 2^32. -/
def word (n : Int) : Word := BitVec.ofInt 32 n
/-- A value that raises no flag. -/
def plain (w : Word) : Word × Flags := (w, 0)
/-- The integer nearest to v in [lo, hi]. -/
def clamped (lo hi v : Int) : Int := if v < lo then lo else if hi < v then hi else v
/-- SAT where clamping changes the value (08 R141). -/
def satIf (lo hi v : Int) : Flags := if v < lo ∨ hi < v then flagSAT else 0
/-- Lane j of a word (08 R140). -/
def half (w : Word) (j : Nat) : BitVec 16 := w.extractLsb' (16 * j) 16
/-- Byte j of a word. -/
def byteOf (w : Word) (j : Nat) : BitVec 8 := w.extractLsb' (8 * j) 8
/-- A word of two lanes, each modulo 2^16. -/
def halves (f : Nat → Int) : Word := BitVec.ofInt 16 (f 1) ++ BitVec.ofInt 16 (f 0)
/-- A saturated 32-bit sum. -/
def saturated (v : Int) : Word × Flags :=
  (word (clamped (-2147483648) 2147483647 v), satIf (-2147483648) 2147483647 v)
/-- Two saturated lanes; SAT where either clamps. -/
def saturatedHalves (f : Nat → Int) : Word × Flags :=
  (halves fun j => clamped (-32768) 32767 (f j), satIf (-32768) 32767 (f 0) ||| satIf (-32768) 32767 (f 1))
/-- 1 where the condition holds, else 0. -/
def oneIf (p : Prop) [Decidable p] : Word × Flags := plain (if p then 1 else 0)

/-! ## Codes of binary32 and binary64 as exact numbers (07 R121) -/

/-- A code is a NaN, and a signalling one. -/
def nanCode (f : Fmt) (c : Nat) : Bool := decide (f.infMag < c % f.signBit)
def signallingCode (f : Fmt) (c : Nat) : Bool := nanCode f c && c % f.signBit / 2 ^ (f.frac - 1) % 2 == 0

/-- The value of a code that is no NaN as a multiple of the smallest subnormal; an infinity counts as the magnitude that
its exponent would give, which is above every finite one. -/
def units (f : Fmt) (c : Nat) : Int :=
  let mag := c % f.signBit
  let e := mag / 2 ^ f.frac
  let m := mag % 2 ^ f.frac
  let n : Int := if e = 0 then m else (2 ^ f.frac + m) * 2 ^ (e - 1)
  if c / f.signBit % 2 = 1 then -n else n

/-- The exact value num * 2^exp as a multiple of the smallest subnormal of a format. -/
def exactUnits (f : Fmt) (num : Nat) (exp : Int) : ℚ := num * (2 : ℚ) ^ (exp + f.bias + f.frac - 1)

/-- The formats of the device (07 R120). -/
abbrev ieeeFormat (f : Fmt) : Prop := f = fmt64 ∨ f = fmt32 ∨ f = fmtFP16 ∨ f = fmtBF16

/-! ## Roundings and special values (07 R127-R131) -/

/-- What a code says of its number: zero, infinite, finite, negative; and the value of a finite one. -/
def zeroCode (f : Fmt) (c : Nat) : Bool := c % f.signBit == 0
def infCode (f : Fmt) (c : Nat) : Bool := c % f.signBit == f.infMag
def finiteCode (f : Fmt) (c : Nat) : Bool := decide (c % f.signBit < f.infMag)
def negCode (f : Fmt) (c : Nat) : Bool := c / f.signBit % 2 == 1
def codeValue (f : Fmt) (c : Nat) : ℚ := units f c * (2 : ℚ) ^ (1 - (f.bias : ℤ) - f.frac)

/-- The code of a sign and a magnitude. -/
def codeOf (f : Fmt) (neg : Bool) (mag : Nat) : Nat := (if neg then f.signBit else 0) + mag

/-- A NaN code of one format quietened into another: sign and high fraction bits kept, top fraction bit set (07 R130). -/
def quietedInto (src dst : Fmt) (c : Nat) : Nat :=
  let m := c % 2 ^ src.frac
  let top := 2 ^ (dst.frac - 1)
  codeOf dst (negCode src c) (dst.infMag + top
    + (if src.frac ≤ dst.frac then m * 2 ^ (dst.frac - src.frac) else m / 2 ^ (src.frac - dst.frac)) % top)

/-- The NaN rules of 07 R130: of operands, each with its format, the first NaN is taken, quietened; an invalid operation on none gives
the default NaN; a signalling operand and an invalid operation raise NV, and nothing else is raised. -/
def NaNRule (f : Fmt) (ops : List (Fmt × Nat)) (invalid : Bool) (y : FRes) : Prop :=
  let nan := ops.find? fun x => nanCode x.1 x.2
  (∀ x, nan = some x → y.bits = quietedInto x.1 f x.2
    ∧ y.flags = if invalid || ops.any (fun x => signallingCode x.1 x.2) then flagNV else 0)
  ∧ (nan = none → invalid = true → y.bits = f.defaultNaN ∧ y.flags = flagNV)

/-- The flags of an inexact result of magnitude v that is in range (07 R131): NX, and UF below the smallest normal magnitude; what
is within a factor of two of it goes by the tininess after rounding (log 7). -/
def Inexact {K : Type} [Field K] [LinearOrder K] (f : Fmt) (v : K) (fl : Flags) : Prop :=
  (fl = flagNX ∨ fl = flagNX ||| flagUF) ∧ ((units f (2 ^ f.frac) : K) ≤ v → fl = flagNX)
    ∧ (2 * v < (units f (2 ^ f.frac) : K) → fl = flagNX ||| flagUF)

/-- The result that 07 R127, R128 and R131 give for a nonzero exact value of a sign and of a magnitude v, in units of the smallest
subnormal: a magnitude below 2^emax becomes one of the two codes next to it, and one above overflows by mode. -/
def Rounds {K : Type} [Field K] [LinearOrder K] [FloorRing K] (f : Fmt) (mode : RMode) (r : Nat) (neg : Bool) (v : K)
    (y : FRes) : Prop :=
  let m := y.bits % f.signBit
  let u (c : Nat) : K := units f c
  y.bits / f.signBit = (if neg then 1 else 0)
  ∧ (v < u f.infMag → ∃ a, u a ≤ v ∧ v < u (a + 1)
    ∧ (u a = v → m = a ∧ y.flags = 0 ∧ y.ufZero = false)
    ∧ (u a < v → (m = a ∨ m = a + 1) ∧ y.ufZero = decide (m = 0) ∧ (m = f.infMag → y.flags = flagOF ||| flagNX)
      ∧ (m ≠ f.infMag → Inexact f v y.flags)
      ∧ (mode = .rne → (v - u a < u (a + 1) - v → m = a) ∧ (u (a + 1) - v < v - u a → m = a + 1)
          ∧ (v - u a = u (a + 1) - v → m % 2 = 0))
      ∧ (mode = .rtz → m = a) ∧ (mode = .rdn → m = if neg then a + 1 else a)
      ∧ (mode = .rup → m = if neg then a else a + 1)
      ∧ (mode = .sr → m = if (r : ℤ) ≤ ⌊(v - u a) / (u (a + 1) - u a) * 2 ^ 32⌋ then a + 1 else a)))
  ∧ (u f.infMag ≤ v → y.flags = flagOF ||| flagNX ∧ y.ufZero = false
    ∧ m = if mode = .rtz ∨ (mode = .rdn ∧ neg = false) ∨ (mode = .rup ∧ neg = true) then f.infMag - 1 else f.infMag)

/-- The same for a nonzero exact number. -/
def RoundsTo (f : Fmt) (mode : RMode) (r : Nat) (x : ℚ) (y : FRes) : Prop :=
  Rounds f mode r (decide (x < 0)) (|x| * 2 ^ (f.bias + f.frac - 1)) y

/-- The integer that an exact number is rounded to (07 R127, R128). -/
def integral (mode : RMode) (r : Nat) (x : ℚ) : ℤ :=
  let k := ⌊|x|⌋
  let d := |x| - k
  let up : Bool := match mode with
    | .rne => decide (1 / 2 < d) || decide (d = 1 / 2) && decide (k % 2 = 1)
    | .rtz => false
    | .rdn => decide (x < 0) && decide (d ≠ 0)
    | .rup => decide (0 < x) && decide (d ≠ 0)
    | .sr => decide (d ≠ 0) && decide ((r : ℤ) ≤ ⌊d * 2 ^ 32⌋)
  let n := if up then k + 1 else k
  if x < 0 then -n else n

/-- The code of a format nearest to a magnitude, the even one of two that are equally near. -/
def Nearest (f : Fmt) (v : ℚ) (c : Nat) : Prop :=
  ∃ a < f.signBit, units f a ≤ v ∧ v < units f (a + 1) ∧ (v - units f a < units f (a + 1) - v → c = a)
    ∧ (units f (a + 1) - v < v - units f a → c = a + 1)
    ∧ (v - units f a = units f (a + 1) - v → (c = a ∨ c = a + 1) ∧ c % 2 = 0)

/-- A term of an exact sum: its sign, whether it is a NaN or infinite, its magnitude. -/
structure Term where
  neg : Bool
  nan : Bool
  inf : Bool
  mag : ℚ

/-- The term that a code is, the product of two, the opposite. -/
def Term.of (f : Fmt) (c : Nat) : Term := { neg := negCode f c, nan := nanCode f c, inf := infCode f c, mag := |codeValue f c| }
def Term.times (a b : Term) : Term :=
  { neg := a.neg != b.neg, nan := a.nan || b.nan, inf := (a.inf || b.inf) && !(a.nan || b.nan), mag := a.mag * b.mag }
def Term.opposite (a : Term) : Term := { a with neg := !a.neg }
def Term.value (a : Term) : ℚ := if a.neg then -a.mag else a.mag

/-- A product of 0 and infinity. -/
def Term.invalid (a b : Term) : Bool := a.inf && decide (b.mag = 0) || b.inf && decide (a.mag = 0)

/-- The result of the exact sum of terms (08 R148, 07 R127, R130, R137): by the NaN rules, where a product is invalid or infinities
of both signs meet too; else an infinite term; else the sum, rounded once; an exact zero is -0 where every term is -0, +0 where
every one is +0, and else by mode. -/
def SumOf (f : Fmt) (mode : RMode) (r : Nat) (ops : List (Fmt × Nat)) (badProduct : Bool) (ts : List Term) (y : FRes) : Prop :=
  let invalid := badProduct || (ts.any fun t => t.inf && t.neg) && ts.any fun t => t.inf && !t.neg
  let x := (ts.map Term.value).sum
  NaNRule f ops invalid y
  ∧ ((∀ o ∈ ops, nanCode o.1 o.2 = false) → invalid = false →
    (∀ t ∈ ts, t.inf = true → y.bits = codeOf f t.neg f.infMag ∧ y.flags = 0)
    ∧ ((∀ t ∈ ts, t.inf = false) → (x ≠ 0 → RoundsTo f mode r x y)
      ∧ (x = 0 → y.flags = 0 ∧ y.bits = codeOf f (if ts.all (fun t => decide (t.mag = 0) && t.neg) then true
          else if ts.all (fun t => decide (t.mag = 0) && !t.neg) then false else mode == .rdn) 0)))

/-- The quotient (08 R159). -/
def QuotientOf (f : Fmt) (mode : RMode) (r a b : Nat) (y : FRes) : Prop :=
  let s := negCode f a != negCode f b
  NaNRule f [(f, a), (f, b)] (infCode f a && infCode f b || zeroCode f a && zeroCode f b) y
  ∧ (nanCode f a = false → nanCode f b = false →
    (infCode f a = true → infCode f b = false → y.bits = codeOf f s f.infMag ∧ y.flags = 0)
    ∧ (infCode f a = false → infCode f b = true → y.bits = codeOf f s 0 ∧ y.flags = 0)
    ∧ (finiteCode f a = true → zeroCode f a = false → zeroCode f b = true → y.bits = codeOf f s f.infMag ∧ y.flags = flagDZ)
    ∧ (zeroCode f a = true → finiteCode f b = true → zeroCode f b = false → y.bits = codeOf f s 0 ∧ y.flags = 0)
    ∧ (finiteCode f a = true → finiteCode f b = true → zeroCode f a = false → zeroCode f b = false →
      RoundsTo f mode r (codeValue f a / codeValue f b) y))

/-- A number below zero, finite or not. -/
def below (f : Fmt) (c : Nat) : Bool := negCode f c && !zeroCode f c && !nanCode f c

/-- The square root (08 R159). -/
def RootOf (f : Fmt) (mode : RMode) (r a : Nat) (y : FRes) : Prop :=
  NaNRule f [(f, a)] (below f a) y
  ∧ (zeroCode f a = true ∨ infCode f a = true ∧ negCode f a = false → y.bits = a ∧ y.flags = 0)
  ∧ (finiteCode f a = true → zeroCode f a = false → negCode f a = false →
    Rounds f mode r false (Real.sqrt (codeValue f a) * 2 ^ (f.bias + f.frac - 1)) y)

/-- The integral value of a binary32 code (08 R152). -/
def IntegralOf (mode : RMode) (r a : Nat) (y : FRes) : Prop :=
  NaNRule fmt32 [(fmt32, a)] false y
  ∧ (infCode fmt32 a = true → y.bits = a ∧ y.flags = 0)
  ∧ (finiteCode fmt32 a = true → finiteCode fmt32 y.bits = true
    ∧ codeValue fmt32 y.bits = integral mode r (codeValue fmt32 a) ∧ negCode fmt32 y.bits = negCode fmt32 a
    ∧ y.flags = (if codeValue fmt32 y.bits = codeValue fmt32 a then 0 else flagNX)
    ∧ (codeValue fmt32 y.bits = codeValue fmt32 a → y.bits = a))

/-- The order of the numbers of a format, -0 below +0. -/
def less (f : Fmt) (a b : Nat) : Prop :=
  units f a < units f b ∨ units f a = units f b ∧ negCode f a = true ∧ negCode f b = false

/-- The lesser, or the greater, of two codes (08 R149). -/
def LesserOf (f : Fmt) (greater : Bool) (a b : Nat) (y : FRes) : Prop :=
  y.flags = (if signallingCode f a || signallingCode f b then flagNV else 0)
  ∧ (nanCode f a = true → nanCode f b = true → y.bits = quietedInto f f a)
  ∧ (nanCode f a = true → nanCode f b = false → y.bits = b) ∧ (nanCode f a = false → nanCode f b = true → y.bits = a)
  ∧ (nanCode f a = false → nanCode f b = false →
    (less f a b → y.bits = if greater then b else a) ∧ (less f b a → y.bits = if greater then a else b)
    ∧ (¬ less f a b → ¬ less f b a → y.bits % (2 * f.signBit) = a % (2 * f.signBit)))

/-- The class of a binary32 code: the number of its bit (08 R151). -/
def classOf (a : Nat) : Nat :=
  let by_ (n p : Nat) : Nat := if negCode fmt32 a then n else p
  if nanCode fmt32 a then (if signallingCode fmt32 a then 8 else 9)
  else if infCode fmt32 a then by_ 0 7
  else if zeroCode fmt32 a then by_ 3 4
  else if a % 2 ^ 31 < 2 ^ 23 then by_ 2 5
  else by_ 1 6

/-! ### Seeds (08 R161-R165) -/

/-- The magnitude of a finite nonzero code as m * 2^e with m in [1, 2), in interval i of 2^k: 08 R161. -/
def Normalised (k a : Nat) (e : ℤ) (i : Nat) : Prop :=
  i < 2 ^ k ∧ (2 : ℚ) ^ e * (1 + i / 2 ^ k) ≤ |codeValue fmt32 a| ∧ |codeValue fmt32 a| < (2 : ℚ) ^ e * (1 + (i + 1) / 2 ^ k)

/-- The result is exactly a number, with no flag. -/
def Exactly (x : ℚ) (y : FRes) : Prop :=
  finiteCode fmt32 y.bits = true ∧ codeValue fmt32 y.bits = x ∧ (x = 0 → y.bits = 0) ∧ y.flags = 0

/-- frsqs: q is 2^14 / √mid to the nearest, mid being the middle of the interval (08 R162). -/
def RootSeedOf (a : Nat) (y : FRes) : Prop :=
  NaNRule fmt32 [(fmt32, a)] (below fmt32 a) y
  ∧ (zeroCode fmt32 a = true → y.bits = codeOf fmt32 (negCode fmt32 a) fmt32.infMag ∧ y.flags = flagDZ)
  ∧ (infCode fmt32 a = true → negCode fmt32 a = false → y.bits = 0 ∧ y.flags = 0)
  ∧ ∀ (e : ℤ) (i : Nat), finiteCode fmt32 a = true → negCode fmt32 a = false → Normalised 11 a e i →
    if e % 2 = 0 ∧ codeValue fmt32 a = 2 ^ e then Exactly (2 ^ (-(e / 2))) y
    else ∃ q : Nat, let mid := (4097 + 2 * i) * (if e % 2 = 0 then 1 else 2)
      (2 * q - 1) ^ 2 * mid ≤ 2 ^ 42 ∧ 2 ^ 42 ≤ (2 * q + 1) ^ 2 * mid ∧ Exactly (q * 2 ^ (-14 - e / 2)) y

/-- frcps: q is 2^14 divided by the middle of the interval, to the nearest (08 R163). -/
def ReciprocalSeedOf (a : Nat) (y : FRes) : Prop :=
  let s : ℚ := if negCode fmt32 a then -1 else 1
  NaNRule fmt32 [(fmt32, a)] false y
  ∧ (zeroCode fmt32 a = true → y.bits = codeOf fmt32 (negCode fmt32 a) fmt32.infMag ∧ y.flags = flagDZ)
  ∧ (infCode fmt32 a = true → y.bits = codeOf fmt32 (negCode fmt32 a) 0 ∧ y.flags = 0)
  ∧ ∀ (e : ℤ) (i : Nat), finiteCode fmt32 a = true → Normalised 12 a e i →
    if |codeValue fmt32 a| = 2 ^ e then RoundsTo fmt32 .rne 0 (s * 2 ^ (-e)) y
    else ∃ q : Nat, (2 * q - 1) * (8193 + 2 * i) ≤ 2 ^ 28 ∧ 2 ^ 28 ≤ (2 * q + 1) * (8193 + 2 * i)
      ∧ RoundsTo fmt32 .rne 0 (s * q * 2 ^ (-14 - e)) y

/-- fex2s: q is 2^13 * 2^((2 i + 1) / 8192) to the nearest (08 R164). -/
def ExponentialSeedOf (a : Nat) (y : FRes) : Prop :=
  let n := ⌊codeValue fmt32 a⌋
  let d := codeValue fmt32 a - n
  let i := ⌊d * 4096⌋₊
  NaNRule fmt32 [(fmt32, a)] false y
  ∧ (zeroCode fmt32 a = true → y.bits = 0x3F800000 ∧ y.flags = 0)
  ∧ (infCode fmt32 a = true → y.bits = (if negCode fmt32 a then 0 else fmt32.infMag) ∧ y.flags = 0)
  ∧ (finiteCode fmt32 a = true → zeroCode fmt32 a = false →
    (128 ≤ n → y.bits = fmt32.infMag ∧ y.flags = flagOF ||| flagNX)
    ∧ (n < 128 → if d = 0 then RoundsTo fmt32 .rne 0 (2 ^ n) y
      else ∃ q : Nat, (2 * q - 1) ^ 8192 ≤ 2 ^ (14 * 8192 + 2 * i + 1) ∧ 2 ^ (14 * 8192 + 2 * i + 1) ≤ (2 * q + 1) ^ 8192
        ∧ RoundsTo fmt32 .rne 0 (q * 2 ^ (n - 13)) y))

/-- flg2s: t is 2^16 times the logarithm of the middle of the interval, to the nearest (08 R165). -/
def LogarithmSeedOf (a : Nat) (y : FRes) : Prop :=
  NaNRule fmt32 [(fmt32, a)] (below fmt32 a) y
  ∧ (zeroCode fmt32 a = true → y.bits = codeOf fmt32 true fmt32.infMag ∧ y.flags = flagDZ)
  ∧ (infCode fmt32 a = true → negCode fmt32 a = false → y.bits = fmt32.infMag ∧ y.flags = 0)
  ∧ ∀ (e : ℤ) (i : Nat), finiteCode fmt32 a = true → negCode fmt32 a = false → Normalised 12 a e i →
    if codeValue fmt32 a = 2 ^ e then Exactly e y
    else ∃ t : Nat, 0 < t ∧ 2 ^ (13 * 131072 + 2 * t - 1) ≤ (8193 + 2 * i) ^ 131072
      ∧ (8193 + 2 * i) ^ 131072 ≤ 2 ^ (13 * 131072 + 2 * t + 1) ∧ Exactly (e + t / 65536) y

/-! ### Conversions (07 R129, R130, R133, 08 R155-R158, R160) -/

/-- An integer in a format. -/
def FromInteger (f : Fmt) (mode : RMode) (r : Nat) (v : ℤ) (y : FRes) : Prop :=
  (v = 0 → y.bits = 0 ∧ y.flags = 0) ∧ (v ≠ 0 → RoundsTo f mode r v y)

/-- A code of one format in another. -/
def Converted (src dst : Fmt) (mode : RMode) (r a : Nat) (y : FRes) : Prop :=
  (nanCode src a = true → y.bits = quietedInto src dst a ∧ y.flags = if signallingCode src a then flagNV else 0)
  ∧ (infCode src a = true → y.bits = codeOf dst (negCode src a) dst.infMag ∧ y.flags = 0)
  ∧ (zeroCode src a = true → y.bits = codeOf dst (negCode src a) 0 ∧ y.flags = 0)
  ∧ (finiteCode src a = true → zeroCode src a = false → RoundsTo dst mode r (codeValue src a) y)

/-- A code as an integer of [lo, hi], in 32 bits. -/
def ToInteger (src : Fmt) (mode : RMode) (r : Nat) (lo hi : ℤ) (a : Nat) (y : FRes) : Prop :=
  let n := integral mode r (codeValue src a)
  let gives (v : ℤ) (fl : Flags) : Prop := (y.bits : ℤ) = v % 2 ^ 32 ∧ y.flags = fl
  (nanCode src a = true → gives 0 flagNV)
  ∧ (infCode src a = true → gives (if negCode src a then lo else hi) flagNV)
  ∧ (finiteCode src a = true → gives (clamped lo hi n)
      (if n < lo ∨ hi < n then flagNV else if (n : ℚ) = codeValue src a then 0 else flagNX))

/-- A binary32 code encoded under a scale word as an MX element (08 R156, R157, the mx8e4 and mx8e5 rows of 07 R133). -/
def EncodedMX (b : BFmt) (a scale : Nat) (y : FRes) : Prop :=
  let x := scale % 256
  let sat := scale / 256 % 2 = 1
  let s := negCode fmt32 a
  let gives (mag : Nat) (fl : Flags) : Prop := y.bits = codeOf b.fmt s mag ∧ y.flags = fl
  let v := |codeValue fmt32 a| / 2 ^ ((x : ℤ) - 127) * 2 ^ (b.fmt.bias + b.fmt.frac - 1)
  (x = 255 → gives 0x7F flagNV)
  ∧ (x ≠ 255 →
    (nanCode fmt32 a = true → gives 0x7F (if signallingCode fmt32 a then flagNV else 0))
    ∧ (infCode fmt32 a = true → sat → gives b.maxMag flagOF)
    ∧ (infCode fmt32 a = true → ¬ sat → if b = .mx8e5 then gives 0x7C 0 else gives 0x7F flagNV)
    ∧ (zeroCode fmt32 a = true → gives 0 0)
    ∧ (finiteCode fmt32 a = true → zeroCode fmt32 a = false →
      (units b.fmt (b.maxMag + 1) ≤ v → gives b.maxMag (flagOF ||| flagNX))
      ∧ (v < units b.fmt (b.maxMag + 1) → ∃ c, Nearest b.fmt v c
        ∧ (c = b.maxMag + 1 → gives b.maxMag (flagOF ||| flagNX))
        ∧ (c ≤ b.maxMag → y.bits = codeOf b.fmt s c ∧ y.ufZero = decide (c = 0)
          ∧ (units b.fmt c = v → y.flags = 0) ∧ ((units b.fmt c : ℚ) ≠ v → Inexact b.fmt v y.flags)))))

/-- A binary32 code encoded under a scale word as a weft element (08 R156, R157). -/
def EncodedWeft (b : BFmt) (a scale : Nat) (y : FRes) : Prop :=
  let x := scale % 256
  let v := |codeValue fmt32 a| / 2 ^ ((x : ℤ) - 127) * 2 ^ (b.q + scale / 256 % 2)
  let n := integral .rne 0 v
  let top : ℤ := 2 ^ (b.q + 1) - 1
  let m := (min n top).toNat
  (x = 255 ∨ finiteCode fmt32 a = false → y.bits = 2 ^ (b.width - 1) ∧ y.flags = flagNV)
  ∧ (x ≠ 255 → finiteCode fmt32 a = true →
    y.bits = (if m = 0 then 0 else (if negCode fmt32 a then 2 ^ (b.width - 1) else 0) + m)
    ∧ y.ufZero = (decide (m = 0) && !zeroCode fmt32 a)
    ∧ y.flags = if top < n then flagOF ||| flagNX else if m = 0 ∧ zeroCode fmt32 a = false then flagUF ||| flagNX
      else if (n : ℚ) = v then 0 else flagNX)

/-- An element code is a NaN or NaR; an infinity; its sign; and its magnitude without the scale (07 R122, R123, R125). -/
def elementNaN (b : BFmt) (c : Nat) : Bool := match b with
  | .mx8e4 => c % 128 == 0x7F
  | .mx8e5 => decide (0x7C < c % 128)
  | _ => c % 2 ^ b.width == 2 ^ (b.width - 1)
def elementInf (b : BFmt) (c : Nat) : Bool := b == .mx8e5 && c % 128 == 0x7C
def elementNeg (b : BFmt) (c : Nat) : Bool := c / 2 ^ (b.width - 1) % 2 == 1
def elementMag (b : BFmt) (c : Nat) : ℚ :=
  if b.isWeft then (c % 2 ^ (b.width - 1) : Nat) / 2 ^ b.q else |codeValue b.fmt c|

/-- An element code under a scale word as a binary32 code (08 R156, R158). -/
def Decoded (b : BFmt) (mode : RMode) (a scale : Nat) (y : FRes) : Prop :=
  let x := scale % 256
  let v := elementMag b a * 2 ^ ((x : ℤ) - 127 - (if b.isWeft then scale / 256 % 2 else 0 : Nat))
  (x = 255 ∨ elementNaN b a = true → y.bits = fmt32.defaultNaN ∧ y.flags = 0)
  ∧ (x ≠ 255 → elementInf b a = true → y.bits = codeOf fmt32 (elementNeg b a) fmt32.infMag ∧ y.flags = 0)
  ∧ (x ≠ 255 → elementNaN b a = false → elementInf b a = false →
    (v = 0 → y.bits = codeOf fmt32 (elementNeg b a) 0 ∧ y.flags = 0)
    ∧ (v ≠ 0 → RoundsTo fmt32 (if mode = .sr then .rne else mode) 0 (if elementNeg b a then -v else v) y))

/-- A comparison of 06 R103: its truth where a or b is a NaN, its truth for two numbers, and whether a quiet NaN raises
NV. -/
def comparison (f : Fmt) (a b : Nat) (nan : Bool) (p : Int → Int → Bool) (quietRaises : Bool) : Word × Flags :=
  if nanCode f a || nanCode f b then
    (if nan then 1 else 0, if quietRaises || signallingCode f a || signallingCode f b then flagNV else 0)
  else (if p (units f a) (units f b) then 1 else 0, 0)

/-- The operand is a port whose token the field reads. -/
def portOperand : Operand → Bool
  | .i _ => true
  | .k _ => true
  | _ => false

end Sys2Proof.Safety
end

