-- ==== Sys2Proof/Certificates/Slice0/Obligations.lean ====
section
/-!
DEFINITION. The statements: what the spec's rules say of the model, each with the rule it formalises.
-/
open Sys2Proof Sys2Proof.Machine Sys2Proof.Safety

/-! ## Integer arithmetic (08 R141-R147) -/

/-- R141: the addition and subtraction forms write the exact sum or difference modulo 2^32, or 2^16 in each lane, without a
flag; the saturating forms clamp it to the signed range of the lane and set SAT where it clamps. Every beat that may run
completes. -/
def Obligations.AdditionForms : Prop := ∀ (t : Trig) (d a b : Operand) (imm : BitVec 6),
  Writes (.addiS32 t d a imm) t d (fun x => plain (word ((x 0).toInt + imm.toInt)))
  ∧ Writes (.addS32 t d a b) t d (fun x => plain (word ((x 0).toInt + (x 1).toInt)))
  ∧ Writes (.addsS32 t d a b) t d (fun x => saturated ((x 0).toInt + (x 1).toInt))
  ∧ Writes (.subS32 t d a b) t d (fun x => plain (word ((x 0).toInt - (x 1).toInt)))
  ∧ Writes (.subsS32 t d a b) t d (fun x => saturated ((x 0).toInt - (x 1).toInt))
  ∧ Writes (.negS32 t d a) t d (fun x => plain (word (-(x 0).toInt)))
  ∧ Writes (.absS32 t d a) t d (fun x => plain (word (if (x 0).toInt < 0 then -(x 0).toInt else (x 0).toInt)))
  ∧ Writes (.addS16 t d a b) t d (fun x => plain (halves fun j => (half (x 0) j).toInt + (half (x 1) j).toInt))
  ∧ Writes (.addsS16 t d a b) t d (fun x => saturatedHalves fun j => (half (x 0) j).toInt + (half (x 1) j).toInt)
  ∧ Writes (.subS16 t d a b) t d (fun x => plain (halves fun j => (half (x 0) j).toInt - (half (x 1) j).toInt))
  ∧ Writes (.subsS16 t d a b) t d (fun x => saturatedHalves fun j => (half (x 0) j).toInt - (half (x 1) j).toInt)

/-- R142: products are formed exactly and reduced, without a flag: the low or the high half of the 64-bit product, the
accumulated product, lane products modulo 2^16, and exact sums of four byte products. -/
def Obligations.ProductForms : Prop := ∀ (t : Trig) (d a b : Operand),
  Writes (.mulS32 t d a b) t d (fun x => plain (word ((x 0).toInt * (x 1).toInt)))
  ∧ Writes (.mulhS32 t d a b) t d
      (fun x => plain ((BitVec.ofInt 64 ((x 0).toInt * (x 1).toInt)).extractLsb' 32 32))
  ∧ Writes (.mulhN32 t d a b) t d
      (fun x => plain ((BitVec.ofNat 64 ((x 0).toNat * (x 1).toNat)).extractLsb' 32 32))
  ∧ Writes (.macS32 t d a b) t d (fun x => plain (word ((x 2).toInt + (x 0).toInt * (x 1).toInt)))
  ∧ Writes (.mulS16 t d a b) t d (fun x => plain (halves fun j => (half (x 0) j).toInt * (half (x 1) j).toInt))
  ∧ Writes (.dotS8 t d a b) t d (fun x => plain (word
      ((byteOf (x 0) 0).toInt * (byteOf (x 1) 0).toInt + (byteOf (x 0) 1).toInt * (byteOf (x 1) 1).toInt
        + (byteOf (x 0) 2).toInt * (byteOf (x 1) 2).toInt + (byteOf (x 0) 3).toInt * (byteOf (x 1) 3).toInt)))
  ∧ Writes (.dotN8 t d a b) t d (fun x => plain (BitVec.ofNat 32
      ((byteOf (x 0) 0).toNat * (byteOf (x 1) 0).toNat + (byteOf (x 0) 1).toNat * (byteOf (x 1) 1).toNat
        + (byteOf (x 0) 2).toNat * (byteOf (x 1) 2).toNat + (byteOf (x 0) 3).toNat * (byteOf (x 1) 3).toNat)))

/-- R143: division truncates towards zero and the remainder takes the sign of the dividend; a zero divisor, and the overflow
of the signed quotient, give the results of the table and set SAT; the remainder of the overflow pair is 0 without SAT. -/
def Obligations.DivisionForms : Prop := ∀ (t : Trig) (d a b : Operand),
  Writes (.divS32 t d a b) t d (fun x =>
    if (x 1).toInt = 0 then (if 0 ≤ (x 0).toInt then 0x7FFFFFFF else 0x80000000, flagSAT)
    else if (x 0).toInt = -2147483648 ∧ (x 1).toInt = -1 then (0x7FFFFFFF, flagSAT)
    else plain (word ((x 0).toInt.tdiv (x 1).toInt)))
  ∧ Writes (.divN32 t d a b) t d (fun x =>
    if (x 1).toNat = 0 then (0xFFFFFFFF, flagSAT) else plain (BitVec.ofNat 32 ((x 0).toNat / (x 1).toNat)))
  ∧ Writes (.remS32 t d a b) t d (fun x =>
    if (x 1).toInt = 0 then (x 0, flagSAT)
    else plain (word ((x 0).toInt - (x 1).toInt * (x 0).toInt.tdiv (x 1).toInt)))
  ∧ Writes (.remN32 t d a b) t d (fun x =>
    if (x 1).toNat = 0 then (x 0, flagSAT) else plain (BitVec.ofNat 32 ((x 0).toNat % (x 1).toNat)))

/-- R144 and R145: minimum and maximum, logic, and shifts, whose amount is the whole value of b read as non-negative; none
sets a flag. R146: clz, ctz and popc write the number of leading zero, trailing zero and one bits; clz and ctz of 0 write 32. -/
def Obligations.SelectionLogicShiftsAndCounts : Prop := (∀ (t : Trig) (d a b : Operand) (imm : BitVec 6) (k : BitVec 5),
  Writes (.minS32 t d a b) t d (fun x => plain (word (min (x 0).toInt (x 1).toInt)))
  ∧ Writes (.maxS32 t d a b) t d (fun x => plain (word (max (x 0).toInt (x 1).toInt)))
  ∧ Writes (.minN32 t d a b) t d (fun x => plain (BitVec.ofNat 32 (min (x 0).toNat (x 1).toNat)))
  ∧ Writes (.maxN32 t d a b) t d (fun x => plain (BitVec.ofNat 32 (max (x 0).toNat (x 1).toNat)))
  ∧ Writes (.and t d a b) t d (fun x => plain (x 0 &&& x 1))
  ∧ Writes (.or t d a b) t d (fun x => plain (x 0 ||| x 1))
  ∧ Writes (.xor t d a b) t d (fun x => plain (x 0 ^^^ x 1))
  ∧ Writes (.not t d a) t d (fun x => plain (~~~ x 0))
  ∧ Writes (.andi t d a imm) t d (fun x => plain (x 0 &&& BitVec.ofNat 32 imm.toNat))
  ∧ Writes (.shl t d a b) t d (fun x =>
      plain (if (x 1).toNat < 32 then BitVec.ofNat 32 ((x 0).toNat * 2 ^ (x 1).toNat) else 0))
  ∧ Writes (.shr t d a b) t d (fun x =>
      plain (if (x 1).toNat < 32 then BitVec.ofNat 32 ((x 0).toNat / 2 ^ (x 1).toNat) else 0))
  ∧ Writes (.sar t d a b) t d (fun x =>
      plain (if (x 1).toNat < 32 then word ((x 0).toInt / 2 ^ (x 1).toNat)
        else if (x 0).toInt < 0 then 0xFFFFFFFF else 0))
  ∧ Writes (.shli t d a k) t d (fun x => plain (BitVec.ofNat 32 ((x 0).toNat * 2 ^ k.toNat)))
  ∧ Writes (.shri t d a k) t d (fun x => plain (BitVec.ofNat 32 ((x 0).toNat / 2 ^ k.toNat)))
  ∧ Writes (.sari t d a k) t d (fun x => plain (word ((x 0).toInt / 2 ^ k.toNat))))
  ∧ (∀ (t : Trig) (d a : Operand),
  Writes (.clz t d a) t d (fun x =>
    plain (BitVec.ofNat 32 (((List.range 32).find? fun j => (x 0).getLsbD (31 - j)).getD 32)))
  ∧ Writes (.ctz t d a) t d (fun x => plain (BitVec.ofNat 32 (((List.range 32).find? fun j => (x 0).getLsbD j).getD 32)))
  ∧ Writes (.popc t d a) t d (fun x =>
    plain (BitVec.ofNat 32 ((List.range 32).filter fun j => (x 0).getLsbD j).length)))

/-- R147 and R73: ldi writes its sign-extended immediate, lit its literal; ldhi writes bits [31:20] and keeps bits [19:0] of
a register as it stands at the start of the beat, 0 for any other operand. -/
def Obligations.LoadingValues : Prop := ∀ (t : Trig) (d : Operand) (imm : BitVec 12) (v : Word) (n : Fin 16),
  Writes (.ldi t d imm) t d (fun _ => plain (word imm.toInt))
  ∧ Writes (.lit t d v) t d (fun _ => plain v)
  ∧ (∀ (x : Beat) (s : State), x.Ready (.ldhi t (.d n) imm) t s →
      exec (.ldhi t (.d n) imm) s = .next (x.ends s (x.put s x.reads.e (.d n)
        (BitVec.ofNat 32 (imm.toNat * 2 ^ 20 + (x.elem.regs.getD n.val 0).toNat % 2 ^ 20)) 0 false)))
  ∧ ((∀ m, d ≠ .d m) → Writes (.ldhi t d imm) t d (fun _ => plain (BitVec.ofNat 32 (imm.toNat * 2 ^ 20))))

/-! ## Compares, predicates, tags, selection and shuttles (06 R103-R110) -/

/-- R103: the integer compares write 1 where their condition holds and 0 where it does not, and raise no flag; R104: pand,
por and pxor combine the truth values of their operands. -/
def Obligations.IntegerComparesAndPredicates : Prop := ∀ (t : Trig) (d a b : Operand),
  Writes (.ceqS32 t d a b) t d (fun x => oneIf ((x 0).toInt = (x 1).toInt))
  ∧ Writes (.cneS32 t d a b) t d (fun x => oneIf ((x 0).toInt ≠ (x 1).toInt))
  ∧ Writes (.cltS32 t d a b) t d (fun x => oneIf ((x 0).toInt < (x 1).toInt))
  ∧ Writes (.cleS32 t d a b) t d (fun x => oneIf ((x 0).toInt ≤ (x 1).toInt))
  ∧ Writes (.cgtS32 t d a b) t d (fun x => oneIf ((x 1).toInt < (x 0).toInt))
  ∧ Writes (.cgeS32 t d a b) t d (fun x => oneIf ((x 1).toInt ≤ (x 0).toInt))
  ∧ Writes (.cltN32 t d a b) t d (fun x => oneIf ((x 0).toNat < (x 1).toNat))
  ∧ Writes (.cleN32 t d a b) t d (fun x => oneIf ((x 0).toNat ≤ (x 1).toNat))
  ∧ Writes (.cgtN32 t d a b) t d (fun x => oneIf ((x 1).toNat < (x 0).toNat))
  ∧ Writes (.cgeN32 t d a b) t d (fun x => oneIf ((x 1).toNat ≤ (x 0).toNat))
  ∧ Writes (.pand t d a b) t d (fun x => oneIf (x 0 ≠ 0 ∧ x 1 ≠ 0))
  ∧ Writes (.por t d a b) t d (fun x => oneIf (x 0 ≠ 0 ∨ x 1 ≠ 0))
  ∧ Writes (.pxor t d a b) t d (fun x => oneIf ((x 0 ≠ 0) ≠ (x 1 ≠ 0)))

/-- R103: the floating-point compares compare exact values, with the two zeros equal and infinities by sign; a NaN operand
gives the result of the table, NV for a signalling NaN, and NV for any NaN in clt and cle. -/
def Obligations.FloatCompares : Prop := ∀ (t : Trig) (d a b : Operand),
  Writes (.ceqF32 t d a b) t d (fun x => comparison fmt32 (x 0).toNat (x 1).toNat false (fun u v => u == v) false)
  ∧ Writes (.cneF32 t d a b) t d (fun x => comparison fmt32 (x 0).toNat (x 1).toNat true (fun u v => u != v) false)
  ∧ Writes (.cltF32 t d a b) t d
      (fun x => comparison fmt32 (x 0).toNat (x 1).toNat false (fun u v => decide (u < v)) true)
  ∧ Writes (.cleF32 t d a b) t d
      (fun x => comparison fmt32 (x 0).toNat (x 1).toNat false (fun u v => decide (u ≤ v)) true)
  ∧ Writes (.cunF32 t d a b) t d (fun x => comparison fmt32 (x 0).toNat (x 1).toNat true (fun _ _ => false) false)
  ∧ WritesFromPairs (.ceqF64 t d a b) t d (fun x => comparison fmt64 (x 0) (x 1) false (fun u v => u == v) false)
  ∧ WritesFromPairs (.cltF64 t d a b) t d
      (fun x => comparison fmt64 (x 0) (x 1) false (fun u v => decide (u < v)) true)
  ∧ WritesFromPairs (.cleF64 t d a b) t d
      (fun x => comparison fmt64 (x 0) (x 1) false (fun u v => decide (u ≤ v)) true)
  ∧ WritesFromPairs (.cunF64 t d a b) t d (fun x => comparison fmt64 (x 0) (x 1) true (fun _ _ => false) false)

/-- R105, R107, R108: ctag compares the level of the token read, or the low three bits of another operand; mov passes the
data and the whole tag of the token read; tagv and selv give the pushed token their level, with the exception bit of R85;
sel.pN writes the operand that pN at the start of the beat chooses, with the exception bit of that operand only; drop writes
nothing. -/
def Obligations.TagMoveAndSelect : Prop := ∀ (t : Trig) (d a b : Operand) (l : BitVec 3) (n : Fin 8) (x : Beat) (s : State),
  (x.Ready (.ctag t d a l) t s → exec (.ctag t d a l) s = .next (x.ends s (x.put s x.reads.e d
    (if (if portOperand a then ((x.reads.tok? 0).map Token.level).getD 0 else (x.val 0).toNat % 8) = l.toNat then 1 else 0)
    0 false)))
  ∧ (x.Ready (.mov t d a) t s → exec (.mov t d a) s = .next (x.ends s (x.reads.e.write (sparsePorts s x.key) d (x.val 0)
    (if portOperand a then ((x.reads.tok? 0).map Token.tag).getD 0 else 0) false)))
  ∧ (x.Ready (.tagv t d a b) t s → exec (.tagv t d a b) s = .next (x.ends s (x.reads.e.write (sparsePorts s x.key) d
    (x.val 0) (mkTag ((x.val 1).toNat % 8) x.reads.exc) false)))
  ∧ (x.Ready (.selv t d a l) t s → exec (.selv t d a l) s = .next (x.ends s (x.reads.e.write (sparsePorts s x.key) d
    (x.val 0) (mkTag l.toNat x.reads.exc) false)))
  ∧ (x.Ready (.selPn t n d a b) t s → exec (.selPn t n d a b) s = .next (x.ends s (x.reads.e.write (sparsePorts s x.key) d
    (if x.elem.preds.getD n.val false then x.val 0 else x.val 1)
    (mkTag 0 (if x.elem.preds.getD n.val false then ((x.reads.tok? 0).map Token.exc).getD false
      else ((x.reads.tok? 1).map Token.exc).getD false)) false)))
  ∧ (x.Ready (.drop t a) t s → exec (.drop t a) s = .next (x.ends s x.reads.e))

/-- R109: send and sendr append one shuttle of the label and the two payload words to the send queue where the label is bound
in the bulkhead of the element; where it is not bound they take the fault SHUTTLE_UNBOUND (0x47) and send nothing. -/
def Obligations.ShuttleSends : Prop := ∀ (t : Trig) (p l a b : Operand) (lab : BitVec 7) (x : Beat) (s : State),
  let bound (n : Nat) : Prop := (s.bh (bhOf x.key)).routes.any (fun r => r.label == n) = true
  let sent (n : Nat) (w0 w1 : Word) : State := x.ends s { x.reads.e with
    sendq := x.reads.e.sendq ++ [{ classL := false, source := x.key, label := n, w0 := w0, w1 := w1 }] }
  let unbound : State := x.takes s 0x47 x.run.slot 0
  (x.Ready (.send t p lab) t s → bound lab.toNat → exec (.send t p lab) s = .next (sent lab.toNat (x.val 0) 0))
  ∧ (x.Ready (.send t p lab) t s → ¬ bound lab.toNat → exec (.send t p lab) s = .next unbound)
  ∧ (x.Ready (.sendr t l a b) t s → bound ((x.val 2).toNat % 128) →
      exec (.sendr t l a b) s = .next (sent ((x.val 2).toNat % 128) (x.val 0) (x.val 1)))
  ∧ (x.Ready (.sendr t l a b) t s → ¬ bound ((x.val 2).toNat % 128) → exec (.sendr t l a b) s = .next unbound)

/-! ## Floating point and conversions (08 R148-R165) -/

/-- R148-R152: the binary32 forms write one rounding of the exact result, or the result of the NaN and invalid rules, and
raise its flags; minimum and maximum, the sign forms and the class mask do not round. -/
def Obligations.Binary32Forms : Prop := ∀ (t : Trig) (d a b : Operand),
  WritesRounded (.faddF32 t d a b) t d (fun r m x => fadd fmt32 m x (r.val 0).toNat (r.val 1).toNat)
  ∧ WritesRounded (.fsubF32 t d a b) t d (fun r m x => fsub fmt32 m x (r.val 0).toNat (r.val 1).toNat)
  ∧ WritesRounded (.fmulF32 t d a b) t d (fun r m x => fmul fmt32 m x (r.val 0).toNat (r.val 1).toNat)
  ∧ WritesRounded (.fmacF32 t d a b) t d
      (fun r m x => fmac fmt32 m x false (r.val 0).toNat (r.val 1).toNat (r.val 2).toNat)
  ∧ WritesRounded (.fnmacF32 t d a b) t d
      (fun r m x => fmac fmt32 m x true (r.val 0).toNat (r.val 1).toNat (r.val 2).toNat)
  ∧ WritesResult (.fminF32 t d a b) t d (fun r => fminmax fmt32 false (r.val 0).toNat (r.val 1).toNat)
  ∧ WritesResult (.fmaxF32 t d a b) t d (fun r => fminmax fmt32 true (r.val 0).toNat (r.val 1).toNat)
  ∧ Writes (.fabsF32 t d a) t d (fun x => plain (BitVec.ofNat 32 ((x 0).toNat % 2 ^ 31)))
  ∧ Writes (.fnegF32 t d a) t d (fun x => plain (x 0 ^^^ 0x80000000))
  ∧ Writes (.fcpsgnF32 t d a b) t d
      (fun x => plain (BitVec.ofNat 32 ((x 0).toNat % 2 ^ 31 + (x 1).toNat / 2 ^ 31 * 2 ^ 31)))
  ∧ Writes (.fclsF32 t d a) t d (fun x => plain (BitVec.ofNat 32 (fclass (x 0).toNat)))
  ∧ WritesRounded (.frndF32 t d a) t d (fun r m x => frnd m x (r.val 0).toNat)

/-- R161-R165: the seed forms write the seed of the operand, which takes no rounding mode. R153, R154: the packed forms
write two lanes, each the function of the lanes of their operands in the element's half format, lane 0 rounded first; the dot
products write their function of both lanes of a and b, and of dst, rounded in the element's mode. What those functions give is
RoundedResults. That a packed result counts as a zero that underflowed only where both of its lanes do is the model's choice
(log 28). -/
def Obligations.SeedAndPackedHalfForms : Prop := (∀ (t : Trig) (d a : Operand),
  WritesResult (.frsqsF32 t d a) t d (fun r => frsqs (r.val 0).toNat)
  ∧ WritesResult (.frcpsF32 t d a) t d (fun r => frcps (r.val 0).toNat)
  ∧ WritesResult (.fex2sF32 t d a) t d (fun r => fex2s (r.val 0).toNat)
  ∧ WritesResult (.flg2sF32 t d a) t d (fun r => flg2s (r.val 0).toNat))
  ∧ (∀ (t : Trig) (d a b : Operand),
  WritesLanes (.faddH16 t d a b) t d (fun k r m x => fadd r.e.half m x (lane (r.val 0) k) (lane (r.val 1) k))
  ∧ WritesLanes (.fsubH16 t d a b) t d (fun k r m x => fsub r.e.half m x (lane (r.val 0) k) (lane (r.val 1) k))
  ∧ WritesLanes (.fmulH16 t d a b) t d (fun k r m x => fmul r.e.half m x (lane (r.val 0) k) (lane (r.val 1) k))
  ∧ WritesLanes (.fmacH16 t d a b) t d
      (fun k r m x => fmac r.e.half m x false (lane (r.val 0) k) (lane (r.val 1) k) (lane (r.val 2) k))
  ∧ WritesResult (.fminH16 t d a b) t d
      (fun r => packed fun k => fminmax r.e.half false (lane (r.val 0) k) (lane (r.val 1) k))
  ∧ WritesResult (.fmaxH16 t d a b) t d
      (fun r => packed fun k => fminmax r.e.half true (lane (r.val 0) k) (lane (r.val 1) k))
  ∧ WritesRounded (.fdotH16 t d a b) t d (fun r m x => fdot r.e.half m x (r.val 0).toNat (r.val 1).toNat none)
  ∧ WritesRounded (.fdmacH16 t d a b) t d
      (fun r m x => fdot r.e.half m x (r.val 0).toNat (r.val 1).toNat (some (r.val 2).toNat)))

/-- R155-R158: the conversions between binary32, integers, half formats and block formats complete with the result of their
function, and R130, R133, R156-R158 and R160 give that result: NaNs quietened, 0 or a NaN code; infinities; the saturation of
integers and element codes; signed zeros; and else the exact value rounded once, in the mode given, to nearest for element codes,
with the flags of the table of R133. The same functions serve the conversions of binary64. -/
def Obligations.ConversionForms : Prop := ∀ (t : Trig) (d a b : Operand),
  WritesRounded (.cvtF32S32 t d a) t d (fun r m x => intToF fmt32 m x (r.val 0).toInt)
  ∧ WritesRounded (.cvtF32N32 t d a) t d (fun r m x => intToF fmt32 m x (r.val 0).toNat)
  ∧ WritesRounded (.cvtS32F32 t d a) t d (fun r m x => fToInt fmt32 m x (-2147483648) 2147483647 (r.val 0).toNat)
  ∧ WritesRounded (.cvtN32F32 t d a) t d (fun r m x => fToInt fmt32 m x 0 4294967295 (r.val 0).toNat)
  ∧ WritesRounded (.cvtS8F32 t d a) t d (fun r m x => fToInt fmt32 m x (-128) 127 (r.val 0).toNat)
  ∧ WritesLanes (.cvtH16F32 t d a b) t d (fun k r m x => fconv fmt32 r.e.half m x (r.val k).toNat)
  ∧ WritesResult (.cvtlF32H16 t d a) t d (fun r => fconv r.e.half fmt32 .rne 0 (lane (r.val 0) 0))
  ∧ WritesResult (.cvthF32H16 t d a) t d (fun r => fconv r.e.half fmt32 .rne 0 (lane (r.val 0) 1))
  ∧ WritesResult (.cvtMx8e4F32 t d a b) t d (fun r => encodeElem .mx8e4 (r.val 0).toNat (r.val 1).toNat)
  ∧ WritesResult (.cvtMx8e5F32 t d a b) t d (fun r => encodeElem .mx8e5 (r.val 0).toNat (r.val 1).toNat)
  ∧ WritesResult (.cvtWf8F32 t d a b) t d (fun r => encodeElem .wf8 (r.val 0).toNat (r.val 1).toNat)
  ∧ WritesResult (.cvtWf5F32 t d a b) t d (fun r => encodeElem .wf5 (r.val 0).toNat (r.val 1).toNat)
  ∧ WritesResult (.cvtWf3F32 t d a b) t d (fun r => encodeElem .wf3 (r.val 0).toNat (r.val 1).toNat)
  ∧ WritesResult (.cvtF32Mx8e4 t d a b) t d (fun r => decodeElem .mx8e4 r.e.record.mode (r.val 0).toNat (r.val 1).toNat)
  ∧ WritesResult (.cvtF32Mx8e5 t d a b) t d (fun r => decodeElem .mx8e5 r.e.record.mode (r.val 0).toNat (r.val 1).toNat)
  ∧ WritesResult (.cvtF32Wf8 t d a b) t d (fun r => decodeElem .wf8 r.e.record.mode (r.val 0).toNat (r.val 1).toNat)
  ∧ WritesResult (.cvtF32Wf5 t d a b) t d (fun r => decodeElem .wf5 r.e.record.mode (r.val 0).toNat (r.val 1).toNat)
  ∧ WritesResult (.cvtF32Wf3 t d a b) t d (fun r => decodeElem .wf3 r.e.record.mode (r.val 0).toNat (r.val 1).toNat)
  ∧ (∀ (f : Fmt) (mode : RMode) (r : Nat), ieeeFormat f →
    (∀ v : ℤ, FromInteger f mode r v (intToF f mode r v))
    ∧ (∀ c : Nat, (∀ lo hi : ℤ, lo ≤ 0 → 0 ≤ hi → ToInteger f mode r lo hi c (fToInt f mode r lo hi c))
      ∧ ∀ dst : Fmt, ieeeFormat dst → Converted f dst mode r c (fconv f dst mode r c)))
  ∧ ∀ (mode : RMode) (c scale : Nat),
    (∀ m ∈ [BFmt.mx8e4, .mx8e5], EncodedMX m c scale (encodeElem m c scale) ∧ Decoded m mode c scale (decodeElem m mode c scale))
    ∧ ∀ w ∈ [BFmt.wf8, .wf5, .wf3], EncodedWeft w c scale (encodeElem w c scale)
      ∧ Decoded w mode c scale (decodeElem w mode c scale)

/-- R159, R160: binary64 arithmetic and conversions of the evaluator elements, on pairs. -/
def Obligations.Binary64Forms : Prop := ∀ (t : Trig) (d a b : Operand),
  WritesRoundedPair (.faddF64 t d a b) t d (fun r m x => fadd fmt64 m x (r.pair 0) (r.pair 1))
  ∧ WritesRoundedPair (.fsubF64 t d a b) t d (fun r m x => fsub fmt64 m x (r.pair 0) (r.pair 1))
  ∧ WritesRoundedPair (.fmulF64 t d a b) t d (fun r m x => fmul fmt64 m x (r.pair 0) (r.pair 1))
  ∧ WritesRoundedPair (.fmacF64 t d a b) t d (fun r m x => fmac fmt64 m x false (r.pair 0) (r.pair 1) (r.pair 2))
  ∧ WritesRoundedPair (.fdivF64 t d a b) t d (fun r m x => fdiv fmt64 m x (r.pair 0) (r.pair 1))
  ∧ WritesRoundedPair (.fsqrtF64 t d a) t d (fun r m x => fsqrt fmt64 m x (r.pair 0))
  ∧ WritesPair (.fminF64 t d a b) t d (fun r => fminmax fmt64 false (r.pair 0) (r.pair 1))
  ∧ WritesPair (.fmaxF64 t d a b) t d (fun r => fminmax fmt64 true (r.pair 0) (r.pair 1))
  ∧ WritesPair (.fabsF64 t d a) t d (fun r => .exact (r.pair 0 % 2 ^ 63))
  ∧ WritesPair (.fnegF64 t d a) t d (fun r => .exact (r.pair 0 ^^^ 2 ^ 63))
  ∧ WritesPair (.cvtF64F32 t d a) t d (fun r => fconv fmt32 fmt64 .rne 0 (r.val 0).toNat)
  ∧ WritesPair (.cvtF64S32 t d a) t d (fun r => intToF fmt64 .rne 0 (r.val 0).toInt)
  ∧ WritesRounded (.cvtF32F64 t d a) t d (fun r m x => fconv fmt64 fmt32 m x (r.pair 0))
  ∧ WritesRounded (.cvtS32F64 t d a) t d (fun r m x => fToInt fmt64 m x (-2147483648) 2147483647 (r.pair 0))

/-! ## Memory, atomics, fences, engines and asks at fire (09 R178, 10 R192-R198, 14 R256-R259, 15 R267-R289, 17 R298-R319) -/

/-- R178, R179: segment 0 takes an offset below 0x6_0000 in a loom element; segments 1-15 take a valid register and an offset
below their length, whose LOG2LEN counts as 12 outside 12-28; the address is then aligned to the access; an evaluator element
has no segment 0. An access that passes keeps the class, the count and the address base + offset. -/
def Obligations.AddressWordChecks : Prop := ∀ (k : Tile) (ev write : Bool) (a : Word) (size : Nat), 0 < size →
  let seg := a.toNat / 2 ^ 28
  let off := a.toNat % 2 ^ 28
  let r := (k.seg seg).toNat
  let log := if 12 ≤ r % 32 ∧ r % 32 ≤ 28 then r % 32 else 12
  let aligned := a.toNat % size = 0
  (seg = 0 → ev = false → 0x60000 ≤ off → k.checkAddr ev a size write = .error 0x44)
  ∧ (seg = 0 → ev = false → off < 0x60000 → ¬ aligned → k.checkAddr ev a size write = .error 0x45)
  ∧ (seg = 0 → ev = false → off < 0x60000 → aligned → k.checkAddr ev a size write = .ok { seg0 := true, va := off })
  ∧ (seg = 0 → ev = true → ∃ c, k.checkAddr ev a size write = .error c)
  ∧ (seg ≠ 0 → r / 2 ^ 63 = 0 → k.checkAddr ev a size write = .error 0x44)
  ∧ (seg ≠ 0 → 2 ^ log ≤ off → k.checkAddr ev a size write = .error 0x44)
  ∧ (seg ≠ 0 → aligned → write = true → r / 2 ^ 62 % 2 = 0 → k.checkAddr ev a size write = .error 0x44)
  ∧ (seg ≠ 0 → r / 2 ^ 63 = 1 → off < 2 ^ log → (write = true → r / 2 ^ 62 % 2 = 1) →
      k.checkAddr ev a size write = if aligned then
        .ok { seg0 := false, va := segVa (r / 2 ^ 12 % 2 ^ 45 * 2 ^ 12) off, cls := r / 2 ^ 60 % 4, reads := r / 2 ^ 8 % 16 }
      else .error 0x45)

/-- Every load beat that may run and whose address passes the checks places a load request of class R with its size, its sign
and its wave number, and a failed check is a fault at fire with the wave number as its detail (10 R192-R194). -/
def Obligations.LoadsAtFire : Prop := ∀ (t : Trig) (d a : Operand) (w : BitVec 6) (x : Beat) (s : State),
  let ok (i : Instr) (size : Nat) (sgn : Bool) : Prop := x.Ready i t s →
    match (s.tile (servingTile x.key)).checkAddr (isEv x.key) (x.val 0) size false with
    | .ok c => exec i s = .next (x.asks s
        { kind := .load size sgn, classes := 0x01, wave := w.toNat, addr := x.val 0, at_ := c, dest := destOf d,
          wide := size == 8 })
    | .error c => exec i s = .next (x.takes s c w.toNat (x.val 0).toNat)
  ok (.ldN32 t d a w) 4 false ∧ ok (.ldS16 t d a w) 2 true ∧ ok (.ldN16 t d a w) 2 false ∧ ok (.ldS8 t d a w) 1 true
    ∧ ok (.ldN8 t d a w) 1 false ∧ ok (.ldN64 t d a w) 8 false

/-- Every store beat that may run and whose address passes the checks, WR among them, places a store request of class W with
the low bytes of its data; a guarded store whose data token has another level than 1 places a skipped request and checks
nothing; a prefetch that fails a check, or names segment 0, is dropped and places a skipped request, and one that fails is
counted (10 R193-R198). -/
def Obligations.StoresAndPrefetchAtFire : Prop := ∀ (t : Trig) (d a : Operand) (w : BitVec 6) (x : Beat) (s : State),
  let check (size : Nat) (write : Bool) : Except Nat Checked :=
    (s.tile (servingTile x.key)).checkAddr (isEv x.key) (x.val 0) size write
  let q (k : ReqKind) (cl : BitVec 8) (c : Checked) : Issued :=
    { kind := k, classes := cl, wave := w.toNat, addr := x.val 0, at_ := c }
  let none_ : Checked := { seg0 := false, va := 0 }
  let stored (i : Instr) (size : Nat) : Prop :=
    match check size true with
    | .ok c => exec i s = .next (x.asks s (q (.store size (x.reads.pair 1 % 2 ^ (8 * size))) 0x02 c))
    | .error c => exec i s = .next (x.takes s c w.toNat (x.val 0).toNat)
  let st (i : Instr) (size : Nat) : Prop := x.Ready i t s → stored i size
  let gst (i : Instr) (size : Nat) : Prop := x.Ready i t s →
    if ((x.reads.tok? 1).map Token.level).getD 1 = 1 then stored i size
    else exec i s = .next (x.asks s (q .skipped 0x02 none_))
  st (.stN32 t d a w) 4 ∧ st (.stN16 t d a w) 2 ∧ st (.stN8 t d a w) 1 ∧ st (.stN64 t d a w) 8
    ∧ gst (.gstN32 t d a w) 4 ∧ gst (.gstN16 t d a w) 2 ∧ gst (.gstN8 t d a w) 1
    ∧ (x.Ready (.pf t a w) t s → match check 1 false with
        | .ok c => exec (.pf t a w) s = .next (x.asks s (if c.seg0 then q .skipped 0x01 none_ else q .prefetch 0x01 c))
        | .error _ => exec (.pf t a w) s = .next (x.asks (s.countDrop (servingTile x.key)) (q .skipped 0x01 none_)))

/-- R267, R270: amo and amoc check their address as a write of their size, segment 0 being a SEG_FAULT in every element; amo
places a request of class A with its operation, operands and path; through path 1 it answers its ticket at once, or writes
RANK_FAULT or REMOTE_FULL in ASTAT and issues nothing (R280, R281); amoc with a bad descriptor answers BAD_COMMAND (5) at
fire, and else places its request with the descriptor. The model's choices: a fault at fire leaves ASTAT, AOLD and AOHI
(log 18), the address of an amoc is checked before its descriptor (log 19), an RCQBASE that is not enabled and what dst gets of an
issue that is refused (log 20), the detail of the fault (log 29). -/
def Obligations.AtomicsAtFire : Prop := ∀ (t : Trig) (d a b : Operand) (lit : Word) (x : Beat) (s : State),
  let size := if lit.toNat / 2 ^ 9 % 2 = 1 then 8 else 4
  let reg (lo : Nat) : Nat := (x.reads.e.regs.getD (lit.toNat / 2 ^ lo % 16) 0).toNat
  let v := if size = 8 then reg 16 * 2 ^ 32 + (x.val 1).toNat else (x.val 1).toNat
  let c := if size = 8 then reg 20 * 2 ^ 32 + reg 12 else reg 12
  let op := lit.toNat % 16
  let path := lit.toNat / 2 ^ 10 % 4
  let check := if (x.val 0).toNat / 2 ^ 28 = 0 then .error 0x44
    else (s.tile (servingTile x.key)).checkAddr (isEv x.key) (x.val 0) size true
  let desc := BitVec.ofNat 32 (reg 28)
  let q (k : ReqKind) (z : Checked) : Issued :=
    { kind := k, classes := 0x40, addr := x.val 0, at_ := z, dest := destOf d }
  (∀ z, x.Ready (.amo t d a b lit) t s → check = .ok z → path ≠ 1 → exec (.amo t d a b lit) s = .next (x.asks s
      (q (.amo op size v c path (reg 24 % 2 ^ 16) (s.fn (loadFn s (bhOf x.key))).ticket.toNat) z)))
  ∧ (∀ z, x.Ready (.amo t d a b lit) t s → check = .ok z → path = 1 →
      let fn := loadFn s (bhOf x.key)
      let f := s.fn fn
      let answers (u : State) (e : Elem) (status : Byte) (w : Word) : State :=
        x.ends u ({ e with astat := status }.write (sparsePorts s x.key) d w (mkTag 0 x.reads.exc) false)
      let e := x.withRequest s x.reads.e { kind := .amo op size v c path (reg 24 % 2 ^ 16) f.ticket.toNat,
                                           classes := 0x40, addr := x.val 0, at_ := z }
      let issued : State := State.setFn { s with nextId := s.nextId + 1 } fn { f with
        ticket := f.ticket + 1
        remote := f.remote ++
          [{ ticket := f.ticket.toNat, elem := x.key, id := s.nextId, pasid := loadPasid s (bhOf x.key) }] }
      exec (.amo t d a b lit) s = .next (if gazette s fn (reg 24 % 2 ^ 16) = none then answers s x.reads.e 0x0E 0
        else if remoteRoom s fn = false then answers s x.reads.e 0x14 0
        else answers issued e 0 (BitVec.ofNat 32 f.ticket.toNat)))
  ∧ (∀ f, x.Ready (.amo t d a b lit) t s → check = .error f →
      exec (.amo t d a b lit) s = .next (x.takes s f x.run.slot (x.val 0).toNat))
  ∧ (∀ z, x.Ready (.amoc t d a b lit) t s → check = .ok z → badDescriptor desc = false →
      exec (.amoc t d a b lit) s = .next (x.asks s (q (.amoc op size v c desc) z)))
  ∧ (∀ z, x.Ready (.amoc t d a b lit) t s → check = .ok z → badDescriptor desc = true →
      exec (.amoc t d a b lit) s = .next (x.ends s (x.put s x.reads.e d 5 0 false)))
  ∧ (∀ f, x.Ready (.amoc t d a b lit) t s → check = .error f →
      exec (.amoc t d a b lit) s = .next (x.takes s f x.run.slot (x.val 0).toNat))

/-- R285, R289: sems and semw with a reserved bit answer BAD_COMMAND (5) and do nothing else; else they place a request of
class A for the semaphore a[9:0] of their own bulkhead, or of bulkhead a[13:10] where a[14] is 1, by b[23:0]; arrive places
one with its two words. That a BAD_COMMAND found at fire leaves ASTAT is the model's choice (log 18). -/
def Obligations.SemaphoresAndArriveAtFire : Prop := ∀ (t : Trig) (d a b : Operand) (x : Beat) (s : State),
  let u := (x.val 0).toNat
  let n := (x.val 1).toNat
  let bad := 2 ^ 15 ≤ u ∨ 2 ^ 24 ≤ n
  let bh := if u / 2 ^ 14 % 2 = 1 then u / 2 ^ 10 % 16 else bhOf x.key
  let q (k : ReqKind) : Issued := { kind := k, classes := 0x40, addr := x.val 0, dest := destOf d }
  let refused := x.ends s (x.put s x.reads.e d 5 0 false)
  (x.Ready (.sems t d a b) t s → exec (.sems t d a b) s = .next
    (if bad then refused else x.asks s (q (.sems bh (u % 1024) (n % 2 ^ 24)))))
  ∧ (x.Ready (.semw t d a b) t s → exec (.semw t d a b) s = .next
    (if bad then refused else x.asks s (q (.semw bh (u % 1024) (n % 2 ^ 24)))))
  ∧ (x.Ready (.arrive t d a b) t s → exec (.arrive t d a b) s = .next
    (x.asks s (q (.arrive (x.val 0) (x.val 1)))))

/-- R256, R257, R258, R264: a fence with a predecessor and a successor set becomes the element's incomplete fence over its
incomplete requests and commands of the predecessor classes, and one with an empty set does nothing; fencel writes a to dst
and places a mark; fenceh places a request and holds; ifence makes every held page of an evaluator element stale. -/
def Obligations.FencesAtFire : Prop := ∀ (t : Trig) (d a b : Operand) (lit : Word) (x : Beat) (s : State),
  let pred := BitVec.ofNat 8 lit.toNat
  let succ := BitVec.ofNat 8 (lit.toNat / 2 ^ 8)
  (x.Ready (.fence t lit) t s → exec (.fence t lit) s = .next (x.ends s
    (if pred = 0 ∨ succ = 0 then x.reads.e
      else { x.reads.e with fence := some {
        pred := pred, preds := (x.reads.e.pending.filter fun p => p.classes &&& pred != 0).map Pending.id,
        succ := succ, scope := lit.toNat / 2 ^ 16 % 4 } })))
  ∧ (x.Ready (.fencel t d a b) t s → exec (.fencel t d a b) s = .next (x.ends { s with nextId := s.nextId + 1 }
    ((x.withRequest s x.reads.e { kind := .fencelMark }).write (sparsePorts s x.key) d (x.val 0)
      (mkTag 0 x.reads.exc) false)))
  ∧ (x.Ready (.fenceh t d a b) t s → exec (.fenceh t d a b) s = .next (x.asks s
    { kind := .fenceh ((x.val 0).toNat % 2 ^ 16) (decide (2 ^ 16 ≤ (x.val 0).toNat)), addr := x.val 0,
      dest := .operand d }))
  ∧ (x.Ready (.ifence t) t s → exec (.ifence t) s = .next (x.ends s
    (if isEv x.key then { x.reads.e with stale := x.reads.e.heldMask } else x.reads.e)))

/-- R212, R219, R243, R244, R252, R259: mcmd, scmd and qcmd push a then b on their engine port as one command, of the classes
of the accesses that it makes, which covers the element's stores that are performed and not complete; scmd checks its
descriptor word as an address of 64 bytes (R178) at its first attempt, and with ORD holds while a scratchpad store of the element is
incomplete. Which classes a command has, read from the accesses of its kind, is the model's choice (log 23). -/
def Obligations.EngineCommandsAtFire : Prop := ∀ (t : Trig) (n : Fin 8) (a b : Operand) (x : Beat) (s : State),
  let token (w : Word) : OutEntry := .command { data := w, tag := mkTag 0 x.reads.exc } s.nextId
  let stores := (x.reads.e.pending.filter fun p => p.isStore && p.performed).map Pending.id
  let entry (classes : BitVec 8) : Pending :=
    { id := s.nextId, classes := classes, performed := true, slot := x.run.slot, covers := stores }
  let pushed (classes : BitVec 8) : State := x.ends { s with nextId := s.nextId + 1 } { x.reads.e with
    out := modifyAt x.reads.e.out n.val (· ++ [token (x.val 0), token (x.val 1)]),
    pending := x.reads.e.pending ++ [entry classes] }
  let waits := (x.val 0).toNat / 2 ^ 27 % 2 = 1 ∧ x.reads.e.pending.any Pending.seg0 = true
  let first : Prop := x.elem.issue.any Issue.held = false
  let checked := (s.tile (servingTile x.key)).checkAddr false (x.val 1) 64 false
  (x.Ready (.mcmd t (.o n) a b) t s →
    exec (.mcmd t (.o n) a b) s = .next (pushed (tokenClasses (x.val 0) (x.val 1))))
  ∧ (x.Ready (.qcmd t (.o n) a b) t s →
    exec (.qcmd t (.o n) a b) s = .next (pushed (sequencerClasses (x.val 0 ++ x.val 1))))
  ∧ (∀ c, x.Ready (.scmd t (.o n) a b) t s → first → checked = .error c →
      exec (.scmd t (.o n) a b) s = .next (x.takes s c x.run.slot (x.val 1).toNat))
  ∧ (x.Ready (.scmd t (.o n) a b) t s → (∃ c, checked = .ok c) ∨ ¬ first →
      (¬ waits → exec (.scmd t (.o n) a b) s = .next (pushed 0x0C))
      ∧ (waits → exec (.scmd t (.o n) a b) s = .next (x.holds s)))

/-- R298, R308, R319: ask pops the query words of its site and places a request of class X with them, its estimate and its
feature, and the exception bits of the popped words reach what dst gets (06 R85); that they are popped after the fields are read,
so that tg and sk hold the last of them, is the model's choice (log 21); answer places one with its header and W registers, or takes ANSWER_FAULT (0x4C) for a reserved bit or registers past
d15; setpg places one with the resolved address of its page, or the code of the check that failed. R38: spawn with a reserved
bit writes BAD_COMMAND (5); else it enqueues, for the function of its load, the command its words name on the queue a[11:0],
after the element's performed stores, and writes the code of the queue engine, once the cycle in which it reached the queue is
over and unless that engine serves another enqueue first (03 R36), for which it holds; that it holds in the cycle in which it
comes, and how the model orders what waits, is the model's choice (log 132). -/
def Obligations.AsksAnswersPagesAndSpawnsAtFire : Prop := (∀ (t : Trig) (d a b : Operand) (r : Fin 16) (page : BitVec 2) (x : Beat) (s : State),
  (∀ (k : Nat) (site : Site), x.Ready (.ask t d a b) t s → siteOf s x.key x.run.slot = some k →
    (s.hub (bhOf x.key)).sites[k]? = some site →
    let words := (x.reads.e.inp.getD site.qport []).take site.q
    exec (.ask t d a b) s = .next (x.asksFrom s (x.reads.e.pop site.qport site.q)
      (exc := x.reads.exc || words.any Token.exc)
      { kind := .ask k words (x.val 0)
          (((x.reads.tok? 0).map Token.exc).getD false) (x.val 1),
        classes := 0x80, dest := destOf d }))
  ∧ (x.Ready (.answer t a (.d r)) t s → isMgmt x.key = false →
    let w := (x.val 0).toNat / 2 ^ 9 % 4 + 1
    exec (.answer t a (.d r)) s = .next
      (if 2 ^ 11 ≤ (x.val 0).toNat ∨ 16 < r.val + w then x.takes s 0x4C ((x.val 0).toNat % 2 ^ 9) 0
      else x.asks s { kind := .answer (x.val 0) ((List.range w).map fun j => x.reads.e.regs.getD (r.val + j) 0),
                      classes := 0x80 }))
  ∧ (x.Ready (.setpg t page) t s →
    let pga := x.reads.e.pga.getD page.toNat 0
    let k := s.tile (servingTile x.key)
    exec (.setpg t page) s = .next (x.asks s
      { kind := match k.checkAddr true pga 64 false,
            (if 2 ^ 28 ≤ pga.toNat % 2 ^ 28 + 271 then .error 0x44 else k.checkRange true (pga + 271) false) with
          | .ok y, .ok _ => .setpg page.toNat pga y.va 0 y.cls y.reads
          | .error c, _ => .setpg page.toNat pga 0 c 0 15
          | _, .error c => .setpg page.toNat pga 0 c 0 15,
        classes := 0x80, addr := pga, dest := .operand .z })))
  ∧ (∀ (t : Trig) (d a b : Operand) (x : Beat) (s : State),
  let u := (x.val 0).toNat
  let fn := loadFn s (bhOf x.key)
  let graph := decide (u / 2 ^ 12 % 2 = 1)
  let bad := 2 ^ 20 ≤ u ∨ (graph = true ∧ u / 2 ^ 17 % 8 ≠ 0)
  let r := s.enqueue fn (u % 2 ^ 12) (queuedCommand s fn (u % 2 ^ 12) graph (u / 2 ^ 13 % 2 ^ 7) (x.val 1) 0) .spawn x.key
    ((x.reads.e.pending.filter fun p => p.isStore && p.performed).map Pending.id)
  let since := match x.reads.e.issue with
    | some y => if y.held then y.since else s.spine
    | none => s.spine
  let waits : Prop := enqueueWaits s fn (u % 2 ^ 12) (spawnPlace x.key) since = true
  (x.Ready (.spawn t d a b) t s → ¬ bad → waits → exec (.spawn t d a b) s = .next (x.holds s))
  ∧ (x.Ready (.spawn t d a b) t s → bad ∨ ¬ waits → exec (.spawn t d a b) s = .next
    (if bad then x.ends s (x.put s x.reads.e d 5 0 false)
    else x.ends r.1 (r.2 |> fun code => (x.reads.e.write (sparsePorts s x.key) d (BitVec.ofNat 32 code)
      (mkTag 0 x.reads.exc) false)))))

/-- R334, R345: nop does nothing; trap takes TRAP (0x50) with its code as the detail; bkpt with BKEN notes its code and halts
the element after the beat, and else does nothing; done adds its code to RETSTAT and after its last beat the element fires no
more; srd reads a special register and swr writes one, an index with none is SREG_FAULT (0x4F), and the indices of the hub go
through the issue queue. R335: the special registers of an element by index, and that no other index has one; page registers
exist in evaluator and management elements, segment registers in evaluator elements only. -/
def Obligations.SystemInstructions : Prop := (∀ (t : Trig) (d : Operand) (code index : BitVec 12) (x : Beat) (s : State),
  let hub := isHubIndex index.toNat = true ∧ isMgmt x.key = false
  (x.Ready (.nop t) t s → exec (.nop t) s = .next (x.ends s x.reads.e))
  ∧ (x.Ready (.trap t code) t s → exec (.trap t code) s = .next (x.takes s 0x50 code.toNat 0))
  ∧ (x.Ready (.bkpt t code) t s → exec (.bkpt t code) s = .next (x.ends s
      (if x.reads.e.bken then { x.reads.e with bkcode := code, bkhalt := true } else x.reads.e)))
  ∧ (x.Ready (.done t code) t s → exec (.done t code) s = .next (x.ends
      (s.setBh (bhOf x.key) { s.bh (bhOf x.key) with retCode := (s.bh (bhOf x.key)).retCode ||| code })
      (if x.run.beat + 1 = x.run.n then { x.reads.e with done := true } else x.reads.e)))
  ∧ (x.Ready (.srd t d index) t s → hub → exec (.srd t d index) s = .next (x.asks s
      { kind := .hubRead index.toNat, dest := .operand d }))
  ∧ (∀ v, x.Ready (.srd t d index) t s → ¬ hub → readSpecial s x.key x.reads.e index.toNat = some v →
      exec (.srd t d index) s = .next (x.ends s (x.put s x.reads.e d v 0 false)))
  ∧ (x.Ready (.srd t d index) t s → ¬ hub → readSpecial s x.key x.reads.e index.toNat = none →
      exec (.srd t d index) s = .next (x.takes s 0x4F x.run.slot 0))
  ∧ (x.Ready (.swr t d index) t s → hub → exec (.swr t d index) s = .next (x.asks s
      { kind := .hubWrite index.toNat (x.val 0) }))
  ∧ (∀ v, x.Ready (.swr t d index) t s → ¬ hub → readSpecial s x.key x.reads.e index.toNat = some v →
      exec (.swr t d index) s = .next (x.ends (writeSpecial s x.key x.reads.e index.toNat (x.val 0)).1
        (writeSpecial s x.key x.reads.e index.toNat (x.val 0)).2))
  ∧ (x.Ready (.swr t d index) t s → ¬ hub → readSpecial s x.key x.reads.e index.toNat = none →
      exec (.swr t d index) s = .next (x.takes s 0x4F x.run.slot 0)))
  ∧ (∀ (s : State) (key : Nat) (e : Elem) (x : Nat),
  let ev := isEv key = true
  (x = 0x000 → readSpecial s key e x = some e.flt)
  ∧ (x = 0x001 → readSpecial s key e x = some e.fltaddr)
  ∧ (x = 0x008 → readSpecial s key e x = some (BitVec.ofNat 32 e.dbgctl))
  ∧ (x = 0x040 → readSpecial s key e x = some (BitVec.ofNat 32 e.inboxReg))
  ∧ (x = 0x041 → readSpecial s key e x = some (BitVec.ofNat 32 e.shdrop.toNat))
  ∧ (x = 0x044 → readSpecial s key e x = some (BitVec.ofNat 32 e.astat.toNat))
  ∧ (x = 0x045 → readSpecial s key e x = some e.aold)
  ∧ (x = 0x046 → readSpecial s key e x = some e.aohi)
  ∧ (∀ n < 4, x = 0x048 + n → ev → readSpecial s key e x = some (e.pga.getD n 0))
  ∧ (x = 0x04C → ev → readSpecial s key e x = some (BitVec.ofNat 32 e.pgstat))
  ∧ (0x048 ≤ x → x ≤ 0x04C → ¬ ev → readSpecial s key e x = none)
  ∧ (∀ n, 1 ≤ n → n ≤ 15 → x = 0x060 + 2 * n → ev → isMgmt key = false →
      readSpecial s key e x = some (BitVec.ofNat 32 ((s.tile (servingTile key)).seg n).toNat))
  ∧ (∀ n, 1 ≤ n → n ≤ 15 → x = 0x061 + 2 * n → ev → isMgmt key = false →
      readSpecial s key e x = some (BitVec.ofNat 32 (((s.tile (servingTile key)).seg n).toNat / 2 ^ 32)))
  ∧ (0x062 ≤ x → x ≤ 0x07F → (¬ ev ∨ isMgmt key = true) → readSpecial s key e x = none)
  ∧ (∀ n < 10, x = 0x080 + n → readSpecial s key e x = some ((s.elemCount key).stall.getD n 0))
  ∧ (x = 0x08A → readSpecial s key e x = some (s.elemCount key).issue)
  ∧ (x = 0x08B → readSpecial s key e x = some (s.elemCount key).idle)
  ∧ (x ≠ 0x000 → x ≠ 0x001 → x ≠ 0x008 → ¬ (0x040 ≤ x ∧ x ≤ 0x041) → ¬ (0x044 ≤ x ∧ x ≤ 0x046) →
      ¬ (0x048 ≤ x ∧ x ≤ 0x04C) → ¬ (0x062 ≤ x ∧ x ≤ 0x08B) → readSpecial s key e x = none))

/-! ## Sequencer commands (10 R201-R210) -/

/-- R203: stream.rd and stream.wr set NB to base and start a run of count lines, the line j at NB + 64 * stride * j; NB moves
by 64 * stride * count; snext continues from NB and sadd adds 64 * delta. The segment registers are read when the run starts.
A command of a stream whose run has not completed waits. A write run of a segment with WR = 0 raises SEG_FAULT. R204 and
R205: a consumer command becomes the consumer of a read run that has none, or else waits for a run without holding the
sequencer; accept does the same for a write run; spcopy is the consumer of stb and the feeder of sta. One whose stream
already has a consumer or feeder, of a run in progress or waiting for one, holds the sequencer. The bytes of a push are a
multiple of the tile size of a bound ring. The model's choices: the wrap of a line's address word and of NB at 32 bits (logs 36
and 41), and that a command which waits for a run counts as the stream's consumer or feeder (log 38). -/
def Obligations.StreamAndConsumerCommands : Prop := (∀ (k : Nat) (t : Tile) (s : State) (st : BitVec 3) (base delta : Word)
    (count stride : BitVec 12), Serves k t s →
  let x := t.stream st.toNat
  let run (write : Bool) (b : Word) : StreamRun :=
    { write := write, segs := t.segs, base := b, stride := stride.toInt, count := count.toNat + 1, owner := t.owner }
  let after (b : Word) : Word := word (b.toNat + 64 * stride.toInt * (count.toNat + 1))
  let reads (b : Word) : Tile := withStream t st.toNat
    { x with nb := after b, run := some (run false b), user := x.waiting, waiting := none }
  let writes (b : Word) : Tile := withStream t st.toNat
    { x with nb := after b, run := some (run true b), user := x.feed, feed := none }
  let writable (b : Word) : Prop := bits b.toNat 28 4 = 0 ∨ (t.seg (bits b.toNat 28 4)).getLsbD 62 = true
  exec (.sadd st delta) s = .next (executed k (withStream t st.toNat { x with nb := x.nb + 64 * delta }) s)
  ∧ (x.run = none →
    exec (.streamRd st base count stride) s = .next ((s.setTile k (reads base)).seqEnd k none true)
    ∧ exec (.snextRd st count stride) s = .next ((s.setTile k (reads x.nb)).seqEnd k none true)
    ∧ (writable base → exec (.streamWr st base count stride) s = .next ((s.setTile k (writes base)).seqEnd k none true))
    ∧ (writable x.nb → exec (.snextWr st count stride) s = .next ((s.setTile k (writes x.nb)).seqEnd k none true))
    ∧ (¬ writable base → exec (.streamWr st base count stride) s = .next
        (((s.setTile k (withStream t st.toNat { x with nb := after base })).seqFault k 0x44 base.toNat).seqEnd k none false)))
  ∧ (x.run ≠ none →
    exec (.streamRd st base count stride) s = .next s ∧ exec (.streamWr st base count stride) s = .next s
    ∧ exec (.snextRd st count stride) s = .next s ∧ exec (.snextWr st count stride) s = .next s))
  ∧ (∀ (k : Nat) (t : Tile) (s : State) (st sta stb : BitVec 3) (port : BitVec 4)
    (row : BitVec 12) (level ring : BitVec 3) (island : BitVec 2) (bytes : BitVec 12), Serves k t s →
  let x := t.stream st.toNat
  let r := s.ring (k / 64) island.toNat ring.toNat
  let deliver : StreamJob := { what := .deliver port.toNat row.toNat level.toNat 0 [], owner := t.owner }
  let push : StreamJob := { what := .push island.toNat ring.toNat (bytes.toNat + 1) 0, owner := t.owner }
  let accept : StreamJob := { what := .accept port.toNat [], owner := t.owner }
  let put (y : Stream) : State := (s.setTile k (withStream t st.toNat y)).seqEnd k none true
  let fits : Prop := r.bound = true ∧ (bytes.toNat + 1) % (r.tlines + 1) = 0
  let consumed (y : Stream) : Prop := y.waiting ≠ none ∨ (y.user ≠ none ∧ y.run.any (fun r => !r.write) = true)
  let fed (y : Stream) : Prop := y.feed ≠ none ∨ (y.user ≠ none ∧ y.run.any (·.write) = true)
  (x.waiting = none → x.user = none → x.run.any (fun r => !r.write) = true →
    (t.bound 1 port.toNat = true → exec (.deliver st port row level) s = .next (put { x with user := some deliver }))
    ∧ (fits → exec (.push island ring st bytes) s = .next (put { x with user := some push })))
  ∧ (x.waiting = none → x.run.all (·.write) = true →
    (t.bound 1 port.toNat = true → exec (.deliver st port row level) s = .next (put { x with waiting := some deliver }))
    ∧ (fits → exec (.push island ring st bytes) s = .next (put { x with waiting := some push })))
  ∧ (x.feed = none → x.user = none → x.run.any (·.write) = true → t.bound 2 port.toNat = true →
    exec (.accept st port) s = .next (put { x with user := some accept }))
  ∧ (x.feed = none → x.run.all (fun r => !r.write) = true → t.bound 2 port.toNat = true →
    exec (.accept st port) s = .next (put { x with feed := some accept }))
  ∧ (¬ consumed (t.stream stb.toNat) → ¬ fed (t.stream sta.toNat) →
    let t1 := withStream t stb.toNat
      ((t.stream stb.toNat).attach false { what := .copyTo sta.toNat, owner := t.owner })
    exec (.spcopy sta stb) s = .next ((s.setTile k (withStream t1 sta.toNat
      ((t1.stream sta.toNat).attach true { what := .copyFrom stb.toNat, owner := t.owner }))).seqEnd k none true))
  ∧ (consumed x → (t.bound 1 port.toNat = true → exec (.deliver st port row level) s = .next s)
    ∧ (fits → exec (.push island ring st bytes) s = .next s))
  ∧ (fed x → t.bound 2 port.toNat = true → exec (.accept st port) s = .next s)
  ∧ (consumed (t.stream stb.toNat) ∨ fed (t.stream sta.toNat) → exec (.spcopy sta stb) s = .next s)
  ∧ (¬ fits → exec (.push island ring st bytes) s = .next ((s.seqFault k 0x48 0).seqEnd k none false)))

/-- R201, R202, R206: halt ends the static program; qwait puts the oldest queued command in its own place; sbar and notify go
on once no run of the streams in the mask is left, and notify then sends a class L shuttle with 0 and the mask; a label that
is not bound raises SHUTTLE_UNBOUND. A queued halt, qwait, loop or lpset raises SEQ_FAULT. -/
def Obligations.SequencerControl : Prop := ∀ (k : Nat) (t : Tile) (s : State) (mask : Byte) (label : BitVec 7)
    (n : BitVec 1) (count value : BitVec 16) (stop : BitVec 8) (reg : BitVec 2), Serves k t s →
  let idle : Prop := ∀ st < 8, mask.getLsbD st = true → (t.stream st).run = none
  let shuttle : Shuttle :=
    { classL := true, source := 0x20000 + k, label := label.toNat, w0 := 0, w1 := BitVec.ofNat 32 mask.toNat }
  let faulted : State := (s.seqFault k 0x48 0).seqEnd k none false
  (t.current = none →
    exec .halt s = .next (executed k { t with halted := true } s)
    ∧ (∀ c q, t.cmdq = c :: q → exec .qwait s = .next (s.setTile k { t with cmdq := q, current := some c }))
    ∧ (t.cmdq = [] → exec .qwait s = .next s))
  ∧ (t.current ≠ none → exec .halt s = .next faulted ∧ exec .qwait s = .next faulted
    ∧ exec (.loop n count stop) s = .next faulted ∧ exec (.lpset n reg value) s = .next faulted)
  ∧ (idle →
    exec (.sbar mask) s = .next ((((s.setTile k { t with hold := .none }).traceBar k 1 mask 0).raiseGuard k).seqEnd k none false)
    ∧ ((routeOf s (k / 64) label.toNat).isSome = true → exec (.notify mask label) s = .next
      (((s.modBh (k / 64) fun b => { b with shuttles := b.shuttles ++ [shuttle] }).traceBar k 2 mask label.toNat).seqEnd
        k none false))
    ∧ (routeOf s (k / 64) label.toNat = none →
      exec (.notify mask label) s = .next ((s.seqFault k 0x47 0).seqEnd k none false)))
  ∧ (¬ idle → exec (.notify mask label) s = .next (s.barStreams k mask))

/-- R208 and R209: loop takes a latched count, start and end, goes on behind the loop where the count is 0, and else opens it
with RC = count - 1; a latched start or end outside the program raises SEQ_FAULT, and the loop is not entered. lpset writes
RC of an open loop and latches everything else. R208, after E runs: lp1 lies inside lp0 and is tested first; an open loop
whose end is the command just executed goes on at its start with RC - 1, and at RC = 0 it closes; else the next index
follows. Stated of segw, which R180 says writes one half of a segment register of the tile. -/
def Obligations.Loops : Prop := (∀ (k : Nat) (t : Tile) (s : State) (n : BitVec 1) (count value : BitVec 16)
    (stop : BitVec 8), ServesStatic k t s →
  let l := tget t.loops n.toNat {}
  let c := l.latchCount.getD count.toNat
  let a := l.latchStart.getD (t.index + 1)
  let b := l.latchEnd.getD stop.toNat
  let clear : HwLoop := { isOpen := l.isOpen, rc := l.rc, start := l.start, stop := l.stop }
  let put (y : HwLoop) : State := s.setTile k { t with loops := tset t.loops n.toNat y }
  (c = 0 → exec (.loop n count stop) s = .next (s.seqEnd k (some (stop.toNat + 1)) false))
  ∧ (c ≠ 0 → a < t.program.length → b < t.program.length → exec (.loop n count stop) s = .next
      ((put { isOpen := true, rc := c - 1, start := a, stop := b }).seqEnd k (some (t.index + 1)) false))
  ∧ (c ≠ 0 → t.program.length ≤ a ∨ t.program.length ≤ b → exec (.loop n count stop) s = .next
      (((put clear).seqFault k 0x48 0).seqEnd k (some (stop.toNat + 1)) false))
  ∧ exec (.lpset n 0 value) s = .next
      ((put (if l.isOpen then { l with rc := value.toNat } else { l with latchCount := some value.toNat })).seqEnd k none false)
  ∧ exec (.lpset n 1 value) s = .next ((put { l with latchStart := some value.toNat }).seqEnd k none false)
  ∧ exec (.lpset n 2 value) s = .next ((put { l with latchEnd := some value.toNat }).seqEnd k none false))
  ∧ (∀ (k : Nat) (t : Tile) (s : State) (n : BitVec 4) (half : BitVec 1) (value : Word),
    ServesStatic k t s →
  let l0 := tget t.loops 0 {}
  let l1 := tget t.loops 1 {}
  let ends (l : HwLoop) : Prop := l.isOpen = true ∧ l.stop = t.index
  ∃ t', exec (.segw n half value) s = .next t'
    ∧ (t'.tile k).seg n.toNat = (if half = 1 then (value ++ (t.seg n.toNat).extractLsb' 0 32 : DWord)
        else ((t.seg n.toNat).extractLsb' 32 32 ++ value : DWord)) &&& 0xF1FFFFFFFFFFFF1F
    ∧ (∀ m, m ≠ n.toNat → (t'.tile k).seg m = t.seg m)
    ∧ (ends l1 → l1.rc ≠ 0 → (t'.tile k).index = l1.start
        ∧ tget (t'.tile k).loops 1 {} = { l1 with rc := l1.rc - 1 } ∧ tget (t'.tile k).loops 0 {} = l0)
    ∧ (ends l1 → l1.rc = 0 → tget (t'.tile k).loops 1 {} = { l1 with isOpen := false })
    ∧ (¬ (ends l1 ∧ l1.rc ≠ 0) → ends l0 → l0.rc ≠ 0 → (t'.tile k).index = l0.start
        ∧ tget (t'.tile k).loops 0 {} = { l0 with rc := l0.rc - 1 })
    ∧ (¬ (ends l1 ∧ l1.rc ≠ 0) → ends l0 → l0.rc = 0 → (t'.tile k).index = t.index + 1
        ∧ tget (t'.tile k).loops 0 {} = { l0 with isOpen := false })
    ∧ (¬ ends l0 → ¬ (ends l1 ∧ l1.rc ≠ 0) → (t'.tile k).index = t.index + 1))

/-- R207: galloc records its granules in its slot, or raises SEQ_FAULT and leaves every slot unchanged where one of the five
conditions holds; gfree removes the granules of its slot, and nothing of a free one. R206 and R210: ssig sends its signal to
a semaphore of the bulkhead; swait holds the sequencer with its wait sent to the semaphore's home slice, and goes on once it
has been granted; after SEM_BUSY it asks again after 64 cycles (R286). fupd holds the sequencer with the descriptor that it
has read and checked, once that read has been answered; one that would pass 0x5_FFFF, or of which a check fails, raises
SEQ_FAULT. That an offset that is no multiple of 64 raises it too is the model's choice (log 43). -/
def Obligations.AllocationsSemaphoresAndUpdates : Prop := (∀ (k : Nat) (t : Tile) (s : State) (g : BitVec 6) (offset bytes : BitVec 19),
    Serves k t s →
  let meets (x y : Nat) : Prop := x < y + 64 ∧ y < x + 64
  let mine : List Nat := [offset.toNat - 64, offset.toNat + bytes.toNat]
  let bad : Prop := offset.toNat % 64 ≠ 0 ∨ bytes.toNat % 64 ≠ 0 ∨ bytes = 0
    ∨ offset.toNat < 64 ∨ 0x60000 < offset.toNat + bytes.toNat + 64
    ∨ tget? t.guards g.toNat ≠ none
    ∨ ∃ p ∈ t.guards, ∃ x ∈ mine, ∃ y ∈ [p.2.1 - 64, p.2.1 + p.2.2], meets y x
  (¬ bad → exec (.galloc g offset bytes) s = .next
    (executed k { t with guards := tset t.guards g.toNat (offset.toNat, bytes.toNat) } s))
  ∧ (bad → exec (.galloc g offset bytes) s = .next ((s.seqFault k 0x48 0).seqEnd k none false))
  ∧ exec (.gfree g) s = .next (executed k { t with guards := tdel t.guards g.toNat } s))
  ∧ (∀ (k : Nat) (t : Tile) (s : State) (sem : BitVec 10) (n : BitVec 16)
    (desc : BitVec 19), Serves k t s →
  let sent (id : Nat) (op : HomeOp) (s : State) : State := s.sendHome (semSlice (k / 64) sem.toNat)
    [{ src := .engine (k / 64) (k % 64), id := id, pa := 0, op := op, cls := 0, reads := 15, word := 0 }]
  let asks (sem n : Nat) : State := { s with nextId := s.nextId + 1 }.setTile k { t with hold := .swait sem n s.nextId }
  let read := (answered s (sequencerWork k) (k / 64) (k % 64) rankElement).access
    { place := .scratch k desc.toNat, size := 64, kind := kindStream, word := BitVec.ofNat 32 desc.toNat, seen := desc.toNat }
  let u : FusedUpdate := { desc := wordsOf read.2.value 16 }
  exec (.ssig sem n) s = .next ((sent 0 (.sems sem.toNat n.toNat) s).seqEnd k none false)
  ∧ (t.hold = .granted → exec (.swait sem n) s = .next (executed k { t with hold := .none } s))
  ∧ (t.hold = .none → exec (.swait sem n) s = .next (sent s.nextId (.semw sem.toNat n.toNat) (asks sem.toNat n.toNat)))
  ∧ (∀ a b c, t.hold = .swaitBusy a b c → c ≤ s.cycle →
      exec (.swaitRetry k) s = .next ((asks a b).sendEngineSem (k / 64) (k % 64) a s.nextId (.semw a b)))
  ∧ (t.hold = .none → desc.toNat % 64 = 0 → desc.toNat + 64 ≤ 0x60000 → read.1.asked = none → read.2.poison = false →
      u.bad = false → exec (.fupd desc) s = .next (settled (sequencerWork k) (read.1.modTile k fun t => { t with hold := .fupd u })))
  ∧ (t.hold = .none → desc.toNat % 64 = 0 → desc.toNat + 64 ≤ 0x60000 → read.1.asked = none → read.2.poison = false →
      u.bad = true → exec (.fupd desc) s =
        .next (settled (sequencerWork k) ((read.1.seqFault k 0x48 desc.toNat).seqEnd k none false)))
  ∧ (t.hold = .none → desc.toNat % 64 ≠ 0 ∨ 0x60000 < desc.toNat + 64 →
      exec (.fupd desc) s = .next ((s.seqFault k 0x48 desc.toNat).seqEnd k none false)))

/-! ## Control tokens (12 R228-R236) -/

/-- R228-R231: a token that passes its checks and has a tile in every ring it names is applied whole, once its accesses have
been answered (14 R248). MMA computes every
entry of its region from the rows of the two head tiles; ACCW writes the image of the region in its format; ACCL reads
binary32 values row by row; MSIG answers, sends a class L shuttle or signals; RPOP pops its ring unread. An accumulator
written is noted in the lost bits. -/
def Obligations.AccumulatorTokens : Prop := ∀ (i : Nat) (x : Island) (c : EngineCmd) (rest : List EngineCmd) (s : State)
    (acc kind : BitVec 2) (accum sat : BitVec 1) (ra rb k : BitVec 3) (fa fb f : BitVec 4) (m : BitVec 7) (n : BitVec 8)
    (oa count : BitVec 16) (sem : BitVec 10), Takes i x c rest s →
  let rows := m.toNat + 1
  let cols := n.toNat + 1
  let red := 32 * (k.toNat + 1)
  let bytesA := tileBytes rows red fa.toNat
  let bytesB := tileBytes cols red fb.toNat
  let u (rings : List Nat) : State := tokenState s i rings
  let done (rings : List Nat) (t : State) : State := applied i c rest rings (settled (islandWork i) t)
  let a := (u [ra.toNat, rb.toNat]).ringRead i ra.toNat bytesA
  let b := a.1.ringRead i rb.toNat bytesB
  let entry (r q : Nat) : Word × Flags :=
    mmaEntry (fun j => (tileValue a.2.1 rows red fa.toNat r j, tileValue b.2.1 cols red fb.toNat q j))
      (if accum = 1 then some (tget (x.accOf acc.toNat) (256 * r + q) 0) else none) (k.toNat + 1) 0
  let region := fillRegion entry cols (x.accOf acc.toNat) (rows * cols)
  let image := accImage (x.accOf acc.toNat) f.toNat rows cols (sat == 1)
  let size := tileBytes rows cols f.toNat
  let written := (u []).areaWrite (oaTile i oa.toNat) (size + 1) (oaOff oa.toNat) image.1 size
  let values := (u []).areaRead (oaTile i oa.toNat) (4 * rows * cols + 1) (oaOff oa.toNat) (4 * rows * cols)
  let shuttle : Shuttle :=
    { classL := true, source := 0x50000 + i, label := sem.toNat % 128, w0 := x.istat, w1 := BitVec.ofNat 32 (i % 4) }
  (ra ≠ rb → Holds x ra → Holds x rb → fa.toNat < 11 → fb.toNat < 11 →
    (red % 128 = 0 ∨ (fa.toNat < 8 ∧ fb.toNat < 8)) → bytesA ≤ (x.ring ra.toNat).size → bytesB ≤ (x.ring rb.toNat).size →
    b.1.asked = none → a.2.2 = false → b.2.2 = false → exec (.mma acc accum ra rb fa fb m n k) s = .next
      (done [ra.toNat, rb.toNat] (((b.1.setAcc i acc.toNat region.1).islandFlags i region.2).lose i acc.toNat)))
  ∧ (f.toNat ≤ 11 → (tileBlock f.toNat ≠ 0 → cols % tileBlock f.toNat = 0) → (sat = 1 → f = 2 ∨ f = 3) →
    oaOff oa.toNat + size ≤ 0x60000 → written.asked = none → exec (.accw acc f sat oa m n) s = .next
      (done [] (written.islandFlags i image.2)))
  ∧ (oaOff oa.toNat + 4 * rows * cols ≤ 0x60000 → values.1.asked = none → values.2.2 = false →
    exec (.accl acc oa m n) s = .next (done [] ((values.1.setAcc i acc.toNat
        (fillRegion (fun r q => (BitVec.ofNat 32 (bits values.2.1 (32 * (r * cols + q)) 32), 0)) cols
          (x.accOf acc.toNat) (rows * cols)).1).lose i acc.toNat)))
  ∧ (kind = 0 → x.rpe = true → ∀ t, (u []).islandReply i x.istat = some t → t.asked = none →
      exec (.msig kind count sem) s = .next (done [] t))
  ∧ (kind = 1 → (routeOf s (i / 4) (sem.toNat % 128)).isSome = true → exec (.msig kind count sem) s = .next
      (done [] ((u []).modBh (i / 4) fun y => { y with shuttles := y.shuttles ++ [shuttle] })))
  ∧ (kind = 2 → exec (.msig kind count sem) s = .next
      (done [] ((u []).engineSignal (i / 4) (32 + i % 4) sem.toNat count.toNat)))
  ∧ (Holds x ra → exec (.rpop ra) s = .next (done [ra.toNat] (u [ra.toNat])))

/-- R232-R236: QINIT empties an accumulator and records its size and its overflow rule; QADD appends a reflector whose tau
and vector the head tile holds, after the overflow rule where 64 are there; QAPL and QAPR write Q or its transpose applied to
the head tile; QCNT answers with the counts, 0 of an accumulator that is not initialised; QSPL writes the spill image; QLDV
takes the reflectors of an image. Each takes effect once its accesses have been answered (14 R248). -/
def Obligations.ReflectorTokens : Prop := ∀ (i : Nat) (x : Island) (c : EngineCmd) (rest : List EngineCmd) (s : State)
    (q tr : BitVec 1) (mode var : BitVec 2) (n cnt p : BitVec 7) (oa : BitVec 16) (ring : BitVec 3), Takes i x c rest s →
  let r := x.qaOf q.toNat
  let lost := 4 + q.toNat
  let count := cnt.toNat + 1
  let u (rings : List Nat) : State := tokenState s i rings
  let done (rings : List Nat) (t : State) : State := applied i c rest rings (settled (islandWork i) t)
  let col := (u [ring.toNat]).ringRead i ring.toNat (4 * (r.n + 1))
  let ws := wordsOf col.2.1 (r.n + 1)
  let appended (y : Reflector) := y.append p.toNat (ws.headD 0) (ws.drop 1)
  let emptied := col.1.reflectorOverflow i r
  let tile := (u [ring.toNat]).ringRead i ring.toNat (4 * r.n * count)
  let out (right : Bool) := r.apply right (tr == 1) (wordsOf tile.2.1 (r.n * count)) count
  let written (right : Bool) : State := tile.1.areaWrite (oaTile i oa.toNat) (4 * r.n * count + 1) (oaOff oa.toNat)
    (natOfWords (out right).1) (4 * r.n * count)
  let spilt := (u []).areaWrite (oaTile i oa.toNat) (imageBytes r.n r.k + 1) (oaOff oa.toNat) r.image (imageBytes r.n r.k)
  let head := (u []).areaRead (oaTile i oa.toNat) 129 (oaOff oa.toNat) 128
  let hd := bits head.2.1 0 512
  let piv := bits head.2.1 512 512
  let k := bits hd 8 7
  let body := head.1.areaRead (oaTile i oa.toNat) (4 * r.n * k + 4 * k * k + 1) (oaOff oa.toNat + 128) (4 * r.n * k + 4 * k * k)
  (mode.toNat < 3 → (mode = 0 → oa = 0 ∧ var = 0 ∧ cnt = 0) → exec (.qinit q mode n oa var cnt) s = .next
    (done [] (((u []).setQa i q.toNat
      { init := true, n := n.toNat + 1, mode := mode.toNat, oa := oa.toNat, var := var.toNat, c := count }).lose i lost)))
  ∧ (r.init = true → Holds x ring → 4 * (r.n + 1) ≤ (x.ring ring.toNat).size → p.toNat < r.n → col.1.asked = none →
    col.2.2 = false → r.k ≠ 64 → exec (.qadd q ring p) s = .next (done [ring.toNat]
      (((col.1.setQa i q.toNat (appended r).1).islandFlags i (appended r).2).lose i lost)))
  ∧ (r.init = true → Holds x ring → 4 * (r.n + 1) ≤ (x.ring ring.toNat).size → p.toNat < r.n → emptied.1.asked = none →
    col.2.2 = false → r.k = 64 → (r.mode = 1 → oaOff r.oa + 4 * r.n * r.c ≤ 0x60000) →
    (r.mode = 2 → r.spills ≠ 255 ∧ oaOff r.oa + (r.spills + 1) * (16512 + 256 * r.n) ≤ 0x60000) →
    ∀ y, emptied.2 = .ok y → exec (.qadd q ring p) s = .next (done [ring.toNat]
      (((emptied.1.setQa i q.toNat (appended y).1).islandFlags i (appended y).2).lose i lost)))
  ∧ (r.init = true → Holds x ring → 4 * r.n * count ≤ (x.ring ring.toNat).size →
    oaOff oa.toNat + 4 * r.n * count ≤ 0x60000 → tile.2.2 = false →
    ((written false).asked = none → exec (.qapl q tr ring oa cnt) s = .next
      (done [ring.toNat] ((written false).islandFlags i (out false).2)))
    ∧ ((written true).asked = none → exec (.qapr q tr ring oa cnt) s = .next
      (done [ring.toNat] ((written true).islandFlags i (out true).2))))
  ∧ (x.rpe = true → ∀ t, (u []).islandReply i (BitVec.ofNat 32
      (if r.init = true then r.v.length + r.spills * 256 + (r.n - 1) % 128 * 65536 + 2 ^ 23 else 0)) = some t →
    t.asked = none → exec (.qcnt q) s = .next (done [] t))
  ∧ (r.init = true → oaOff oa.toNat + imageBytes r.n r.k ≤ 0x60000 → spilt.asked = none →
    exec (.qspl q oa) s = .next (done [] spilt))
  ∧ (r.init = true → oaOff oa.toNat + 128 ≤ 0x60000 → body.1.asked = none → head.2.2 = false →
    bits hd 0 7 + 1 = r.n → k ≤ 64 → bits hd 7 1 = 0 → bits hd 15 497 = 0 → (∀ j < k, bits piv (8 * j) 8 < r.n) →
    oaOff oa.toNat + (128 + 4 * r.n * k + 4 * k * k) ≤ 0x60000 → body.2.2 = false → exec (.qldv q oa) s = .next
    (done [] ((body.1.setQa i q.toNat (r.load k piv body.2.1)).lose i lost)))

/-- 08 R153-R165, 12 R228-R236: what completes, said of each form by itself. A beat of a seed, packed-half, conversion or
binary64 form that may run completes, whatever values it reads: it writes a word, or a pair, to its destination, raises flags,
and ends. A control token that may run, whose rings hold a tile, whose fields pass the checks of its rule and whose accesses
have been answered (14 R248) completes: it leaves its queue and holds its rings, and the island executes it. -/
def Obligations.FormsThatComplete : Prop :=
  (∀ (t : Trig) (d a b : Operand) (x : Beat) (s : State),
    (∀ i ∈ [.frsqsF32 t d a, .frcpsF32 t d a, .fex2sF32 t d a, .flg2sF32 t d a, .faddH16 t d a b, .fsubH16 t d a b,
        .fmulH16 t d a b, .fmacH16 t d a b, .fminH16 t d a b, .fmaxH16 t d a b, .fdotH16 t d a b, .fdmacH16 t d a b,
        .cvtF32S32 t d a, .cvtF32N32 t d a, .cvtS32F32 t d a, .cvtN32F32 t d a, .cvtS8F32 t d a, .cvtH16F32 t d a b,
        .cvtlF32H16 t d a, .cvthF32H16 t d a, .cvtMx8e4F32 t d a b, .cvtMx8e5F32 t d a b, .cvtWf8F32 t d a b,
        .cvtWf5F32 t d a b, .cvtWf3F32 t d a b, .cvtF32Mx8e4 t d a b, .cvtF32Mx8e5 t d a b, .cvtF32Wf8 t d a b,
        .cvtF32Wf5 t d a b, .cvtF32Wf3 t d a b, .cvtF32F64 t d a, Instr.cvtS32F64 t d a],
      x.Ready i t s → ∃ e v f u, e ∈ [x.reads.e, stepped x.reads.e, stepped (stepped x.reads.e)]
        ∧ exec i s = .next (x.ends s (x.put s e d v f u)))
    ∧ (∀ i ∈ [.faddF64 t d a b, .fsubF64 t d a b, .fmulF64 t d a b, .fmacF64 t d a b, .fdivF64 t d a b, .fsqrtF64 t d a,
        .fminF64 t d a b, .fmaxF64 t d a b, .fabsF64 t d a, .fnegF64 t d a, .cvtF64F32 t d a, Instr.cvtF64S32 t d a],
      x.Ready i t s → ∃ e v f u, e ∈ [x.reads.e, stepped x.reads.e]
        ∧ exec i s = .next (x.ends s (x.putPair s e d v f u))))
  ∧ (∀ (i : Nat) (x : Island) (c : EngineCmd) (rest : List EngineCmd) (s : State) (acc kind mode var : BitVec 2)
      (accum sat q tr : BitVec 1) (ra rb k : BitVec 3) (fa fb f : BitVec 4) (m p cnt : BitVec 7) (n : BitVec 8)
      (oa count : BitVec 16) (sem : BitVec 10), Takes i x c rest s →
    let completes (token : Instr) (rings : List Nat) : Prop := ∃ t, exec token s = .next (applied i c rest rings t)
    let u (rings : List Nat) : State := tokenState s i rings
    let rows := m.toNat + 1
    let cols := n.toNat + 1
    let red := 32 * (k.toNat + 1)
    let ta := (u [ra.toNat, rb.toNat]).ringRead i ra.toNat (tileBytes rows red fa.toNat)
    let tb := ta.1.ringRead i rb.toNat (tileBytes cols red fb.toNat)
    let image := accImage (x.accOf acc.toNat) f.toNat rows cols (sat == 1)
    let size := tileBytes rows cols f.toNat
    let values := (u []).areaRead (oaTile i oa.toNat) (4 * rows * cols + 1) (oaOff oa.toNat) (4 * rows * cols)
    let r := x.qaOf q.toNat
    let w := 4 * r.n * (cnt.toNat + 1)
    let col := (u [ra.toNat]).ringRead i ra.toNat (4 * (r.n + 1))
    let tile := (u [ra.toNat]).ringRead i ra.toNat w
    let out (right : Bool) := r.apply right (tr == 1) (wordsOf tile.2.1 (r.n * (cnt.toNat + 1))) (cnt.toNat + 1)
    let head := (u []).areaRead (oaTile i oa.toNat) 129 (oaOff oa.toNat) 128
    let hd := bits head.2.1 0 512
    let piv := bits head.2.1 512 512
    let h := bits hd 8 7
    let body := 4 * r.n * h + 4 * h * h
    (ra ≠ rb → Holds x ra → Holds x rb → fa.toNat < 11 → fb.toNat < 11 →
      (red % 128 = 0 ∨ (fa.toNat < 8 ∧ fb.toNat < 8)) → tileBytes rows red fa.toNat ≤ (x.ring ra.toNat).size →
      tileBytes cols red fb.toNat ≤ (x.ring rb.toNat).size → tb.1.asked = none → ta.2.2 = false → tb.2.2 = false →
      completes (.mma acc accum ra rb fa fb m n k) [ra.toNat, rb.toNat])
    ∧ (f.toNat ≤ 11 → (tileBlock f.toNat ≠ 0 → cols % tileBlock f.toNat = 0) → (sat = 1 → f = 2 ∨ f = 3) →
      oaOff oa.toNat + size ≤ 0x60000 →
      ((u []).areaWrite (oaTile i oa.toNat) (size + 1) (oaOff oa.toNat) image.1 size).asked = none →
      completes (.accw acc f sat oa m n) [])
    ∧ (oaOff oa.toNat + 4 * rows * cols ≤ 0x60000 → values.1.asked = none → values.2.2 = false →
      completes (.accl acc oa m n) [])
    ∧ ((kind = 0 ∧ x.rpe = true ∧ ∃ t, (u []).islandReply i x.istat = some t ∧ t.asked = none)
        ∨ (kind = 1 ∧ (routeOf s (i / 4) (sem.toNat % 128)).isSome = true) ∨ kind = 2 →
      completes (.msig kind count sem) [])
    ∧ (Holds x ra → completes (.rpop ra) [ra.toNat])
    ∧ (mode.toNat < 3 → (mode = 0 → oa = 0 ∧ var = 0 ∧ cnt = 0) → completes (.qinit q mode p oa var cnt) [])
    ∧ (r.init = true → Holds x ra → 4 * (r.n + 1) ≤ (x.ring ra.toNat).size → p.toNat < r.n → col.1.asked = none →
      col.2.2 = false → r.k ≠ 64 → completes (.qadd q ra p) [ra.toNat])
    ∧ (r.init = true → Holds x ra → w ≤ (x.ring ra.toNat).size → oaOff oa.toNat + w ≤ 0x60000 → tile.2.2 = false →
      (tile.1.areaWrite (oaTile i oa.toNat) (w + 1) (oaOff oa.toNat) (natOfWords (out false).1) w).asked = none →
      completes (.qapl q tr ra oa cnt) [ra.toNat])
    ∧ (r.init = true → Holds x ra → w ≤ (x.ring ra.toNat).size → oaOff oa.toNat + w ≤ 0x60000 → tile.2.2 = false →
      (tile.1.areaWrite (oaTile i oa.toNat) (w + 1) (oaOff oa.toNat) (natOfWords (out true).1) w).asked = none →
      completes (.qapr q tr ra oa cnt) [ra.toNat])
    ∧ (x.rpe = true → (∃ t, (u []).islandReply i (BitVec.ofNat 32
        (if r.init = true then r.v.length + r.spills * 256 + (r.n - 1) % 128 * 65536 + 2 ^ 23 else 0)) = some t
          ∧ t.asked = none) → completes (.qcnt q) [])
    ∧ (r.init = true → oaOff oa.toNat + imageBytes r.n r.k ≤ 0x60000 →
      ((u []).areaWrite (oaTile i oa.toNat) (imageBytes r.n r.k + 1) (oaOff oa.toNat) r.image (imageBytes r.n r.k)).asked
        = none → completes (.qspl q oa) [])
    ∧ (r.init = true → oaOff oa.toNat + 128 ≤ 0x60000 → head.2.2 = false → bits hd 0 7 + 1 = r.n → h ≤ 64 →
      bits hd 7 1 = 0 → bits hd 15 497 = 0 → (∀ j < h, bits piv (8 * j) 8 < r.n) → oaOff oa.toNat + (128 + body) ≤ 0x60000 →
      (head.1.areaRead (oaTile i oa.toNat) (body + 1) (oaOff oa.toNat + 128) body).1.asked = none →
      (head.1.areaRead (oaTile i oa.toNat) (body + 1) (oaOff oa.toNat + 128) body).2.2 = false →
      completes (.qldv q oa) []))

/-! ## Queue commands and graph nodes (03 R37-R40, 02 R27-R29) -/

/-- R37 and R40: TASK sends its label with a class L shuttle on the bulkhead it goes to, and an unbound label completes with
LAUNCH_FAULT; the join status word of its wait counter (R289), read at its dispatch, takes the place of w1. SETCTR sets a counter and
clears UNDERFLOW, FAULTS and its parent-kill mark (R350); ARRIVE takes 1 from it, or sets UNDERFLOW at 0. GRAPH starts the graph at
its address, or completes with GRAPH_REJECTED, which a descriptor that cannot be read gives too by the model's choice (log 60). -/
def Obligations.QueueCommands : Prop := ∀ (q : Nat) (a : Accepted) (s : State) (wait done ctr : BitVec 16) (label : BitVec 7)
    (w0 w1 : Word) (value : BitVec 24) (address : BitVec 64), Dispatched q a s →
  let fn := (s.queue q).qmapTag
  let counter := tget (s.fn fn).counters ctr.toNat {}
  let set (c : DepCounter) : State := s.setFn fn { s.fn fn with counters := tset (s.fn fn).counters ctr.toNat c }
  let joined : Word := if wait = 0xFFFF then w1 else a.join
  let shuttle : Shuttle := { classL := true, source := 0x60000 + q, label := label.toNat, w0 := w0, w1 := joined }
  let graph := s.readGraph fn q address.toNat a.id
  (mayRun s fn a.target = true →
    ((routeOf s a.target label.toNat).isSome = true → exec (.task wait done label w0 w1) s = .next
      ((s.modBh a.target fun b => { b with shuttles := b.shuttles ++ [shuttle] }).finishHead q 0))
    ∧ (routeOf s a.target label.toNat = none → exec (.task wait done label w0 w1) s = .next (s.finishHead q 0x03)))
  ∧ exec (.setctr wait done ctr value) s = .next ((set { count := value.toNat }).finishHead q 0)
  ∧ (counter.count ≠ 0 → exec (.arriveCommand wait done ctr) s = .next
      ((set { counter with count := counter.count - 1 }).finishHead q 0))
  ∧ (counter.count = 0 → exec (.arriveCommand wait done ctr) s = .next
      ((set { counter with underflow := true }).finishHead q 0))
  ∧ (∀ g, graph.2 = some g → exec (.graph wait done address) s = .next (graph.1.modQueue q fun h => { h with graph := some g }))
  ∧ (graph.2 = none → exec (.graph wait done address) s = .next (graph.1.finishHead q 0x0B))

/-- R27 and R28: COND and SWITCH read W and choose the successor; LOOP counts its iterations, from 1 where the node before it
lies outside its body, and gives up above its cap of 1,024 units; END arrives, the edges that it ends get their state, and
the graph's command completes; LOAD offers
its image to the queue's bulkheads, unless its edge reads DROPPED. A word that cannot be read is a graph-level fault. The model's
choices: when a LOOP starts over (log 62), what other edge words and a replay's END do (log 64), indices outside the graph and the size
of an edge word (log 119). -/
def Obligations.GraphNodes : Prop := ∀ (q : Nat) (g : Graph) (s : State) (cmp : BitVec 4) (cap count : BitVec 8)
    (arrive a b edge : BitVec 16) (addr image : BitVec 57) (value mask block succs : BitVec 64) (shift : BitVec 6),
  let r := s.readWord q (va57 addr.toNat)
  let holds (w : BitVec 64) : Bool := match cmp.toNat with
    | 0 => decide (w = value) | 1 => decide (w ≠ value) | 2 => decide (w.toInt < value.toInt)
    | 3 => decide (value.toInt ≤ w.toInt) | 4 => decide (w.toNat < value.toNat) | _ => decide (value.toNat ≤ w.toNat)
  let goes (g : Graph) (n : BitVec 16) : State := (r.1.modGraph q fun _ => g).nodeDone q false n.toNat
  let iter := (if g.prev.any (insideBody g g.current a.toNat b.toNat) = true then tget g.loops g.current 0 else 0) + 1
  let counted : Graph := { g with loops := tset g.loops g.current iter }
  let offered := s.offerImage q (va57 image.toNat) block.toNat
  (AtNode q g 1 s → ∀ w, r.2 = .ok w → exec (.condNode cmp arrive a b addr value mask) s = .next
    (goes g (if holds (BitVec.ofNat 64 w &&& mask) then a else b)))
  ∧ (AtNode q g 2 s → ∀ w, r.2 = .ok w →
    (cap = 0 ∨ iter ≤ cap.toNat * 1024 → exec (.loopNode cmp cap arrive a b addr value mask) s = .next
      (goes counted (if holds (BitVec.ofNat 64 w &&& mask) then a else b)))
    ∧ (cap ≠ 0 → cap.toNat * 1024 < iter → exec (.loopNode cmp cap arrive a b addr value mask) s = .next
      (goes { counted with exhausted := true } b)))
  ∧ (AtNode q g 3 s → ∀ w, r.2 = .ok w →
    let j := (w % 2 ^ 64 / 2 ^ shift.toNat) % 4
    exec (.switchNode arrive b addr shift count succs) s = .next
      (goes g (if j < count.toNat then BitVec.ofNat 16 (succs.toNat / 2 ^ (16 * j)) else b)))
  ∧ (∀ code, r.2 = .error code →
    (AtNode q g 1 s → exec (.condNode cmp arrive a b addr value mask) s = .next (r.1.graphFault q code (va57 addr.toNat)))
    ∧ (AtNode q g 2 s →
      exec (.loopNode cmp cap arrive a b addr value mask) s = .next (r.1.graphFault q code (va57 addr.toNat)))
    ∧ (AtNode q g 3 s →
      exec (.switchNode arrive b addr shift count succs) s = .next (r.1.graphFault q code (va57 addr.toNat))))
  ∧ (AtNode q g 4 s → g.replays = [] →
    ((∀ e ∈ g.edges, e.last ≠ g.current) →
      exec (.endNode arrive) s = .next ((s.nodeArrives q g.current false).finishHead q 0))
    ∧ ∀ t, (s.nodeArrives q g.current false).sampleEdges q (s.fn (s.queue q).qmapTag).freemem.toNat
        (g.edges.filter fun e => e.last == g.current) = (t, none) → exec (.endNode arrive) s = .next (t.finishHead q 0))
  ∧ (AtNode q g 0 s → g.state = .honoured ∨ edge = 0xFFFF → exec (.loadNode arrive a image block edge) s = .next offered)
  ∧ (AtNode q g 0 s → g.state = .ready → edge ≠ 0xFFFF → ∀ e, g.edges[edge.toNat]? = some e →
    (∀ s', s.readWord q e.word = (s', .ok 0) →
      exec (.loadNode arrive a image block edge) s = .next (s'.offerImage q (va57 image.toNat) block.toNat))
    ∧ (∀ s' w, s.readWord q e.word = (s', .ok (w + 1)) →
      exec (.loadNode arrive a image block edge) s = .next (s'.modGraph q fun g => { g with state := .dropped })))

/-! ## Steps of an element (06 R93-R118, 14 R248-R258, 17 R319, 21 R345) -/

/-- R93: VECTOR_BEAT runs the issue's own instruction again; so an issue in progress of any element instruction advances one
beat, and one of add.s32 writes the sum of its next beat. R118, R96-R98, R102, R110: the head token of an output port leaves
it for every linked input port once each has room, and else stays; the oldest send-queue entry enters the network; a shuttle
that no earlier one of its class, source and label precedes enters the inbox of its element if it has room, is discarded and
counted if the element handles no such shuttle or is killed or done, and logged as R278 has it where it was launched, and else
waits. The status of that record, and that an element that is done counts as a killed one, are the model's choice (log 70). -/
def Obligations.BeatsTokensAndShuttles : Prop := (∀ (s : State) (key : Nat) (e : Elem) (y : Issue) (i : Instr),
  s.elem? key = some e → e.issue = some y → decodeWord y.word y.lit = .ok i → (formOf i).isSome = true →
  exec (.vectorBeat key) s = exec i { s with focus := .elem key y.slot y.word y.lit }
  ∧ ∀ (x : Beat) (t : Trig) (d a b : Operand), i = .addS32 t d a b →
      x.key = key → x.run = y → x.Ready i t { s with focus := .elem key y.slot y.word y.lit } →
      exec (.vectorBeat key) s = .next (x.ends { s with focus := .elem key y.slot y.word y.lit }
        (x.put { s with focus := .elem key y.slot y.word y.lit } x.reads.e d
          (word ((x.val 0).toInt + (x.val 1).toInt)) 0 false)))
  ∧ (∀ (s : State) (key : Nat) (e : Elem), s.elem? key = some e →
  let bh := bhOf key
  let links (port : Nat) : List Link := (s.bh bh).links.filter fun l => l.prod == addrOf key && l.prodPort == port
  (∀ x rest, e.sendq = x :: rest → exec (.sendQueueDrain key) s = .next
    ((s.setElem key { e with sendq := rest }).modBh bh fun b => { b with shuttles := b.shuttles ++ [x] }))
  ∧ (∀ port t rest, e.out.getD port [] = .token t :: rest → links port ≠ [] →
    ((∀ l ∈ links port, consumerRoom s bh l = true) → exec (.tokenDelivery key port) s = .next
      ((links port).foldl (fun s l => s.acceptToken bh (addrOf key) l t) (s.setElem key { e with out := e.out.set port rest })))
    ∧ ((∃ l ∈ links port, consumerRoom s bh l = false) → exec (.tokenDelivery key port) s = .next s))
  ∧ ∀ n x r, (s.bh bh).shuttles[n]? = some x →
    (∀ y ∈ (s.bh bh).shuttles.take n, y.classL ≠ x.classL ∨ y.source ≠ x.source ∨ y.label ≠ x.label) →
    routeOf s bh x.label = some r → elemKey bh r.elem = key →
    let alive : Prop := e.killed = false ∧ e.done = false ∧ e.retired = false
    let handled : Prop := (handlerSet e.page r.bit).isSome = true
    let room : Prop := e.inbox.length < 8 ∧ (x.classL = true ∨ (e.inbox.filter fun y => !y.classL).length < 6)
    let entry : InboxEntry := { bit := r.bit, w0 := x.w0, w1 := x.w1, classL := x.classL }
    let gone (e : Elem) : State := (s.modBh bh fun b => { b with shuttles := removeAt b.shuttles n }).setElem key e
    let dropped : Elem := { e with shdrop := if e.shdrop = 0xFFFF then 0xFFFF else e.shdrop + 1 }
    (alive → handled → room → exec (.shuttleArrival bh n) s = .next
      ((gone ({ e with inbox := e.inbox ++ [entry] } : Elem).expose).endLaunch x.launch 0 0))
    ∧ (alive → handled → ¬ room → exec (.shuttleArrival bh n) s = .next s)
    ∧ (alive → ¬ handled → exec (.shuttleArrival bh n) s = .next ((gone dropped).endLaunch x.launch 0 0))
    ∧ (¬ alive → exec (.shuttleArrival bh n) s = .next ((gone dropped).endLaunch x.launch 0x03 3)))

/-- R249 and R252: the head of a memory issue queue hands over where no barrier of its element stands before it: a load, a store
or a prefetch enters the tile's wave reorder buffer while that has fewer than 32 entries; a request of class A or X leaves only
once every earlier request is complete, returned or applied, and an arrive then acts on its counter, an ask and an answer enter
the hub, a signal and a wait go to the home slice of their semaphore where the function holds its bulkhead, and are answered
by the gate where it does not. -/
def Obligations.HandOvers : Prop := ∀ (s : State) (key : Nat) (e : Elem) (r : Req) (rest : List Req),
  s.elem? key = some e → e.issueq = r :: rest → (∀ p ∈ e.pending, p.barrier = true → r.id ≤ p.id) →
  let k := servingTile key
  let out (performed : Bool) : State := s.setElem key (e.leaveQueue r.id performed)
  let before : Prop := match r.kind with
    | .fenceh _ _ => ∀ p ∈ e.pending, p.id < r.id → p.performed = true ∧ p.isStore = false
    | _ => ∀ p ∈ e.pending, p.id < r.id → isCommand p = true
  ((∃ size sgn, r.kind = .load size sgn) ∨ (∃ size data, r.kind = .store size data) ∨ r.kind = .prefetch
      ∨ r.kind = .skipped →
    ((s.tile k).wrb.length < 32 → exec (.handOver key) s = .next
      ((out false).modTile k fun t => { t with wrb := t.wrb ++ [r] }))
    ∧ (32 ≤ (s.tile k).wrb.length → exec (.handOver key) s = .next s))
  ∧ (r.kind.isBarrier = true → ¬ before → exec (.handOver key) s = .next s)
  ∧ (before →
    (∀ a b, r.kind = .arrive a b → exec (.handOver key) s = .next
      (((out true).applyArrive (loadFn s (bhOf key)) a b).1.reply
        { elem := key, id := r.id, status := ((out true).applyArrive (loadFn s (bhOf key)) a b).2, value := 0,
          atomic := true, addr := r.addr }))
    ∧ (∀ site words est x f, r.kind = .ask site words est x f → exec (.handOver key) s = .next
      ((out true).modHub (bhOf key) fun h => { h with queue := h.queue ++ [.ask key r.id site words est x f] }))
    ∧ (∀ h ws, r.kind = .answer h ws → exec (.handOver key) s = .next
      ((out true).modHub (bhOf key) fun y => { y with queue := y.queue ++ [.answer key r.id (bits h.toNat 0 9) ws] }))
    ∧ (∀ b sem n, r.kind = .sems b sem n ∨ r.kind = .semw b sem n →
      let g := (out true).gate (bhOf key) (loadFn s (bhOf key)) b false
      (sliceFull s (semSlice b sem) = true → exec (.handOver key) s = .next s)
      ∧ (sliceFull s (semSlice b sem) = false → g.2 = 0 → exec (.handOver key) s = .next (g.1.sendHome (semSlice b sem)
        [{ src := .elem key, id := r.id, pa := 0, op := if r.kind = .sems b sem n then .sems sem n else .semw sem n, cls := 0,
           reads := 15, word := r.addr, fn := loadFn s (bhOf key) }]))
      ∧ (sliceFull s (semSlice b sem) = false → g.2 ≠ 0 → exec (.handOver key) s = .next (g.1.reply
        { elem := key, id := r.id, status := g.2, value := 0, atomic := true, addr := r.addr }))))

/-- R199, R248 and R194, and the address, bank and permission results of 09 R181 and R173: a request whose turn in its wave has come
and that waits for nothing is performed, moving
the chain first: a load of segment 0 takes its bank and reads the scratchpad, with the bytes of the element's own stores that
still stand in the store buffer in their places, and is answered; a load of device memory goes to the home slice of its
address, and so does a prefetch; a store enters the store buffer while it has fewer than 16 entries. The oldest store of a
buffer is written to its bank of the scratchpad, or sent to the home slice of its address. PAGE_WALK begins a walk for a
request that waits for one where one of the 32 walkers is free, and at its end looks the translation up. A reply to a load
writes its value, in the order of its point of coherence. -/
def Obligations.LoadAndStoreSteps : Prop := ∀ (s : State) (k n : Nat),
  let t := s.tile k
  (∀ r, t.wrb[n]? = some r → performable t n r = true →
    let moved := (s.countServe k).modTile k fun t => t.stepWave n r
    let seen (size : Nat) (wr : Bool) (s : State) : State := s.watch k
      { virtual_ := bits r.addr.toNat 28 4 != 0, addr := r.va, size := size, rd := !wr, wr := wr, word := r.addr,
        elem := some (r.elem, r.slot, r.wave) }
    let perf (miss : Bool) (s : State) := s.modElem r.elem (·.modPending r.id fun p => { p with performed := true, miss := miss })
    (performWait s k r ≠ 0 → exec (.performRequest k n) s = .next s)
    ∧ (∀ size sgn, r.kind = .load size sgn → performWait s k r = 0 → bits r.addr.toNat 28 4 = 0 →
      let x := ((perf false moved).takeBank k r.va).scratchRead k r.va size kindElement
      let own := forwarded (moved.tile k) r.elem true r.va size
      let v := overlay size x.2.1 own.1 own.2
      let w := if sgn then (signed v (8 * size) % 2 ^ 32).toNat else v
      x.2.2 = false → exec (.performRequest k n) s = .next
        (seen size false (x.1.reply { elem := r.elem, id := r.id, status := 0, value := w, addr := r.addr,
                                      point := some (128 + 64 * k + bankOf r.va) })))
    ∧ (∀ size sgn, r.kind = .load size sgn → performWait s k r = 0 → bits r.addr.toNat 28 4 ≠ 0 →
      ∀ s' h via, (moved.demand k r.elem r.va).resolveReq k r .read = (s', .home h via) →
      let own := forwarded (s'.tile k) r.elem false h.pa size
      exec (.performRequest k n) s = .next (seen size false (((perf true s').modElem r.elem
          (·.modPending r.id fun p => { p with via := via })).sendHome (8 * h.bh + h.slice)
        [{ src := .elem r.elem, id := r.id, pa := h.pa, op := .read size sgn own.1 own.2, cls := r.cls, reads := r.reads,
           word := r.addr, via := via, fn := loadFn s' (bhOf r.elem) }])))
    ∧ (r.kind = .prefetch → performWait s k r = 0 →
      ∀ s' h, moved.prefetchTarget (.tile k) (bhOf r.elem) (loadFn moved (bhOf r.elem)) (loadPasid moved (bhOf r.elem)) r.va
          (tget? (moved.tile k).lastDemand (addrOf r.elem)) = (s', some h) → missFree s' k = true →
      exec (.performRequest k n) s = .next ((perf true s').sendHome (8 * h.bh + h.slice)
        [{ src := .elem r.elem, id := r.id, pa := h.pa, op := .prefetch, cls := r.cls, reads := r.reads, word := r.addr,
           fn := loadFn s' (bhOf r.elem) }]))
    ∧ (∀ size data, r.kind = .store size data → bits r.addr.toNat 28 4 = 0 → t.sbuf.length < 16 →
      exec (.performRequest k n) s = .next (seen size true ((moved.modElem r.elem
        (·.modPending r.id fun p => { p with performed := true })).modTile k fun t => { t with sbuf := t.sbuf ++
        [{ elem := r.elem, id := r.id, scratch := true, addr := r.va, size := size, data := data, cls := r.cls,
           reads := r.reads, word := r.addr, slot := r.slot }] })))
    ∧ (∀ size data, r.kind = .store size data → 16 ≤ t.sbuf.length → exec (.performRequest k n) s = .next s)
    ∧ (r.kind = .skipped → exec (.performRequest k n) s = .next (moved.modElem r.elem (·.dropPending r.id))))
  ∧ (∀ x rest, t.sbuf = x :: rest →
    let out := s.modTile k fun t => { t with sbuf := rest }
    (x.scratch = true → bankServes s k x.addr = true → exec (.storeBufferDrain k) s = .next
      (((out.takeBank k x.addr).scratchWrite k x.addr x.data x.size kindElement false).modElem x.elem (·.dropPending x.id)))
    ∧ (x.scratch = true → bankServes s k x.addr = false → exec (.storeBufferDrain k) s = .next s)
    ∧ (x.scratch = false → missFree s k = false → exec (.storeBufferDrain k) s = .next s)
    ∧ (x.scratch = false → missFree s k = true → ∀ h, homeOf s x.addr = some h →
      (sliceFull s (8 * h.bh + h.slice) = true → exec (.storeBufferDrain k) s = .next s)
      ∧ (sliceFull s (8 * h.bh + h.slice) = false → exec (.storeBufferDrain k) s = .next
        ((out.sendHome (8 * h.bh + h.slice)
          [{ src := .elem x.elem, id := x.id, pa := x.addr, op := .write x.size x.data, cls := x.cls, reads := x.reads,
             word := x.word, via := x.via, fn := loadFn s (bhOf x.elem) }]).modElem x.elem
          (·.modPending x.id fun p => { p with miss := true, left := h.bh != bhOf x.elem })))))
  ∧ (∀ r, t.wrb[n]? = some r → performWait s k r = 2 → translated s k r.elem r.va = false →
    let bh := bhOf r.elem
    let ended := s.modBh bh fun b => { b with walks := (s.bh bh).walks.filter (· != r.id) }
    let found := ended.lookup (.tile k) bh (loadFn s bh) (loadPasid s bh) r.va
    (r.id ∈ (s.bh bh).walks → (∃ x, found.2 = .ok x) → exec (.pageWalk k n) s = .next found.1)
    ∧ (r.id ∈ (s.bh bh).walks → ∀ c, found.2 = .error c → exec (.pageWalk k n) s = .next (found.1.modTile k fun t =>
      { t with wrb := modifyAt t.wrb n fun q => { q with walked := some c } }))
    ∧ (r.id ∉ (s.bh bh).walks → (s.bh bh).walks.length < 32 → exec (.pageWalk k n) s = .next
      (s.modBh bh fun b => { b with walks := (s.bh bh).walks ++ [r.id] }))
    ∧ (r.id ∉ (s.bh bh).walks → 32 ≤ (s.bh bh).walks.length → exec (.pageWalk k n) s = .next s))
  ∧ (∀ r e p size sgn, (s.bh k).replies[n]? = some r → replyBehind k ((s.bh k).replies.take n) r = false → r.piece = none →
    let s' := s.modBh k fun b => { b with replies := removeAt b.replies n }
    s.elem? r.elem = some e → e.pending? r.id = some p → p.kind = .load size sgn → r.status = 0 →
    exec (.replyReturn k n) s = .next (s'.finishRequest r.elem r.id r.value false 0 id))
  ∧ (∀ r, (s.bh k).replies[n]? = some r → replyBehind k ((s.bh k).replies.take n) r = true →
    exec (.replyReturn k n) s = .next s)

/-- R251, R256, R258, R319, R345 and R287: a fence completes once every predecessor is complete at its scope, at system scope
once the dirty lines behind the CXL ports have been written back; a fenceh is answered once every marked store has been
applied; a setpg that has handed over selects a page that its element holds and that is not stale, and without an image
address is rejected with cause 1; an element that has done retires once its queues are empty; a sweep withdraws a semw. Which dirty
lines a fence of system scope writes back, and that one behind a link that is down holds it, are the model's choice (log 24). -/
def Obligations.FencesPagesAndRetirement : Prop := ∀ (s : State) (key : Nat) (e : Elem), s.elem? key = some e →
  (∀ f, e.fence = some f →
    (f.preds.all (predComplete e f.scope) = true → f.scope ≠ 3 →
      exec (.fenceComplete key) s = .next (s.setElem key { e with fence := none }))
    ∧ (f.preds.all (predComplete e f.scope) = true → f.scope = 3 →
      (∀ p ∈ fenceLines s key f, lineLinkUp s p.2 = true) → exec (.fenceComplete key) s = .next
        (((fenceLines s key f).foldl (fun s p => s.cleanLine p.1 p.2) s).modElem key fun e => { e with fence := none }))
    ∧ ((∃ p ∈ fenceLines s key f, lineLinkUp s p.2 = false) → exec (.fenceComplete key) s = .next s)
    ∧ (f.preds.all (predComplete e f.scope) = false → exec (.fenceComplete key) s = .next s))
  ∧ (∀ bh n w, (s.bh bh).fencehs[n]? = some w →
    (∀ m ∈ w.marked, ∀ x, s.elem? m.1 = some x → x.pending? m.2 = none) → exec (.fencehReply bh n) s = .next
      ((s.modBh bh fun b => { b with fencehs := removeAt b.fencehs n }).finishRequest w.elem w.id w.status false 0 id))
  ∧ (∀ p rest page pga va bad cls reads, e.pending = p :: rest → p.handedOver = true →
    p.kind = .setpg page pga va bad cls reads →
    let go := answered s (pageWork key) (bhOf key) (38 + colOf key) rankElement
    ((e.pages.getD page none).isSome = true → e.stale.getLsbD page = false → (go.selectPage key p.id page none).asked = none →
      exec (.pageFetchInstall key) s = .next (settled (pageWork key) (go.selectPage key p.id page none)))
    ∧ (e.pages.getD page none = none → pga = 0 → (go.rejectPage key p.id page 1 0 0).asked = none →
      exec (.pageFetchInstall key) s = .next (settled (pageWork key) (go.rejectPage key p.id page 1 0 0)))
    ∧ (e.pages.getD page none = none → pga ≠ 0 → bad = 0 →
      ∀ s' bs, go.fetchPieces p.via.isSome cls reads p.pieces = (s', some bs) → (parsePage bs).2 = false →
      (parsePage bs).1.firstBad (elemKind key) true = none →
      (s'.selectPage key p.id page (some (parsePage bs).1)).asked = none →
      exec (.pageFetchInstall key) s = .next (settled (pageWork key)
        (s'.selectPage key p.id page (some (parsePage bs).1)))))
  ∧ (e.done = true → e.issue = none → e.issueq = [] → e.sendq = [] → (∀ p ∈ e.pending, p.dest = .none) →
    exec (.elementRetire key) s = .next (s.setElem key { e with retired := true }))
  ∧ (∀ id p b sem c, e.pending? id = some p → p.kind = .semw b sem c → reached s key = true → p.withdrawn = false →
    s.sweepKind (bhOf key) ≠ some .kill → (∀ q ∈ e.pending, q.kind.isSemw = true → q.id ≤ id) →
    (inQueue e id = true → exec (.semwWithdraw key id) s = .next
      ((s.setElem key { e with issueq := e.issueq.filter (·.id != id) }).withdrawn key p))
    ∧ (inQueue e id = false → exec (.semwWithdraw key id) s = .next
      ((s.modElem key fun e => e.modPending id fun p => { p with withdrawn := true }).sendHome (semSlice b sem)
        [{ src := .elem key, id := id, pa := 0, op := .withdraw sem, cls := 0, reads := 15, word := 0 }])))

/-! ## Steps of tiles and islands (10 R203-R215, 12 R220-R242, 21 R351) -/

/-- R203-R205, R188, R391, R212 and R243: a stream reads its lines ahead within its window and moves them for its consumer or
feeder, each step once its accesses have been made; a run ends once every line has been taken or written; prefetches go beyond
the window; an engine takes what waits in a port that a binding names for it: a command pair enters the queue of eight, a token
the line that an accept gathers, a streamer pair its island. R351, R352 and R210: the read phase of a block finds its header: a
block whose step number has been reached is skipped, one of another step than S - 1 ends the update with STEP_SKIP, and else
the arrays of the block are placed, then read and its new values computed; the commit writes momenta, variances, the weights
beyond the first granule, and last the first granule with the step number. The model's choices: a step happens once its accesses
have been answered (log 12), and the order in which a block's arrays are placed and read (log 129). -/
def Obligations.StreamAndUpdateSteps : Prop := (∀ (s : State) (k st : Nat) (r : StreamRun),
  let x := (s.tile k).stream st
  let step (key rank : Nat) (body : State → State) : State :=
    tried s key (k / 64) (k % 64) rank (body (answered s key (k / 64) (k % 64) rank)) fun t => t.countMove s k st
  (x.run = some r → tileRuns s k = true →
    (∀ j < 64, r.write = false → exec (.streamLineAccess k st j) s =
      .next (step (lineWork k st (r.taken + j)) (4 + st) (·.readAhead k st (r.taken + j) r)))
    ∧ (∀ u b ws, x.user = some u → u.what = .accept b ws → exec (.streamLineAccess k st 64) s =
      .next (step (moveWork k st) (4 + st) (·.acceptMove k st r u b ws)))
    ∧ (∀ u b row level sent q, x.user = some u → u.what = .deliver b row level sent q →
      exec (.streamLineAccess k st 64) s = .next (step (moveWork k st) (4 + st) (·.deliverMove k st r u b row level sent q)))
    ∧ (∀ u i m lines filled, x.user = some u → u.what = .push i m lines filled →
      exec (.streamLineAccess k st 64) s = .next (step (moveWork k st) 2 (·.pushMove k st r u i m lines filled)))
    ∧ (∀ u d, x.user = some u → u.what = .copyTo d →
      exec (.streamLineAccess k st 64) s = .next (step (moveWork k st) (4 + st) (·.copyMove k st d r)))
    ∧ (x.user = none → exec (.streamLineAccess k st 64) s = .next s))
  ∧ (x.run = some r → r.taken = r.count → x.user.all (fun u => u.what.flushed) = true →
    exec (.runComplete k st) s = .next (s.endRun k st))
  ∧ (x.run = some r → r.taken ≠ r.count → exec (.runComplete k st) s = .next s)
  ∧ (x.run = some r → tileRuns s k = true → r.write = false → workBegun s (prefetchWork k st) = false →
    let j := max r.prefetched (r.taken + 64)
    let s' := s.modStream k st fun y => { y with run := some { r with prefetched := j + 1 } }
    let bh := k / 64
    let last := tget? (s.tile k).lastDemand (0x10000 + st)
    let checked := Tile.checkAddr { s.tile k with segs := r.segs } false (lineWord r.base r.stride j) 64 false
    j < r.count → j < r.taken + 256 →
    (∀ c, checked = .error c → exec (.runAheadPrefetch k st) s = .next (s'.countDrop k))
    ∧ (∀ c, checked = .ok c → c.seg0 = true → exec (.runAheadPrefetch k st) s = .next s')
    ∧ (∀ c, checked = .ok c → c.seg0 = false → prefetchWaits s (.tile k) bh c.va last = true →
      exec (.runAheadPrefetch k st) s = .next s)
    ∧ (∀ c s'' t, checked = .ok c → c.seg0 = false → prefetchWaits s (.tile k) bh c.va last = false →
      s'.prefetchTarget (.tile k) bh (loadFn s' bh) (loadPasid s' bh) c.va last = (s'', t) →
      (∀ h, t = some h → lineFree s'' k (h.pa / 256) = true → exec (.runAheadPrefetch k st) s = .next (s''.sendPrefetch k st h c))
      ∧ (∀ h, t = some h → lineFree s'' k (h.pa / 256) = false → exec (.runAheadPrefetch k st) s = .next (s''.countDrop k))
      ∧ (t = none → exec (.runAheadPrefetch k st) s = .next (s''.countDrop k))))
  ∧ (∀ n b, (s.tile k).bindings[n]? = some b →
    let key := elemKey (k / 64) b.elem
    (∀ e hi lo id, s.elem? key = some e → headPair e b.port = some (hi, lo, id) →
      (b.kind = 0 → tileRuns s k = true → (s.tile k).cmdq.length < 8 → exec (.enginePortTake k n) s = .next
        ((s.setElem key (e.dropOut b.port 2)).modTile k fun t =>
          { t with cmdq := t.cmdq ++ [{ hi := hi, lo := lo, elem := key, id := id }] }))
      ∧ (b.kind = 3 → enginesRun s (k / 64) = true → (s.tile k).drained = false → bit s.isl.toNat 1 = true → (s.streamer (2 * (k / 64) + b.island)).queue.length < 16 →
        ∀ c, (s.tile (servingTile key)).checkAddr false lo 64 false = .ok c →
        exec (.strmPairMove k n) s = .next ((s.setElem key (e.dropOut b.port 2)).modStreamer (2 * (k / 64) + b.island) fun y =>
          { y with queue := y.queue ++ [{ hi := hi, lo := lo, elem := key, id := id, va := c.va,
                                          tile := if c.seg0 then some (servingTile key) else none }] })))
    ∧ (b.kind = 2 → tileRuns s k = true → exec (.enginePortTake k n) s = .next (s.acceptTake k n b))))
  ∧ (∀ (s : State) (k : Nat) (u : FusedUpdate), (s.tile k).hold = .fupd u →
  let w := u.block 0
  let step (body : State → State) : State :=
    tried s (sequencerWork k) (k / 64) (k % 64) rankElement (body (answered s (sequencerWork k) (k / 64) (k % 64) rankElement)) id
  (fupdWalks s k = true → exec (.fupdReadPhase k) s = .next s)
  ∧ (tileRuns s k = true → fupdWalks s k = false → u.staged = none → (u.targets = [] → exec (.fupdReadPhase k) s = .next (step (·.headBlock k u)))
    ∧ (u.targets ≠ [] → exec (.fupdReadPhase k) s = .next (step (·.stageBlock k u))))
  ∧ (∀ (s0 s' s'' : State) at_ v, s0.placeBlock k w (u.past 0) false = (s', .ok at_) → s'.readBlock k w at_ 0 1 = (s'', .ok v) →
    (u.step ≤ v % 2 ^ 32 → s0.headBlock k u = s''.nextBlock k { u with skipped := u.skipped + 1 })
    ∧ (v % 2 ^ 32 + 1 < u.step → s0.headBlock k u = s''.fupdFault k u 0x49 w.toNat)
    ∧ (v % 2 ^ 32 + 1 = u.step → ∀ s3 ts, s''.placeArrays k u u.arrays = (s3, .ok ts) →
      s0.headBlock k u = s3.modTile k fun t => { t with hold := .fupd { u with targets := ts } }))
  ∧ (∀ (s0 s' : State) c, s0.placeBlock k w (u.past 0) false = (s', .error c) → s0.headBlock k u = s'.fupdFault k u c w.toNat)
  ∧ (∀ ws m v, u.staged = some (ws, m, v) → drainRuns s (k / 64) = true → u.adaptive = false →
    let at_ (n : Nat) : Bool × Nat := u.targets.getD n (false, 0)
    let body (l : List Word) : Nat := natOfWords l * 2 ^ 128
    exec (.fupdCommit k) s = .next (step (·.commitBlock k u ws m v))
    ∧ ∀ s0 s1 s2 s3 : State, s0.writeGranules k (u.block 1) (at_ 1) (body m) 0 64 = (s1, 0) →
      s1.writeGranules k w (at_ 0) (body ws / 2 ^ 512) 1 63 = (s2, 0) →
      s2.writeGranules k w (at_ 0) (body ws % 2 ^ 512 + u.step) 0 1 = (s3, 0) →
      s0.commitBlock k u ws m v = s3.nextBlock k { u with committed := u.committed + 1 }))

/-- R213-R215, R241 and R242: a streamer command starts with its descriptor, of which a reserved one ends with BAD_COMMAND; a
step moves one chunk, one element or one block matrix, in the way of its kind, until the last one or a fault; its end writes
STATUS and then does what DONE says. R220, R237 and R238: an island takes a whole pair from its command port while its queue
has fewer than eight tokens; a token whose effect is complete retires, and the rings that it read give up their head tiles;
after a context switch the restart word is formed from the tokens retired, the tokens discarded and the accumulators lost,
and sent where the island asks for it. -/
def Obligations.StreamerAndIslandSteps : Prop := (∀ (s : State) (k n : Nat),
  let y := s.streamer k
  let go (m : Nat) : State := answered s (streamerWork k m) (k / 2) (36 + k % 2) rankElement
  let tries (m : Nat) (t : State) (done : State → State) : State := tried s (streamerWork k m) (k / 2) (36 + k % 2) rankElement t done
  let steps (r : StreamerRun) (count : Nat) (kind : Nat) (body : State → Nat → StreamerRun → State × Option (Nat × Nat))
      (i : Instr) : Prop :=
    y.running[n]? = some r → drainRuns s (k / 2) = true → r.ended = false → r.kind = kind → r.next < count →
      exec i s = .next (tries r.id (body (go r.id) k r).1 fun t =>
        (t.countIssue (streamerEngine k)).runStep k n r (body (go r.id) k r).2 count)
  (∀ r, steps r ((r.word 4 + 255) / 256) 0 copyStep (.copy k n)
    ∧ steps r ((r.word 4 + 255) / 256) 1 credStep (.cred k n)
    ∧ steps r (r.word 5) 2 (moveStep false) (.gather k n)
    ∧ steps r (r.word 5) 3 (moveStep true) (.scatter k n)
    ∧ steps r ((r.word 4 + 255) / 256) 4 (fun s k r => s.writeAt (streamerAddr (k / 2) (r.dword 2)) (256 * r.next) r.chunkLen
        { value := repeatWord (r.word 5) (r.chunkLen / 4) }) (.fill k n)
    ∧ steps r 1 5 xposeStep (.xpose k n))
  ∧ (∀ c rest, y.queue = c :: rest → startRuns s (k / 2) = true → y.running.length < 4 →
    exec (.streamerCommandStart k) s = .next (tries 4 ((go 4).startCommand k c rest) id)
    ∧ ∀ s' p, (go 4).readAt c.descAddr 0 64 = (s', .ok p) → p.marks = [] →
    let r : StreamerRun := StreamerRun.cleared { cmd := c, desc := wordsOf p.value 16, id := (s'.streamer k).freeId }
    (go 4).startCommand k c rest = ((((s'.modStreamer k fun y => { y with queue := rest }).countIssue (streamerEngine k)).traceStream
      k 0 c 0).modStreamer k fun y => { y with running := y.running ++
        [if r.bad then { r with ended := true, status := 0x05 } else r] }))
  ∧ (∀ r, y.running[n]? = some r → drainRuns s (k / 2) = true → r.ended = true →
    exec (.streamerCommandEnd k n) s = .next (tries r.id ((go r.id).endCommand k n r) id)
    ∧ ∀ s', (go r.id).writeAt r.cmd.descAddr 0x3C 4 { value := r.status } = (s', none) →
    let s'' := (((s'.modStreamer k fun y => { y with running := removeAt y.running n, retired := y.retired + 1 }).dropOwner
      (if r.cmd.id = 0 then none else some (r.cmd.elem, r.cmd.id))).traceStream k 1 r.cmd r.status).streamerDone k r
    (go r.id).endCommand k n r = if r.status = 0 ∨ r.status = 0x05 then s'' else s''.streamerFault k r.status r.addr))
  ∧ (∀ (s : State) (i : Nat),
  let x := s.island i
  let key := elemKey (i / 4) x.celem
  (∀ e hi lo id, s.elem? key = some e → x.configured = true → s.isl.getLsbD 2 = true → enginesRun s (i / 4) = true →
    restarting s i = false → x.queue.length < 8 → headPair e x.cport = some (hi, lo, id) →
    exec (.controlTokenTake i) s = .next ((s.setElem key (e.dropOut x.cport 2)).modIsland i fun y =>
      { y with queue := y.queue ++ [{ hi := hi, lo := lo, elem := key, id := id }] }))
  ∧ (∀ c m, x.exec = some (c, [m]) → drainRuns s (i / 4) = true →
    let r := tget x.rings m {}
    let popped : Ring := { r with head := (r.head + 1) % r.depth, count := r.count - 1 }
    let x' : Island := { x with exec := none, retired := x.retired + 1, rings := tset x.rings m popped }
    exec (.tokenRetire i) s = .next ((s.setIsland i x').dropToken c))
  ∧ (∀ c, x.exec = some (c, []) → drainRuns s (i / 4) = true → exec (.tokenRetire i) s = .next
    ((s.setIsland i { x with exec := none, retired := x.retired + 1 }).dropToken c))
  ∧ (x.restart = true → enginesRun s (i / 4) = true →
    let w := BitVec.ofNat 32 (x.retired.toNat * 65536 + min 255 x.discarded * 256 + x.lost.toNat)
    let s' := s.setIsland i { x with restart := false, rstw := w, lost := 0, discarded := 0 }
    let shuttle : Shuttle :=
      { classL := true, source := 0x40000 + i, label := x.rlab, w0 := w, w1 := BitVec.ofNat 32 (i % 4) }
    exec (.islandRestart i) s = .next
      (if x.re then s'.modBh (i / 4) fun b => { b with shuttles := b.shuttles ++ [shuttle] } else s')))

/-! ## Home slices, remote atomics, the portal (15 R267-R289) -/

/-- R270, R274, R277, R284-R288, R280-R283: the head of an arrival queue is applied: a signal raises its semaphore's count,
up to 2^24 - 1, and grants its waiters. R250: requests that reach a slice come behind those of their own source and at any place
among those of others; which place is free (log 5). A launch of a label that has ended is answered, and logged where it has a cause. A
remote atomic that no translation admits is answered with the code; its record is written and its request ends; a portal
request ends with the completion that returns, or with PORTAL_FAULT after 50 ms. A write of a semaphore's count replaces it
and grants. -/
def Obligations.HomeSteps : Prop := ∀ (s : State) (k n : Nat),
  (∀ r rest, (s.slice k).arrivals = r :: rest →
    let s' := (s.modSlice k fun x => { x with arrivals := rest }).countIssue (sliceEngine k)
    exec (.homeSliceApply k) s = .next (s'.applyReq k r)
    ∧ (∀ sem c, r.op = .sems sem c → gated s (k / 8) = false →
      (tget (s.slice k).sems sem 0 + c ≤ 0xFFFFFF → (s.slice k).waiters = [] → ∃ t, exec (.homeSliceApply k) s = .next t
        ∧ tget (t.slice k).sems sem 0 = tget (s.slice k).sems sem 0 + c)
      ∧ (0xFFFFFF < tget (s.slice k).sems sem 0 + c → ∃ t, exec (.homeSliceApply k) s = .next t
        ∧ (t.slice k).sems = (s.slice k).sems)))
  ∧ (∀ l st cause, tget? (s.slice k).launches n = some l → l.desc.getLsbD 31 = false → l.ended = some (st, cause) →
    let s' := s.modSlice k fun x => { x with launches := tdel x.launches n }
    exec (.continuationLaunchEnd k n) s = .next
      ((if cause = 0 then s' else s'.launchLog k l.word l.desc 0x03 cause (elemAddr l.src)).answerSource k
        l.src l.id st l.old 0 true l.word))
  ∧ (gated s k = true ∨ walkerFree s k = false → exec (.remoteAtomicApply k) s = .next s)
  ∧ (∀ a rest s' c, (s.bh k).atomics = a :: rest → gated s k = false → walkerFree s k = true →
    let out := s.modBh k fun b => { b with atomics := rest }
    out.resolve .none k ((holder s k).getD 0) (loadPasid out k) a.va .update = (s', c) →
    (∀ h via, c = .home h via → exec (.remoteAtomicApply k) s = .next (s'.sendHome (8 * h.bh + h.slice)
      [{ src := .remote a.elem a.peer a.ticket a.srcFn, id := 0, pa := h.pa, op := .amo a.op a.size a.v a.c, cls := a.cls,
         reads := a.reads, word := a.word, via := via, fn := (holder s k).getD 0 }]))
    ∧ (∀ code, c = .status code → exec (.remoteAtomicApply k) s = .next (s'.answerAtomic a code 0)))
  ∧ (∀ r st v s', (s.fn k).remote[n]? = some r → r.reply = some (st, v) →
    s.writeBytes (bhOf r.elem) k r.pasid (va57 ((s.fn k).rcqbase + 16 * (s.fn k).rcqtail)) (r.bytes st v) = (s', 0) →
    ∀ status old, exec (.remoteCompletion k n status old) s = .next ((s'.modFn k fun f =>
      { f with remote := removeAt f.remote n, rcqtail := (f.rcqtail + 1) % 2 ^ f.rcqlog2, rcqunread := f.rcqunread + 1 }).modElem
        r.elem (·.dropPending r.id)))
  ∧ (∀ p, (s.bh k).portal[n]? = some p →
    let ended (status old : Nat) : State := (s.modBh k fun b => { b with portal := removeAt b.portal n }).reply
      { elem := p.elem, id := p.id, status := status, value := if status = 0 then old % 2 ^ (8 * p.size) else 0, atomic := true }
    (∀ old, exec (.portalCompletion k n true old) s = .next (ended 0 old)
      ∧ exec (.portalCompletion k n false old) s = .next (ended 0x15 old))
    ∧ (p.since + 135000000 ≤ s.cycle → exec (.portalTimeout k n) s = .next (ended 0x15 0))
    ∧ (s.cycle < p.since + 135000000 → exec (.portalTimeout k n) s = .next s))
  ∧ (∀ fn bh sem v, owns s fn bh = false ∨ gated s bh = true → exec (.semcntWrite fn bh sem v) s = .next s)
  ∧ (∀ fn bh sem v, owns s fn bh = true → gated s bh = false →
    let j := 8 * bh + sem / 128 % 8
    exec (.semcntWrite fn bh sem v) s = .next ((s.modSlice j fun x =>
      { x with sems := tset x.sems (sem % 1024) (v.toNat % 2 ^ 24) }).grant j (sem % 1024))
    ∧ ((s.slice j).waiters = [] → ∃ t, exec (.semcntWrite fn bh sem v) s = .next t
        ∧ tget (t.slice j).sems (sem % 1024) 0 = v.toNat % 2 ^ 24))
  ∧ ∀ (j : Nat) (r : HomeReq) (rs : List HomeReq),
    let l := (s.slice j).arrivals
    ∃ i ≤ l.length, ((s.sendHome j (r :: rs)).slice j).arrivals = l.take i ++ (r :: rs) ++ l.drop i
      ∧ (∀ q ∈ l.drop i, q.src.line ≠ r.src.line)
      ∧ ∀ m, m ≠ j → (s.sendHome j (r :: rs)).slice m = s.slice m

/-! ## The ask hub (17 R299-R316) -/

/-- R300-R311 and R316: the oldest ask at the hub is decided, after what earlier cycles owe and as the only decision of its cycle;
the oldest token of a site enters its consumer port once it is fixed and the port has room; an entry is late from its deadline
on; a pool with REFILL gets its credit every 4,096 cycles, up to its size; an answer that matches no entry of its evaluator is
stray; a write to a pool is applied as the last event of its cycle. -/
def Obligations.HubSteps : Prop := ∀ (s : State) (k n : Nat), hubRuns s k = true →
  let h := s.hub k
  (∀ elem id site words est exc f, h.queue = [.ask elem id site words est exc f] → hubMay s k 5 = true → exec (.askDecide k) s = .next
    (((s.modHub k fun h => { h with queue := [] }).hubStage k 5).decideAsk k elem id site words est exc f))
  ∧ (hubMay s k 5 = false → exec (.askDecide k) s = .next s)
  ∧ (∀ elem id askid words, h.queue = [.answer elem id askid words] → hubMay s k 2 = true → s.sweepKind k ≠ some .endOfSlice →
    let s' := ((s.modHub k fun h => { h with queue := [] }).hubStage k 2).modElem elem (·.dropPending id)
    (∀ e, tget? (s'.hub k).table askid = some e → e.evaluator = some elem →
      exec (.answerAccept k) s = .next (s'.takeAnswer k askid e words))
    ∧ (∀ e, tget? (s'.hub k).table askid = some e → e.evaluator ≠ some elem →
      exec (.answerAccept k) s = .next (s'.modHub k fun h => { h with stray := h.stray + 1 }))
    ∧ (tget? (s'.hub k).table askid = none →
      exec (.answerAccept k) s = .next (s'.modHub k fun h => { h with stray := h.stray + 1 })))
  ∧ (∀ t rest x, h.cond = { site := n, askid := none, token := some t } :: rest → h.sites[n]? = some x →
    let l : Link := { prod := 0, prodPort := 0, cons := x.cons, consPort := x.consPort, sparse := false }
    (consumerRoom s k l = true → exec (.conditioningToken k n) s = .next
      ((s.setHub k { h with cond := rest }).acceptToken k 0 l t))
    ∧ (consumerRoom s k l = false → exec (.conditioningToken k n) s = .next s))
  ∧ (∀ e x, tget? h.table n = some e → h.sites[e.site]? = some x → x.dl ≠ 0 →
    (e.cycle + 64 * x.dl < s.cycle → exec (.askDue k n) s = .next ((s.lateAsk k n false).modHub k id))
    ∧ (e.cycle + 64 * x.dl = s.cycle → hubMay s k 3 = true → answerWaits s k = false → exec (.askDue k n) s = .next
      ((s.lateAsk k n false).modHub k fun h => { h with stage := 3, stageAt := s.cycle }))
    ∧ (s.cycle < e.cycle + 64 * x.dl → exec (.askDue k n) s = .next s))
  ∧ ((s.cycle - ((s.bh k).load.map Load.since).getD 0) / 4096 ≤ h.refilled → exec (.poolRefill k) s = .next s)
  ∧ (h.refilled < (s.cycle - ((s.bh k).load.map Load.since).getD 0) / 4096 → hubMay s k 1 = true →
    ∃ t, exec (.poolRefill k) s = .next t ∧ (t.hub k).refilled = h.refilled + 1
      ∧ ∀ p x, tget? h.pools p = some x → tget? (t.hub k).pools p =
          some (if x.refill = 0 then x else { x with credit := min (x.credit + x.refill) x.size }))
  ∧ (∀ f t rest, (s.bh k).sweep = none → h.frames = [(n, t :: rest)] → ∀ e p, tget? h.table n = some e →
    h.classPort e = some p →
    let l : Link := { prod := 0, prodPort := 0, cons := p.1, consPort := p.2, sparse := false }
    consumerRoom s k l = true → (f = rest.isEmpty) → exec (.askFrameDelivery k) s = .next ((s.setHub k
      (if f then { h with frames := [], table := tset h.table n { e with evaluator := some (elemKey k p.1) } }
       else { h with frames := [(n, rest)] })).acceptToken k 0 l t))
  ∧ (∀ w rest, h.writes = w :: rest → 0x140 ≤ w.index → w.index < 0x150 →
    let h := (s.hubStage k 6).hub k
    let p := h.pool (w.index - 0x140)
    let size := w.value.toNat % 512
    let p' : AskPool := { p with size := size, refill := w.value.toNat / 65536 % 512, credit := min p.credit size }
    exec (.hubRegisterWrite k) s = .next
      ((s.hubStage k 6).setHub k { h with writes := rest, pools := tset h.pools (w.index - 0x140) p' }))

/-! ## Queues, the loader, faults (03 R32-R45, 02 R21-R24, 19 R322-R337, 21 R346-R354) -/

/-- R32, R34, R36, R39, R37, R43 and R354: a doorbell sets QTAIL and takes the commands up to it one after another, one in a spine
cycle, and one above the ring's size sets ERR and clears EN; a write of QCFG with EN clear disables its queue, and one with LOG2 above 12 sets ERR; a grant of a
bulkhead's scheduler dispatches one command; a command that has its status leaves its queue; the next journal record is
written in sequence order, where it was accepted for the ring; the replay of a dropped edge (21 R354, 02 R29)
begins at its first node. The model's choices: which commands count against a ring (log 55), where a journal record stands and what its tail
of 256 drops (log 68), and that a doorbell whose turn waits for another enqueue is taken later (log 132). -/
def Obligations.QueueSteps : Prop := ∀ (s : State) (fn n q : Nat) (value : Word), queueBlock s fn n = some q →
  let h := s.queue q
  (∀ tail, tail < 2 ^ 32 →
    let count := (tail + 2 ^ 32 - h.head) % 2 ^ 32
    let rung := if h.tail = tail then h.rungAt else s.spine
    let s' := s.setQueue q { h with tail := tail, rungAt := rung }
    (count ≤ 2 ^ (h.log2 + 4) → h.head ≠ tail → h.killBusy = false → enqueueWaits s' fn n 0 rung = false →
      exec (.qdb fn n tail) s = .next (s'.takeCommand fn q))
    ∧ (count ≤ 2 ^ (h.log2 + 4) → h.head = tail ∨ h.killBusy = true ∨ enqueueWaits s' fn n 0 rung = true →
      exec (.qdb fn n tail) s = .next s')
    ∧ (2 ^ (h.log2 + 4) < count → exec (.qdb fn n tail) s = .next (s.queueError q)))
  ∧ (let log2 := if h.en then h.log2 else bits value.toNat 22 4
    let h' : HwQueue := { h with prio := bits value.toNat 26 2, pasid := bits value.toNat 0 20, log2 := log2 }
    (value.getLsbD 31 = false ∨ h.killBusy = true →
      exec (.qcfgWrite fn n value) s = .next (s.setQueue q { h' with en := false }))
    ∧ (value.getLsbD 31 = true → h.killBusy = false → h'.log2 ≤ 12 →
      exec (.qcfgWrite fn n value) s = .next (s.setQueue q { h' with en := true, err := false }))
    ∧ (value.getLsbD 31 = true → h.killBusy = false → 12 < h'.log2 → exec (.qcfgWrite fn n value) s = .next ((s.setQueue q h').queueError q)))
  ∧ (∀ bh g f, holder s bh = some fn → mayRun s fn bh = true → arbitrate s fn bh = some (g, f) →
    exec (.commandDispatch bh) s = .next ((s.setFn fn f).modHead g fun a =>
      { a with dispatched := true, target := bh, join := (counterOf s fn a.cmd.wait).word }))
  ∧ (∀ a rest st, h.accepted = a :: rest → a.status = some st →
    exec (.commandComplete q a.id) s = .next (s.completeCommand q a st none))
  ∧ (s.mgmt = 0 → exec (.journalWrite fn) s = .next s)
  ∧ (∀ r, (s.fn fn).jen = true → s.mgmt ≠ 0 → (s.fn fn).jtail.find? (fun r => r.ring && decide ((s.fn fn).jnext ≤ r.seq)) = some r →
    let y := s.writePhys ((s.fn fn).jbase + 32 * (r.seq % 2 ^ (s.fn fn).jlog2)) (r.bytes fn)
    (y.2 = true → exec (.journalWrite fn) s = .next (y.1.modFn fn fun f => { f with jnext := r.seq + 1 }))
    ∧ (y.2 = false → exec (.journalWrite fn) s = .next (y.1.modFn fn fun f => { f with jerr := true, jen := false })))
  ∧ (∀ g d e, h.graph = some g → g.state = .dropped → graphRuns s q = true → g.replays.length < 8 →
    g.nodes[g.current]? = some d → g.edges[d.w3.toNat % 65536]? = some e →
    let r : Replay := { edge := d.w3.toNat % 65536, owner := g.current, loops := g.loops }
    let g' : Graph := { g with replays := r :: g.replays, loops := [], prev := none, current := e.first, state := .ready }
    exec (.recomputeReplay q) s = .next (s.setQueue q { h with graph := some g' }))

/-- R22-R24, R21, R41, R338 and R346: an image that passes every check is valid, and LDSTAT is 0; a rejected one leaves
LDSTAT on every bulkhead of its queue and completes the command with LOAD_REJECTED; what LDSTAT names, and that the launch is the GRAPH command, are the model's choice (log 65). Once it is valid everywhere a
reconfiguration sweep begins; a column with a touched guard raises its GUARD_FAULT (R182), and the sweep passes a column once
it is drained; behind the last column the image becomes resident; a load whose active elements have all retired stops its
passive ones, and retires once it is drained. -/
def Obligations.LoaderSteps : Prop := ∀ (s : State) (bh : Nat) (l : Loading) (rest : List Loading), gated s bh = false →
  ((s.bh bh).loading = l :: rest → l.valid = false →
    (imageFails l.bytes (s.bh bh).sigreq (acceptedKeys s bh) = none → exec (.imageValidation bh) s = .next
      (s.modBh bh fun b => { b with loading := { l with valid := true } :: rest, ldstat := 0 }))
    ∧ (∀ r, imageFails l.bytes (s.bh bh).sigreq (acceptedKeys s bh) = some r → exec (.imageValidation bh) s = .next
      ((((membersFor s (s.queue l.queue).qmapTag).foldl (fun s b => s.modBh b fun x => { x with ldstat := r.word }) s).dropImages
        l.queue).finishHead l.queue 0x0A)))
  ∧ ((s.bh bh).loading = l :: rest → l.valid = true → mayRun s (s.queue l.queue).qmapTag bh = true → (s.bh bh).sweep = none →
    (∀ b ∈ membersFor s (s.queue l.queue).qmapTag, (headOf s b l.queue).any Loading.valid = true) →
    exec (.reconfigurationSweep bh) s = .next (if hubMay s bh 4 then s.beginSweep bh .reconfigure else s))
  ∧ (∀ w, (s.bh bh).sweep = some w → w.kind ≠ .kill → w.column ≤ 12 →
    let ts := (tilesOf bh w.column).filter fun t => (s.tile t).guardRec.isSome
    (ts ≠ [] → exec (.sweepColumnPass bh) s = .next (ts.foldl (fun s t => s.raiseGuard t) s))
    ∧ (ts = [] → columnDrained s w.kind bh w.column = true →
      exec (.sweepColumnPass bh) s = .next (s.passColumn w.kind bh w.column))
    ∧ (ts = [] → columnDrained s w.kind bh w.column = false → exec (.sweepColumnPass bh) s = .next s))
  ∧ ((s.bh bh).loading = l :: rest → (s.bh bh).sweep = some { kind := .reconfigure, column := 13 } → l.valid = true →
    mayRun s (s.queue l.queue).qmapTag bh = true → exec (.configurationLoad bh) s = .next
      ((s.modBh bh fun b => { b with loading := rest }).install bh l.queue l (parseImage l.bytes)))
  ∧ (∀ y, (s.bh bh).load = some y → drainRuns s bh = true → (s.bh bh).ret = false → (s.bh bh).sweep = none →
    let active := (s.elemsOf bh).filter fun p => p.2.active
    ((s.bh bh).retiring = 0 → active ≠ [] → (∀ p ∈ active, p.2.retired = true ∨ p.2.killed = true) →
      exec (.loadRetire bh) s = .next
        ((s.mapElems bh fun _ e => e.markHeld s.spine).modBh bh fun b => { b with retiring := 1 }))
    ∧ ((s.bh bh).retiring = 0 → (∃ p ∈ active, p.2.retired = false ∧ p.2.killed = false) →
      exec (.loadRetire bh) s = .next s)
    ∧ ((s.bh bh).retiring ≠ 0 → loadDrained s bh = true → exec (.loadRetire bh) s = .next
      ((s.modBh bh fun b => { b with ret := true, retKilled := b.retKilled || active.any fun p => p.2.killed }).loadCompletes
        y)))

/-- R322, R324, R325, R336, R337, R350 and R353: the record at the head of a fault controller is walked from its start level, once
no block of a fused update of its tile is being committed (the model's choice, log 120): an element with policy 0 is logged and goes on unless another fault
of its own waits, one with policy 2 is logged and killed, one with policy 1 below its limit is logged and runs again. A kill
sweep reaches a column, passes it once what the column had sent has been applied, and behind the edges clears the bulkhead's
load; a queue-level kill ends once no load of its queue is resident, with its code; QKILL and a marked counter start one. -/
def Obligations.FaultSteps : Prop := ∀ (s : State) (bh : Nat) (r : FaultRec) (rest : List FaultRec) (a : Nat) (e : Elem),
  let s' := s.modBh bh fun b => { b with faults := rest }
  let key := elemKey bh a
  (bh < 16 → (s.bh bh).faults = r :: rest → r.logOnly = false → r.gone = false → r.unit = .elem a → r.start = .element →
    s.elem? key = some e → e.killed = false → walkWaits s bh r.unit = false →
    (e.record.policy = 0 → exec (.faultRecord bh) s = .next
      ((s'.logFault bh r .element 0 e.retries).modElem key fun e =>
        { e with stopped := rest.any fun x => x.unit == .elem a && !x.gone && !x.logOnly }))
    ∧ (e.record.policy = 1 → e.retries < e.record.retryLimit → exec (.faultRecord bh) s = .next
      (((s'.setElem key { e with retries := e.retries + 1 }).logFault bh r .element 1 (e.retries + 1)).rerunElem key))
    ∧ (e.record.policy = 2 → exec (.faultRecord bh) s = .next ((s'.logFault bh r .element 2 e.retries).killElem key)))
  ∧ (walkWaits s bh r.unit = true → (s.bh bh).faults = r :: rest → exec (.faultRecord bh) s = .next s)
  ∧ (∀ c, (s.bh bh).sweep = some { kind := .kill, column := c } → gated s bh = false →
    let reached : Prop := (∀ p ∈ s.columnElems bh c, p.2.swept = true) ∧ ∀ k ∈ tilesOf bh c, (s.tile k).drained = true
    (¬ reached → exec (.killSweep bh) s = .next (s.killColumn bh c))
    ∧ (reached → columnKilled s bh c = false → exec (.killSweep bh) s = .next s)
    ∧ (reached → columnKilled s bh c = true → c < 12 → exec (.killSweep bh) s = .next
      ((s.modBh bh fun b => { b with sweep := some { kind := .kill, column := c + 1 } }).traceSweep bh 1 .kill c))
    ∧ ∀ q, reached → columnKilled s bh c = true → 12 ≤ c → (s.bh bh).load.map Load.queue = some q →
      ∃ t : State, exec (.killSweep bh) s = .next (t.settle q) ∧ (t.bh bh).load = none
        ∧ (t.bh bh).sweep = none ∧ t.elemsOf bh = [])
  ∧ (∀ q code, (s.queue q).killBusy = true → (s.queue q).killNext = code → residents s q = [] →
    ∃ t, exec (.queueLevelKill q code) s = .next t ∧ (t.queue q).killBusy = false ∧ (t.queue q).killCode = code
      ∧ (t.queue q).graph = none)
  ∧ (∀ q, (s.queue q).killBusy = true → residents s q ≠ [] → ∀ code, exec (.queueLevelKill q code) s = .next s)
  ∧ (∀ fn n q, queueBlock s fn n = some q → exec (.qkill fn n) s = .next (s.startKill q 0x07))
  ∧ (∀ fn n, queueCount s fn ≤ n → exec (.qkill fn n) s = .next s)
  ∧ (∀ q c l code, (s.queue q).accepted = c :: l → c.cmd.wait ≠ 0xFFFF → c.dispatched = false →
    (counterOf s (s.queue q).qmapTag c.cmd.wait).parentKill = some code →
    exec (.parentKill q) s = .next (s.startKill q code))

/-! ## Placing (03 R44, 04 R46-R68, 19 R338-R343) -/

/-- R44, R47, R48 and R65-R67: QMAP is written while its queue is disabled; BHCFG is staged, and a reset that enters RELEASE
applies the value then staged, an invalid one as unassigned (OWNER, OVN and POOL
are then what was staged, log 89); BHRST with GO in the READY state starts a reset, which passes
its six states in order; ZERO writes the bonded DRAM to 0 and nothing else of memory; a bulkhead becomes ready only where its
management element has been released (24 R377). -/
def Obligations.PlacementSteps : Prop := ∀ (s : State) (bh q : Nat) (value : Word), bh < 16 → q < 4096 →
  let b := s.bh bh
  let h := s.queue q
  let v := value.toNat
  let next (t : State) (n : Nat) : State := t.modClock bh fun b => { b with state := n, stateSince := t.cycle }
  (h.en = false → exec (.qmapWrite q value) s = .next (s.setQueue q
    { h with qmapV := value.getLsbD 31 && decide (bits v 24 7 ≤ 64), qmapTag := bits v 24 7, qmapLocal := bits v 0 12 }))
  ∧ (h.en = true → exec (.qmapWrite q value) s = .next s)
  ∧ exec (.bhcfgWrite bh value) s = .next (s.setBh bh { b with staged := value &&& 0xFFFF0000 })
  ∧ (let s' := s.setBh bh { b with flush := value.getLsbD 30, zero := value.getLsbD 29 }
    (value.getLsbD 31 = false → exec (.bhrst bh value) s = .next s')
    ∧ (value.getLsbD 31 = true → exec (.bhrst bh value) s = .next (s'.startReset bh))
    ∧ (value.getLsbD 31 = true → b.state ≠ 6 → exec (.bhrst bh value) s = .next s'))
  ∧ (b.state = 1 → b.flush = false → exec (.gate bh) s =
    .next (next (s.setBh bh { b with replies := [], portal := [] }) 2))
  ∧ (b.state = 1 → b.flush = true →
    let f := (s.flushSlices bh).modBh bh fun b => { b with replies := [], portal := [] }
    (f.bh bh).flush = true →
    (slicesDirty f bh = false → exec (.gate bh) s = .next (next f 2)) ∧ (slicesDirty f bh = true → exec (.gate bh) s = .next f))
  ∧ (b.state = 2 → b.load = none → ∃ t : State, exec (.railOff bh) s = .next (t.settle 0) ∧ (t.bh bh).state = 3
    ∧ t.elemsOf bh = [] ∧ t.mem = s.mem)
  ∧ (b.state = 3 → exec (.railUp bh) s = .next (next s 4))
  ∧ (b.state = 4 → exec (.pllLock bh) s = .next (next (State.setBh { s with zeroed := tset s.zeroed bh s.cycle } bh
      { b with entering := b.staged, applied := false }) 5))
  ∧ (b.state = 5 → b.applied = false → ∃ t, exec (.release bh) s = .next t ∧
    (let w := b.entering.toNat
    let mode := bits w 30 2
    (t.bh bh).owner = bits w 16 7 ∧ (t.bh bh).ovn = bits w 23 4 ∧ (t.bh bh).pool = bits w 27 3 ∧ (t.bh bh).applied = true
    ∧ (t.bh bh).mode = (if mode = 3 ∨ 64 < bits w 16 7 ∨ (mode = 1 ∧ (s.ovnOf (bits w 23 4)).on = false) then 0 else mode)
    ∧ (b.zero = false → t.mem = s.mem)
    ∧ (b.zero = true → ∀ a, t.mem.get a =
        if bh * 0x300000000 ≤ a ∧ a < (bh + 1) * 0x300000000 then 0 else s.mem.get a)))
  ∧ (b.state = 5 → b.applied = true → s.mgmt.getLsbD (bh / 4) = true → exec (.ready bh) s = .next (next s 6))
  ∧ (b.state ≠ 5 ∨ b.applied = false ∨ s.mgmt.getLsbD (bh / 4) = false → exec (.ready bh) s = .next s)

/-- R50-R54 and R338-R343: a write of POOLCFG; a tick, which steps the slice, or begins a change of function where the slice
has ended and an entry of another function qualifies, and else starts a fresh slice; members that are ready again join at it; the end-of-slice sweep on each member, the save of its context, which is quarantined
where the save area cannot take it, and the restore of the incoming one; the deadline, at which the queues that have not
saved are killed; and the start, once every member has been loaded and no packet of the outgoing function is left. The model's
choices: a tick within a change (log 79), the rotation in force and a new tick length (log 122), the causes of a save's faults (log 81). -/
def Obligations.PoolSteps : Prop := ∀ (s : State) (p bh : Nat) (value : Word), p < 8 →
  let x := s.pool p
  let b := s.bh bh
  let y : SharedPool :=
    { x with en := value.getLsbD 31, ovn := bits value.toNat 27 4, tick := bits value.toNat 0 17 }
  let ticked := s.setPool p { x with nextTick := x.nextTick + min 100000 (max 100 x.tick) * 2700, ticks := x.ticks + 1 }
  let fn := (holder s bh).getD 0
  let met := s.meetSave bh
  let c := (met.context bh).sliceEnd
  let at_ := saveAddress met fn bh
  let failed (t : State) (code : Nat) : State := t.modBh bh fun b => { b with saveFault := if code = 0x40 ∨ code = 0x42 then 1 else 2 }
  let unitSaved (t : State) (n : Nat) : State :=
    let w := t.writeBytes bh fn (t.fn fn).savePasid (saveAddress t fn bh + (unitPlace n).1)
      (((t.context bh).sliceEnd.image.drop (unitPlace n).1).take (unitPlace n).2)
    if w.2 = 0 then w.1.modBh bh fun b => { b with units := b.units ++ [n] } else failed w.1 w.2
  (x.en = true ∨ value.getLsbD 31 = false → exec (.poolEnable p value) s = .next (s.setPool p y))
  ∧ (x.en = false ∨ s.cycle < x.nextTick → exec (.gangSwitchTick p) s = .next s)
  ∧ (x.en = true → x.nextTick ≤ s.cycle → x.switching ≠ none → exec (.gangSwitchTick p) s = .next (ticked.joinReady p))
  ∧ (∀ c, x.en = true → x.nextTick ≤ s.cycle → x.switching = none → x.current = some c → 1 < x.left →
    exec (.gangSwitchTick p) s = .next ((ticked.modPool p fun x => { x with left := x.left - 1 }).joinReady p))
  ∧ (∀ c j, x.en = true → x.nextTick ≤ s.cycle → x.switching = none → x.current = some c → x.left ≤ 1 →
    nextEntry ticked p x.rot (c + 1) 15 = some j → (rotEntry x.rot j).2.1 ≠ x.fn →
    exec (.gangSwitchTick p) s = .next (ticked.beginSwitch p j false))
  ∧ (∀ c, x.en = true → x.nextTick ≤ s.cycle → x.switching = none → x.current = some c → x.left ≤ 1 →
    nextEntry ticked p x.rot (c + 1) 15 = none → nextEntry ticked p x.rotation (c + 1) 15 = none →
    exec (.gangSwitchTick p) s = .next ((ticked.modPool p fun y =>
      { y with current := some c, left := (rotEntry x.rotation c).2.2 }).joinReady p))
  ∧ (∀ j, x.en = true → x.nextTick ≤ s.cycle → x.switching = none → x.current = none → nextEntry ticked p x.rot 0 16 = some j →
    exec (.gangSwitchTick p) s = .next (ticked.beginSwitch p j true))
  ∧ (switchOf s bh ≠ none → b.saved = false → b.sweep = none → gated s bh = false →
    exec (.endOfSliceSweep bh) s = .next (if hubMay s bh 4 then s.beginSweep bh .endOfSlice else s))
  ∧ (b.saveFault ≠ 0 → exec (.contextSave bh) s = .next s)
  ∧ (∀ n, b.saveFault = 0 → nextUnit s bh = some n → unitTile n = none →
    exec (.contextSave bh) s = .next (if (s.fn fn).saveV then unitSaved s n else s.modBh bh fun b => { b with saveFault := 3 }))
  ∧ (∀ n t, b.saveFault = 0 → nextUnit s bh = some n → unitTile n = some t →
    let k := 64 * bh + t
    let taken := (s.takeBanks k).meetTile k
    ((∀ j < 48, bankFree s k (64 * j) = true) → exec (.contextSave bh) s = .next (if (taken.fn fn).saveV then unitSaved taken n
      else taken.modBh bh fun b => { b with saveFault := 3 }))
    ∧ ((∃ j < 48, bankFree s k (64 * j) = false) → exec (.contextSave bh) s = .next s))
  ∧ (b.saveFault = 0 → nextUnit s bh = none → saving s bh = false → exec (.contextSave bh) s = .next s)
  ∧ (b.saveFault = 0 → nextUnit s bh = none → saving s bh = true →
    let w := met.writeBytes bh fn (met.fn fn).savePasid at_ (((c.image).drop 0).take 0x1000000)
    exec (.contextSave bh) s = .next (if (met.fn fn).saveV then (if w.2 = 0 then
        (w.1.markGranules bh fn (w.1.fn fn).savePasid (saveAddress w.1 fn bh) c.marks).finishSave bh false
      else failed w.1 w.2)
    else met.modBh bh fun b => { b with saveFault := 3 }))
  ∧ (saving s bh = true → b.saveFault ≠ 0 → b.qbufV = false ∨ b.qfull = true →
    exec (.saveQuarantine bh) s = .next (s.killMember bh 0x55))
  ∧ (saving s bh = true → b.saveFault ≠ 0 → b.qbufV = true → b.qfull = false →
    let w := met.writePhys b.qbufBase c.image
    exec (.saveQuarantine bh) s = .next (if w.2 = true then
      (((w.1.markPhys (c.marks.map (b.qbufBase + ·))).modBh bh fun x =>
        { x with qfull := true, qcause := b.saveFault, qtag := fn }).raiseMsi 0 2).finishSave bh true
      else w.1.killMember bh 0x55))
  ∧ (∀ w, x.switching = some w → s.cycle < w.since + 2 * max 1 x.dl * 2700 → exec (.saveDeadline p) s = .next s)
  ∧ (∀ w, x.switching = some w → w.since + 2 * max 1 x.dl * 2700 ≤ s.cycle →
    (∀ c ∈ participants s p, (s.bh c).saved = true) → exec (.saveDeadline p) s = .next s)
  ∧ (∀ w c l, x.switching = some w → w.since + 2 * max 1 x.dl * 2700 ≤ s.cycle → participants s p = [c] →
    (s.bh c).saved = false → (s.bh c).load = some l → s.contexts = [] →
    let killed := (s.startKill l.queue 0x54).modBh c fun y => { y with late := true }
    exec (.saveDeadline p) s = .next (if (killed.bh c).saved || killed.sweepKind c == some .kill then killed
      else killed.beginSweep c .kill))
  ∧ (∀ w, switchOf s bh = some w → b.saved = true → b.restored = false → gated s bh = false →
    (b.late = true ∨ ∀ c ∈ (s.blank bh).contexts, c.fn = w.fn → c.bulkhead = bh → c.quarantined = true) →
    exec (.contextRestore bh) s = .next ((s.blank bh).modBh bh fun b => { b with restored := true, parked := true }))
  ∧ (∀ w c, switchOf s bh = some w → b.saved = true → b.restored = false → gated s bh = false → b.late = false →
    (s.blank bh).contexts.find? (fun c : Context => c.fn == w.fn && c.bulkhead == bh && !c.quarantined) = some c →
    let done (s : State) : State := s.modBh bh fun b => { b with restored := true, parked := true }
    exec (.contextRestore bh) s = .next (done (match (s.blank bh).readBytes bh w.fn ((s.blank bh).fn w.fn).savePasid
        (saveAddress (s.blank bh) w.fn bh) .read 0x1000000 with
      | (t, .ok y) => if y.poison = true then t.refuseContext c else t.restoreContext (c.ofImage y.bytes)
      | (t, .error _) => t.refuseContext c)))
  ∧ (∀ w, x.switching = some w → (∀ b ∈ participants s p, (s.bh b).restored = true) →
    (∀ k ∈ s.packets, k.vc = x.ovn → k.fn = x.fn → x.fn = w.fn) → exec (.gangStart p) s = .next
      (((participants s p).foldl (fun s b => s.modBh b fun y =>
        { y with saved := false, restored := false, parked := false, late := false }) s).setPool p { x with switching := none, current := some w.entry, fn := w.fn, left := w.slice }))
  ∧ (∀ c, s.contexts.find? (fun c : Context => c.bulkhead == bh && c.quarantined) = some c →
    (b.qfull = true → (s.fn c.fn).saveV = false →
      exec (.restoreQuarantine bh) s = .next (s.setBh bh { b with qerr := true }))
    ∧ (b.qfull = true → (s.fn c.fn).saveV = true →
      let w := s.copyGranules bh c.fn (s.fn c.fn).savePasid 0x40000 b.qbufBase (saveAddress s c.fn bh)
      exec (.restoreQuarantine bh) s = .next (if w.2 = 0 then
        State.modBh { w.1 with contexts := w.1.contexts.map fun d : Context =>
          if d.fn == c.fn && d.bulkhead == bh then { d with quarantined := false } else d } bh
            fun x => { x with qfull := false, qerr := false }
        else w.1.modBh bh fun x => { x with qerr := true }))
    ∧ (∀ l, c.body.load = some l → exec (.discard bh) s = .next (s.startKill l.queue 0x07)))

/-- R55-R63: an OVN that is off comes into force with 8 to 256 slots where its router has room, and else reports NOSLOT; it
is released once disabled, with no packet left; a packet is accepted at a gate by its key, and else answered GATED or
KEY_DROP and logged; a window register whose offer nothing meets is OFFERED; an OPEN one closes at a write, with its peer,
and is CLOSED once no access through it is left. The model's choices: the bounds of NOSLOT (log 90), the die, network and port
of a drop record (log 91), which peer an offer has, a write to an OPEN register, and what a close waits for (log 92). -/
def Obligations.NetworkSteps : Prop := ∀ (s : State) (n bh win : Nat) (value : Word),
  (n < 16 →
    let x := s.ovnOf n
    let y : Ovn := { x with en := value.getLsbD 31, slots := bits value.toNat 16 10, members := value.extractLsb' 0 16 }
    (x.on = true → exec (.ovnEnable n value) s = .next (s.setOvn n { x with en := value.getLsbD 31 }))
    ∧ (x.on = false → value.getLsbD 31 = false → exec (.ovnEnable n value) s = .next (s.setOvn n y))
    ∧ (x.on = false → value.getLsbD 31 = true → y.slots < 8 ∨ 256 < y.slots →
      exec (.ovnEnable n value) s = .next (s.setOvn n { y with noslot := true }))
    ∧ (x.on = false → value.getLsbD 31 = true → 8 ≤ y.slots → y.slots ≤ 256 →
      (y.members = 0 ∨ slotsTaken s n + y.slots ≤ 896 →
        exec (.ovnEnable n value) s = .next (s.setOvn n { y with on := true, noslot := false }))
      ∧ (y.members ≠ 0 → 896 < slotsTaken s n + y.slots →
        exec (.ovnEnable n value) s = .next (s.setOvn n { y with on := false, noslot := true }))))
  ∧ ((s.ovnOf n).on = true → (s.ovnOf n).en = false → (∀ p ∈ s.packets, p.vc ≠ n) →
    exec (.ovnRelease n) s = .next (s.setOvn n { s.ovnOf n with on := false }))
  ∧ ((s.ovnOf n).en = true ∨ (∃ p ∈ s.packets, p.vc = n) → exec (.ovnRelease n) s = .next s)
  ∧ (∀ p a, s.packets[n]? = some p → p.atomic = some a →
    let out : State := { s with packets := removeAt s.packets n }
    (gated s p.target = true → exec (.spinePacketArrival (.inFlight n)) s = .next (out.answerAtomic a 0x0C 0))
    ∧ (gated s p.target = false → keyAccepted s p.target p.key = true → (s.bh p.target).atomics.length < 256 →
      exec (.spinePacketArrival (.inFlight n)) s = .next (out.modBh p.target fun b => { b with atomics := b.atomics ++ [a] }))
    ∧ (gated s p.target = false → keyAccepted s p.target p.key = true → 256 ≤ (s.bh p.target).atomics.length →
      exec (.spinePacketArrival (.inFlight n)) s = .next s)
    ∧ (gated s p.target = false → keyAccepted s p.target p.key = false → ∀ o, holder s p.target = some o →
      exec (.spinePacketArrival (.inFlight n)) s = .next
        ((out.dropPacket (p.target / 4) p.key (s.fn o).fkey p.vc).answerAtomic a 0x0D 0)))
  ∧ (∀ q a, (peerPacket q).atomic = some a → gated s q.bh.val = false → keyAccepted s q.bh.val q.key = true →
    (s.bh q.bh.val).atomics.length < 256 → exec (.spinePacketArrival (.peer q)) s = .next
      (s.modBh q.bh.val fun b => { b with atomics := b.atomics ++ [a] }))
  ∧ (exec (.dropcntClear n value) s = .next (if value.getLsbD 0 then { s with dropcnt := tset s.dropcnt n 0 } else s))
  ∧ (∀ fn (v : BitVec 128), owns s fn bh = true → win < 8 → s.window bh win = {} → v.getLsbD 15 = true →
    let put (t : State) : Prop := (t.window bh win).exp.peer = bits v.toNat 0 7
      ∧ (t.window bh win).exp.base = bits v.toNat 16 41 * 2 ^ 16 ∧ (t.window bh win).exp.perms = bits v.toNat 12 3
    (importersOf s bh win = [] → ∃ t, exec (.windowGrantWrite fn bh win false v) s = .next t ∧ put t
      ∧ (t.window bh win).exp.state = 1 ∧ ∀ b m, b ≠ bh ∨ m ≠ win → t.window b m = s.window b m)
    ∧ (∀ ib iw, importersOf s bh win = [(ib, iw)] → (s.window ib iw).imp.state = 1 → holder s ib = some (bits v.toNat 0 7) →
      holder s bh = some (s.window ib iw).imp.peer → (s.window ib iw).imp.base % 2 ^ bits v.toNat 64 6 = 0 →
      ∃ t, exec (.windowGrantWrite fn bh win false v) s = .next t ∧ put t ∧ (t.window bh win).exp.state = 2
        ∧ (t.window ib iw).imp.state = 2 ∧ ∀ b m, b ≠ bh ∨ m ≠ win → b ≠ ib ∨ m ≠ iw → t.window b m = s.window b m))
  ∧ (let i := (s.window bh win).imp
    i.state = 3 → accessesLeft s i.expBh i.expWin = true → exec (.windowCloseComplete bh win) s = .next s)
  ∧ (let i := (s.window bh win).imp
    i.state = 3 → accessesLeft s i.expBh i.expWin = false →
    ∃ t, exec (.windowCloseComplete bh win) s = .next t ∧ (t.window bh win).imp.state = 0)

/-- R265 and R266: a shootdown removes every translation that it names from every translation cache and no other, and is
BUSY; a function's names a process within its table, or sets ERR; it completes once the accesses already translated through what it
removed are complete. Which accesses those are is the model's choice (log 94), and so is the function number 65 of a device-level one
(log 95). -/
def Obligations.Shootdowns : Prop := ∀ (s : State) (fn pasid size tag : Nat) (wb : Bool),
  let only (t : State) (m : TlbEntry → Bool) : Prop :=
    (∀ k, (t.tile k).tlb = (s.tile k).tlb.filter fun e => !m e)
    ∧ (∀ k, (t.streamer k).tlb = (s.streamer k).tlb.filter fun e => !m e)
    ∧ ∀ k, (t.bh k).tlb2 = (s.bh k).tlb2.filter fun e => !m e
  let page (e : TlbEntry) : Bool := e.fn == fn && e.pasid == some pasid
    && rangesMeet e.base e.log2 ((s.fn fn).sdaddr % 2 ^ 57) (sizeLog2 size)
  ((s.fn fn).sdbusy = false → pasid < 2 ^ (s.fn fn).pctxLog2 →
    (∃ t, exec (.shootdownPage fn pasid size wb) s = .next t ∧ (t.fn fn).sdbusy = true ∧ only t page)
    ∧ (∃ t, exec (.shootdownPasid fn pasid) s = .next t ∧ (t.fn fn).sdbusy = true
      ∧ only t fun e => e.fn == fn && e.pasid == some pasid))
  ∧ ((s.fn fn).sdbusy = false → 2 ^ (s.fn fn).pctxLog2 ≤ pasid →
    ∃ t, exec (.shootdownPage fn pasid size wb) s = .next t ∧ (t.fn fn).sderr = true ∧ t.tiles = s.tiles)
  ∧ ((s.fn fn).sdbusy = false → ∃ t, exec (.shootdownFunction fn) s = .next t ∧ (t.fn fn).sdbusy = true
      ∧ only t fun e => e.fn == fn && e.pasid.isSome)
  ∧ ((s.fn fn).sdbusy = true → exec (.shootdownPage fn pasid size wb) s = .next s
    ∧ exec (.shootdownPasid fn pasid) s = .next s ∧ exec (.shootdownFunction fn) s = .next s)
  ∧ (s.s2busy = false →
    (∃ t, exec (.s2ShootdownPage tag size wb) s = .next t ∧ t.s2busy = true
      ∧ only t fun e => e.fn == tag && rangesMeet e.ipa e.log2 s.s2sdaddr (sizeLog2 size))
    ∧ (∃ t, exec (.s2ShootdownTag tag) s = .next t ∧ t.s2busy = true ∧ only t fun e => e.fn == tag)
    ∧ (∃ t, exec (.s2ShootdownRegion wb) s = .next t ∧ t.s2busy = true
      ∧ only t fun e => overlap e.pa (2 ^ e.log2) (s.s2sdaddr / 2 ^ 30 * 2 ^ 30) (2 ^ 30)))
  ∧ (fn ≠ 65 → (s.fn fn).sdbusy = true →
    ((s.fn fn).sdwait.any (accessLeft s) = true → exec (.shootdownComplete fn) s = .next s)
    ∧ ((s.fn fn).sdwait.any (accessLeft s) = false → (s.fn fn).sdlines = [] →
      exec (.shootdownComplete fn) s = .next (s.setFn fn { s.fn fn with sdbusy := false, sdwait := [], sdlines := [] })))
  ∧ (s.s2busy = true → s.s2wait.any (accessLeft s) = false → s.s2lines = [] →
    exec (.shootdownComplete 65) s = .next { s with s2busy := false, s2wait := [], s2lines := [] })

/-! ## Observing, the host, security (09 R191, 19 R329, 23 R357-R365, 24 R366-R379) -/

/-- R191, R329, R357-R365 and R375: CTL clears and freezes the counters of an engine; the sink and halt logs are cleared by
bit 0; a release lets a halted element go on, and a step for one fire; a slot breakpoint halts its element before the fire; a
sample is due every period and is dropped where its ring is full; the trace unit writes four events of a cycle in order;
FREEZE stops what its mask names; a thermal evaluation at 110 degrees trips and resets its bulkhead. -/
def Obligations.ObservingSteps : Prop := ∀ (s : State) (fn bh elem n : Nat) (value : Word),
  let b := s.bh bh
  let key := elemKey bh elem
  let sampled := ((s.elemsOf bh).find? fun p => decide (b.dbg.smpnext ≤ addrOf p.1)).orElse fun _ => (s.elemsOf bh).head?
  (reaches s fn bh = true →
    (n < 48 → n ≠ 38 → n ≠ 39 → exec (.counterClear fn bh n value) s = .next (s.modEngineCount (64 * bh + n) fun c =>
      let frz := value.getLsbD 1
      if value.getLsbD 0 then { frz := frz, upTo := c.upTo, fire := c.fire } else { c with frz := frz }))
    ∧ (value.getLsbD 0 = true → exec (.sinklogClear fn bh value) s = .next (s.setBh bh { b with sink := [], sinkcnt := 0 })
      ∧ exec (.haltlogClear fn bh value) s = .next
        (s.setBh bh { b with dbg := { b.dbg with haltLog := [], hlogcnt := 0 } }))
    ∧ (value.getLsbD 0 = false → exec (.sinklogClear fn bh value) s = .next s
      ∧ exec (.haltlogClear fn bh value) s = .next s)
    ∧ (∀ e, s.elem? key = some e → e.halted = true → e.haltAt ≠ some s.cycle →
      exec (.debugRelease fn bh elem) s = .next (s.setElem key { e with halted := false, stepping := false, skipBreak := true })
      ∧ exec (.debugStep fn bh elem) s = .next (s.setElem key { e with halted := false, stepping := true, skipBreak := true }))
    ∧ ∃ t, exec (.debugReleaseAll fn bh) s = .next t ∧ ∀ k, t.elem? k = (s.elem? k).map fun e =>
        if bhOf k = bh ∧ e.halted = true ∧ e.haltAt ≠ some s.cycle then
          { e with halted := false, stepping := false, skipBreak := true } else e)
  ∧ (∀ e slot beat, s.elem? elem = some e → e.issue = none → fires s elem e = some (slot, beat) → e.skipBreak = false →
    (tget (s.bh (bhOf elem)).dbg.sbp (addrOf elem / 16) 0).getLsbD slot = true →
    exec (.slotBreakpointHalt elem) s = .next (s.haltElem elem 1 slot 0 0))
  ∧ (b.dbg.smpen = false ∨ s.cycle < b.dbg.smpat → exec (.sample bh) s = .next s)
  ∧ (∀ k e, b.dbg.smpen = true → b.dbg.smpat ≤ s.cycle → sampled = some (k, e) →
    (b.dbg.smptail + 1) % b.dbg.ring = b.dbg.smphead % b.dbg.ring → exec (.sample bh) s = .next (s.setBh bh
      { b with dbg := { b.dbg with smpat := b.dbg.smpat + b.dbg.period, smpnext := addrOf k + 1,
                                   smpdrop := b.dbg.smpdrop + 1 } }))
  ∧ (∀ k e, b.dbg.smpen = true → b.dbg.smpat ≤ s.cycle → sampled = some (k, e) →
    (b.dbg.smptail + 1) % b.dbg.ring ≠ b.dbg.smphead % b.dbg.ring →
    let due := (s.modDebug bh fun d => { d with smpat := d.smpat + d.period }).modDebug bh fun d => { d with smpnext := addrOf k + 1 }
    let r := due.engineWrite .none bh (segVa (b.dbg.smpbase + 16 * b.dbg.smptail) 0) (sampleRecord due k e) 16 0 15 false
    (r.status = 0 → exec (.sample bh) s = .next (r.s.modDebug bh fun d => { d with smptail := (b.dbg.smptail + 1) % b.dbg.ring }))
    ∧ (r.status ≠ 0 → exec (.sample bh) s = .next ((r.s.modDebug bh fun d => { d with smpdrop := d.smpdrop + 1 }).modDebug bh
      fun d => { d with smpen := false })))
  ∧ (∀ r, b.dbg.events = [r] → r.time ≠ s.time → exec (.traceRecord bh) s = .next (s.setBh bh
      { b with dbg := ({ b.dbg with events := [] } : Debug).put r }))
  ∧ (value.getLsbD 31 = false → exec (.freeze value) s = .next
      { s with frzspine := value.getLsbD 30, frzmask := value.extractLsb' 0 16 })
  ∧ (value.getLsbD 31 = true → ∃ t, exec (.freeze value) s = .next t
    ∧ (∀ k < 16, (t.bh k).frozen = ((s.bh k).frozen || value.getLsbD k))
    ∧ t.spineFrozen = (s.spineFrozen || value.getLsbD 30))
  ∧ (∀ temp, bh < 16 → s.mgmt.getLsbD (bh / 4) = true → b.evalAt ≤ s.cycle → heartLost s b = false →
    let old := stepInForce s b
    let after (new : Nat) (hot : Bool) : State := s.setBh bh { b with
      temp := temp, step := old, nextStep := new, stepSince := s.cycle, evalAt := b.evalAt + 270000,
      trip := b.trip || hot, flush := b.flush || hot }
    (temp.toNat < 110 →
      let new := max b.floor (if 95 ≤ temp.toNat then min (old + 1) 7 else if temp.toNat ≤ 90 then max (old - 1) b.floor else old)
      exec (.thermalEvaluation bh temp) s = .next
        (if new = old then after new false else (after new false).raiseMsi 0 3))
    ∧ (110 ≤ temp.toNat → exec (.thermalEvaluation bh temp) s = .next
        (let r := ((after (max b.floor old) true).startReset bh).raiseMsi 0 3
         if max b.floor old = old then r else r.raiseMsi 0 3)))

/-- R366-R370 and R68: a vector that is unmasked sends the message it has kept; links and ports change their bits; requests
of a spine error end with LINK_FAULT; a register takes its fields where its function may write it, a 32-bit write leaves the
other half of a 64-bit register, and a write where no register lies changes nothing. R377, R370, R177 and R379: at a package reset
both firmwares are verified: where both verify, SEC is set and the four management elements are released; else MGMT is 0 and no
bulkhead is READY. The responder answers once it is ready: versions 1.3 only, no secure
sessions, the digest of the certificate of slot 0, the measurements of 24 R379. The model's choices: the order of the steps of a
boot, and which bits wait for which (logs 88 and 131), the width of register accesses (log 97: those of SDADDR of section 14 and
SAVEAREA of section 19 too), the bytes of the messages (log 16), the list that shows a spine error and its routes (log 125). -/
def Obligations.HostBootAndAttestation : Prop := (∀ (s : State) (fn port n : Nat) (v : BitVec 64),
  let f := s.fn fn
  (n < 4 →
    let rest : Function := { f with
      msiMask := f.msiMask &&& ~~~(BitVec.ofNat 4 (2 ^ n)), msiPending := f.msiPending &&& ~~~(BitVec.ofNat 4 (2 ^ n)) }
    (f.msiPending.getLsbD n = true → exec (.msixUnmask fn n) s = .next (s.setFn fn { rest with msiSent := f.msiSent ++ [n] }))
    ∧ (f.msiPending.getLsbD n = false → exec (.msixUnmask fn n) s = .next (s.setFn fn rest)))
  ∧ (port < 2 →
    (∃ t, exec (.cxlLinkDown port) s = .next t ∧ ∀ j < 2, t.cxl.getLsbD j = (s.cxl.getLsbD j && decide (j ≠ port)))
    ∧ (∃ t, exec (.cxlLinkUp port) s = .next t ∧ ∀ j < 2, t.cxl.getLsbD j = (s.cxl.getLsbD j || decide (j = port))))
  ∧ (port < 16 →
    (∃ t, exec (.ualinkPortReady port) s = .next t ∧ ∀ j < 16, t.ualrdy.getLsbD j = (s.ualrdy.getLsbD j || decide (j = port)))
    ∧ ∃ t, exec (.ualinkPortFail port) s = .next t
      ∧ (∀ j < 16, t.ualrdy.getLsbD j = (s.ualrdy.getLsbD j && decide (j ≠ port)))
      ∧ (∀ b < 16, (t.bh b).portal = (s.bh b).portal.filter fun p => decide (p.port ≠ some port)
        ∧ ∀ p ∈ (s.bh b).portal, p.port = some port →
          ∃ r ∈ (t.bh (bhOf p.elem)).replies, r.elem = p.elem ∧ r.id = p.id ∧ r.status = 0x0F)
      ∧ (∀ g, ∀ r ∈ (t.fn g).remote, r.port = some port → r.reply = none → remoteInside s g r = true)
      ∧ ((s.works.map Prod.fst).Nodup → ∀ p ∈ s.works, p.2.port = some port →
          tget? t.works p.1 = some (p.2.answer { status := 0x0F })))
  ∧ (∃ t, exec (.spineUncorrectableError n) s = .next t
    ∧ t.spineErrors = s.spineErrors ++ [(n, s.spineTime)] ∧ t.mem = s.mem
    ∧ (∀ p ∈ t.packets, p ∈ s.packets)
    ∧ (∀ p ∈ s.packets, p ∉ t.packets → ∀ a, p.atomic = some a → a.peer = none →
        ∀ r ∈ (t.fn a.srcFn).remote, r.ticket = a.ticket → r.reply ≠ none)
    ∧ (∀ k, ∀ r ∈ (t.slice k).arrivals, r ∈ (s.slice k).arrivals)
    ∧ ∀ k, ∀ r ∈ (s.slice k).arrivals, r.src.bulkhead = k / 8 → r ∈ (t.slice k).arrivals)
  ∧ (fn ≤ 64 →
    exec (.registerWrite fn 0 0x200010 true v) s = .next (s.setFn fn { f with freemem := v.extractLsb' 0 32 })
    ∧ exec (.registerWrite fn 0 0x200020 true v) s = .next (s.setFn fn { f with sdaddr := bits v.toNat 12 45 * 4096 })
    ∧ exec (.registerWrite fn 0 0x200030 true v) s = .next
        (s.setFn fn { f with saveV := v.getLsbD 63, saveBase := bits v.toNat 12 45 * 4096 })
    ∧ exec (.registerWrite fn 0 0x200018 true v) s = .next s
    ∧ (fn ≠ 0 → exec (.registerWrite fn 2 port true v) s = .next s)
    ∧ (f.sdaddr % 4096 = 0 → f.sdaddr < 2 ^ 57 → ∃ t, exec (.registerWrite fn 0 0x200024 false v) s = .next t
      ∧ (t.fn fn).sdaddr = f.sdaddr % 2 ^ 32 + v.toNat % 2 ^ 25 * 2 ^ 32))
  ∧ (64 < fn → exec (.registerWrite fn port n true v) s = .next s))
  ∧ (∀ (s : State) (mgmtOk : BitVec 4) (request : List Byte),
  let answers (code : Nat) (facts : List Byte) : State :=
    { s with spdm := s.spdm ++ [(code, Config.spdmMessage code request facts)] }
  (∃ t, exec (.powerOnBoot true 15) s = .next t ∧ t.sec = true ∧ t.mgmt = 15 ∧ t.doe = true
    ∧ (∀ die < 4, ∀ p ∈ managementPages t.firmware die, t.elem? p.1 = some p.2)
    ∧ (s.doe = false → t.bhs = s.bhs ∧ t.mem = s.mem ∧ t.fns = s.fns ∧ t.firmware = s.firmware)
    ∧ (s.doe = true → t.bhs = State.reset.bhs ∧ t.mem = State.reset.mem ∧ t.fns = State.reset.fns))
  ∧ (∀ ok, ok = false ∨ mgmtOk ≠ 15 → s.doe = true ∨ s.sec = false → ∃ t, exec (.powerOnBoot ok mgmtOk) s = .next t
    ∧ t.mgmt = 0 ∧ t.sec = false ∧ t.doe = true ∧ ∀ b < 16, (t.bh b).state = 5)
  ∧ (s.doe = true →
    exec (.getVersion request) s = .next (answers 0x84 [0x13])
    ∧ exec (.getCapabilities request) s = .next (answers 0xE1 [0])
    ∧ exec (.negotiateAlgorithms request) s = .next (answers 0xE3 [44, 1])
    ∧ exec (.getDigests request) s = .next (answers 0x81 (sha3 Config.identityCertificate))
    ∧ exec (.getCertificate request) s = .next (answers 0x82 Config.identityCertificate)
    ∧ exec (.challenge request) s = .next (answers 0x83 (Config.identitySign request))
    ∧ exec (.getMeasurements request) s = .next (answers 0xE0 (measurements s)))
  ∧ (s.doe = false →
    exec (.getVersion request) s = .next s ∧ exec (.getCapabilities request) s = .next s
    ∧ exec (.negotiateAlgorithms request) s = .next s ∧ exec (.getDigests request) s = .next s
    ∧ exec (.getCertificate request) s = .next s ∧ exec (.challenge request) s = .next s
    ∧ exec (.getMeasurements request) s = .next s))

/-! ## Encoding (05 R69-R80, 10 R202, 12 R226) -/

/-- R70-R76, R79: decoding the bytes of the encoding of an instruction, whatever follows them, gives the instruction back,
for every element instruction and every value of every operand. -/
def Obligations.InstructionsRoundTrip : Prop := ∀ i : Instr, Sys2Proof.Laws.RoundTrip.Statement i

/-- R202 and R226: decoding the encoding of a sequencer command or of a control token gives it back, with every value of
every field that is not reserved. -/
def Obligations.CommandsRoundTrip : Prop := (∀ i : Instr, i.isSeq = true → decodeSeq (encodeSeq i) = some i)
  ∧ ∀ i : Instr, i.isToken = true → decodeToken (encodeToken i).1 (encodeToken i).2 = some i

/-- R70-R73, R76, R79, R202 and R226: words written out from the encoding tables decode to the instructions they stand for,
and an opcode shown as a dash and a reserved field are rejected. -/
def Obligations.DecodedWords : Prop := decodeWord 0b00_0000_00000010_000000_010000_100000 0 = .ok (.addS32 ⟨0, 0⟩ (.d 0) (.i 0) (.k 0))
  ∧ decodeWord 0b01_0011_00000001_000101_000110_111111 0 = .ok (.addiS32 ⟨1, 3⟩ (.d 5) (.d 6) 0x3F)
  ∧ decodeWord 0b11_1111_11000000_011000_000001_000010 0 = .ok (.ldN32 ⟨3, 15⟩ (.o 0) (.d 1) 2)
  ∧ decodeWord 0b00_0000_00111111_000010_000000_000000 0xDEADBEEF = .ok (.lit ⟨0, 0⟩ (.d 2) 0xDEADBEEF)
  ∧ decodeWord 0b00_0000_01110000_010001_000000_000101 0 = .ok (.send ⟨0, 0⟩ (.i 1) 5)
  ∧ decodeWord 0b00_0000_11110001_000000_000000_000111 0 = .ok (.trap ⟨0, 0⟩ 7)
  ∧ decodeWord 0b00_0000_00000000_000000_000000_000000 0 = .error (.unassigned 0)
  ∧ decodeWord 0b00_0000_00000110_000000_000000_000001 0 = .error (.reserved 6)
  ∧ decodeSeq 0b00001_010_00010000000000000000000001000000_000000001111_000000000001 =
      some (.streamRd 2 0x10000040 15 1)
  ∧ decodeToken 0b0100_101_0000000000000000000000000 0 = some (.rpop 5)

/-! ## The step (06 R91, 10 R201, 12 R220, 03 R37, 14 R248) -/

/-- What a step runs. An element whose picker has chosen a slot runs the instruction that the slot's word, and for a literal
form the next slot's, decodes to; a sequencer the command it executes, an island the token at the head of its queue, both
one attempt in a cycle; a queue a command that its doorbell has announced, or else the current node of its graph or its head
command; a step of another part runs where its clock does, and an element or a home slice moves once in a cycle. Which agent
moves next is the agenda's (log 1, a DESIGN CHOICE). -/
def Obligations.StepRunsDecoded : Prop := ∀ (s : State) (turn : Turn) (rest : List Turn), s.agenda = turn :: rest →
  let u : State := { s with agenda := rest }
  (∀ key e n beat, turn = .elem key → u.elem? key = some e → clockRuns u (bhOf key) = true → e.issue = none →
    fires u key e = some (n, beat) → breaksAt u key e n = false → (u.elemCount key).counted u.cycle = false →
    let lit : Word := if n < 31 ∧ e.page.kind (n + 1) = 2 then e.page.slot (n + 1) else 0
    ∀ i, e.page.kind n = 1 → decodeWord (e.page.slot n) lit = .ok i →
      step s = exec i { u with focus := .elem key n (e.page.slot n) lit })
  ∧ (∀ k c i, turn = .sequencer k → clockRuns u (k / 64) = true → throttled u (k / 64) = false → tileRuns u k = true →
    (u.tile k).seqAt ≤ u.cycle → ((u.tile k).current ≠ none ∨ (u.tile k).serving = false) → (u.tile k).command = some c →
    decodeSeq c = some i → step s = exec i { u with focus := .sequencer k })
  ∧ (∀ k c more i, turn = .sequencer k → clockRuns u (k / 64) = true → throttled u (k / 64) = false → tileRuns u k = true →
    (u.tile k).seqAt ≤ u.cycle → (u.tile k).current = none → (u.tile k).serving = true → (u.tile k).cmdq = c :: more →
    decodeSeq (c.hi ++ c.lo) = some i →
    step s = exec i { u.setTile k { u.tile k with current := some c, cmdq := more } with focus := .sequencer k })
  ∧ (∀ k c more i, turn = .island k → clockRuns u (k / 4) = true → throttled u (k / 4) = false →
    (u.island k).queue = c :: more → decodeToken c.hi c.lo = some i → step s = exec i { u with focus := .island k })
  ∧ (∀ q, turn = .queue q → u.spineFrozen = true ∨ queueWalks u q = true → step s = .next u)
  ∧ (∀ q, turn = .queue q → u.spineFrozen = false → queueWalks u q = false →
    let h := u.queue q
    (h.unread = true → h.takenAt ≠ some u.spine → step s = execQdb h.qmapTag h.qmapLocal h.tail u)
    ∧ (h.unread = false ∨ h.takenAt = some u.spine →
      (∀ g n, h.graph = some g → g.nodes[g.current]? = some n → step s = exec n.instr { u with focus := .queue q })
      ∧ (∀ a more, h.graph = none → h.accepted = a :: more → step s = exec a.cmd.instr { u with focus := .queue q })))
  ∧ (∀ i, turn = .event i → isStep i = true → mayHappen u i = true → step s = exec i { u with focus := .none })
  ∧ (∀ n, turn = .cycles n → step s = .next (u.passCycles n) ∧ (u.passCycles n).cycle = u.cycle + n)

/-! ## Frames (05 R77, 06 R85-R88, 10 R193, R195) -/

/-- R77, R85, R193, R195: what a beat leaves unchanged. A plain instruction changes nothing outside its element but what its
links take: input ports that its own tokens enter, the sink log, the debug block and the fault queue of its bulkhead; in its
element the constants, the record, every register, predicate and output port that no field of it writes, and every flag
already raised where no field writes fl. No element instruction but spawn changes a byte of memory, of a cached line or of a
scratchpad: a store is applied later. -/
def Obligations.ElementFrame : Prop := ∀ (i : Instr) (f : Form) (s t : State) (key slot : Nat) (w lit : Word) (e : Elem),
  formOf i = some f → s.focus = .elem key slot w lit → s.elem? key = some e → exec i s = .next t →
  (plainInstr i = true →
    ({ t with elems := s.elems, bhs := s.bhs, elemCounts := s.elemCounts } : State) = s
    ∧ (∀ b, b ≠ bhOf key → t.bh b = s.bh b)
    ∧ (let b := s.bh (bhOf key)
       { t.bh (bhOf key) with sink := b.sink, sinkcnt := b.sinkcnt, dbg := b.dbg, faults := b.faults } = b)
    ∧ (∀ k, k ≠ key → s.elem? k = none → t.elem? k = none)
    ∧ (∀ k e', k ≠ key → s.elem? k = some e' → ∃ q, t.elem? k = some { e' with inp := q })
    ∧ ∃ e', t.elem? key = some e' ∧ e'.consts = e.consts ∧ e'.record = e.record
      ∧ (∀ n < 16, f.fields.any (fieldWritesReg n) = false → e'.regs.getD n 0 = e.regs.getD n 0)
      ∧ (∀ n < 8, f.fields.any (fieldWritesPred n) = false → e'.preds.getD n false = e.preds.getD n false)
      ∧ (∀ n < 8, f.fields.any (fieldWritesPort n) = false →
          (∀ l ∈ (s.bh (bhOf key)).links, l.prod = addrOf key → l.prodPort ≠ n ∨ l.cons ≠ addrOf key) →
          e'.out.getD n [] = e.out.getD n [])
      ∧ ((f.fields.any fun x => x.write && x.op == .fl) = false → e.fl &&& e'.fl = e.fl))
  ∧ ((∀ t d a b, i ≠ .spawn t d a b) →
    t.mem = s.mem ∧ t.slices = s.slices ∧ ∀ k, (t.tile k).scratch = (s.tile k).scratch)

/-- R199, R248, R182 and R183: where a store goes. The oldest store of a buffer writes its bytes, little-endian, at the
offset it carries and no other byte of the scratchpad; a touch of a guard granule writes none; no other scratchpad and no
memory changes. A write at the head of an arrival queue writes its bytes of the line that its home slice holds, or fetches
with no line leaving the slice, and every other byte reads as before. -/
def Obligations.StoredBytes : Prop := ∀ (s : State) (k : Nat),
  (∀ x rest, (s.tile k).sbuf = x :: rest → x.scratch = true → bankServes s k x.addr = true → ∃ t, exec (.storeBufferDrain k) s = .next t
    ∧ t.mem = s.mem ∧ t.slices = s.slices ∧ (∀ j, j ≠ k → (t.tile j).scratch = (s.tile j).scratch)
    ∧ (∀ a, a < x.addr ∨ x.addr + x.size ≤ a → (t.tile k).scratch.get a = (s.tile k).scratch.get a)
    ∧ ((s.tile k).guarded x.addr x.size = false →
        ∀ j < x.size, (t.tile k).scratch.get (x.addr + j) = BitVec.ofNat 8 (x.data / 2 ^ (8 * j)))
    ∧ ((s.tile k).guarded x.addr x.size = true → (t.tile k).scratch = (s.tile k).scratch))
  ∧ (∀ r rest size data, (s.slice k).arrivals = r :: rest → r.op = .write size data → gated s (k / 8) = false →
    cxlUp s (reqHome s k r.pa) = true → 0 < size → r.pa / 256 = (r.pa + size - 1) / 256 →
    ((s.slice k).cache.any (·.line == r.pa / 256) = true
      ∨ ((s.slice k).cache.filter fun l => Machine.setOf l.line == Machine.setOf (r.pa / 256)).length < 16) →
    ∃ t, exec (.homeSliceApply k) s = .next t ∧ t.mem = s.mem ∧ t.tiles = s.tiles
      ∧ (∀ j, j ≠ k → (t.slice j).cache = (s.slice j).cache)
      ∧ (∀ a, a < r.pa ∨ r.pa + size ≤ a → sliceByte t k a = sliceByte s k a)
      ∧ ∀ j < size, sliceByte t k (r.pa + j) = BitVec.ofNat 8 (data / 2 ^ (8 * j)))

/-! ## Taking an exception (19 R322, R323, R335) -/

/-- R322, R323 and R335: taking the exception of an element writes its FLT (code, slot, imprecise bit, the count of its
faults up to 31, twelve bits of detail) and FLTADDR, stops it, and its record enters the fault controller of its bulkhead,
behind those of earlier cycles and among those of its cycle by element address, before engines and graphs; nothing else of
the element and no other element changes. A fault of a killed element is discarded (R326). -/
def Obligations.TakingAnException : Prop := ∀ (s : State) (key slot code detail addr : Nat) (imprecise : Bool) (e : Elem), s.elem? key = some e →
  let t := s.raiseElem key slot code imprecise detail addr
  (e.killed = false → ∃ e', t.elem? key = some e' ∧ elemRuns t key e' = false
    ∧ bits e'.flt.toNat 24 8 = code % 256 ∧ bits e'.flt.toNat 19 5 = slot % 32 ∧ e'.flt.getLsbD 18 = imprecise
    ∧ bits e'.flt.toNat 12 5 = min 31 (bits e.flt.toNat 12 5 + 1) ∧ bits e'.flt.toNat 0 12 = detail % 4096
    ∧ e'.fltaddr = BitVec.ofNat 32 addr
    ∧ { e' with flt := e.flt, fltaddr := e.fltaddr, stopped := e.stopped } = e
    ∧ (∃ n r, let l := (s.bh (bhOf key)).faults
        (t.bh (bhOf key)).faults = l.take n ++ r :: l.drop n
      ∧ (∀ x ∈ l.take n, x.since = s.cycle → x.unit.rank ≤ addrOf key)
      ∧ (∀ x, l[n]? = some x → x.since = s.cycle ∧ addrOf key < x.unit.rank)
      ∧ r.unit = .elem (addrOf key) ∧ r.start = .element ∧ r.since = s.cycle
      ∧ r.code = code ∧ r.imprecise = imprecise ∧ r.detail = detail ∧ r.addr = addr)
    ∧ (∀ k, k ≠ key → t.elem? k = s.elem? k) ∧ t.mem = s.mem ∧ t.tiles = s.tiles ∧ t.slices = s.slices)
  ∧ (e.killed = true → t = s)

/-! ## Rounding (07 R127, R128, 08 R148) -/

/-- What the arithmetic of every format gives. R127, R128 and R131: a magnitude below 2^emax becomes one of the two codes next to
it: itself where it is representable, and else by the mode the nearer (with an even last bit on a tie), the smaller, the lower,
the higher, or by the generator against floor((v - a) / (b - a) * 2^32); NX is raised where it is another value, and UF where it
is tiny. Above, overflow is by mode with OF and NX. That a magnitude between the largest finite one and 2^emax rounds as the
others do is the model's reading (log 8, DEDUCED), and which inexact results within a factor of two of the smallest normal
magnitude are tiny (log 7) is left out. R130, R148, R154, R159: sums, products, multiply-adds, dot products, quotients and
square roots are formed exactly and rounded once, with the NaN, invalid, infinite and zero results of their rules; R149, R151,
R152: minimum and maximum, the class mask, rounding to an integral value; R161-R165: the seeds, bit for bit. -/
def Obligations.RoundedResults : Prop :=
  (∀ (f : Fmt) (mode : RMode) (r : Nat) (neg : Bool) (num : Nat) (exp : Int), ieeeFormat f → num ≠ 0 →
    Rounds f mode r neg (exactUnits f num exp) (f.round mode r neg num exp false))
  ∧ (∀ (f : Fmt) (mode : RMode) (r a b : Nat), ieeeFormat f →
    (a % f.signBit < f.infMag → b % f.signBit < f.infMag →
      let e : Int := 1 - f.bias - f.frac
      (units f a + units f b ≠ 0 → fadd f mode r a b =
        f.round mode r (decide (units f a + units f b < 0)) (units f a + units f b).natAbs e false)
      ∧ (units f a - units f b ≠ 0 → fsub f mode r a b =
        f.round mode r (decide (units f a - units f b < 0)) (units f a - units f b).natAbs e false)
      ∧ (units f a * units f b ≠ 0 → fmul f mode r a b =
        f.round mode r (decide (units f a * units f b < 0)) (units f a * units f b).natAbs (2 * e) false))
    ∧ (let ops := [(f, a), (f, b)]
      let x := Term.of f a
      let z := Term.of f b
      SumOf f mode r ops false [x, z] (fadd f mode r a b)
      ∧ SumOf f mode r ops false [x, z.opposite] (fsub f mode r a b)
      ∧ SumOf f mode r ops (x.invalid z) [x.times z] (fmul f mode r a b)
      ∧ ∀ (minus : Bool) (d : Nat),
        SumOf f mode r (ops ++ [(f, d)]) (x.invalid z) [Term.of f d, if minus then (x.times z).opposite else x.times z]
          (fmac f mode r minus a b d))
    ∧ LesserOf f false a b (fminmax f false a b) ∧ LesserOf f true a b (fminmax f true a b))
  ∧ (∀ (h : Fmt) (mode : RMode) (r a b : Nat) (d : Option Nat), h = fmtFP16 ∨ h = fmtBF16 →
    let lane (w k : Nat) := w / 65536 ^ k % 65536
    let x (k : Nat) := Term.of h (lane a k)
    let z (k : Nat) := Term.of h (lane b k)
    SumOf fmt32 mode r ([(h, lane a 0), (h, lane b 0), (h, lane a 1), (h, lane b 1)] ++ d.toList.map fun c => (fmt32, c))
      ((x 0).invalid (z 0) || (x 1).invalid (z 1)) ([(x 0).times (z 0), (x 1).times (z 1)] ++ d.toList.map (Term.of fmt32))
      (fdot h mode r a b d))
  ∧ (∀ (mode : RMode) (r a b : Nat), QuotientOf fmt64 mode r a b (fdiv fmt64 mode r a b)
    ∧ RootOf fmt64 mode r a (fsqrt fmt64 mode r a)
    ∧ IntegralOf mode r a (frnd mode r a))
  ∧ ∀ a : Nat, fclass a = 2 ^ classOf a ∧ RootSeedOf a (frsqs a) ∧ ReciprocalSeedOf a (frcps a)
    ∧ ExponentialSeedOf a (fex2s a) ∧ LogarithmSeedOf a (flg2s a)

/-! ## Memory and reset (09 R174, R179, 04 R46-R53, R65, 24 R377) -/

/-- Memory in its canonical form (log 3, a DESIGN CHOICE) is the same data exactly where every byte is the same, and a write
of n bytes leaves the number written, modulo 256^n, at its address and every other byte as it was. -/
def Obligations.MemoryBytes : Prop := (∀ m n : Mem, m.wf = true → n.wf = true → (∀ a, m.get a = n.get a) → m = n)
  ∧ (∀ (m : Mem) (a v n : Nat), (m.write a v n).read a n = v % 256 ^ n
    ∧ ∀ b, b < a ∨ a + n ≤ b → (m.write a v n).get b = m.get b)
  ∧ ∀ (m cells : Mem) (a n b : Nat),
    (m.splice a n cells).get b = if a ≤ b ∧ b < a + n then cells.get b else m.get b

/-- What the spec gives for power-on. R46, R65: every bulkhead is unassigned and READY; R53: no pool has a current entry;
R50: a pool is disabled with a tick of 100; R49: every partition key is 0; R56: no network is in force; R179: a segment
register has V and WR 0, READS 15 and a length of 2^12; R377: MGMT and SEC are 0 before the boot; R66: the bulkhead's clock
runs. Both invariants hold after power-on. -/
def Obligations.ResetState : Prop := (let s := State.reset
  (∀ b, (s.bh b).mode = 0 ∧ (s.bh b).state = 6 ∧ (s.bh b).load = none ∧ gated s b = true ∧ holder s b = none
    ∧ (s.bh b).step = 0 ∧ (s.bh b).trip = false ∧ clockRuns s b = true)
  ∧ (∀ p, (s.pool p).current = none ∧ (s.pool p).en = false ∧ (s.pool p).tick = 100)
  ∧ (∀ f, (s.fn f).fkey = 0) ∧ (∀ n, (s.ovnOf n).on = false)
  ∧ (∀ k n, (s.tile k).seg n = 0xF0C) ∧ s.mgmt = 0 ∧ s.sec = false ∧ s.doe = false ∧ s.frzmask = 0)
  ∧ (Canonical State.reset ∧ SetUp State.reset)

/-! ## Invariants of every step -/

/-- The canonical form of memory is kept by every step, from every state that has it. -/
def Obligations.MemoryKept : Prop := ∀ s t : State, Canonical s → step s = .next t → Canonical t

/-- R176, R61, R56, R377: what the set-up registers hold is kept by every step: reserved fields of the CXL map stay 0,
gazetteer entries name a device and a bulkhead, a network in force has 8 to 256 slots, and no management element
is released while SEC is 0. -/
def Obligations.SetUpKept : Prop := ∀ s t : State, SetUp s → step s = .next t → SetUp t
end

