-- ==== Sys2Proof/Laws/Beat.lean ====
section
/-!
SUPPORT. What `runBeat` does with a beat that may run: one lemma per way a beat ends, and one per shape of body.
-/
namespace Sys2Proof.Laws
open Sys2Proof Sys2Proof.Machine Sys2Proof.Safety

theorem focusElem_some {f : Focus} {k : Nat} (h : focusElem f = some k) : ∃ a b c, f = .elem k a b c := by
  cases f <;> simp [focusElem] at h
  subst h
  exact ⟨_, _, _, rfl⟩

/-- A beat that may run is run. -/
theorem runBeat_ready {x : Beat} {i : Instr} {t : Trig} {s : State} (body : Body) (h : x.Ready i t s) :
    runBeat i t body s = .next (runIssue x.form body s x.key x.start x.run) := by
  obtain ⟨key, e, form, slot, word, lit, heddle, n, beat, wait, withdrawn, held, since⟩ := x
  obtain ⟨he, hf, hc, hr, -, h | h⟩ := h
  · obtain ⟨h1, h2, h3, h4, h5⟩ := h
    simp only at h1 h2 h3 h4 he hf hc hr
    simp only [Issue.mk.injEq, true_and] at h5
    obtain ⟨h5, h6, h7, h8, h9, h10, h11⟩ := h5
    subst h5 h6 h7 h8 h9 h10 h11
    simp [runBeat, h3, he, hf, hc, h1, hr, h2, h4, Beat.start]
  · obtain ⟨h1, h2, h2', h3', h4, h5, h6⟩ := h
    obtain ⟨a, b, c, h3⟩ := focusElem_some h3'
    simp only at h1 h2 h2' h3 h4 h5 h6 he hf hc hr
    simp [runBeat, h3, he, hf, hc, h1, hr, h2, h2', h4, h5, h6, Beat.start]

theorem beat_parity {x : Beat} {i : Instr} {t : Trig} {s : State} (h : x.Ready i t s) : x.start.parity = false := by
  have := h.2.2.2.2.1
  unfold Beat.start
  split <;> simpa using this

/-- A beat whose effect is complete. -/
theorem runBeat_done {x : Beat} {i : Instr} {t : Trig} {s : State} {body : Body} (h : x.Ready i t s) {s' : State}
    {e' : Elem} (hb : body s x.key x.reads = { s := s', e := e', stop := .done }) :
    runBeat i t body s = .next (x.ends s' e') := by
  rw [runBeat_ready body h]
  simp only [runIssue, beat_parity h, Bool.false_eq_true, if_false, hb]

/-- A beat that holds for the reply to a request. -/
theorem runBeat_await {x : Beat} {i : Instr} {t : Trig} {s : State} {body : Body} (h : x.Ready i t s) {s' : State}
    {e' : Elem} {id : Nat} (hb : body s x.key x.reads = { s := s', e := e', stop := .await id }) :
    runBeat i t body s = .next ((s'.countFire x.key x.run.slot x.run.beat).setElem x.key
      { e' with issue := some { x.run with wait := some id } }) := by
  rw [runBeat_ready body h]
  simp only [runIssue, beat_parity h, Bool.false_eq_true, if_false, hb]

/-- A beat that lacks room. -/
theorem runBeat_hold {x : Beat} {i : Instr} {t : Trig} {s : State} {body : Body} (h : x.Ready i t s) {s' : State}
    {e' : Elem} (hb : body s x.key x.reads = { s := s', e := e', stop := .hold }) :
    runBeat i t body s =
      .next (s.setElem x.key { x.start with issue := some (x.run.hold s.spine) }) := by
  rw [runBeat_ready body h]
  simp only [runIssue, beat_parity h, Bool.false_eq_true, if_false, hb]

/-- A beat that takes an exception. -/
theorem runBeat_fault {x : Beat} {i : Instr} {t : Trig} {s : State} {body : Body} (h : x.Ready i t s) {s' : State}
    {e' : Elem} {code detail addr : Nat}
    (hb : body s x.key x.reads = { s := s', e := e', stop := .fault code detail addr }) :
    runBeat i t body s = .next (x.takes s code detail addr) := by
  rw [runBeat_ready body h]
  simp only [runIssue, beat_parity h, Bool.false_eq_true, if_false, hb]

/-- A beat that writes one value. -/
theorem runBeat_write {x : Beat} {i : Instr} {t : Trig} {s : State} (h : x.Ready i t s) (d : Operand)
    (f : State → Reads → FRes) :
    runBeat i t (writeBody d f) s = .next (x.ends s
      (x.put s x.reads.e d (BitVec.ofNat 32 (f s x.reads).bits) (f s x.reads).flags (f s x.reads).ufZero)) :=
  runBeat_done h rfl

/-- A beat that writes a pair. -/
theorem runBeat_write2 {x : Beat} {i : Instr} {t : Trig} {s : State} (h : x.Ready i t s) (d : Operand)
    (f : State → Reads → FRes) :
    runBeat i t (writeBody2 d f) s = .next (x.ends s
      (x.putPair s x.reads.e d (f s x.reads).bits (f s x.reads).flags (f s x.reads).ufZero)) :=
  runBeat_done h rfl

/-- A beat that writes a word without flags. -/
theorem runBeat_word {x : Beat} {i : Instr} {t : Trig} {s : State} (h : x.Ready i t s) (d : Operand)
    (f : Reads → Word) :
    runBeat i t (wordBody d f) s = .next (x.ends s (x.put s x.reads.e d (f x.reads) 0 false)) := by
  have := runBeat_write h d fun _ r => .exact (f r).toNat
  simpa only [wordBody, FRes.exact, BitVec.ofNat_toNat, BitVec.setWidth_eq] using this

/-! ## The next beat of an issue (06 R93) -/

theorem of_false_eq_true {P : Prop} : false = true → P := fun h => Bool.noConfusion h

/-- VECTOR_BEAT runs what a slot would run. -/
theorem runElement_eq (i : Instr) (s : State) : (formOf i).isSome = true → runElement i s = exec i s := by
  cases i <;> first | exact of_false_eq_true | exact fun _ => rfl

end Sys2Proof.Laws
end

