-- ==== Sys2Proof/Laws/Tables.lean ====
section
/-!
SUPPORT. Tables by key: what is read after an entry has been put in its place, replaced or removed, and their order.
-/
namespace Sys2Proof.Laws
open Sys2Proof Sys2Proof.Machine

variable {α : Type}

@[simp] theorem tget?_tset (t : Tab α) (n : Nat) (x : α) : tget? (tset t n x) n = some x := by
  induction t with
  | nil => simp [tset, tget?]
  | cons p t ih =>
    obtain ⟨k, v⟩ := p
    simp only [tset]
    split
    · simp [tget?]
    · split
      · simp [tget?]
      · simp [tget?, *]

theorem tget?_tset_ne (t : Tab α) {n m : Nat} (x : α) (h : m ≠ n) : tget? (tset t n x) m = tget? t m := by
  induction t with
  | nil => simp [tset, tget?, Ne.symm h]
  | cons p t ih =>
    obtain ⟨k, v⟩ := p
    simp only [tset]
    split
    · next hk => subst hk; simp [tget?, Ne.symm h]
    · split
      · simp [tget?, Ne.symm h]
      · simp [tget?, ih]

@[simp] theorem tget_tset (t : Tab α) (n : Nat) (x d : α) : tget (tset t n x) n d = x := by simp [tget]

theorem tget_tset_ne (t : Tab α) {n m : Nat} (x d : α) (h : m ≠ n) : tget (tset t n x) m d = tget t m d := by
  simp [tget, tget?_tset_ne t x h]

@[simp] theorem tset_tset (t : Tab α) (n : Nat) (x y : α) : tset (tset t n x) n y = tset t n y := by
  induction t with
  | nil => simp [tset]
  | cons p t ih =>
    obtain ⟨k, v⟩ := p
    simp only [tset]
    split
    · simp [tset]
    · split
      · simp [tset]
      · simp [tset, *]

theorem tget_of_some {t : Tab α} {n : Nat} {x d : α} (h : tget? t n = some x) : tget t n d = x := by simp [tget, h]

@[simp] theorem tget?_nil (n : Nat) : tget? ([] : Tab α) n = none := rfl

@[simp] theorem tget?_tdel (t : Tab α) (n : Nat) : tget? (tdel t n) n = none := by
  induction t with
  | nil => rfl
  | cons p t ih =>
    obtain ⟨k, v⟩ := p
    by_cases h : k = n
    · simp_all [tdel]
    · simp_all [tdel, tget?]

theorem tget?_tdel_ne (t : Tab α) {n m : Nat} (h : m ≠ n) : tget? (tdel t n) m = tget? t m := by
  induction t with
  | nil => rfl
  | cons p t ih =>
    obtain ⟨k, v⟩ := p
    by_cases hk : k = n
    · subst hk
      have : tget? (tdel ((k, v) :: t) k) m = tget? (tdel t k) m := by simp [tdel]
      rw [this, ih]
      simp [tget?, Ne.symm h]
    · have : tdel ((k, v) :: t) n = (k, v) :: tdel t n := by simp [tdel, hk]
      rw [this]
      simp [tget?, ih]

end Sys2Proof.Laws
end

