-- ==== Sys2Proof/Laws/Memory.lean ====
section
/-! SUPPORT. What every table and memory operation does: reads after writes, and the canonical form of memory kept. -/

namespace Sys2Proof.Laws

open Sys2Proof Sys2Proof.Machine

/-! ## Tables -/

theorem tget?_tset_if {α : Type} (t : Tab α) (n k : Nat) (x : α) :
    tget? (tset t n x) k = if n = k then some x else tget? t k := by
  split
  · next h => rw [← h, tget?_tset]
  · next h => exact tget?_tset_ne t x (Ne.symm h)

theorem tget_tset_if {α : Type} (t : Tab α) (n k : Nat) (x d : α) :
    tget (tset t n x) k d = if n = k then x else tget t k d := by
  simp only [tget, tget?_tset_if]
  split <;> rfl

theorem tget?_tdel_if {α : Type} (t : Tab α) (n k : Nat) :
    tget? (tdel t n) k = if n = k then none else tget? t k := by
  split
  · next h => rw [← h, tget?_tdel]
  · next h => exact tget?_tdel_ne t (Ne.symm h)

theorem tget?_filterKey {α : Type} (t : Tab α) (p : Nat → Bool) (n : Nat) :
    tget? (t.filter fun c => p c.1) n = if p n then tget? t n else none := by
  induction t with
  | nil => simp [tget?]
  | cons c t ih =>
    obtain ⟨k, v⟩ := c
    by_cases hk : k = n
    · subst hk
      cases h : p k <;> simp [h, tget?, ih]
    · cases h : p k <;> simp [h, tget?, hk, ih]

/-- What a table lists after an entry is put in: the new entry, or one it listed. -/
theorem mem_tset {α : Type} {t : Tab α} {n : Nat} {x : α} {p : Nat × α} (h : p ∈ tset t n x) :
    p = (n, x) ∨ p ∈ t := by
  induction t with
  | nil => exact .inl (by simpa [tset] using h)
  | cons c t ih =>
    obtain ⟨m, v⟩ := c
    simp only [tset] at h
    split at h
    · rcases List.mem_cons.1 h with h | h
      · exact .inl h
      · exact .inr (List.mem_cons_of_mem _ h)
    · split at h
      · exact List.mem_cons.1 h
      · rcases List.mem_cons.1 h with h | h
        · exact .inr (h ▸ List.mem_cons_self ..)
        · exact (ih h).imp_right (List.mem_cons_of_mem _)

/-- An entry that a table gives is listed. -/
theorem tget?_mem {α : Type} {t : Tab α} {n : Nat} {x : α} (h : tget? t n = some x) : (n, x) ∈ t := by
  induction t with
  | nil => simp [tget?] at h
  | cons c t ih =>
    obtain ⟨m, v⟩ := c
    simp only [tget?] at h
    split at h
    · rename_i hm
      cases h
      simp [hm]
    · exact List.mem_cons_of_mem _ (ih h)

/-- Every entry keeps a property that every old one and the new one have. -/
theorem forall_tset {α : Type} {t : Tab α} {n : Nat} {x : α} {P : Nat × α → Prop} (h : ∀ p ∈ t, P p) (hx : P (n, x)) :
    ∀ p ∈ tset t n x, P p := fun _ hp => (mem_tset hp).elim (fun e => e ▸ hx) (h _)

/-- What a table gives for a key has a property that every entry has, or is the default. -/
theorem tget_prop {α : Type} {t : Tab α} {P : α → Prop} (h : ∀ p ∈ t, P p.2) {d : α} (hd : P d) (n : Nat) :
    P (tget t n d) := by
  cases hx : tget? t n with
  | none => simpa [tget, hx] using hd
  | some x => simpa [tget, hx] using h _ (tget?_mem hx)

/-! ## Bytes -/

/-- A byte read after a byte was written (log 3: a byte of 0 is read from an address that is not listed). -/
theorem Mem_get_set (m : Mem) (a b : Nat) (x : Byte) : (m.set a x).get b = if a = b then x else m.get b := by
  unfold Mem.set Mem.get
  by_cases hx : x = 0
  · simp only [hx, if_true, tget, tget?_tdel_if]
    split <;> rfl
  · simp only [hx, if_false, tget_tset_if]

/-! ## The canonical form -/

/-- The canonical form, as rising addresses and no listed byte of 0. -/
theorem Mem_wf_iff (m : Mem) : m.wf = true ↔ (∀ c ∈ m, c.2 ≠ 0) ∧ m.Pairwise fun c d => c.1 < d.1 := by
  induction m with
  | nil => simp [Mem.wf]
  | cons c m ih =>
    cases m with
    | nil => simp [Mem.wf]
    | cons d m =>
      simp only [Mem.wf, Bool.and_eq_true, bne_iff_ne, decide_eq_true_eq, ih]
      constructor
      · rintro ⟨⟨hc, hcd⟩, hz, hp⟩
        refine ⟨fun e he => (List.mem_cons.1 he).elim (fun e => e ▸ hc) (hz _), List.pairwise_cons.2 ⟨?_, hp⟩⟩
        intro e he
        rcases List.mem_cons.1 he with rfl | he
        · exact hcd
        · exact hcd.trans ((List.pairwise_cons.1 hp).1 e he)
      · rintro ⟨hz, hp⟩
        have hp' := List.pairwise_cons.1 hp
        exact ⟨⟨hz c (by simp), hp'.1 d (by simp)⟩, fun e he => hz e (List.mem_cons_of_mem _ he), hp'.2⟩

theorem Mem_wf_nil : Mem.wf [] = true := rfl

theorem Mem_wf_filter {m : Mem} (h : m.wf = true) (p : Host.Cell → Bool) : Mem.wf (m.filter p) = true := by
  rw [Mem_wf_iff] at *
  exact ⟨fun c hc => h.1 c (List.mem_filter.1 hc).1, h.2.filter _⟩

theorem Mem_wf_slice {m : Mem} (h : m.wf = true) (a n : Nat) : (m.slice a n).wf = true := Mem_wf_filter h _

theorem tset_pairwise {α : Type} {t : Tab α} (h : t.Pairwise fun c d => c.1 < d.1) (n : Nat) (x : α) :
    (tset t n x).Pairwise fun c d => c.1 < d.1 := by
  induction t with
  | nil => simp [tset]
  | cons c t ih =>
    obtain ⟨k, v⟩ := c
    obtain ⟨h1, h2⟩ := List.pairwise_cons.1 h
    simp only [tset]
    split
    · rename_i hk
      exact List.pairwise_cons.2 ⟨fun e he => hk ▸ h1 e he, h2⟩
    · split
      · rename_i hn
        refine List.pairwise_cons.2 ⟨fun e he => ?_, h⟩
        rcases List.mem_cons.1 he with rfl | he
        · exact hn
        · exact hn.trans (h1 e he)
      · refine List.pairwise_cons.2 ⟨fun e he => ?_, ih h2⟩
        rcases mem_tset he with rfl | he
        · show k < n
          omega
        · exact h1 e he

theorem Mem_wf_set {m : Mem} (h : m.wf = true) (a : Nat) (b : Byte) : (m.set a b).wf = true := by
  unfold Mem.set
  split
  · exact Mem_wf_filter h _
  · rename_i hb
    rw [Mem_wf_iff] at *
    exact ⟨forall_tset h.1 hb, tset_pairwise h.2 a b⟩

theorem Mem_wf_write (n : Nat) : ∀ {m : Mem}, m.wf = true → ∀ a v : Nat, (m.write a v n).wf = true := by
  induction n with
  | zero => exact fun h _ _ => h
  | succ n ih => exact fun h a v => ih (Mem_wf_set h a _) _ _

theorem Mem_wf_splice {m cells : Mem} (h : m.wf = true) (hc : cells.wf = true) (a n : Nat) :
    (m.splice a n cells).wf = true := by
  unfold Mem.splice Mem.slice
  rw [Mem_wf_iff] at *
  refine ⟨fun c hm => ?_, List.pairwise_append.2 ⟨List.pairwise_append.2
    ⟨h.2.filter _, hc.2.filter _, fun c hm d hd => ?_⟩, h.2.filter _, fun c hm d hd => ?_⟩⟩
  · simp only [List.mem_append, List.mem_filter] at hm
    rcases hm with (hm | hm) | hm
    · exact h.1 c hm.1
    · exact hc.1 c hm.1
    · exact h.1 c hm.1
  · simp only [List.mem_filter, Bool.and_eq_true, decide_eq_true_eq] at hm hd
    omega
  · simp only [List.mem_append, List.mem_filter, Bool.and_eq_true, decide_eq_true_eq] at hm hd
    omega

end Sys2Proof.Laws
end

