-- ==== Sys2Proof/Laws/State.lean ====
section
/-!
SUPPORT. What a change of one part of the device leaves as it was: one lemma for each change, a clause for each field, and
what is read back of the part that it changes.
-/
namespace Sys2Proof.Laws
open Sys2Proof Sys2Proof.Machine

@[simp] theorem setElem_frame (s : State) (k : Nat) (e : Elem) :
    (s.setElem k e).agenda = s.agenda ∧ (s.setElem k e).asking = s.asking ∧ (s.setElem k e).fresh = s.fresh
      ∧ (s.setElem k e).focus = s.focus ∧ (s.setElem k e).cycle = s.cycle ∧ (s.setElem k e).nextId = s.nextId
      ∧ (s.setElem k e).mem = s.mem ∧ (s.setElem k e).poison = s.poison ∧ (s.setElem k e).softC = s.softC
      ∧ (s.setElem k e).softU = s.softU ∧ (s.setElem k e).tiles = s.tiles ∧ (s.setElem k e).slices = s.slices
      ∧ (s.setElem k e).islands = s.islands ∧ (s.setElem k e).streamers = s.streamers
      ∧ (s.setElem k e).hubs = s.hubs ∧ (s.setElem k e).bhs = s.bhs ∧ (s.setElem k e).fns = s.fns
      ∧ (s.setElem k e).queues = s.queues ∧ (s.setElem k e).pools = s.pools ∧ (s.setElem k e).ovns = s.ovns
      ∧ (s.setElem k e).cxlmap = s.cxlmap ∧ (s.setElem k e).engineCounts = s.engineCounts
      ∧ (s.setElem k e).elemCounts = s.elemCounts ∧ (s.setElem k e).zeroed = s.zeroed
      ∧ (s.setElem k e).gazetteer = s.gazetteer ∧ (s.setElem k e).drops = s.drops
      ∧ (s.setElem k e).dropcnt = s.dropcnt ∧ (s.setElem k e).works = s.works ∧ (s.setElem k e).packets = s.packets
      ∧ (s.setElem k e).contexts = s.contexts ∧ (s.setElem k e).s2sdaddr = s.s2sdaddr
      ∧ (s.setElem k e).s2sdctl = s.s2sdctl ∧ (s.setElem k e).s2busy = s.s2busy ∧ (s.setElem k e).s2err = s.s2err
      ∧ (s.setElem k e).s2wait = s.s2wait ∧ (s.setElem k e).s2lines = s.s2lines
      ∧ (s.setElem k e).frzspine = s.frzspine ∧ (s.setElem k e).frzmask = s.frzmask
      ∧ (s.setElem k e).spineFrozen = s.spineFrozen ∧ (s.setElem k e).sec = s.sec ∧ (s.setElem k e).mgmt = s.mgmt
      ∧ (s.setElem k e).cxl = s.cxl ∧ (s.setElem k e).doe = s.doe ∧ (s.setElem k e).isl = s.isl
      ∧ (s.setElem k e).ualrdy = s.ualrdy ∧ (s.setElem k e).keydg = s.keydg ∧ (s.setElem k e).spdm = s.spdm
      ∧ (s.setElem k e).sent = s.sent ∧ (s.setElem k e).replied = s.replied
      ∧ (s.setElem k e).spineErrors = s.spineErrors := by
  simp [State.setElem]

@[simp] theorem modElem_frame (s : State) (k : Nat) (f : Elem → Elem) :
    (s.modElem k f).agenda = s.agenda ∧ (s.modElem k f).asking = s.asking ∧ (s.modElem k f).fresh = s.fresh
      ∧ (s.modElem k f).focus = s.focus ∧ (s.modElem k f).cycle = s.cycle ∧ (s.modElem k f).nextId = s.nextId
      ∧ (s.modElem k f).mem = s.mem ∧ (s.modElem k f).poison = s.poison ∧ (s.modElem k f).softC = s.softC
      ∧ (s.modElem k f).softU = s.softU ∧ (s.modElem k f).tiles = s.tiles ∧ (s.modElem k f).slices = s.slices
      ∧ (s.modElem k f).islands = s.islands ∧ (s.modElem k f).streamers = s.streamers
      ∧ (s.modElem k f).hubs = s.hubs ∧ (s.modElem k f).bhs = s.bhs ∧ (s.modElem k f).fns = s.fns
      ∧ (s.modElem k f).queues = s.queues ∧ (s.modElem k f).pools = s.pools ∧ (s.modElem k f).ovns = s.ovns
      ∧ (s.modElem k f).cxlmap = s.cxlmap ∧ (s.modElem k f).engineCounts = s.engineCounts
      ∧ (s.modElem k f).elemCounts = s.elemCounts ∧ (s.modElem k f).zeroed = s.zeroed
      ∧ (s.modElem k f).gazetteer = s.gazetteer ∧ (s.modElem k f).drops = s.drops
      ∧ (s.modElem k f).dropcnt = s.dropcnt ∧ (s.modElem k f).works = s.works ∧ (s.modElem k f).packets = s.packets
      ∧ (s.modElem k f).contexts = s.contexts ∧ (s.modElem k f).s2sdaddr = s.s2sdaddr
      ∧ (s.modElem k f).s2sdctl = s.s2sdctl ∧ (s.modElem k f).s2busy = s.s2busy ∧ (s.modElem k f).s2err = s.s2err
      ∧ (s.modElem k f).s2wait = s.s2wait ∧ (s.modElem k f).s2lines = s.s2lines
      ∧ (s.modElem k f).frzspine = s.frzspine ∧ (s.modElem k f).frzmask = s.frzmask
      ∧ (s.modElem k f).spineFrozen = s.spineFrozen ∧ (s.modElem k f).sec = s.sec ∧ (s.modElem k f).mgmt = s.mgmt
      ∧ (s.modElem k f).cxl = s.cxl ∧ (s.modElem k f).doe = s.doe ∧ (s.modElem k f).isl = s.isl
      ∧ (s.modElem k f).ualrdy = s.ualrdy ∧ (s.modElem k f).keydg = s.keydg ∧ (s.modElem k f).spdm = s.spdm
      ∧ (s.modElem k f).sent = s.sent ∧ (s.modElem k f).replied = s.replied
      ∧ (s.modElem k f).spineErrors = s.spineErrors := by
  unfold State.modElem
  split <;> simp

@[simp] theorem setElem_elem? (s : State) (k : Nat) (e : Elem) : (s.setElem k e).elem? k = some e := by
  simp [State.setElem, State.elem?]

theorem setElem_elem?_ne (s : State) {k j : Nat} (e : Elem) (h : j ≠ k) : (s.setElem k e).elem? j = s.elem? j := by
  simp [State.setElem, State.elem?, tget?_tset_ne _ _ h]

@[simp] theorem setElem_setElem (s : State) (k : Nat) (e f : Elem) : (s.setElem k e).setElem k f = s.setElem k f := by
  simp [State.setElem]

theorem modElem_elem?_ne (s : State) {k j : Nat} (f : Elem → Elem) (h : j ≠ k) :
    (s.modElem k f).elem? j = s.elem? j := by
  unfold State.modElem
  split
  · rfl
  · exact setElem_elem?_ne s _ h

@[simp] theorem setTile_frame (s : State) (k : Nat) (x : Tile) :
    (s.setTile k x).agenda = s.agenda ∧ (s.setTile k x).asking = s.asking ∧ (s.setTile k x).fresh = s.fresh
      ∧ (s.setTile k x).focus = s.focus ∧ (s.setTile k x).cycle = s.cycle ∧ (s.setTile k x).nextId = s.nextId
      ∧ (s.setTile k x).mem = s.mem ∧ (s.setTile k x).poison = s.poison ∧ (s.setTile k x).softC = s.softC
      ∧ (s.setTile k x).softU = s.softU ∧ (s.setTile k x).elems = s.elems ∧ (s.setTile k x).slices = s.slices
      ∧ (s.setTile k x).islands = s.islands ∧ (s.setTile k x).streamers = s.streamers
      ∧ (s.setTile k x).hubs = s.hubs ∧ (s.setTile k x).bhs = s.bhs ∧ (s.setTile k x).fns = s.fns
      ∧ (s.setTile k x).queues = s.queues ∧ (s.setTile k x).pools = s.pools ∧ (s.setTile k x).ovns = s.ovns
      ∧ (s.setTile k x).cxlmap = s.cxlmap ∧ (s.setTile k x).engineCounts = s.engineCounts
      ∧ (s.setTile k x).elemCounts = s.elemCounts ∧ (s.setTile k x).zeroed = s.zeroed
      ∧ (s.setTile k x).gazetteer = s.gazetteer ∧ (s.setTile k x).drops = s.drops
      ∧ (s.setTile k x).dropcnt = s.dropcnt ∧ (s.setTile k x).works = s.works ∧ (s.setTile k x).packets = s.packets
      ∧ (s.setTile k x).contexts = s.contexts ∧ (s.setTile k x).s2sdaddr = s.s2sdaddr
      ∧ (s.setTile k x).s2sdctl = s.s2sdctl ∧ (s.setTile k x).s2busy = s.s2busy ∧ (s.setTile k x).s2err = s.s2err
      ∧ (s.setTile k x).s2wait = s.s2wait ∧ (s.setTile k x).s2lines = s.s2lines
      ∧ (s.setTile k x).frzspine = s.frzspine ∧ (s.setTile k x).frzmask = s.frzmask
      ∧ (s.setTile k x).spineFrozen = s.spineFrozen ∧ (s.setTile k x).sec = s.sec ∧ (s.setTile k x).mgmt = s.mgmt
      ∧ (s.setTile k x).cxl = s.cxl ∧ (s.setTile k x).doe = s.doe ∧ (s.setTile k x).isl = s.isl
      ∧ (s.setTile k x).ualrdy = s.ualrdy ∧ (s.setTile k x).keydg = s.keydg ∧ (s.setTile k x).spdm = s.spdm
      ∧ (s.setTile k x).sent = s.sent ∧ (s.setTile k x).replied = s.replied
      ∧ (s.setTile k x).spineErrors = s.spineErrors := by
  simp [State.setTile]

@[simp] theorem modTile_frame (s : State) (k : Nat) (f : Tile → Tile) :
    (s.modTile k f).agenda = s.agenda ∧ (s.modTile k f).asking = s.asking ∧ (s.modTile k f).fresh = s.fresh
      ∧ (s.modTile k f).focus = s.focus ∧ (s.modTile k f).cycle = s.cycle ∧ (s.modTile k f).nextId = s.nextId
      ∧ (s.modTile k f).mem = s.mem ∧ (s.modTile k f).poison = s.poison ∧ (s.modTile k f).softC = s.softC
      ∧ (s.modTile k f).softU = s.softU ∧ (s.modTile k f).elems = s.elems ∧ (s.modTile k f).slices = s.slices
      ∧ (s.modTile k f).islands = s.islands ∧ (s.modTile k f).streamers = s.streamers
      ∧ (s.modTile k f).hubs = s.hubs ∧ (s.modTile k f).bhs = s.bhs ∧ (s.modTile k f).fns = s.fns
      ∧ (s.modTile k f).queues = s.queues ∧ (s.modTile k f).pools = s.pools ∧ (s.modTile k f).ovns = s.ovns
      ∧ (s.modTile k f).cxlmap = s.cxlmap ∧ (s.modTile k f).engineCounts = s.engineCounts
      ∧ (s.modTile k f).elemCounts = s.elemCounts ∧ (s.modTile k f).zeroed = s.zeroed
      ∧ (s.modTile k f).gazetteer = s.gazetteer ∧ (s.modTile k f).drops = s.drops
      ∧ (s.modTile k f).dropcnt = s.dropcnt ∧ (s.modTile k f).works = s.works ∧ (s.modTile k f).packets = s.packets
      ∧ (s.modTile k f).contexts = s.contexts ∧ (s.modTile k f).s2sdaddr = s.s2sdaddr
      ∧ (s.modTile k f).s2sdctl = s.s2sdctl ∧ (s.modTile k f).s2busy = s.s2busy ∧ (s.modTile k f).s2err = s.s2err
      ∧ (s.modTile k f).s2wait = s.s2wait ∧ (s.modTile k f).s2lines = s.s2lines
      ∧ (s.modTile k f).frzspine = s.frzspine ∧ (s.modTile k f).frzmask = s.frzmask
      ∧ (s.modTile k f).spineFrozen = s.spineFrozen ∧ (s.modTile k f).sec = s.sec ∧ (s.modTile k f).mgmt = s.mgmt
      ∧ (s.modTile k f).cxl = s.cxl ∧ (s.modTile k f).doe = s.doe ∧ (s.modTile k f).isl = s.isl
      ∧ (s.modTile k f).ualrdy = s.ualrdy ∧ (s.modTile k f).keydg = s.keydg ∧ (s.modTile k f).spdm = s.spdm
      ∧ (s.modTile k f).sent = s.sent ∧ (s.modTile k f).replied = s.replied
      ∧ (s.modTile k f).spineErrors = s.spineErrors := by
  simp [State.modTile]

@[simp] theorem setTile_tile (s : State) (k : Nat) (x : Tile) : (s.setTile k x).tile k = x := by
  simp [State.setTile, State.tile]

theorem setTile_tile_ne (s : State) {k j : Nat} (x : Tile) (h : j ≠ k) : (s.setTile k x).tile j = s.tile j := by
  simp [State.setTile, State.tile, tget, tget?_tset_ne _ _ h]

@[simp] theorem setTile_setTile (s : State) (k : Nat) (x y : Tile) : (s.setTile k x).setTile k y = s.setTile k y := by
  simp [State.setTile]

@[simp] theorem modTile_tile (s : State) (k : Nat) (f : Tile → Tile) : (s.modTile k f).tile k = f (s.tile k) := by
  simp [State.modTile]

theorem modTile_tile_ne (s : State) {k j : Nat} (f : Tile → Tile) (h : j ≠ k) : (s.modTile k f).tile j = s.tile j :=
  setTile_tile_ne s _ h

@[simp] theorem setSlice_frame (s : State) (k : Nat) (x : Slice) :
    (s.setSlice k x).agenda = s.agenda ∧ (s.setSlice k x).asking = s.asking ∧ (s.setSlice k x).fresh = s.fresh
      ∧ (s.setSlice k x).focus = s.focus ∧ (s.setSlice k x).cycle = s.cycle ∧ (s.setSlice k x).nextId = s.nextId
      ∧ (s.setSlice k x).mem = s.mem ∧ (s.setSlice k x).poison = s.poison ∧ (s.setSlice k x).softC = s.softC
      ∧ (s.setSlice k x).softU = s.softU ∧ (s.setSlice k x).elems = s.elems ∧ (s.setSlice k x).tiles = s.tiles
      ∧ (s.setSlice k x).islands = s.islands ∧ (s.setSlice k x).streamers = s.streamers
      ∧ (s.setSlice k x).hubs = s.hubs ∧ (s.setSlice k x).bhs = s.bhs ∧ (s.setSlice k x).fns = s.fns
      ∧ (s.setSlice k x).queues = s.queues ∧ (s.setSlice k x).pools = s.pools ∧ (s.setSlice k x).ovns = s.ovns
      ∧ (s.setSlice k x).cxlmap = s.cxlmap ∧ (s.setSlice k x).engineCounts = s.engineCounts
      ∧ (s.setSlice k x).elemCounts = s.elemCounts ∧ (s.setSlice k x).zeroed = s.zeroed
      ∧ (s.setSlice k x).gazetteer = s.gazetteer ∧ (s.setSlice k x).drops = s.drops
      ∧ (s.setSlice k x).dropcnt = s.dropcnt ∧ (s.setSlice k x).works = s.works
      ∧ (s.setSlice k x).packets = s.packets ∧ (s.setSlice k x).contexts = s.contexts
      ∧ (s.setSlice k x).s2sdaddr = s.s2sdaddr ∧ (s.setSlice k x).s2sdctl = s.s2sdctl
      ∧ (s.setSlice k x).s2busy = s.s2busy ∧ (s.setSlice k x).s2err = s.s2err ∧ (s.setSlice k x).s2wait = s.s2wait
      ∧ (s.setSlice k x).s2lines = s.s2lines ∧ (s.setSlice k x).frzspine = s.frzspine
      ∧ (s.setSlice k x).frzmask = s.frzmask ∧ (s.setSlice k x).spineFrozen = s.spineFrozen
      ∧ (s.setSlice k x).sec = s.sec ∧ (s.setSlice k x).mgmt = s.mgmt ∧ (s.setSlice k x).cxl = s.cxl
      ∧ (s.setSlice k x).doe = s.doe ∧ (s.setSlice k x).isl = s.isl ∧ (s.setSlice k x).ualrdy = s.ualrdy
      ∧ (s.setSlice k x).keydg = s.keydg ∧ (s.setSlice k x).spdm = s.spdm ∧ (s.setSlice k x).sent = s.sent
      ∧ (s.setSlice k x).replied = s.replied ∧ (s.setSlice k x).spineErrors = s.spineErrors := by
  simp [State.setSlice]

@[simp] theorem modSlice_frame (s : State) (k : Nat) (f : Slice → Slice) :
    (s.modSlice k f).agenda = s.agenda ∧ (s.modSlice k f).asking = s.asking ∧ (s.modSlice k f).fresh = s.fresh
      ∧ (s.modSlice k f).focus = s.focus ∧ (s.modSlice k f).cycle = s.cycle ∧ (s.modSlice k f).nextId = s.nextId
      ∧ (s.modSlice k f).mem = s.mem ∧ (s.modSlice k f).poison = s.poison ∧ (s.modSlice k f).softC = s.softC
      ∧ (s.modSlice k f).softU = s.softU ∧ (s.modSlice k f).elems = s.elems ∧ (s.modSlice k f).tiles = s.tiles
      ∧ (s.modSlice k f).islands = s.islands ∧ (s.modSlice k f).streamers = s.streamers
      ∧ (s.modSlice k f).hubs = s.hubs ∧ (s.modSlice k f).bhs = s.bhs ∧ (s.modSlice k f).fns = s.fns
      ∧ (s.modSlice k f).queues = s.queues ∧ (s.modSlice k f).pools = s.pools ∧ (s.modSlice k f).ovns = s.ovns
      ∧ (s.modSlice k f).cxlmap = s.cxlmap ∧ (s.modSlice k f).engineCounts = s.engineCounts
      ∧ (s.modSlice k f).elemCounts = s.elemCounts ∧ (s.modSlice k f).zeroed = s.zeroed
      ∧ (s.modSlice k f).gazetteer = s.gazetteer ∧ (s.modSlice k f).drops = s.drops
      ∧ (s.modSlice k f).dropcnt = s.dropcnt ∧ (s.modSlice k f).works = s.works
      ∧ (s.modSlice k f).packets = s.packets ∧ (s.modSlice k f).contexts = s.contexts
      ∧ (s.modSlice k f).s2sdaddr = s.s2sdaddr ∧ (s.modSlice k f).s2sdctl = s.s2sdctl
      ∧ (s.modSlice k f).s2busy = s.s2busy ∧ (s.modSlice k f).s2err = s.s2err ∧ (s.modSlice k f).s2wait = s.s2wait
      ∧ (s.modSlice k f).s2lines = s.s2lines ∧ (s.modSlice k f).frzspine = s.frzspine
      ∧ (s.modSlice k f).frzmask = s.frzmask ∧ (s.modSlice k f).spineFrozen = s.spineFrozen
      ∧ (s.modSlice k f).sec = s.sec ∧ (s.modSlice k f).mgmt = s.mgmt ∧ (s.modSlice k f).cxl = s.cxl
      ∧ (s.modSlice k f).doe = s.doe ∧ (s.modSlice k f).isl = s.isl ∧ (s.modSlice k f).ualrdy = s.ualrdy
      ∧ (s.modSlice k f).keydg = s.keydg ∧ (s.modSlice k f).spdm = s.spdm ∧ (s.modSlice k f).sent = s.sent
      ∧ (s.modSlice k f).replied = s.replied ∧ (s.modSlice k f).spineErrors = s.spineErrors := by
  simp [State.modSlice]

@[simp] theorem setSlice_slice (s : State) (k : Nat) (x : Slice) : (s.setSlice k x).slice k = x := by
  simp [State.setSlice, State.slice]

theorem setSlice_slice_ne (s : State) {k j : Nat} (x : Slice) (h : j ≠ k) : (s.setSlice k x).slice j = s.slice j := by
  simp [State.setSlice, State.slice, tget, tget?_tset_ne _ _ h]

@[simp] theorem setSlice_setSlice (s : State) (k : Nat) (x y : Slice) : (s.setSlice k x).setSlice k y = s.setSlice k y := by
  simp [State.setSlice]

@[simp] theorem modSlice_slice (s : State) (k : Nat) (f : Slice → Slice) : (s.modSlice k f).slice k = f (s.slice k) := by
  simp [State.modSlice]

theorem modSlice_slice_ne (s : State) {k j : Nat} (f : Slice → Slice) (h : j ≠ k) : (s.modSlice k f).slice j = s.slice j :=
  setSlice_slice_ne s _ h

@[simp] theorem setIsland_frame (s : State) (k : Nat) (x : Island) :
    (s.setIsland k x).agenda = s.agenda ∧ (s.setIsland k x).asking = s.asking ∧ (s.setIsland k x).fresh = s.fresh
      ∧ (s.setIsland k x).focus = s.focus ∧ (s.setIsland k x).cycle = s.cycle ∧ (s.setIsland k x).nextId = s.nextId
      ∧ (s.setIsland k x).mem = s.mem ∧ (s.setIsland k x).poison = s.poison ∧ (s.setIsland k x).softC = s.softC
      ∧ (s.setIsland k x).softU = s.softU ∧ (s.setIsland k x).elems = s.elems ∧ (s.setIsland k x).tiles = s.tiles
      ∧ (s.setIsland k x).slices = s.slices ∧ (s.setIsland k x).streamers = s.streamers
      ∧ (s.setIsland k x).hubs = s.hubs ∧ (s.setIsland k x).bhs = s.bhs ∧ (s.setIsland k x).fns = s.fns
      ∧ (s.setIsland k x).queues = s.queues ∧ (s.setIsland k x).pools = s.pools ∧ (s.setIsland k x).ovns = s.ovns
      ∧ (s.setIsland k x).cxlmap = s.cxlmap ∧ (s.setIsland k x).engineCounts = s.engineCounts
      ∧ (s.setIsland k x).elemCounts = s.elemCounts ∧ (s.setIsland k x).zeroed = s.zeroed
      ∧ (s.setIsland k x).gazetteer = s.gazetteer ∧ (s.setIsland k x).drops = s.drops
      ∧ (s.setIsland k x).dropcnt = s.dropcnt ∧ (s.setIsland k x).works = s.works
      ∧ (s.setIsland k x).packets = s.packets ∧ (s.setIsland k x).contexts = s.contexts
      ∧ (s.setIsland k x).s2sdaddr = s.s2sdaddr ∧ (s.setIsland k x).s2sdctl = s.s2sdctl
      ∧ (s.setIsland k x).s2busy = s.s2busy ∧ (s.setIsland k x).s2err = s.s2err
      ∧ (s.setIsland k x).s2wait = s.s2wait ∧ (s.setIsland k x).s2lines = s.s2lines
      ∧ (s.setIsland k x).frzspine = s.frzspine ∧ (s.setIsland k x).frzmask = s.frzmask
      ∧ (s.setIsland k x).spineFrozen = s.spineFrozen ∧ (s.setIsland k x).sec = s.sec
      ∧ (s.setIsland k x).mgmt = s.mgmt ∧ (s.setIsland k x).cxl = s.cxl ∧ (s.setIsland k x).doe = s.doe
      ∧ (s.setIsland k x).isl = s.isl ∧ (s.setIsland k x).ualrdy = s.ualrdy ∧ (s.setIsland k x).keydg = s.keydg
      ∧ (s.setIsland k x).spdm = s.spdm ∧ (s.setIsland k x).sent = s.sent ∧ (s.setIsland k x).replied = s.replied
      ∧ (s.setIsland k x).spineErrors = s.spineErrors := by
  simp [State.setIsland]

@[simp] theorem modIsland_frame (s : State) (k : Nat) (f : Island → Island) :
    (s.modIsland k f).agenda = s.agenda ∧ (s.modIsland k f).asking = s.asking ∧ (s.modIsland k f).fresh = s.fresh
      ∧ (s.modIsland k f).focus = s.focus ∧ (s.modIsland k f).cycle = s.cycle ∧ (s.modIsland k f).nextId = s.nextId
      ∧ (s.modIsland k f).mem = s.mem ∧ (s.modIsland k f).poison = s.poison ∧ (s.modIsland k f).softC = s.softC
      ∧ (s.modIsland k f).softU = s.softU ∧ (s.modIsland k f).elems = s.elems ∧ (s.modIsland k f).tiles = s.tiles
      ∧ (s.modIsland k f).slices = s.slices ∧ (s.modIsland k f).streamers = s.streamers
      ∧ (s.modIsland k f).hubs = s.hubs ∧ (s.modIsland k f).bhs = s.bhs ∧ (s.modIsland k f).fns = s.fns
      ∧ (s.modIsland k f).queues = s.queues ∧ (s.modIsland k f).pools = s.pools ∧ (s.modIsland k f).ovns = s.ovns
      ∧ (s.modIsland k f).cxlmap = s.cxlmap ∧ (s.modIsland k f).engineCounts = s.engineCounts
      ∧ (s.modIsland k f).elemCounts = s.elemCounts ∧ (s.modIsland k f).zeroed = s.zeroed
      ∧ (s.modIsland k f).gazetteer = s.gazetteer ∧ (s.modIsland k f).drops = s.drops
      ∧ (s.modIsland k f).dropcnt = s.dropcnt ∧ (s.modIsland k f).works = s.works
      ∧ (s.modIsland k f).packets = s.packets ∧ (s.modIsland k f).contexts = s.contexts
      ∧ (s.modIsland k f).s2sdaddr = s.s2sdaddr ∧ (s.modIsland k f).s2sdctl = s.s2sdctl
      ∧ (s.modIsland k f).s2busy = s.s2busy ∧ (s.modIsland k f).s2err = s.s2err
      ∧ (s.modIsland k f).s2wait = s.s2wait ∧ (s.modIsland k f).s2lines = s.s2lines
      ∧ (s.modIsland k f).frzspine = s.frzspine ∧ (s.modIsland k f).frzmask = s.frzmask
      ∧ (s.modIsland k f).spineFrozen = s.spineFrozen ∧ (s.modIsland k f).sec = s.sec
      ∧ (s.modIsland k f).mgmt = s.mgmt ∧ (s.modIsland k f).cxl = s.cxl ∧ (s.modIsland k f).doe = s.doe
      ∧ (s.modIsland k f).isl = s.isl ∧ (s.modIsland k f).ualrdy = s.ualrdy ∧ (s.modIsland k f).keydg = s.keydg
      ∧ (s.modIsland k f).spdm = s.spdm ∧ (s.modIsland k f).sent = s.sent ∧ (s.modIsland k f).replied = s.replied
      ∧ (s.modIsland k f).spineErrors = s.spineErrors := by
  simp [State.modIsland]

@[simp] theorem setIsland_island (s : State) (k : Nat) (x : Island) : (s.setIsland k x).island k = x := by
  simp [State.setIsland, State.island]

theorem setIsland_island_ne (s : State) {k j : Nat} (x : Island) (h : j ≠ k) : (s.setIsland k x).island j = s.island j := by
  simp [State.setIsland, State.island, tget, tget?_tset_ne _ _ h]

@[simp] theorem setIsland_setIsland (s : State) (k : Nat) (x y : Island) : (s.setIsland k x).setIsland k y = s.setIsland k y := by
  simp [State.setIsland]

@[simp] theorem modIsland_island (s : State) (k : Nat) (f : Island → Island) : (s.modIsland k f).island k = f (s.island k) := by
  simp [State.modIsland]

theorem modIsland_island_ne (s : State) {k j : Nat} (f : Island → Island) (h : j ≠ k) : (s.modIsland k f).island j = s.island j :=
  setIsland_island_ne s _ h

@[simp] theorem setStreamer_frame (s : State) (k : Nat) (x : Streamer) :
    (s.setStreamer k x).agenda = s.agenda ∧ (s.setStreamer k x).asking = s.asking
      ∧ (s.setStreamer k x).fresh = s.fresh ∧ (s.setStreamer k x).focus = s.focus
      ∧ (s.setStreamer k x).cycle = s.cycle ∧ (s.setStreamer k x).nextId = s.nextId
      ∧ (s.setStreamer k x).mem = s.mem ∧ (s.setStreamer k x).poison = s.poison
      ∧ (s.setStreamer k x).softC = s.softC ∧ (s.setStreamer k x).softU = s.softU
      ∧ (s.setStreamer k x).elems = s.elems ∧ (s.setStreamer k x).tiles = s.tiles
      ∧ (s.setStreamer k x).slices = s.slices ∧ (s.setStreamer k x).islands = s.islands
      ∧ (s.setStreamer k x).hubs = s.hubs ∧ (s.setStreamer k x).bhs = s.bhs ∧ (s.setStreamer k x).fns = s.fns
      ∧ (s.setStreamer k x).queues = s.queues ∧ (s.setStreamer k x).pools = s.pools
      ∧ (s.setStreamer k x).ovns = s.ovns ∧ (s.setStreamer k x).cxlmap = s.cxlmap
      ∧ (s.setStreamer k x).engineCounts = s.engineCounts ∧ (s.setStreamer k x).elemCounts = s.elemCounts
      ∧ (s.setStreamer k x).zeroed = s.zeroed ∧ (s.setStreamer k x).gazetteer = s.gazetteer
      ∧ (s.setStreamer k x).drops = s.drops ∧ (s.setStreamer k x).dropcnt = s.dropcnt
      ∧ (s.setStreamer k x).works = s.works ∧ (s.setStreamer k x).packets = s.packets
      ∧ (s.setStreamer k x).contexts = s.contexts ∧ (s.setStreamer k x).s2sdaddr = s.s2sdaddr
      ∧ (s.setStreamer k x).s2sdctl = s.s2sdctl ∧ (s.setStreamer k x).s2busy = s.s2busy
      ∧ (s.setStreamer k x).s2err = s.s2err ∧ (s.setStreamer k x).s2wait = s.s2wait
      ∧ (s.setStreamer k x).s2lines = s.s2lines ∧ (s.setStreamer k x).frzspine = s.frzspine
      ∧ (s.setStreamer k x).frzmask = s.frzmask ∧ (s.setStreamer k x).spineFrozen = s.spineFrozen
      ∧ (s.setStreamer k x).sec = s.sec ∧ (s.setStreamer k x).mgmt = s.mgmt ∧ (s.setStreamer k x).cxl = s.cxl
      ∧ (s.setStreamer k x).doe = s.doe ∧ (s.setStreamer k x).isl = s.isl ∧ (s.setStreamer k x).ualrdy = s.ualrdy
      ∧ (s.setStreamer k x).keydg = s.keydg ∧ (s.setStreamer k x).spdm = s.spdm ∧ (s.setStreamer k x).sent = s.sent
      ∧ (s.setStreamer k x).replied = s.replied ∧ (s.setStreamer k x).spineErrors = s.spineErrors := by
  simp [State.setStreamer]

@[simp] theorem modStreamer_frame (s : State) (k : Nat) (f : Streamer → Streamer) :
    (s.modStreamer k f).agenda = s.agenda ∧ (s.modStreamer k f).asking = s.asking
      ∧ (s.modStreamer k f).fresh = s.fresh ∧ (s.modStreamer k f).focus = s.focus
      ∧ (s.modStreamer k f).cycle = s.cycle ∧ (s.modStreamer k f).nextId = s.nextId
      ∧ (s.modStreamer k f).mem = s.mem ∧ (s.modStreamer k f).poison = s.poison
      ∧ (s.modStreamer k f).softC = s.softC ∧ (s.modStreamer k f).softU = s.softU
      ∧ (s.modStreamer k f).elems = s.elems ∧ (s.modStreamer k f).tiles = s.tiles
      ∧ (s.modStreamer k f).slices = s.slices ∧ (s.modStreamer k f).islands = s.islands
      ∧ (s.modStreamer k f).hubs = s.hubs ∧ (s.modStreamer k f).bhs = s.bhs ∧ (s.modStreamer k f).fns = s.fns
      ∧ (s.modStreamer k f).queues = s.queues ∧ (s.modStreamer k f).pools = s.pools
      ∧ (s.modStreamer k f).ovns = s.ovns ∧ (s.modStreamer k f).cxlmap = s.cxlmap
      ∧ (s.modStreamer k f).engineCounts = s.engineCounts ∧ (s.modStreamer k f).elemCounts = s.elemCounts
      ∧ (s.modStreamer k f).zeroed = s.zeroed ∧ (s.modStreamer k f).gazetteer = s.gazetteer
      ∧ (s.modStreamer k f).drops = s.drops ∧ (s.modStreamer k f).dropcnt = s.dropcnt
      ∧ (s.modStreamer k f).works = s.works ∧ (s.modStreamer k f).packets = s.packets
      ∧ (s.modStreamer k f).contexts = s.contexts ∧ (s.modStreamer k f).s2sdaddr = s.s2sdaddr
      ∧ (s.modStreamer k f).s2sdctl = s.s2sdctl ∧ (s.modStreamer k f).s2busy = s.s2busy
      ∧ (s.modStreamer k f).s2err = s.s2err ∧ (s.modStreamer k f).s2wait = s.s2wait
      ∧ (s.modStreamer k f).s2lines = s.s2lines ∧ (s.modStreamer k f).frzspine = s.frzspine
      ∧ (s.modStreamer k f).frzmask = s.frzmask ∧ (s.modStreamer k f).spineFrozen = s.spineFrozen
      ∧ (s.modStreamer k f).sec = s.sec ∧ (s.modStreamer k f).mgmt = s.mgmt ∧ (s.modStreamer k f).cxl = s.cxl
      ∧ (s.modStreamer k f).doe = s.doe ∧ (s.modStreamer k f).isl = s.isl ∧ (s.modStreamer k f).ualrdy = s.ualrdy
      ∧ (s.modStreamer k f).keydg = s.keydg ∧ (s.modStreamer k f).spdm = s.spdm ∧ (s.modStreamer k f).sent = s.sent
      ∧ (s.modStreamer k f).replied = s.replied ∧ (s.modStreamer k f).spineErrors = s.spineErrors := by
  simp [State.modStreamer]

@[simp] theorem setStreamer_streamer (s : State) (k : Nat) (x : Streamer) : (s.setStreamer k x).streamer k = x := by
  simp [State.setStreamer, State.streamer]

theorem setStreamer_streamer_ne (s : State) {k j : Nat} (x : Streamer) (h : j ≠ k) : (s.setStreamer k x).streamer j = s.streamer j := by
  simp [State.setStreamer, State.streamer, tget, tget?_tset_ne _ _ h]

@[simp] theorem setStreamer_setStreamer (s : State) (k : Nat) (x y : Streamer) : (s.setStreamer k x).setStreamer k y = s.setStreamer k y := by
  simp [State.setStreamer]

@[simp] theorem modStreamer_streamer (s : State) (k : Nat) (f : Streamer → Streamer) : (s.modStreamer k f).streamer k = f (s.streamer k) := by
  simp [State.modStreamer]

theorem modStreamer_streamer_ne (s : State) {k j : Nat} (f : Streamer → Streamer) (h : j ≠ k) : (s.modStreamer k f).streamer j = s.streamer j :=
  setStreamer_streamer_ne s _ h

@[simp] theorem setHub_frame (s : State) (k : Nat) (x : Hub) :
    (s.setHub k x).agenda = s.agenda ∧ (s.setHub k x).asking = s.asking ∧ (s.setHub k x).fresh = s.fresh
      ∧ (s.setHub k x).focus = s.focus ∧ (s.setHub k x).cycle = s.cycle ∧ (s.setHub k x).nextId = s.nextId
      ∧ (s.setHub k x).mem = s.mem ∧ (s.setHub k x).poison = s.poison ∧ (s.setHub k x).softC = s.softC
      ∧ (s.setHub k x).softU = s.softU ∧ (s.setHub k x).elems = s.elems ∧ (s.setHub k x).tiles = s.tiles
      ∧ (s.setHub k x).slices = s.slices ∧ (s.setHub k x).islands = s.islands
      ∧ (s.setHub k x).streamers = s.streamers ∧ (s.setHub k x).bhs = s.bhs ∧ (s.setHub k x).fns = s.fns
      ∧ (s.setHub k x).queues = s.queues ∧ (s.setHub k x).pools = s.pools ∧ (s.setHub k x).ovns = s.ovns
      ∧ (s.setHub k x).cxlmap = s.cxlmap ∧ (s.setHub k x).engineCounts = s.engineCounts
      ∧ (s.setHub k x).elemCounts = s.elemCounts ∧ (s.setHub k x).zeroed = s.zeroed
      ∧ (s.setHub k x).gazetteer = s.gazetteer ∧ (s.setHub k x).drops = s.drops ∧ (s.setHub k x).dropcnt = s.dropcnt
      ∧ (s.setHub k x).works = s.works ∧ (s.setHub k x).packets = s.packets ∧ (s.setHub k x).contexts = s.contexts
      ∧ (s.setHub k x).s2sdaddr = s.s2sdaddr ∧ (s.setHub k x).s2sdctl = s.s2sdctl ∧ (s.setHub k x).s2busy = s.s2busy
      ∧ (s.setHub k x).s2err = s.s2err ∧ (s.setHub k x).s2wait = s.s2wait ∧ (s.setHub k x).s2lines = s.s2lines
      ∧ (s.setHub k x).frzspine = s.frzspine ∧ (s.setHub k x).frzmask = s.frzmask
      ∧ (s.setHub k x).spineFrozen = s.spineFrozen ∧ (s.setHub k x).sec = s.sec ∧ (s.setHub k x).mgmt = s.mgmt
      ∧ (s.setHub k x).cxl = s.cxl ∧ (s.setHub k x).doe = s.doe ∧ (s.setHub k x).isl = s.isl
      ∧ (s.setHub k x).ualrdy = s.ualrdy ∧ (s.setHub k x).keydg = s.keydg ∧ (s.setHub k x).spdm = s.spdm
      ∧ (s.setHub k x).sent = s.sent ∧ (s.setHub k x).replied = s.replied
      ∧ (s.setHub k x).spineErrors = s.spineErrors := by
  simp [State.setHub]

@[simp] theorem modHub_frame (s : State) (k : Nat) (f : Hub → Hub) :
    (s.modHub k f).agenda = s.agenda ∧ (s.modHub k f).asking = s.asking ∧ (s.modHub k f).fresh = s.fresh
      ∧ (s.modHub k f).focus = s.focus ∧ (s.modHub k f).cycle = s.cycle ∧ (s.modHub k f).nextId = s.nextId
      ∧ (s.modHub k f).mem = s.mem ∧ (s.modHub k f).poison = s.poison ∧ (s.modHub k f).softC = s.softC
      ∧ (s.modHub k f).softU = s.softU ∧ (s.modHub k f).elems = s.elems ∧ (s.modHub k f).tiles = s.tiles
      ∧ (s.modHub k f).slices = s.slices ∧ (s.modHub k f).islands = s.islands
      ∧ (s.modHub k f).streamers = s.streamers ∧ (s.modHub k f).bhs = s.bhs ∧ (s.modHub k f).fns = s.fns
      ∧ (s.modHub k f).queues = s.queues ∧ (s.modHub k f).pools = s.pools ∧ (s.modHub k f).ovns = s.ovns
      ∧ (s.modHub k f).cxlmap = s.cxlmap ∧ (s.modHub k f).engineCounts = s.engineCounts
      ∧ (s.modHub k f).elemCounts = s.elemCounts ∧ (s.modHub k f).zeroed = s.zeroed
      ∧ (s.modHub k f).gazetteer = s.gazetteer ∧ (s.modHub k f).drops = s.drops ∧ (s.modHub k f).dropcnt = s.dropcnt
      ∧ (s.modHub k f).works = s.works ∧ (s.modHub k f).packets = s.packets ∧ (s.modHub k f).contexts = s.contexts
      ∧ (s.modHub k f).s2sdaddr = s.s2sdaddr ∧ (s.modHub k f).s2sdctl = s.s2sdctl ∧ (s.modHub k f).s2busy = s.s2busy
      ∧ (s.modHub k f).s2err = s.s2err ∧ (s.modHub k f).s2wait = s.s2wait ∧ (s.modHub k f).s2lines = s.s2lines
      ∧ (s.modHub k f).frzspine = s.frzspine ∧ (s.modHub k f).frzmask = s.frzmask
      ∧ (s.modHub k f).spineFrozen = s.spineFrozen ∧ (s.modHub k f).sec = s.sec ∧ (s.modHub k f).mgmt = s.mgmt
      ∧ (s.modHub k f).cxl = s.cxl ∧ (s.modHub k f).doe = s.doe ∧ (s.modHub k f).isl = s.isl
      ∧ (s.modHub k f).ualrdy = s.ualrdy ∧ (s.modHub k f).keydg = s.keydg ∧ (s.modHub k f).spdm = s.spdm
      ∧ (s.modHub k f).sent = s.sent ∧ (s.modHub k f).replied = s.replied
      ∧ (s.modHub k f).spineErrors = s.spineErrors := by
  simp [State.modHub]

@[simp] theorem setHub_hub (s : State) (k : Nat) (x : Hub) : (s.setHub k x).hub k = x := by
  simp [State.setHub, State.hub]

theorem setHub_hub_ne (s : State) {k j : Nat} (x : Hub) (h : j ≠ k) : (s.setHub k x).hub j = s.hub j := by
  simp [State.setHub, State.hub, tget, tget?_tset_ne _ _ h]

@[simp] theorem setHub_setHub (s : State) (k : Nat) (x y : Hub) : (s.setHub k x).setHub k y = s.setHub k y := by
  simp [State.setHub]

@[simp] theorem modHub_hub (s : State) (k : Nat) (f : Hub → Hub) : (s.modHub k f).hub k = f (s.hub k) := by
  simp [State.modHub]

theorem modHub_hub_ne (s : State) {k j : Nat} (f : Hub → Hub) (h : j ≠ k) : (s.modHub k f).hub j = s.hub j :=
  setHub_hub_ne s _ h

@[simp] theorem setBh_frame (s : State) (k : Nat) (x : Bulkhead) :
    (s.setBh k x).agenda = s.agenda ∧ (s.setBh k x).asking = s.asking ∧ (s.setBh k x).fresh = s.fresh
      ∧ (s.setBh k x).focus = s.focus ∧ (s.setBh k x).cycle = s.cycle ∧ (s.setBh k x).nextId = s.nextId
      ∧ (s.setBh k x).mem = s.mem ∧ (s.setBh k x).poison = s.poison ∧ (s.setBh k x).softC = s.softC
      ∧ (s.setBh k x).softU = s.softU ∧ (s.setBh k x).elems = s.elems ∧ (s.setBh k x).tiles = s.tiles
      ∧ (s.setBh k x).slices = s.slices ∧ (s.setBh k x).islands = s.islands ∧ (s.setBh k x).streamers = s.streamers
      ∧ (s.setBh k x).hubs = s.hubs ∧ (s.setBh k x).fns = s.fns ∧ (s.setBh k x).queues = s.queues
      ∧ (s.setBh k x).pools = s.pools ∧ (s.setBh k x).ovns = s.ovns ∧ (s.setBh k x).cxlmap = s.cxlmap
      ∧ (s.setBh k x).engineCounts = s.engineCounts ∧ (s.setBh k x).elemCounts = s.elemCounts
      ∧ (s.setBh k x).zeroed = s.zeroed ∧ (s.setBh k x).gazetteer = s.gazetteer ∧ (s.setBh k x).drops = s.drops
      ∧ (s.setBh k x).dropcnt = s.dropcnt ∧ (s.setBh k x).works = s.works ∧ (s.setBh k x).packets = s.packets
      ∧ (s.setBh k x).contexts = s.contexts ∧ (s.setBh k x).s2sdaddr = s.s2sdaddr
      ∧ (s.setBh k x).s2sdctl = s.s2sdctl ∧ (s.setBh k x).s2busy = s.s2busy ∧ (s.setBh k x).s2err = s.s2err
      ∧ (s.setBh k x).s2wait = s.s2wait ∧ (s.setBh k x).s2lines = s.s2lines ∧ (s.setBh k x).frzspine = s.frzspine
      ∧ (s.setBh k x).frzmask = s.frzmask ∧ (s.setBh k x).spineFrozen = s.spineFrozen ∧ (s.setBh k x).sec = s.sec
      ∧ (s.setBh k x).mgmt = s.mgmt ∧ (s.setBh k x).cxl = s.cxl ∧ (s.setBh k x).doe = s.doe
      ∧ (s.setBh k x).isl = s.isl ∧ (s.setBh k x).ualrdy = s.ualrdy ∧ (s.setBh k x).keydg = s.keydg
      ∧ (s.setBh k x).spdm = s.spdm ∧ (s.setBh k x).sent = s.sent ∧ (s.setBh k x).replied = s.replied
      ∧ (s.setBh k x).spineErrors = s.spineErrors := by
  simp [State.setBh]

@[simp] theorem modBh_frame (s : State) (k : Nat) (f : Bulkhead → Bulkhead) :
    (s.modBh k f).agenda = s.agenda ∧ (s.modBh k f).asking = s.asking ∧ (s.modBh k f).fresh = s.fresh
      ∧ (s.modBh k f).focus = s.focus ∧ (s.modBh k f).cycle = s.cycle ∧ (s.modBh k f).nextId = s.nextId
      ∧ (s.modBh k f).mem = s.mem ∧ (s.modBh k f).poison = s.poison ∧ (s.modBh k f).softC = s.softC
      ∧ (s.modBh k f).softU = s.softU ∧ (s.modBh k f).elems = s.elems ∧ (s.modBh k f).tiles = s.tiles
      ∧ (s.modBh k f).slices = s.slices ∧ (s.modBh k f).islands = s.islands ∧ (s.modBh k f).streamers = s.streamers
      ∧ (s.modBh k f).hubs = s.hubs ∧ (s.modBh k f).fns = s.fns ∧ (s.modBh k f).queues = s.queues
      ∧ (s.modBh k f).pools = s.pools ∧ (s.modBh k f).ovns = s.ovns ∧ (s.modBh k f).cxlmap = s.cxlmap
      ∧ (s.modBh k f).engineCounts = s.engineCounts ∧ (s.modBh k f).elemCounts = s.elemCounts
      ∧ (s.modBh k f).zeroed = s.zeroed ∧ (s.modBh k f).gazetteer = s.gazetteer ∧ (s.modBh k f).drops = s.drops
      ∧ (s.modBh k f).dropcnt = s.dropcnt ∧ (s.modBh k f).works = s.works ∧ (s.modBh k f).packets = s.packets
      ∧ (s.modBh k f).contexts = s.contexts ∧ (s.modBh k f).s2sdaddr = s.s2sdaddr
      ∧ (s.modBh k f).s2sdctl = s.s2sdctl ∧ (s.modBh k f).s2busy = s.s2busy ∧ (s.modBh k f).s2err = s.s2err
      ∧ (s.modBh k f).s2wait = s.s2wait ∧ (s.modBh k f).s2lines = s.s2lines ∧ (s.modBh k f).frzspine = s.frzspine
      ∧ (s.modBh k f).frzmask = s.frzmask ∧ (s.modBh k f).spineFrozen = s.spineFrozen ∧ (s.modBh k f).sec = s.sec
      ∧ (s.modBh k f).mgmt = s.mgmt ∧ (s.modBh k f).cxl = s.cxl ∧ (s.modBh k f).doe = s.doe
      ∧ (s.modBh k f).isl = s.isl ∧ (s.modBh k f).ualrdy = s.ualrdy ∧ (s.modBh k f).keydg = s.keydg
      ∧ (s.modBh k f).spdm = s.spdm ∧ (s.modBh k f).sent = s.sent ∧ (s.modBh k f).replied = s.replied
      ∧ (s.modBh k f).spineErrors = s.spineErrors := by
  simp [State.modBh]

@[simp] theorem setBh_bh (s : State) (k : Nat) (x : Bulkhead) : (s.setBh k x).bh k = x := by
  simp [State.setBh, State.bh]

theorem setBh_bh_ne (s : State) {k j : Nat} (x : Bulkhead) (h : j ≠ k) : (s.setBh k x).bh j = s.bh j := by
  simp [State.setBh, State.bh, tget, tget?_tset_ne _ _ h]

@[simp] theorem setBh_setBh (s : State) (k : Nat) (x y : Bulkhead) : (s.setBh k x).setBh k y = s.setBh k y := by
  simp [State.setBh]

@[simp] theorem modBh_bh (s : State) (k : Nat) (f : Bulkhead → Bulkhead) : (s.modBh k f).bh k = f (s.bh k) := by
  simp [State.modBh]

theorem modBh_bh_ne (s : State) {k j : Nat} (f : Bulkhead → Bulkhead) (h : j ≠ k) : (s.modBh k f).bh j = s.bh j :=
  setBh_bh_ne s _ h

@[simp] theorem setFn_frame (s : State) (k : Nat) (x : Function) :
    (s.setFn k x).agenda = s.agenda ∧ (s.setFn k x).asking = s.asking ∧ (s.setFn k x).fresh = s.fresh
      ∧ (s.setFn k x).focus = s.focus ∧ (s.setFn k x).cycle = s.cycle ∧ (s.setFn k x).nextId = s.nextId
      ∧ (s.setFn k x).mem = s.mem ∧ (s.setFn k x).poison = s.poison ∧ (s.setFn k x).softC = s.softC
      ∧ (s.setFn k x).softU = s.softU ∧ (s.setFn k x).elems = s.elems ∧ (s.setFn k x).tiles = s.tiles
      ∧ (s.setFn k x).slices = s.slices ∧ (s.setFn k x).islands = s.islands ∧ (s.setFn k x).streamers = s.streamers
      ∧ (s.setFn k x).hubs = s.hubs ∧ (s.setFn k x).bhs = s.bhs ∧ (s.setFn k x).queues = s.queues
      ∧ (s.setFn k x).pools = s.pools ∧ (s.setFn k x).ovns = s.ovns ∧ (s.setFn k x).cxlmap = s.cxlmap
      ∧ (s.setFn k x).engineCounts = s.engineCounts ∧ (s.setFn k x).elemCounts = s.elemCounts
      ∧ (s.setFn k x).zeroed = s.zeroed ∧ (s.setFn k x).gazetteer = s.gazetteer ∧ (s.setFn k x).drops = s.drops
      ∧ (s.setFn k x).dropcnt = s.dropcnt ∧ (s.setFn k x).works = s.works ∧ (s.setFn k x).packets = s.packets
      ∧ (s.setFn k x).contexts = s.contexts ∧ (s.setFn k x).s2sdaddr = s.s2sdaddr
      ∧ (s.setFn k x).s2sdctl = s.s2sdctl ∧ (s.setFn k x).s2busy = s.s2busy ∧ (s.setFn k x).s2err = s.s2err
      ∧ (s.setFn k x).s2wait = s.s2wait ∧ (s.setFn k x).s2lines = s.s2lines ∧ (s.setFn k x).frzspine = s.frzspine
      ∧ (s.setFn k x).frzmask = s.frzmask ∧ (s.setFn k x).spineFrozen = s.spineFrozen ∧ (s.setFn k x).sec = s.sec
      ∧ (s.setFn k x).mgmt = s.mgmt ∧ (s.setFn k x).cxl = s.cxl ∧ (s.setFn k x).doe = s.doe
      ∧ (s.setFn k x).isl = s.isl ∧ (s.setFn k x).ualrdy = s.ualrdy ∧ (s.setFn k x).keydg = s.keydg
      ∧ (s.setFn k x).spdm = s.spdm ∧ (s.setFn k x).sent = s.sent ∧ (s.setFn k x).replied = s.replied
      ∧ (s.setFn k x).spineErrors = s.spineErrors := by
  simp [State.setFn]

@[simp] theorem modFn_frame (s : State) (k : Nat) (f : Function → Function) :
    (s.modFn k f).agenda = s.agenda ∧ (s.modFn k f).asking = s.asking ∧ (s.modFn k f).fresh = s.fresh
      ∧ (s.modFn k f).focus = s.focus ∧ (s.modFn k f).cycle = s.cycle ∧ (s.modFn k f).nextId = s.nextId
      ∧ (s.modFn k f).mem = s.mem ∧ (s.modFn k f).poison = s.poison ∧ (s.modFn k f).softC = s.softC
      ∧ (s.modFn k f).softU = s.softU ∧ (s.modFn k f).elems = s.elems ∧ (s.modFn k f).tiles = s.tiles
      ∧ (s.modFn k f).slices = s.slices ∧ (s.modFn k f).islands = s.islands ∧ (s.modFn k f).streamers = s.streamers
      ∧ (s.modFn k f).hubs = s.hubs ∧ (s.modFn k f).bhs = s.bhs ∧ (s.modFn k f).queues = s.queues
      ∧ (s.modFn k f).pools = s.pools ∧ (s.modFn k f).ovns = s.ovns ∧ (s.modFn k f).cxlmap = s.cxlmap
      ∧ (s.modFn k f).engineCounts = s.engineCounts ∧ (s.modFn k f).elemCounts = s.elemCounts
      ∧ (s.modFn k f).zeroed = s.zeroed ∧ (s.modFn k f).gazetteer = s.gazetteer ∧ (s.modFn k f).drops = s.drops
      ∧ (s.modFn k f).dropcnt = s.dropcnt ∧ (s.modFn k f).works = s.works ∧ (s.modFn k f).packets = s.packets
      ∧ (s.modFn k f).contexts = s.contexts ∧ (s.modFn k f).s2sdaddr = s.s2sdaddr
      ∧ (s.modFn k f).s2sdctl = s.s2sdctl ∧ (s.modFn k f).s2busy = s.s2busy ∧ (s.modFn k f).s2err = s.s2err
      ∧ (s.modFn k f).s2wait = s.s2wait ∧ (s.modFn k f).s2lines = s.s2lines ∧ (s.modFn k f).frzspine = s.frzspine
      ∧ (s.modFn k f).frzmask = s.frzmask ∧ (s.modFn k f).spineFrozen = s.spineFrozen ∧ (s.modFn k f).sec = s.sec
      ∧ (s.modFn k f).mgmt = s.mgmt ∧ (s.modFn k f).cxl = s.cxl ∧ (s.modFn k f).doe = s.doe
      ∧ (s.modFn k f).isl = s.isl ∧ (s.modFn k f).ualrdy = s.ualrdy ∧ (s.modFn k f).keydg = s.keydg
      ∧ (s.modFn k f).spdm = s.spdm ∧ (s.modFn k f).sent = s.sent ∧ (s.modFn k f).replied = s.replied
      ∧ (s.modFn k f).spineErrors = s.spineErrors := by
  simp [State.modFn]

@[simp] theorem setFn_fn (s : State) (k : Nat) (x : Function) : (s.setFn k x).fn k = x := by
  simp [State.setFn, State.fn]

theorem setFn_fn_ne (s : State) {k j : Nat} (x : Function) (h : j ≠ k) : (s.setFn k x).fn j = s.fn j := by
  simp [State.setFn, State.fn, tget, tget?_tset_ne _ _ h]

@[simp] theorem setFn_setFn (s : State) (k : Nat) (x y : Function) : (s.setFn k x).setFn k y = s.setFn k y := by
  simp [State.setFn]

@[simp] theorem modFn_fn (s : State) (k : Nat) (f : Function → Function) : (s.modFn k f).fn k = f (s.fn k) := by
  simp [State.modFn]

theorem modFn_fn_ne (s : State) {k j : Nat} (f : Function → Function) (h : j ≠ k) : (s.modFn k f).fn j = s.fn j :=
  setFn_fn_ne s _ h

@[simp] theorem setQueue_frame (s : State) (k : Nat) (x : HwQueue) :
    (s.setQueue k x).agenda = s.agenda ∧ (s.setQueue k x).asking = s.asking ∧ (s.setQueue k x).fresh = s.fresh
      ∧ (s.setQueue k x).focus = s.focus ∧ (s.setQueue k x).cycle = s.cycle ∧ (s.setQueue k x).nextId = s.nextId
      ∧ (s.setQueue k x).mem = s.mem ∧ (s.setQueue k x).poison = s.poison ∧ (s.setQueue k x).softC = s.softC
      ∧ (s.setQueue k x).softU = s.softU ∧ (s.setQueue k x).elems = s.elems ∧ (s.setQueue k x).tiles = s.tiles
      ∧ (s.setQueue k x).slices = s.slices ∧ (s.setQueue k x).islands = s.islands
      ∧ (s.setQueue k x).streamers = s.streamers ∧ (s.setQueue k x).hubs = s.hubs ∧ (s.setQueue k x).bhs = s.bhs
      ∧ (s.setQueue k x).fns = s.fns ∧ (s.setQueue k x).pools = s.pools ∧ (s.setQueue k x).ovns = s.ovns
      ∧ (s.setQueue k x).cxlmap = s.cxlmap ∧ (s.setQueue k x).engineCounts = s.engineCounts
      ∧ (s.setQueue k x).elemCounts = s.elemCounts ∧ (s.setQueue k x).zeroed = s.zeroed
      ∧ (s.setQueue k x).gazetteer = s.gazetteer ∧ (s.setQueue k x).drops = s.drops
      ∧ (s.setQueue k x).dropcnt = s.dropcnt ∧ (s.setQueue k x).works = s.works
      ∧ (s.setQueue k x).packets = s.packets ∧ (s.setQueue k x).contexts = s.contexts
      ∧ (s.setQueue k x).s2sdaddr = s.s2sdaddr ∧ (s.setQueue k x).s2sdctl = s.s2sdctl
      ∧ (s.setQueue k x).s2busy = s.s2busy ∧ (s.setQueue k x).s2err = s.s2err ∧ (s.setQueue k x).s2wait = s.s2wait
      ∧ (s.setQueue k x).s2lines = s.s2lines ∧ (s.setQueue k x).frzspine = s.frzspine
      ∧ (s.setQueue k x).frzmask = s.frzmask ∧ (s.setQueue k x).spineFrozen = s.spineFrozen
      ∧ (s.setQueue k x).sec = s.sec ∧ (s.setQueue k x).mgmt = s.mgmt ∧ (s.setQueue k x).cxl = s.cxl
      ∧ (s.setQueue k x).doe = s.doe ∧ (s.setQueue k x).isl = s.isl ∧ (s.setQueue k x).ualrdy = s.ualrdy
      ∧ (s.setQueue k x).keydg = s.keydg ∧ (s.setQueue k x).spdm = s.spdm ∧ (s.setQueue k x).sent = s.sent
      ∧ (s.setQueue k x).replied = s.replied ∧ (s.setQueue k x).spineErrors = s.spineErrors := by
  simp [State.setQueue]

@[simp] theorem modQueue_frame (s : State) (k : Nat) (f : HwQueue → HwQueue) :
    (s.modQueue k f).agenda = s.agenda ∧ (s.modQueue k f).asking = s.asking ∧ (s.modQueue k f).fresh = s.fresh
      ∧ (s.modQueue k f).focus = s.focus ∧ (s.modQueue k f).cycle = s.cycle ∧ (s.modQueue k f).nextId = s.nextId
      ∧ (s.modQueue k f).mem = s.mem ∧ (s.modQueue k f).poison = s.poison ∧ (s.modQueue k f).softC = s.softC
      ∧ (s.modQueue k f).softU = s.softU ∧ (s.modQueue k f).elems = s.elems ∧ (s.modQueue k f).tiles = s.tiles
      ∧ (s.modQueue k f).slices = s.slices ∧ (s.modQueue k f).islands = s.islands
      ∧ (s.modQueue k f).streamers = s.streamers ∧ (s.modQueue k f).hubs = s.hubs ∧ (s.modQueue k f).bhs = s.bhs
      ∧ (s.modQueue k f).fns = s.fns ∧ (s.modQueue k f).pools = s.pools ∧ (s.modQueue k f).ovns = s.ovns
      ∧ (s.modQueue k f).cxlmap = s.cxlmap ∧ (s.modQueue k f).engineCounts = s.engineCounts
      ∧ (s.modQueue k f).elemCounts = s.elemCounts ∧ (s.modQueue k f).zeroed = s.zeroed
      ∧ (s.modQueue k f).gazetteer = s.gazetteer ∧ (s.modQueue k f).drops = s.drops
      ∧ (s.modQueue k f).dropcnt = s.dropcnt ∧ (s.modQueue k f).works = s.works
      ∧ (s.modQueue k f).packets = s.packets ∧ (s.modQueue k f).contexts = s.contexts
      ∧ (s.modQueue k f).s2sdaddr = s.s2sdaddr ∧ (s.modQueue k f).s2sdctl = s.s2sdctl
      ∧ (s.modQueue k f).s2busy = s.s2busy ∧ (s.modQueue k f).s2err = s.s2err ∧ (s.modQueue k f).s2wait = s.s2wait
      ∧ (s.modQueue k f).s2lines = s.s2lines ∧ (s.modQueue k f).frzspine = s.frzspine
      ∧ (s.modQueue k f).frzmask = s.frzmask ∧ (s.modQueue k f).spineFrozen = s.spineFrozen
      ∧ (s.modQueue k f).sec = s.sec ∧ (s.modQueue k f).mgmt = s.mgmt ∧ (s.modQueue k f).cxl = s.cxl
      ∧ (s.modQueue k f).doe = s.doe ∧ (s.modQueue k f).isl = s.isl ∧ (s.modQueue k f).ualrdy = s.ualrdy
      ∧ (s.modQueue k f).keydg = s.keydg ∧ (s.modQueue k f).spdm = s.spdm ∧ (s.modQueue k f).sent = s.sent
      ∧ (s.modQueue k f).replied = s.replied ∧ (s.modQueue k f).spineErrors = s.spineErrors := by
  simp [State.modQueue]

@[simp] theorem setQueue_queue (s : State) (k : Nat) (x : HwQueue) : (s.setQueue k x).queue k = x := by
  simp [State.setQueue, State.queue]

theorem setQueue_queue_ne (s : State) {k j : Nat} (x : HwQueue) (h : j ≠ k) : (s.setQueue k x).queue j = s.queue j := by
  simp [State.setQueue, State.queue, tget, tget?_tset_ne _ _ h]

@[simp] theorem setQueue_setQueue (s : State) (k : Nat) (x y : HwQueue) : (s.setQueue k x).setQueue k y = s.setQueue k y := by
  simp [State.setQueue]

@[simp] theorem modQueue_queue (s : State) (k : Nat) (f : HwQueue → HwQueue) : (s.modQueue k f).queue k = f (s.queue k) := by
  simp [State.modQueue]

theorem modQueue_queue_ne (s : State) {k j : Nat} (f : HwQueue → HwQueue) (h : j ≠ k) : (s.modQueue k f).queue j = s.queue j :=
  setQueue_queue_ne s _ h

@[simp] theorem setPool_frame (s : State) (k : Nat) (x : SharedPool) :
    (s.setPool k x).agenda = s.agenda ∧ (s.setPool k x).asking = s.asking ∧ (s.setPool k x).fresh = s.fresh
      ∧ (s.setPool k x).focus = s.focus ∧ (s.setPool k x).cycle = s.cycle ∧ (s.setPool k x).nextId = s.nextId
      ∧ (s.setPool k x).mem = s.mem ∧ (s.setPool k x).poison = s.poison ∧ (s.setPool k x).softC = s.softC
      ∧ (s.setPool k x).softU = s.softU ∧ (s.setPool k x).elems = s.elems ∧ (s.setPool k x).tiles = s.tiles
      ∧ (s.setPool k x).slices = s.slices ∧ (s.setPool k x).islands = s.islands
      ∧ (s.setPool k x).streamers = s.streamers ∧ (s.setPool k x).hubs = s.hubs ∧ (s.setPool k x).bhs = s.bhs
      ∧ (s.setPool k x).fns = s.fns ∧ (s.setPool k x).queues = s.queues ∧ (s.setPool k x).ovns = s.ovns
      ∧ (s.setPool k x).cxlmap = s.cxlmap ∧ (s.setPool k x).engineCounts = s.engineCounts
      ∧ (s.setPool k x).elemCounts = s.elemCounts ∧ (s.setPool k x).zeroed = s.zeroed
      ∧ (s.setPool k x).gazetteer = s.gazetteer ∧ (s.setPool k x).drops = s.drops
      ∧ (s.setPool k x).dropcnt = s.dropcnt ∧ (s.setPool k x).works = s.works ∧ (s.setPool k x).packets = s.packets
      ∧ (s.setPool k x).contexts = s.contexts ∧ (s.setPool k x).s2sdaddr = s.s2sdaddr
      ∧ (s.setPool k x).s2sdctl = s.s2sdctl ∧ (s.setPool k x).s2busy = s.s2busy ∧ (s.setPool k x).s2err = s.s2err
      ∧ (s.setPool k x).s2wait = s.s2wait ∧ (s.setPool k x).s2lines = s.s2lines
      ∧ (s.setPool k x).frzspine = s.frzspine ∧ (s.setPool k x).frzmask = s.frzmask
      ∧ (s.setPool k x).spineFrozen = s.spineFrozen ∧ (s.setPool k x).sec = s.sec ∧ (s.setPool k x).mgmt = s.mgmt
      ∧ (s.setPool k x).cxl = s.cxl ∧ (s.setPool k x).doe = s.doe ∧ (s.setPool k x).isl = s.isl
      ∧ (s.setPool k x).ualrdy = s.ualrdy ∧ (s.setPool k x).keydg = s.keydg ∧ (s.setPool k x).spdm = s.spdm
      ∧ (s.setPool k x).sent = s.sent ∧ (s.setPool k x).replied = s.replied
      ∧ (s.setPool k x).spineErrors = s.spineErrors := by
  simp [State.setPool]

@[simp] theorem modPool_frame (s : State) (k : Nat) (f : SharedPool → SharedPool) :
    (s.modPool k f).agenda = s.agenda ∧ (s.modPool k f).asking = s.asking ∧ (s.modPool k f).fresh = s.fresh
      ∧ (s.modPool k f).focus = s.focus ∧ (s.modPool k f).cycle = s.cycle ∧ (s.modPool k f).nextId = s.nextId
      ∧ (s.modPool k f).mem = s.mem ∧ (s.modPool k f).poison = s.poison ∧ (s.modPool k f).softC = s.softC
      ∧ (s.modPool k f).softU = s.softU ∧ (s.modPool k f).elems = s.elems ∧ (s.modPool k f).tiles = s.tiles
      ∧ (s.modPool k f).slices = s.slices ∧ (s.modPool k f).islands = s.islands
      ∧ (s.modPool k f).streamers = s.streamers ∧ (s.modPool k f).hubs = s.hubs ∧ (s.modPool k f).bhs = s.bhs
      ∧ (s.modPool k f).fns = s.fns ∧ (s.modPool k f).queues = s.queues ∧ (s.modPool k f).ovns = s.ovns
      ∧ (s.modPool k f).cxlmap = s.cxlmap ∧ (s.modPool k f).engineCounts = s.engineCounts
      ∧ (s.modPool k f).elemCounts = s.elemCounts ∧ (s.modPool k f).zeroed = s.zeroed
      ∧ (s.modPool k f).gazetteer = s.gazetteer ∧ (s.modPool k f).drops = s.drops
      ∧ (s.modPool k f).dropcnt = s.dropcnt ∧ (s.modPool k f).works = s.works ∧ (s.modPool k f).packets = s.packets
      ∧ (s.modPool k f).contexts = s.contexts ∧ (s.modPool k f).s2sdaddr = s.s2sdaddr
      ∧ (s.modPool k f).s2sdctl = s.s2sdctl ∧ (s.modPool k f).s2busy = s.s2busy ∧ (s.modPool k f).s2err = s.s2err
      ∧ (s.modPool k f).s2wait = s.s2wait ∧ (s.modPool k f).s2lines = s.s2lines
      ∧ (s.modPool k f).frzspine = s.frzspine ∧ (s.modPool k f).frzmask = s.frzmask
      ∧ (s.modPool k f).spineFrozen = s.spineFrozen ∧ (s.modPool k f).sec = s.sec ∧ (s.modPool k f).mgmt = s.mgmt
      ∧ (s.modPool k f).cxl = s.cxl ∧ (s.modPool k f).doe = s.doe ∧ (s.modPool k f).isl = s.isl
      ∧ (s.modPool k f).ualrdy = s.ualrdy ∧ (s.modPool k f).keydg = s.keydg ∧ (s.modPool k f).spdm = s.spdm
      ∧ (s.modPool k f).sent = s.sent ∧ (s.modPool k f).replied = s.replied
      ∧ (s.modPool k f).spineErrors = s.spineErrors := by
  simp [State.modPool]

@[simp] theorem setPool_pool (s : State) (k : Nat) (x : SharedPool) : (s.setPool k x).pool k = x := by
  simp [State.setPool, State.pool]

theorem setPool_pool_ne (s : State) {k j : Nat} (x : SharedPool) (h : j ≠ k) : (s.setPool k x).pool j = s.pool j := by
  simp [State.setPool, State.pool, tget, tget?_tset_ne _ _ h]

@[simp] theorem setPool_setPool (s : State) (k : Nat) (x y : SharedPool) : (s.setPool k x).setPool k y = s.setPool k y := by
  simp [State.setPool]

@[simp] theorem modPool_pool (s : State) (k : Nat) (f : SharedPool → SharedPool) : (s.modPool k f).pool k = f (s.pool k) := by
  simp [State.modPool]

theorem modPool_pool_ne (s : State) {k j : Nat} (f : SharedPool → SharedPool) (h : j ≠ k) : (s.modPool k f).pool j = s.pool j :=
  setPool_pool_ne s _ h

@[simp] theorem setOvn_frame (s : State) (k : Nat) (x : Ovn) :
    (s.setOvn k x).agenda = s.agenda ∧ (s.setOvn k x).asking = s.asking ∧ (s.setOvn k x).fresh = s.fresh
      ∧ (s.setOvn k x).focus = s.focus ∧ (s.setOvn k x).cycle = s.cycle ∧ (s.setOvn k x).nextId = s.nextId
      ∧ (s.setOvn k x).mem = s.mem ∧ (s.setOvn k x).poison = s.poison ∧ (s.setOvn k x).softC = s.softC
      ∧ (s.setOvn k x).softU = s.softU ∧ (s.setOvn k x).elems = s.elems ∧ (s.setOvn k x).tiles = s.tiles
      ∧ (s.setOvn k x).slices = s.slices ∧ (s.setOvn k x).islands = s.islands
      ∧ (s.setOvn k x).streamers = s.streamers ∧ (s.setOvn k x).hubs = s.hubs ∧ (s.setOvn k x).bhs = s.bhs
      ∧ (s.setOvn k x).fns = s.fns ∧ (s.setOvn k x).queues = s.queues ∧ (s.setOvn k x).pools = s.pools
      ∧ (s.setOvn k x).cxlmap = s.cxlmap ∧ (s.setOvn k x).engineCounts = s.engineCounts
      ∧ (s.setOvn k x).elemCounts = s.elemCounts ∧ (s.setOvn k x).zeroed = s.zeroed
      ∧ (s.setOvn k x).gazetteer = s.gazetteer ∧ (s.setOvn k x).drops = s.drops ∧ (s.setOvn k x).dropcnt = s.dropcnt
      ∧ (s.setOvn k x).works = s.works ∧ (s.setOvn k x).packets = s.packets ∧ (s.setOvn k x).contexts = s.contexts
      ∧ (s.setOvn k x).s2sdaddr = s.s2sdaddr ∧ (s.setOvn k x).s2sdctl = s.s2sdctl ∧ (s.setOvn k x).s2busy = s.s2busy
      ∧ (s.setOvn k x).s2err = s.s2err ∧ (s.setOvn k x).s2wait = s.s2wait ∧ (s.setOvn k x).s2lines = s.s2lines
      ∧ (s.setOvn k x).frzspine = s.frzspine ∧ (s.setOvn k x).frzmask = s.frzmask
      ∧ (s.setOvn k x).spineFrozen = s.spineFrozen ∧ (s.setOvn k x).sec = s.sec ∧ (s.setOvn k x).mgmt = s.mgmt
      ∧ (s.setOvn k x).cxl = s.cxl ∧ (s.setOvn k x).doe = s.doe ∧ (s.setOvn k x).isl = s.isl
      ∧ (s.setOvn k x).ualrdy = s.ualrdy ∧ (s.setOvn k x).keydg = s.keydg ∧ (s.setOvn k x).spdm = s.spdm
      ∧ (s.setOvn k x).sent = s.sent ∧ (s.setOvn k x).replied = s.replied
      ∧ (s.setOvn k x).spineErrors = s.spineErrors := by
  simp [State.setOvn]

@[simp] theorem modOvn_frame (s : State) (k : Nat) (f : Ovn → Ovn) :
    (s.modOvn k f).agenda = s.agenda ∧ (s.modOvn k f).asking = s.asking ∧ (s.modOvn k f).fresh = s.fresh
      ∧ (s.modOvn k f).focus = s.focus ∧ (s.modOvn k f).cycle = s.cycle ∧ (s.modOvn k f).nextId = s.nextId
      ∧ (s.modOvn k f).mem = s.mem ∧ (s.modOvn k f).poison = s.poison ∧ (s.modOvn k f).softC = s.softC
      ∧ (s.modOvn k f).softU = s.softU ∧ (s.modOvn k f).elems = s.elems ∧ (s.modOvn k f).tiles = s.tiles
      ∧ (s.modOvn k f).slices = s.slices ∧ (s.modOvn k f).islands = s.islands
      ∧ (s.modOvn k f).streamers = s.streamers ∧ (s.modOvn k f).hubs = s.hubs ∧ (s.modOvn k f).bhs = s.bhs
      ∧ (s.modOvn k f).fns = s.fns ∧ (s.modOvn k f).queues = s.queues ∧ (s.modOvn k f).pools = s.pools
      ∧ (s.modOvn k f).cxlmap = s.cxlmap ∧ (s.modOvn k f).engineCounts = s.engineCounts
      ∧ (s.modOvn k f).elemCounts = s.elemCounts ∧ (s.modOvn k f).zeroed = s.zeroed
      ∧ (s.modOvn k f).gazetteer = s.gazetteer ∧ (s.modOvn k f).drops = s.drops ∧ (s.modOvn k f).dropcnt = s.dropcnt
      ∧ (s.modOvn k f).works = s.works ∧ (s.modOvn k f).packets = s.packets ∧ (s.modOvn k f).contexts = s.contexts
      ∧ (s.modOvn k f).s2sdaddr = s.s2sdaddr ∧ (s.modOvn k f).s2sdctl = s.s2sdctl ∧ (s.modOvn k f).s2busy = s.s2busy
      ∧ (s.modOvn k f).s2err = s.s2err ∧ (s.modOvn k f).s2wait = s.s2wait ∧ (s.modOvn k f).s2lines = s.s2lines
      ∧ (s.modOvn k f).frzspine = s.frzspine ∧ (s.modOvn k f).frzmask = s.frzmask
      ∧ (s.modOvn k f).spineFrozen = s.spineFrozen ∧ (s.modOvn k f).sec = s.sec ∧ (s.modOvn k f).mgmt = s.mgmt
      ∧ (s.modOvn k f).cxl = s.cxl ∧ (s.modOvn k f).doe = s.doe ∧ (s.modOvn k f).isl = s.isl
      ∧ (s.modOvn k f).ualrdy = s.ualrdy ∧ (s.modOvn k f).keydg = s.keydg ∧ (s.modOvn k f).spdm = s.spdm
      ∧ (s.modOvn k f).sent = s.sent ∧ (s.modOvn k f).replied = s.replied
      ∧ (s.modOvn k f).spineErrors = s.spineErrors := by
  simp [State.modOvn]

@[simp] theorem setOvn_ovnOf (s : State) (k : Nat) (x : Ovn) : (s.setOvn k x).ovnOf k = x := by
  simp [State.setOvn, State.ovnOf]

theorem setOvn_ovnOf_ne (s : State) {k j : Nat} (x : Ovn) (h : j ≠ k) : (s.setOvn k x).ovnOf j = s.ovnOf j := by
  simp [State.setOvn, State.ovnOf, tget, tget?_tset_ne _ _ h]

@[simp] theorem setOvn_setOvn (s : State) (k : Nat) (x y : Ovn) : (s.setOvn k x).setOvn k y = s.setOvn k y := by
  simp [State.setOvn]

@[simp] theorem modOvn_ovnOf (s : State) (k : Nat) (f : Ovn → Ovn) : (s.modOvn k f).ovnOf k = f (s.ovnOf k) := by
  simp [State.modOvn]

theorem modOvn_ovnOf_ne (s : State) {k j : Nat} (f : Ovn → Ovn) (h : j ≠ k) : (s.modOvn k f).ovnOf j = s.ovnOf j :=
  setOvn_ovnOf_ne s _ h

end Sys2Proof.Laws
end

