-- ==== Sys2Proof/Laws/Canonical.lean ====
section
/-! SUPPORT. The shared operations keep memory in its canonical form (log 3): one lemma for each operation that touches device
memory, cached lines or scratchpads, and one for every operation that touches none of them. -/

namespace Sys2Proof.Laws

open Sys2Proof Sys2Proof.Machine Sys2Proof.Safety

/-! ## Operations that touch no bytes -/

/-- Two states hold the same bytes. -/
def SameBytes (s t : State) : Prop :=
  t.mem = s.mem ∧ t.slices = s.slices ∧ t.tiles = s.tiles ∧ t.contexts = s.contexts

theorem SameBytes.refl (s : State) : SameBytes s s := ⟨rfl, rfl, rfl, rfl⟩

theorem SameBytes.trans {s t u : State} (h : SameBytes s t) (g : SameBytes t u) : SameBytes s u :=
  ⟨g.1.trans h.1, g.2.1.trans h.2.1, g.2.2.1.trans h.2.2.1, g.2.2.2.trans h.2.2.2⟩

theorem SameBytes.canonical {s t : State} (h : SameBytes s t) (hs : Canonical s) : Canonical t := by
  obtain ⟨h1, h2, h3, h4⟩ := h
  unfold Canonical at *
  rwa [h1, h2, h3, h4]

theorem same_setElem (s : State) (k : Nat) (e : Elem) : SameBytes s (s.setElem k e) := .refl _
theorem same_modElem (s : State) (k : Nat) (f : Elem → Elem) : SameBytes s (s.modElem k f) := by
  unfold State.modElem
  split <;> exact .refl _
theorem same_mapElems (s : State) (k : Nat) (f : Nat → Elem → Elem) : SameBytes s (s.mapElems k f) := .refl _
theorem same_modIsland (s : State) (k : Nat) (f : Island → Island) : SameBytes s (s.modIsland k f) := .refl _
theorem same_modStreamer (s : State) (k : Nat) (f : Streamer → Streamer) : SameBytes s (s.modStreamer k f) := .refl _
theorem same_modHub (s : State) (k : Nat) (f : Hub → Hub) : SameBytes s (s.modHub k f) := .refl _
theorem same_modBh (s : State) (k : Nat) (f : Bulkhead → Bulkhead) : SameBytes s (s.modBh k f) := .refl _
theorem same_modFn (s : State) (k : Nat) (f : Function → Function) : SameBytes s (s.modFn k f) := .refl _
theorem same_modQueue (s : State) (k : Nat) (f : HwQueue → HwQueue) : SameBytes s (s.modQueue k f) := .refl _
theorem same_modPool (s : State) (k : Nat) (f : SharedPool → SharedPool) : SameBytes s (s.modPool k f) := .refl _
theorem same_modOvn (s : State) (k : Nat) (f : Ovn → Ovn) : SameBytes s (s.modOvn k f) := .refl _
theorem same_takeFree (s : State) : SameBytes s s.takeFree.2 := .refl _
theorem same_newId (s : State) : SameBytes s s.newId.2 := .refl _
theorem same_raiseMsi (s : State) (f v : Nat) : SameBytes s (s.raiseMsi f v) := .refl _
theorem same_trace (s : State) (b k n u : Nat) (x y : Word) : SameBytes s (s.trace b k n u x y) := .refl _
theorem same_postFault (s : State) (b : Nat) (r : FaultRec) : SameBytes s (s.postFault b r) := .refl _
theorem same_raiseEngine (s : State) (b i : Nat) (l : Level) (c d a : Nat) (m : Bool) :
    SameBytes s (s.raiseEngine b i l c d a m) := by
  unfold State.raiseEngine
  split <;> exact .refl _
theorem same_haltElem (s : State) (k c n : Nat) (d : Word) (w : Nat) : SameBytes s (s.haltElem k c n d w) :=
  (same_modElem s k _).trans ((same_modBh _ _ _).trans (same_trace ..))
theorem same_raiseElem (s : State) (k n c : Nat) (m : Bool) (d a : Nat) : SameBytes s (s.raiseElem k n c m d a) := by
  unfold State.raiseElem
  split
  · exact .refl _
  · split <;> exact .refl _
theorem same_dropPacket (s : State) (die : Nat) (x y : BitVec 16) (v : Nat) : SameBytes s (s.dropPacket die x y v) := by
  unfold State.dropPacket
  dsimp only
  split <;> exact .refl _
theorem same_sendKey (s : State) (f g b : Nat) (k : BitVec 16) (w : Bool) : SameBytes s (s.sendKey f g b k w).1 := by
  unfold State.sendKey
  dsimp only
  repeat' split
  all_goals first
    | exact .refl _
    | exact same_dropPacket ..
theorem same_gate (s : State) (f g b : Nat) (w : Bool) : SameBytes s (s.gate f g b w).1 := by
  unfold State.gate
  repeat' split
  all_goals first
    | exact .refl _
    | exact same_sendKey ..
    | exact same_dropPacket ..
theorem same_reach (s : State) (b f a : Nat) : SameBytes s (s.reach b f a).1 := by
  unfold State.reach
  split
  · exact .refl _
  · split
    · exact .refl _
    · rename_i x _ _
      have := same_gate s b f x.bh true
      split <;> (rename_i e; simpa only [e] using this)
theorem same_meetErrors (s : State) (b : Nat) (gs : List Nat) : SameBytes s (s.meetErrors b gs).1 := by
  unfold State.meetErrors
  dsimp only
  split <;> exact .refl _
theorem same_soft (s : State) (c u : List Nat) : SameBytes s { s with softC := c, softU := u } := .refl _
theorem same_modEngineCount (s : State) (k : Nat) (f : Counters → Counters) : SameBytes s (s.modEngineCount k f) := .refl _
theorem same_install2 (s : State) (b : Nat) (t : TlbEntry) : SameBytes s (s.install2 b t) := .refl _

/-! ## Tiles and slices -/

/-- The bytes and the lines of a slice are in canonical form. -/
def SliceWf (x : Slice) : Prop := (∀ l ∈ x.cache, l.data.wf = true) ∧ (x.cache.map CacheLine.line).Nodup

theorem canonical_tile {s : State} (h : Canonical s) (k : Nat) : (s.tile k).scratch.wf = true :=
  tget_prop (P := fun t : Tile => t.scratch.wf = true) h.2.2.1 rfl k

theorem canonical_slice {s : State} (h : Canonical s) (k : Nat) : SliceWf (s.slice k) :=
  tget_prop (P := SliceWf) h.2.1 ⟨by intro l hl; simp at hl, by simp⟩ k

theorem canonical_setTile {s : State} (h : Canonical s) (k : Nat) {t : Tile} (ht : t.scratch.wf = true) :
    Canonical (s.setTile k t) := ⟨h.1, h.2.1, forall_tset (P := fun p : Nat × Tile => p.2.scratch.wf = true) h.2.2.1 ht, h.2.2.2⟩

/-- A change of a tile that leaves its scratchpad. -/
theorem canonical_modTile {s : State} (h : Canonical s) (k : Nat) (f : Tile → Tile)
    (hf : ∀ t, (f t).scratch = t.scratch) : Canonical (s.modTile k f) :=
  canonical_setTile h k (by rw [hf]; exact canonical_tile h k)

theorem canonical_mapTiles {s : State} (h : Canonical s) (b : Nat) (f : Nat → Tile → Tile)
    (hf : ∀ k t, t.scratch.wf = true → (f k t).scratch.wf = true) : Canonical (s.mapTiles b f) := by
  refine ⟨h.1, h.2.1, fun p hp => ?_, h.2.2.2⟩
  obtain ⟨q, hq, rfl⟩ := List.mem_map.1 hp
  dsimp only
  split
  · exact hf _ _ (h.2.2.1 q hq)
  · exact h.2.2.1 q hq

theorem canonical_setSlice {s : State} (h : Canonical s) (k : Nat) {x : Slice} (hx : SliceWf x) :
    Canonical (s.setSlice k x) := ⟨h.1, forall_tset (P := fun p : Nat × Slice => SliceWf p.2) h.2.1 hx, h.2.2⟩

/-- A change of a slice that leaves its cache. -/
theorem canonical_modSlice {s : State} (h : Canonical s) (k : Nat) (f : Slice → Slice)
    (hf : ∀ x, (f x).cache = x.cache) : Canonical (s.modSlice k f) := by
  refine canonical_setSlice h k ?_
  unfold SliceWf
  rw [hf]
  exact canonical_slice h k

theorem sliceWf_filter {x : Slice} (h : SliceWf x) (p : CacheLine → Bool) : SliceWf { x with cache := x.cache.filter p } :=
  ⟨fun l hl => h.1 l (List.mem_filter.1 hl).1, h.2.sublist (List.filter_sublist.map _)⟩

theorem canonical_dropLines {s : State} (h : Canonical s) (k : Nat) (p : CacheLine → Bool) :
    Canonical (s.modSlice k fun x => { x with cache := x.cache.filter p }) :=
  canonical_setSlice h k (sliceWf_filter (canonical_slice h k) p)

/-! ## Device memory and the last-level cache (09 R183, R184) -/

theorem canonical_writeBack {s : State} (h : Canonical s) {l : CacheLine} (hl : l.data.wf = true) :
    Canonical (s.writeBack l) := ⟨Mem_wf_splice h.1 hl _ _, h.2⟩

theorem victim_mem {s : State} {ls : List CacheLine} {v : CacheLine} (h : victim s ls = some v) : v ∈ ls := by
  unfold victim at h
  dsimp only at h
  have := List.mem_of_mem_head? h
  split at this <;> split at this <;> simp only [List.mem_filter] at this <;> tauto

theorem canonical_makeRoom {s : State} (h : Canonical s) (k line : Nat) : Canonical (s.makeRoom k line) := by
  unfold State.makeRoom
  dsimp only
  split
  · exact h
  · split
    · exact h
    · rename_i v hv
      refine canonical_setSlice ?_ k (sliceWf_filter (canonical_slice h k) _)
      split
      · exact canonical_writeBack h ((canonical_slice h k).1 v (List.mem_filter.1 (victim_mem hv)).1)
      · exact h

/-- Fetching a line keeps the form, and the line has it. -/
theorem canonical_fetchLine {s : State} (h : Canonical s) (x : Home) (cls reads : Nat) :
    Canonical (s.fetchLine x cls reads).1 ∧ (s.fetchLine x cls reads).2.1.data.wf = true := by
  unfold State.fetchLine
  dsimp only
  split
  · rename_i l hl
    exact ⟨h, (canonical_slice h _).1 l (List.mem_of_find?_eq_some hl)⟩
  · exact ⟨canonical_makeRoom h _ _, Mem_wf_slice (canonical_makeRoom h _ _).1 _ _⟩

theorem canonical_putLine {s : State} (h : Canonical s) (x : Home) {l : CacheLine} (hl : l.data.wf = true) :
    Canonical (s.putLine x l) := by
  unfold State.putLine
  dsimp only
  split
  rotate_left
  · split
    · exact canonical_writeBack h hl
    · exact h
  refine canonical_setSlice h _ ?_
  have hx := sliceWf_filter (canonical_slice h (8 * x.bh + x.slice)) fun y => y.line != l.line
  refine ⟨fun y hy => ?_, ?_⟩
  · rcases List.mem_append.1 hy with hy | hy
    · exact hx.1 y hy
    · rwa [List.mem_singleton.1 hy]
  · simp only [List.map_append, List.map_cons, List.map_nil]
    refine List.nodup_append.2 ⟨hx.2, by simp, ?_⟩
    rintro a ha b hb rfl
    obtain ⟨y, hy, he⟩ := List.mem_map.1 ha
    have hb : a = l.line := by simpa using hb
    exact absurd (he.trans hb) (by simpa using (List.mem_filter.1 hy).2)

theorem canonical_homeRead {s : State} (h : Canonical s) (x : Home) (n cls reads : Nat) (c : Bool) :
    Canonical (s.homeRead x n cls reads c).s := by
  have hf := canonical_fetchLine h x cls reads
  unfold State.homeRead
  dsimp only
  refine canonical_putLine ((same_meetErrors ..).canonical hf.1) x ?_
  dsimp only
  split <;> exact hf.2

theorem canonical_homeWrite {s : State} (h : Canonical s) (x : Home) (v n cls reads : Nat) (p : Bool) (o : Option Source)
    (w : Bool) : Canonical (s.homeWrite x v n cls reads p o w) := by
  have hf := canonical_fetchLine h x cls reads
  unfold State.homeWrite
  dsimp only
  refine canonical_putLine ?_ x (Mem_wf_write n hf.2 _ _)
  exact (same_soft _ _ _).canonical ((same_meetErrors _ _ _).canonical hf.1)

/-! ## Walks (09 R168-R173) -/

theorem of_eq {α : Type} {x : State × α} {s : State} {v : α} (e : x = (s, v)) (h : Canonical x.1) : Canonical s := by
  subst e
  exact h

theorem canonical_walkRead {s : State} (h : Canonical s) (b f pa : Nat) : Canonical (s.walkRead b f pa).1 := by
  have h1 := (same_reach s b f pa).canonical h
  unfold State.walkRead
  split
  · rename_i e
    exact of_eq e h1
  · rename_i e
    exact canonical_homeRead ((same_modEngineCount _ _ _).canonical (of_eq e h1)) _ 8 2 15 true

/-- A reader of table entries keeps the form. -/
def ReaderKeeps (rd : EntryReader) : Prop := ∀ s a, Canonical s → Canonical (rd s a).1

theorem canonical_readGroup {rd : EntryReader} (hr : ReaderKeeps rd) (table : Nat) (is : List Nat) :
    ∀ {s : State}, Canonical s → Canonical (readGroup rd table s is).1 := by
  induction is with
  | nil => exact fun h => h
  | cons i is ih =>
    intro s h
    have h1 := hr s (table + 8 * i) h
    unfold readGroup
    split
    · rename_i e
      exact of_eq e h1
    · rename_i s' v e
      have h2 := ih (s := s') (of_eq e h1)
      split <;> (rename_i e'; exact of_eq e' h2)

theorem canonical_walkFrom {rd : EntryReader} (hr : ReaderKeeps rd) (bad input level : Nat) :
    ∀ {s : State} (table : Nat), Canonical s → Canonical (walkFrom rd bad input level s table).1 := by
  induction level with
  | zero =>
    intro s table h
    unfold walkFrom
    dsimp only
    generalize table + 8 * _ = a
    have h1 := hr s a h
    split
    · rename_i e
      exact of_eq e h1
    · rename_i s' v e
      have h2 : Canonical s' := of_eq e h1
      split
      · exact h2
      · split
        · exact h2
        · split
          · have h3 := canonical_readGroup hr table ((List.range 16).map (· + bits input (12 + 9 * 0) 9 / 16 * 16)) h2
            split
            · rename_i e'
              exact of_eq e' h3
            · rename_i e'
              split <;> exact of_eq e' h3
          · exact h2
  | succ l ih =>
    intro s table h
    unfold walkFrom
    dsimp only
    generalize (if (l + 1 == 4) = true then bits input 48 9 else bits input (12 + 9 * (l + 1)) 9) = idx
    have h1 := hr s (table + 8 * idx) h
    split
    · rename_i e
      exact of_eq e h1
    · rename_i s' v e
      have h2 : Canonical s' := of_eq e h1
      split
      · exact h2
      · split
        · exact ih _ h2
        · split
          · have h3 := canonical_readGroup hr table ((List.range 16).map (· + idx / 16 * 16)) h2
            split
            · rename_i e'
              exact of_eq e' h3
            · rename_i e'
              split <;> exact of_eq e' h3
          · exact h2

theorem canonical_countMismatch (s : State) (o : TlbOf) (l : Leaf) (h : Canonical s) : Canonical (s.countMismatch o l) := by
  unfold State.countMismatch
  dsimp only
  split
  · exact h
  · split <;> exact h

theorem canonical_setTlb {s : State} (h : Canonical s) (o : TlbOf) (l : List TlbEntry) : Canonical (s.setTlb o l) := by
  unfold State.setTlb
  split
  · exact canonical_modTile h _ _ fun _ => rfl
  · exact h
  · exact h

theorem canonical_scrub {s : State} (h : Canonical s) (o : TlbOf) (b f : Nat) (p : Option Nat) (a : Nat) :
    Canonical (s.scrub o b f p a) := by
  unfold State.scrub
  dsimp only
  split
  · exact h
  · exact (same_modBh _ _ _).canonical (canonical_setTlb h _ _)

theorem canonical_stage2 {s : State} (h : Canonical s) (o : TlbOf) (b f a : Nat) : Canonical (s.stage2 o b f a).1 := by
  have h0 := canonical_scrub h o b f none a
  unfold State.stage2
  dsimp only
  split
  · exact h0
  · have hr : ReaderKeeps fun s pa => s.walkRead b f pa := fun s pa h => canonical_walkRead h b f pa
    have h1 := canonical_walkFrom hr 0x41 a 4 ((s.scrub o b f none a).fn f).s2root h0
    split
    · rename_i e
      exact of_eq e h1
    · rename_i s' l e
      exact (same_install2 (s'.countMismatch o l) b _).canonical (canonical_countMismatch s' o l (of_eq e h1))

theorem canonical_read1 {s : State} (h : Canonical s) (o : TlbOf) (b f a : Nat) : Canonical (s.read1 o b f a).1 := by
  have h1 := canonical_stage2 h o b f a
  unfold State.read1
  split
  · rename_i e
    exact of_eq e h1
  · rename_i s' l e
    have h2 : Canonical s' := of_eq e h1
    split
    · exact h2
    · exact canonical_walkRead h2 b f _

theorem canonical_processRoot {s : State} (h : Canonical s) (o : TlbOf) (b f p : Nat) : Canonical (s.processRoot o b f p).1 := by
  unfold State.processRoot
  dsimp only
  split
  · exact h
  · have h1 := canonical_read1 h o b f ((s.fn f).pctx + 16 * p)
    split
    · rename_i e
      exact of_eq e h1
    · rename_i s' w e
      have h2 := canonical_read1 (s := s') (of_eq e h1) o b f ((s.fn f).pctx + 16 * p + 8)
      split
      · rename_i e'
        exact of_eq e' h2
      · rename_i e'
        split <;> exact of_eq e' h2

theorem same_mendWalkers (s : State) (b : Nat) : SameBytes s (s.mendWalkers b) := by
  unfold State.mendWalkers
  split <;> exact .refl _

theorem canonical_walk {s : State} (h : Canonical s) (o : TlbOf) (b f p a : Nat) : Canonical (s.walk o b f p a).1 := by
  have h1 := canonical_processRoot ((same_mendWalkers s b).canonical h) o b f p
  unfold State.walk
  split
  · rename_i e
    exact of_eq e h1
  · rename_i s' root e
    have hr : ReaderKeeps fun s ipa => s.read1 o b f ipa := fun s ipa h => canonical_read1 h o b f ipa
    have h2 := canonical_walkFrom hr 0x40 a 4 (s := s') root (of_eq e h1)
    split
    · rename_i e'
      exact of_eq e' h2
    · rename_i s'' l e'
      have h3 := canonical_stage2 (s := s''.countMismatch o l) (canonical_countMismatch s'' o l (of_eq e' h2)) o b f (l.base + a % 2 ^ l.log2)
      dsimp only
      split <;> (rename_i e''; exact of_eq e'' h3)

/-! ## Scratchpads and watchpoints (09 R181, R182, 23 R361) -/

theorem touchGuard_scratch (t : Tile) (off kind : Nat) : (t.touchGuard off kind).scratch = t.scratch := by
  unfold Tile.touchGuard
  split <;> rfl

theorem canonical_meetScratch {s : State} (h : Canonical s) (k : Nat) (gs : List Nat) : Canonical (s.meetScratch k gs) := by
  unfold State.meetScratch
  dsimp only
  split
  · exact h
  · exact (same_modBh _ _ _).canonical (canonical_setTile h k (canonical_tile h k))

theorem canonical_scratchRead {s : State} (h : Canonical s) (k off n kind : Nat) :
    Canonical (s.scratchRead k off n kind).1 := by
  unfold State.scratchRead
  dsimp only
  split
  · exact canonical_modTile h k _ fun t => touchGuard_scratch t off kind
  · exact canonical_meetScratch h k _

theorem canonical_scratchWrite {s : State} (h : Canonical s) (k off v n kind : Nat) (p w : Bool) :
    Canonical (s.scratchWrite k off v n kind p w) := by
  unfold State.scratchWrite
  dsimp only
  split
  · exact canonical_modTile h k _ fun t => touchGuard_scratch t off kind
  · have h1 := canonical_meetScratch h k ((granulesOf off n).filter fun g => !(coversGranule off n g || (w && g == off / 64)))
    exact canonical_setTile h1 k (Mem_wf_write n (canonical_tile h1 k) _ _)

theorem canonical_watchOne {s : State} (h : Canonical s) (k : Nat) (a : Watched) (n : Nat) :
    Canonical (s.watchOne k a n) := by
  unfold State.watchOne
  dsimp only
  split
  · exact h
  · have h1 := canonical_modTile h k (fun t => { t with watch := tset (s.tile k).watch n { tget (s.tile k).watch n {} with
      count := (tget (s.tile k).watch n {}).count + 1 } }) fun _ => rfl
    have h2 : ∀ (c : Bool) (u : State), Canonical u → Canonical (if c = true then u.trace (k / 64) 6 n (k % 64) a.word 0 else u) :=
      fun c u hu => by
        split
        · exact (same_trace ..).canonical hu
        · exact hu
    split
    · split
      · exact (same_modElem _ _ _).canonical (h2 _ _ h1)
      · exact h2 _ _ h1
    · exact h2 _ _ h1

theorem canonical_watch {s : State} (h : Canonical s) (k : Nat) (a : Watched) : Canonical (s.watch k a) := by
  unfold State.watch
  split
  · exact h
  · exact List.foldlRecOn _ _ h fun _ hb n _ => canonical_watchOne hb k a n

/-! ## What a restore reads back (19 R339, R340) -/

theorem Mem_ofBytes_above (l : List Byte) : ∀ a : Nat, ∀ c ∈ Mem.ofBytes a l, a ≤ c.1 := by
  induction l with
  | nil => intro a c hc; cases hc
  | cons b l ih =>
    intro a c hc
    unfold Mem.ofBytes at hc
    split at hc
    · exact Nat.le_of_succ_le (ih (a + 1) c hc)
    · rcases List.mem_cons.1 hc with rfl | hc
      · exact Nat.le_refl _
      · exact Nat.le_of_succ_le (ih (a + 1) c hc)

theorem Mem_wf_ofBytes (l : List Byte) : ∀ a : Nat, (Mem.ofBytes a l).wf = true := by
  induction l with
  | nil => intro a; rfl
  | cons b l ih =>
    intro a
    unfold Mem.ofBytes
    split
    · exact ih _
    · rename_i hb
      rw [Mem_wf_iff]
      have h := (Mem_wf_iff _).1 (ih (a + 1))
      refine ⟨fun c hc => ?_, List.pairwise_cons.2 ⟨fun d hd => Mem_ofBytes_above l (a + 1) d hd, h.2⟩⟩
      rcases List.mem_cons.1 hc with rfl | hc
      · exact hb
      · exact h.1 c hc

/-- A context read back from an image has scratchpads in the canonical form. -/
theorem canonical_ofImage {c : Context} (h : ∀ p ∈ c.tiles, p.2.scratch.wf = true) (l : List Byte) :
    ∀ p ∈ (c.ofImage l).tiles, p.2.scratch.wf = true := by
  unfold Context.ofImage
  dsimp only
  refine List.foldlRecOn (motive := fun ts : Tab Tile => ∀ p ∈ ts, p.2.scratch.wf = true) _ _ h fun ts hts n _ => ?_
  exact forall_tset (P := fun p : Nat × Tile => p.2.scratch.wf = true) hts (Mem_wf_ofBytes _ _)

end Sys2Proof.Laws
end

