-- ==== Sys2Proof/Laws/Runs.lean ====
section
/-!
SUPPORT. What an agent does with an instruction that may run: one lemma for each way a sequencer command, a control token, a
queue command and a graph node end.
-/
namespace Sys2Proof.Laws
open Sys2Proof Sys2Proof.Machine Sys2Proof.Safety

/-- A command that may run is attempted. -/
theorem seqRun_of {k : Nat} {t : Tile} {s : State} (body : State → Nat → Tile → SeqResult) (h : Serves k t s) :
    seqRun body s = match (body s k t).stop with
      | .done => .next ((body s k t).s.seqEnd k none false)
      | .kept => .next ((body s k t).s.seqEnd k none true)
      | .jump n => .next ((body s k t).s.seqEnd k (some n) false)
      | .wait => .next (body s k t).s := by
  obtain ⟨hf, ht, hr, hc⟩ := h
  have : (t.current.isNone && t.serving) = false := by
    rcases hc with h | h
    · cases hh : t.current <;> simp_all
    · simp [h]
  simp only [seqRun, hf, ht, hr, this, Bool.not_false, Bool.and_true, if_true] <;> rfl

theorem tile_of_serves {k : Nat} {t : Tile} {s : State} (h : Serves k t s) : s.tile k = t := tget_of_some h.2.1

/-- A step of an engine that asks for no further access takes effect. -/
theorem attempt_of {α : Type} (s : State) (key bh engine rank : Nat) (body : State → State × α)
    (h : (body (answered s key bh engine rank)).1.asked = none) :
    s.attempt key bh engine rank body =
      (settled key (body (answered s key bh engine rank)).1, some (body (answered s key bh engine rank)).2) := by
  simp only [answered] at h
  simp only [State.attempt, h, settled, answered]

/-- A token that passes its checks and whose rings hold a tile has its effect, once its step asks for no further access. -/
theorem tokenRun_applied {k : Nat} {x : Island} {c : EngineCmd} {rest : List EngineCmd} {s s' : State} {rings : List Nat}
    {check : State → Nat → Island → Nat} {body : State → Nat → Island → TokenResult} (h : Takes k x c rest s)
    (hr : ∀ m ∈ rings, (x.ring m).bound = true ∧ (x.ring m).count ≠ 0) (hc : check s k x = 0)
    (hb : body (tokenState s k rings) k x = { s := s', stop := .applied }) (ha : s'.asked = none) :
    tokenRun rings check body s = .next (applied k c rest rings (settled (islandWork k) s')) := by
  obtain ⟨hf, hx, hq, hs, he⟩ := h
  have h1 : (rings.any fun m => !(x.ring m).bound) = false := by
    simp only [List.any_eq_false]
    intro m hm
    simp [(hr m hm).1]
  have h2 : (rings.any fun m => (x.ring m).count == 0) = false := by
    simp only [List.any_eq_false]
    intro m hm
    simp [(hr m hm).2]
  have hm : tokenMayRun s k x = true := by simp [tokenMayRun, hs]
  have step := attempt_of s (islandWork k) (k / 4) (32 + k % 4) (if rings.isEmpty then rankElement else rankRing)
    (fun s => ((body s k x).s, (body s k x).stop)) (by simp only [hb, ha])
  simp only [hb] at step
  simp only [tokenRun, hf, hx, hq, hm, he, h1, h2, hc, step]
  rfl

/-- A dispatched head command runs. -/
theorem commandRun_of {q : Nat} {a : Accepted} {s : State} (body : State → Nat → Accepted → State)
    (h : Dispatched q a s) : commandRun body s = .next (body s q a) := by
  obtain ⟨hf, ha, h1, h2, h3, h4⟩ := h
  cases hq : (s.queue q).accepted with
  | nil => simp [hq] at ha
  | cons b l =>
    simp only [hq, List.head?_cons, Option.some.injEq] at ha
    subst ha
    simp [commandRun, hf, hq, h1, h2, h3, h4]

/-- The current node of a graph that may act runs. -/
theorem nodeRun_of {q : Nat} {g : Graph} {kind : Nat} {s : State} (body : State → Nat → Graph → State)
    (h : AtNode q g kind s) : nodeRun kind body s = .next (body s q g) := by
  obtain ⟨hf, hg, hr, hs, hn⟩ := h
  have h1 : (g.state == .ready || g.state == .honoured) = true := by rcases hs with h | h <;> simp [h]
  have h2 : (g.nodes[g.current]?).any (·.kind == kind) = true := by
    cases hh : g.nodes[g.current]? <;> simp_all
  simp [nodeRun, hf, hg, hr, h1, h2]

end Sys2Proof.Laws
end

