-- ==== Sys2Proof/Tests/Slice0.lean ====
section
/-!
SUPPORT. Tests: words written out from the encoding tables, what the loader's checks refuse, values that the spec's examples give,
and for each statement with hypotheses states that meet them (theorems witness_<statement>).
-/
namespace Sys2Proof.Tests
open Sys2Proof Sys2Proof.Machine Sys2Proof.Safety
set_option Elab.async false

/-- A state whose next turn fires an instruction from slot 0, in focus, and its beat. -/
def fireState (i : Instr) : State :=
  let w := (encode i).getD 0 0
  let l := (encode i).getD 1 0
  { State.reset.placeWord w l with focus := .elem (placeFor i) 0 w l }
def fireBeat (i : Instr) : Beat :=
  let w := (encode i).getD 0 0
  let l := (encode i).getD 1 0
  { key := placeFor i, elem := ((fireState i).elem? (placeFor i)).getD {}, form := (formOf i).getD .bare,
    run := { slot := 0, word := w, lit := l, heddle := 0, n := 1, beat := 0 } }
def t0 : Trig := ⟨0, 0⟩
abbrev Fires (i : Instr) : Prop := (fireBeat i).Ready i t0 (fireState i)

/-! Words written out from the encodings of 05 R71-R73, R76, with set 1, heddle 3 -/

def words1 : List (Word × Word × Instr) :=
  [(0b01_0011_00000001_000101_010110_101011, 0, .addiS32 ⟨1, 3⟩ (.d 5) (.i 6) 0x2B),
   (0b01_0011_00000010_000101_010110_100111, 0, .addS32 ⟨1, 3⟩ (.d 5) (.i 6) (.k 7)),
   (0b01_0011_00000011_000101_010110_100111, 0, .addsS32 ⟨1, 3⟩ (.d 5) (.i 6) (.k 7)),
   (0b01_0011_00000100_000101_010110_100111, 0, .subS32 ⟨1, 3⟩ (.d 5) (.i 6) (.k 7)),
   (0b01_0011_00000101_000101_010110_100111, 0, .subsS32 ⟨1, 3⟩ (.d 5) (.i 6) (.k 7)),
   (0b01_0011_00000110_000101_010110_000000, 0, .negS32 ⟨1, 3⟩ (.d 5) (.i 6)),
   (0b01_0011_00000111_000101_010110_000000, 0, .absS32 ⟨1, 3⟩ (.d 5) (.i 6)),
   (0b01_0011_00001000_000101_010110_100111, 0, .addS16 ⟨1, 3⟩ (.d 5) (.i 6) (.k 7)),
   (0b01_0011_00001001_000101_010110_100111, 0, .addsS16 ⟨1, 3⟩ (.d 5) (.i 6) (.k 7)),
   (0b01_0011_00001010_000101_010110_100111, 0, .subS16 ⟨1, 3⟩ (.d 5) (.i 6) (.k 7)),
   (0b01_0011_00001011_000101_010110_100111, 0, .subsS16 ⟨1, 3⟩ (.d 5) (.i 6) (.k 7)),
   (0b01_0011_00010000_000101_010110_100111, 0, .mulS32 ⟨1, 3⟩ (.d 5) (.i 6) (.k 7)),
   (0b01_0011_00010001_000101_010110_100111, 0, .mulhS32 ⟨1, 3⟩ (.d 5) (.i 6) (.k 7)),
   (0b01_0011_00010010_000101_010110_100111, 0, .mulhN32 ⟨1, 3⟩ (.d 5) (.i 6) (.k 7)),
   (0b01_0011_00010011_000101_010110_100111, 0, .macS32 ⟨1, 3⟩ (.d 5) (.i 6) (.k 7)),
   (0b01_0011_00010100_000101_010110_100111, 0, .mulS16 ⟨1, 3⟩ (.d 5) (.i 6) (.k 7)),
   (0b01_0011_00010101_000101_010110_100111, 0, .dotS8 ⟨1, 3⟩ (.d 5) (.i 6) (.k 7)),
   (0b01_0011_00010110_000101_010110_100111, 0, .dotN8 ⟨1, 3⟩ (.d 5) (.i 6) (.k 7)),
   (0b01_0011_00011000_000101_010110_100111, 0, .divS32 ⟨1, 3⟩ (.d 5) (.i 6) (.k 7)),
   (0b01_0011_00011001_000101_010110_100111, 0, .divN32 ⟨1, 3⟩ (.d 5) (.i 6) (.k 7)),
   (0b01_0011_00011010_000101_010110_100111, 0, .remS32 ⟨1, 3⟩ (.d 5) (.i 6) (.k 7)),
   (0b01_0011_00011011_000101_010110_100111, 0, .remN32 ⟨1, 3⟩ (.d 5) (.i 6) (.k 7)),
   (0b01_0011_00011100_000101_010110_100111, 0, .minS32 ⟨1, 3⟩ (.d 5) (.i 6) (.k 7)),
   (0b01_0011_00011101_000101_010110_100111, 0, .maxS32 ⟨1, 3⟩ (.d 5) (.i 6) (.k 7)),
   (0b01_0011_00011110_000101_010110_100111, 0, .minN32 ⟨1, 3⟩ (.d 5) (.i 6) (.k 7)),
   (0b01_0011_00011111_000101_010110_100111, 0, .maxN32 ⟨1, 3⟩ (.d 5) (.i 6) (.k 7)),
   (0b01_0011_00100000_000101_010110_100111, 0, .and ⟨1, 3⟩ (.d 5) (.i 6) (.k 7)),
   (0b01_0011_00100001_000101_010110_100111, 0, .or ⟨1, 3⟩ (.d 5) (.i 6) (.k 7)),
   (0b01_0011_00100010_000101_010110_100111, 0, .xor ⟨1, 3⟩ (.d 5) (.i 6) (.k 7)),
   (0b01_0011_00100110_000101_010110_000000, 0, .not ⟨1, 3⟩ (.d 5) (.i 6)),
   (0b01_0011_00100111_000101_010110_101011, 0, .andi ⟨1, 3⟩ (.d 5) (.i 6) 0x2B),
   (0b01_0011_00101000_000101_010110_100111, 0, .shl ⟨1, 3⟩ (.d 5) (.i 6) (.k 7)),
   (0b01_0011_00101001_000101_010110_100111, 0, .shr ⟨1, 3⟩ (.d 5) (.i 6) (.k 7))]
theorem test_words1 : ∀ x ∈ words1, decodeWord x.1 x.2.1 = .ok x.2.2 ∧ encode x.2.2 = if x.2.2.hasLiteral then [x.1, x.2.1] else [x.1] := by decide

def words2 : List (Word × Word × Instr) :=
  [(0b01_0011_00101010_000101_010110_100111, 0, .sar ⟨1, 3⟩ (.d 5) (.i 6) (.k 7)),
   (0b01_0011_00101100_000101_010110_010101, 0, .shli ⟨1, 3⟩ (.d 5) (.i 6) 0x15),
   (0b01_0011_00101101_000101_010110_010101, 0, .shri ⟨1, 3⟩ (.d 5) (.i 6) 0x15),
   (0b01_0011_00101110_000101_010110_010101, 0, .sari ⟨1, 3⟩ (.d 5) (.i 6) 0x15),
   (0b01_0011_00110000_000101_010110_000000, 0, .clz ⟨1, 3⟩ (.d 5) (.i 6)),
   (0b01_0011_00110001_000101_010110_000000, 0, .ctz ⟨1, 3⟩ (.d 5) (.i 6)),
   (0b01_0011_00110010_000101_010110_000000, 0, .popc ⟨1, 3⟩ (.d 5) (.i 6)),
   (0b01_0011_00110111_000101_101010111100, 0, .ldi ⟨1, 3⟩ (.d 5) 0xABC),
   (0b01_0011_00111000_000101_101010111100, 0, .ldhi ⟨1, 3⟩ (.d 5) 0xABC),
   (0b01_0011_00111111_000101_000000_000000, 0x8BADF00D, .lit ⟨1, 3⟩ (.d 5) 0x8BADF00D),
   (0b01_0011_01000000_000101_010110_100111, 0, .ceqS32 ⟨1, 3⟩ (.d 5) (.i 6) (.k 7)),
   (0b01_0011_01000001_000101_010110_100111, 0, .cneS32 ⟨1, 3⟩ (.d 5) (.i 6) (.k 7)),
   (0b01_0011_01000010_000101_010110_100111, 0, .cltS32 ⟨1, 3⟩ (.d 5) (.i 6) (.k 7)),
   (0b01_0011_01000011_000101_010110_100111, 0, .cleS32 ⟨1, 3⟩ (.d 5) (.i 6) (.k 7)),
   (0b01_0011_01000100_000101_010110_100111, 0, .cgtS32 ⟨1, 3⟩ (.d 5) (.i 6) (.k 7)),
   (0b01_0011_01000101_000101_010110_100111, 0, .cgeS32 ⟨1, 3⟩ (.d 5) (.i 6) (.k 7)),
   (0b01_0011_01000110_000101_010110_100111, 0, .cltN32 ⟨1, 3⟩ (.d 5) (.i 6) (.k 7)),
   (0b01_0011_01000111_000101_010110_100111, 0, .cleN32 ⟨1, 3⟩ (.d 5) (.i 6) (.k 7)),
   (0b01_0011_01001000_000101_010110_100111, 0, .cgtN32 ⟨1, 3⟩ (.d 5) (.i 6) (.k 7)),
   (0b01_0011_01001001_000101_010110_100111, 0, .cgeN32 ⟨1, 3⟩ (.d 5) (.i 6) (.k 7)),
   (0b01_0011_01001010_000101_010110_100111, 0, .ceqF32 ⟨1, 3⟩ (.d 5) (.i 6) (.k 7)),
   (0b01_0011_01001011_000101_010110_100111, 0, .cneF32 ⟨1, 3⟩ (.d 5) (.i 6) (.k 7)),
   (0b01_0011_01001100_000101_010110_100111, 0, .cltF32 ⟨1, 3⟩ (.d 5) (.i 6) (.k 7)),
   (0b01_0011_01001101_000101_010110_100111, 0, .cleF32 ⟨1, 3⟩ (.d 5) (.i 6) (.k 7)),
   (0b01_0011_01001110_000101_010110_100111, 0, .cunF32 ⟨1, 3⟩ (.d 5) (.i 6) (.k 7)),
   (0b01_0011_01010000_000101_010110_100111, 0, .pand ⟨1, 3⟩ (.d 5) (.i 6) (.k 7)),
   (0b01_0011_01010001_000101_010110_100111, 0, .por ⟨1, 3⟩ (.d 5) (.i 6) (.k 7)),
   (0b01_0011_01010010_000101_010110_100111, 0, .pxor ⟨1, 3⟩ (.d 5) (.i 6) (.k 7)),
   (0b01_0011_01010101_000101_010110_100111, 0, .ceqF64 ⟨1, 3⟩ (.d 5) (.i 6) (.k 7)),
   (0b01_0011_01010110_000101_010110_100111, 0, .cltF64 ⟨1, 3⟩ (.d 5) (.i 6) (.k 7)),
   (0b01_0011_01010111_000101_010110_100111, 0, .cleF64 ⟨1, 3⟩ (.d 5) (.i 6) (.k 7)),
   (0b01_0011_01011000_000101_010110_100111, 0, .cunF64 ⟨1, 3⟩ (.d 5) (.i 6) (.k 7)),
   (0b01_0011_01011001_000101_010110_000101, 0, .ctag ⟨1, 3⟩ (.d 5) (.i 6) 5)]
theorem test_words2 : ∀ x ∈ words2, decodeWord x.1 x.2.1 = .ok x.2.2 ∧ encode x.2.2 = if x.2.2.hasLiteral then [x.1, x.2.1] else [x.1] := by decide

def words3 : List (Word × Word × Instr) :=
  [(0b01_0011_01100000_000101_010110_000000, 0, .mov ⟨1, 3⟩ (.d 5) (.i 6)),
   (0b01_0011_01100001_000101_010110_100111, 0, .tagv ⟨1, 3⟩ (.d 5) (.i 6) (.k 7)),
   (0b01_0011_01100010_000101_010110_000101, 0, .selv ⟨1, 3⟩ (.d 5) (.i 6) 5),
   (0b01_0011_01100011_000000_010110_000000, 0, .drop ⟨1, 3⟩ (.i 6)),
   (0b01_0011_01101101_000101_010110_100111, 0, .selPn ⟨1, 3⟩ 5 (.d 5) (.i 6) (.k 7)),
   (0b01_0011_01110000_010011_000001010101, 0, .send ⟨1, 3⟩ (.i 3) 0x55),
   (0b01_0011_01110001_000101_010110_100111, 0, .sendr ⟨1, 3⟩ (.d 5) (.i 6) (.k 7)),
   (0b01_0011_01110010_000000_101010111100, 0, .done ⟨1, 3⟩ 0xABC),
   (0b01_0011_01111100_000101_010110_100111, 0, .spawn ⟨1, 3⟩ (.d 5) (.i 6) (.k 7)),
   (0b01_0011_10000000_000101_010110_100111, 0, .faddF32 ⟨1, 3⟩ (.d 5) (.i 6) (.k 7)),
   (0b01_0011_10000001_000101_010110_100111, 0, .fsubF32 ⟨1, 3⟩ (.d 5) (.i 6) (.k 7)),
   (0b01_0011_10000010_000101_010110_100111, 0, .fmulF32 ⟨1, 3⟩ (.d 5) (.i 6) (.k 7)),
   (0b01_0011_10000011_000101_010110_100111, 0, .fmacF32 ⟨1, 3⟩ (.d 5) (.i 6) (.k 7)),
   (0b01_0011_10000100_000101_010110_100111, 0, .fnmacF32 ⟨1, 3⟩ (.d 5) (.i 6) (.k 7)),
   (0b01_0011_10000101_000101_010110_100111, 0, .fminF32 ⟨1, 3⟩ (.d 5) (.i 6) (.k 7)),
   (0b01_0011_10000110_000101_010110_100111, 0, .fmaxF32 ⟨1, 3⟩ (.d 5) (.i 6) (.k 7)),
   (0b01_0011_10000111_000101_010110_000000, 0, .fabsF32 ⟨1, 3⟩ (.d 5) (.i 6)),
   (0b01_0011_10001000_000101_010110_000000, 0, .fnegF32 ⟨1, 3⟩ (.d 5) (.i 6)),
   (0b01_0011_10001001_000101_010110_100111, 0, .fcpsgnF32 ⟨1, 3⟩ (.d 5) (.i 6) (.k 7)),
   (0b01_0011_10001010_000101_010110_000000, 0, .frsqsF32 ⟨1, 3⟩ (.d 5) (.i 6)),
   (0b01_0011_10001011_000101_010110_000000, 0, .frcpsF32 ⟨1, 3⟩ (.d 5) (.i 6)),
   (0b01_0011_10001100_000101_010110_000000, 0, .fex2sF32 ⟨1, 3⟩ (.d 5) (.i 6)),
   (0b01_0011_10001101_000101_010110_000000, 0, .flg2sF32 ⟨1, 3⟩ (.d 5) (.i 6)),
   (0b01_0011_10001110_000101_010110_000000, 0, .fclsF32 ⟨1, 3⟩ (.d 5) (.i 6)),
   (0b01_0011_10001111_000101_010110_000000, 0, .frndF32 ⟨1, 3⟩ (.d 5) (.i 6)),
   (0b01_0011_10010000_000101_010110_100111, 0, .faddH16 ⟨1, 3⟩ (.d 5) (.i 6) (.k 7)),
   (0b01_0011_10010001_000101_010110_100111, 0, .fsubH16 ⟨1, 3⟩ (.d 5) (.i 6) (.k 7)),
   (0b01_0011_10010010_000101_010110_100111, 0, .fmulH16 ⟨1, 3⟩ (.d 5) (.i 6) (.k 7)),
   (0b01_0011_10010011_000101_010110_100111, 0, .fmacH16 ⟨1, 3⟩ (.d 5) (.i 6) (.k 7)),
   (0b01_0011_10010100_000101_010110_100111, 0, .fminH16 ⟨1, 3⟩ (.d 5) (.i 6) (.k 7)),
   (0b01_0011_10010101_000101_010110_100111, 0, .fmaxH16 ⟨1, 3⟩ (.d 5) (.i 6) (.k 7)),
   (0b01_0011_10010110_000101_010110_100111, 0, .fdotH16 ⟨1, 3⟩ (.d 5) (.i 6) (.k 7)),
   (0b01_0011_10010111_000101_010110_100111, 0, .fdmacH16 ⟨1, 3⟩ (.d 5) (.i 6) (.k 7))]
theorem test_words3 : ∀ x ∈ words3, decodeWord x.1 x.2.1 = .ok x.2.2 ∧ encode x.2.2 = if x.2.2.hasLiteral then [x.1, x.2.1] else [x.1] := by decide

def words4 : List (Word × Word × Instr) :=
  [(0b01_0011_10011000_000101_010110_000000, 0, .cvtF32S32 ⟨1, 3⟩ (.d 5) (.i 6)),
   (0b01_0011_10011001_000101_010110_000000, 0, .cvtS32F32 ⟨1, 3⟩ (.d 5) (.i 6)),
   (0b01_0011_10011010_000101_010110_000000, 0, .cvtF32N32 ⟨1, 3⟩ (.d 5) (.i 6)),
   (0b01_0011_10011011_000101_010110_000000, 0, .cvtN32F32 ⟨1, 3⟩ (.d 5) (.i 6)),
   (0b01_0011_10011100_000101_010110_100111, 0, .cvtH16F32 ⟨1, 3⟩ (.d 5) (.i 6) (.k 7)),
   (0b01_0011_10011101_000101_010110_000000, 0, .cvtlF32H16 ⟨1, 3⟩ (.d 5) (.i 6)),
   (0b01_0011_10011110_000101_010110_000000, 0, .cvthF32H16 ⟨1, 3⟩ (.d 5) (.i 6)),
   (0b01_0011_10011111_000101_010110_000000, 0, .cvtS8F32 ⟨1, 3⟩ (.d 5) (.i 6)),
   (0b01_0011_10100000_000101_010110_100111, 0, .cvtMx8e4F32 ⟨1, 3⟩ (.d 5) (.i 6) (.k 7)),
   (0b01_0011_10100001_000101_010110_100111, 0, .cvtMx8e5F32 ⟨1, 3⟩ (.d 5) (.i 6) (.k 7)),
   (0b01_0011_10100010_000101_010110_100111, 0, .cvtF32Mx8e4 ⟨1, 3⟩ (.d 5) (.i 6) (.k 7)),
   (0b01_0011_10100011_000101_010110_100111, 0, .cvtF32Mx8e5 ⟨1, 3⟩ (.d 5) (.i 6) (.k 7)),
   (0b01_0011_10100100_000101_010110_100111, 0, .cvtWf8F32 ⟨1, 3⟩ (.d 5) (.i 6) (.k 7)),
   (0b01_0011_10100101_000101_010110_100111, 0, .cvtF32Wf8 ⟨1, 3⟩ (.d 5) (.i 6) (.k 7)),
   (0b01_0011_10100110_000101_010110_100111, 0, .cvtWf5F32 ⟨1, 3⟩ (.d 5) (.i 6) (.k 7)),
   (0b01_0011_10100111_000101_010110_100111, 0, .cvtF32Wf5 ⟨1, 3⟩ (.d 5) (.i 6) (.k 7)),
   (0b01_0011_10101000_000101_010110_100111, 0, .cvtWf3F32 ⟨1, 3⟩ (.d 5) (.i 6) (.k 7)),
   (0b01_0011_10101001_000101_010110_100111, 0, .cvtF32Wf3 ⟨1, 3⟩ (.d 5) (.i 6) (.k 7)),
   (0b01_0011_10110000_000110_010110_100111, 0, .faddF64 ⟨1, 3⟩ (.d 6) (.i 6) (.k 7)),
   (0b01_0011_10110001_000110_010110_100111, 0, .fsubF64 ⟨1, 3⟩ (.d 6) (.i 6) (.k 7)),
   (0b01_0011_10110010_000110_010110_100111, 0, .fmulF64 ⟨1, 3⟩ (.d 6) (.i 6) (.k 7)),
   (0b01_0011_10110011_000110_010110_100111, 0, .fmacF64 ⟨1, 3⟩ (.d 6) (.i 6) (.k 7)),
   (0b01_0011_10110100_000110_010110_100111, 0, .fdivF64 ⟨1, 3⟩ (.d 6) (.i 6) (.k 7)),
   (0b01_0011_10110101_000110_010110_000000, 0, .fsqrtF64 ⟨1, 3⟩ (.d 6) (.i 6)),
   (0b01_0011_10110110_000110_010110_100111, 0, .fminF64 ⟨1, 3⟩ (.d 6) (.i 6) (.k 7)),
   (0b01_0011_10110111_000110_010110_100111, 0, .fmaxF64 ⟨1, 3⟩ (.d 6) (.i 6) (.k 7)),
   (0b01_0011_10111000_000110_010110_000000, 0, .cvtF64F32 ⟨1, 3⟩ (.d 6) (.i 6)),
   (0b01_0011_10111001_000101_010110_000000, 0, .cvtF32F64 ⟨1, 3⟩ (.d 5) (.i 6)),
   (0b01_0011_10111010_000110_010110_000000, 0, .cvtF64S32 ⟨1, 3⟩ (.d 6) (.i 6)),
   (0b01_0011_10111011_000101_010110_000000, 0, .cvtS32F64 ⟨1, 3⟩ (.d 5) (.i 6)),
   (0b01_0011_10111100_000110_010110_000000, 0, .fabsF64 ⟨1, 3⟩ (.d 6) (.i 6)),
   (0b01_0011_10111101_000110_010110_000000, 0, .fnegF64 ⟨1, 3⟩ (.d 6) (.i 6)),
   (0b01_0011_11000000_000101_010110_110101, 0, .ldN32 ⟨1, 3⟩ (.d 5) (.i 6) 0x35)]
theorem test_words4 : ∀ x ∈ words4, decodeWord x.1 x.2.1 = .ok x.2.2 ∧ encode x.2.2 = if x.2.2.hasLiteral then [x.1, x.2.1] else [x.1] := by decide

def words5 : List (Word × Word × Instr) :=
  [(0b01_0011_11000001_000101_010110_110101, 0, .ldS16 ⟨1, 3⟩ (.d 5) (.i 6) 0x35),
   (0b01_0011_11000010_000101_010110_110101, 0, .ldN16 ⟨1, 3⟩ (.d 5) (.i 6) 0x35),
   (0b01_0011_11000011_000101_010110_110101, 0, .ldS8 ⟨1, 3⟩ (.d 5) (.i 6) 0x35),
   (0b01_0011_11000100_000101_010110_110101, 0, .ldN8 ⟨1, 3⟩ (.d 5) (.i 6) 0x35),
   (0b01_0011_11000101_000101_010110_110101, 0, .stN32 ⟨1, 3⟩ (.d 5) (.i 6) 0x35),
   (0b01_0011_11000110_000101_010110_110101, 0, .stN16 ⟨1, 3⟩ (.d 5) (.i 6) 0x35),
   (0b01_0011_11000111_000101_010110_110101, 0, .stN8 ⟨1, 3⟩ (.d 5) (.i 6) 0x35),
   (0b01_0011_11001000_000000_010110_110101, 0, .pf ⟨1, 3⟩ (.i 6) 0x35),
   (0b01_0011_11001001_000101_010110_110101, 0, .gstN32 ⟨1, 3⟩ (.d 5) (.i 6) 0x35),
   (0b01_0011_11001010_000101_010110_110101, 0, .gstN16 ⟨1, 3⟩ (.d 5) (.i 6) 0x35),
   (0b01_0011_11001011_000101_010110_110101, 0, .gstN8 ⟨1, 3⟩ (.d 5) (.i 6) 0x35),
   (0b01_0011_11001100_000110_010110_110101, 0, .ldN64 ⟨1, 3⟩ (.d 6) (.i 6) 0x35),
   (0b01_0011_11001101_000110_010110_110101, 0, .stN64 ⟨1, 3⟩ (.d 6) (.i 6) 0x35),
   (0b01_0011_11010000_000101_010110_100111, 0x8BADF00D, .amo ⟨1, 3⟩ (.d 5) (.i 6) (.k 7) 0x8BADF00D),
   (0b01_0011_11010001_000101_010110_100111, 0x8BADF00D, .amoc ⟨1, 3⟩ (.d 5) (.i 6) (.k 7) 0x8BADF00D),
   (0b01_0011_11010010_000101_010110_100111, 0, .sems ⟨1, 3⟩ (.d 5) (.i 6) (.k 7)),
   (0b01_0011_11010011_000101_010110_100111, 0, .semw ⟨1, 3⟩ (.d 5) (.i 6) (.k 7)),
   (0b01_0011_11010100_000101_010110_100111, 0, .arrive ⟨1, 3⟩ (.d 5) (.i 6) (.k 7)),
   (0b01_0011_11011000_000101_010110_100111, 0, .fencel ⟨1, 3⟩ (.d 5) (.i 6) (.k 7)),
   (0b01_0011_11011001_000101_010110_100111, 0, .fenceh ⟨1, 3⟩ (.d 5) (.i 6) (.k 7)),
   (0b01_0011_11011010_000000_000000_000000, 0x8BADF00D, .fence ⟨1, 3⟩ 0x8BADF00D),
   (0b01_0011_11011011_000000_000000_000000, 0, .ifence ⟨1, 3⟩),
   (0b01_0011_11100000_011010_010110_100111, 0, .mcmd ⟨1, 3⟩ (.o 2) (.i 6) (.k 7)),
   (0b01_0011_11100001_011010_010110_100111, 0, .scmd ⟨1, 3⟩ (.o 2) (.i 6) (.k 7)),
   (0b01_0011_11100010_011010_010110_100111, 0, .qcmd ⟨1, 3⟩ (.o 2) (.i 6) (.k 7)),
   (0b01_0011_11101000_000101_010110_100111, 0, .ask ⟨1, 3⟩ (.d 5) (.i 6) (.k 7)),
   (0b01_0011_11101001_000000_010110_100111, 0, .answer ⟨1, 3⟩ (.i 6) (.k 7)),
   (0b01_0011_11101010_000000_000000_000010, 0, .setpg ⟨1, 3⟩ 2),
   (0b01_0011_11110000_000000_000000_000000, 0, .nop ⟨1, 3⟩),
   (0b01_0011_11110001_000000_101010111100, 0, .trap ⟨1, 3⟩ 0xABC),
   (0b01_0011_11110010_000000_101010111100, 0, .bkpt ⟨1, 3⟩ 0xABC),
   (0b01_0011_11110011_000101_101010111100, 0, .srd ⟨1, 3⟩ (.d 5) 0xABC),
   (0b01_0011_11110100_000100_101010111100, 0, .swr ⟨1, 3⟩ (.d 4) 0xABC)]
theorem test_words5 : ∀ x ∈ words5, decodeWord x.1 x.2.1 = .ok x.2.2 ∧ encode x.2.2 = if x.2.2.hasLiteral then [x.1, x.2.1] else [x.1] := by decide

/-! Words of sequencer commands (10 R202) and control tokens (12 R226), written out from their tables -/

def commands : List (DWord × Instr) :=
  [(0, .halt),
   (0x080000000003F001, .streamRd 0 0 63 1),
   (0b00010_101_00100000000000000000000001000000_000000001111_111111111111, .streamWr 5 0x20000040 15 0xFFF),
   (0b00011_001_00000000000000000000000000000000_000000000111_000000000010, .snextRd 1 7 2),
   (0b00100_010_00000000000000000000000000000000_000000000111_000000000010, .snextWr 2 7 2),
   (0b00101_011_11111111111111111111111111111111_000000000000000000000000, .sadd 3 0xFFFFFFFF),
   (0b00110_100_1001_000000010000_010_0000000000000000000000000000000000000, .deliver 4 9 16 2),
   (0x38001F8000000000, .push 0 0 0 63),
   (0b00111_110_10_101_000000000011_000000000000000000000000000000000000000, .push 2 5 6 3),
   (0b01000_111_1010_0000000000000000000000000000000000000000000000000000, .accept 7 10),
   (0b01001_001_110_00000000000000000000000000000000000000000000000000000, .spcopy 1 6),
   (0b01010_000011_0000001000000000000_0000000000010000000_000000000000000, .galloc 3 0x1000 0x80),
   (0b01011_111111_00000000000000000000000000000000000000000000000000000, .gfree 63),
   (0b01100_10000001_000000000000000000000000000000000000000000000000000, .sbar 0x81),
   (0b01101_1_0000000000000101_00000111_0000000000000000000000000000000000, .loop 1 5 7),
   (0b01110_1_10_0000000000000011_0000000000000000000000000000000000000000, .lpset 1 2 3),
   (0b01111_1111_1_10000000000000000000000000001100_0000000000000000000000, .segw 15 1 0x8000000C),
   (0x8000000000000000, .qwait),
   (0b10001_0000001000000000000_0000000000000000000000000000000000000000, .fupd 0x1000),
   (0b10010_00000011_1111111_00000000000000000000000000000000000000000000, .notify 3 127),
   (0b10011_1111111111_0000000000000010_000000000000000000000000000000000, .ssig 1023 2),
   (0b10100_0000000001_0000000000000011_000000000000000000000000000000000, .swait 1 3)]
theorem test_commands : ∀ x ∈ commands, decodeSeq x.1 = some x.2 ∧ encodeSeq x.2 = x.1 := by decide +kernel
/-- An unassigned opcode, a reserved field that is not 0, lpset reg = 3 and segw n = 0 are no commands. -/
theorem test_commandsRefused : decodeSeq 0xA800000000000000 = none ∧ decodeSeq 1 = none ∧ decodeSeq 0x7300000000000000 = none
    ∧ decodeSeq 0x7840000000000000 = none := by decide
def tokens : List (Word × Word × Instr) :=
  [(0b0000_10_1_001_110_0010_0011_00000000000, 0b1111111_11111111_111_00000000000000, .mma 2 1 1 6 2 3 127 255 7),
   (0b0001_11_0101_1_00000_0001100000000000, 0b0000001_00000010_00000000000000000, .accw 3 5 1 0x1800 1 2),
   (0b0010_01_0000000000_0000000000000001, 0b0000001_00000010_00000000000000000, .accl 1 1 1 2),
   (0b0011_0000000000000000000000000000, 0b10_0000_0000000000000011_1111111111, .msig 2 3 1023),
   (0b0100_101_0000000000000000000000000, 0, .rpop 5),
   (0b0101_0_1_10_1111111_00000000000000000, 0b0000000000000100_11_0000001_0000000, .qinit 1 2 127 4 3 1),
   (0b0110_0_1_0_111_0000011_000000000000000, 0, .qadd 1 7 3),
   (0b0111_0_0_1_011_000000_0000000000001000, 0b0000111_0000000000000000000000000, .qapl 0 1 3 8 7),
   (0b1000_0_1_0_100_000000_0000000000001000, 0b0000111_0000000000000000000000000, .qapr 1 0 4 8 7),
   (0b1001_0_1_00000000000000000000000000, 0, .qcnt 1),
   (0b1010_0_0_0000000000_1111111111111111, 0, .qspl 0 0xFFFF),
   (0b1011_0_1_0000000000_0000000000000010, 0, .qldv 1 2)]
theorem test_tokens : ∀ x ∈ tokens, decodeToken x.1 x.2.1 = some x.2.2 ∧ encodeToken x.2.2 = (x.1, x.2.1) := by decide +kernel
/-- A reserved opcode and a reserved field that is not 0 are no tokens. -/
theorem test_tokensRefused : decodeToken 0xC0000000 0 = none ∧ decodeToken 0x40000001 0 = none := by decide +kernel

/-! Encodings that the spec gives: 12 R219, 15 R268, 14 R256 -/

theorem test_wordOfMcmd : decodeWord 0x0381B001 0 = .ok (.mcmd ⟨0, 0⟩ (.o 3) (.d 0) (.d 1)) := by decide
theorem test_wordOfAmo : decodeWord 0x03400042 0 = .ok (.amo ⟨0, 0⟩ (.d 0) (.d 1) (.d 2) 0) := by decide
theorem test_wordOfFence : decodeWord 0x03680000 0x00010402 = .ok (.fence ⟨0, 0⟩ 0x00010402) := by decide

/-! Well-formedness: a term that each check of 02 R23 refuses, and one that none does -/

theorem test_check4 : Machine.slotCheck .loom (.answer t0 (.d 0) (.d 2)) = some 4 ∧ ¬ Instr.wf (.answer t0 (.d 0) (.d 2)) .loom
    ∧ Machine.slotCheck .evaluator (.ask t0 (.d 0) (.d 1) (.d 2)) = some 4 := by decide
theorem test_check5 : Machine.slotCheck .loom (.selv t0 (.d 0) (.d 1) 0) = some 5 ∧ ¬ Instr.wellFormed (.selv t0 (.d 0) (.d 1) 0)
    ∧ Machine.slotCheck .evaluator (.faddF64 t0 (.d 1) (.d 2) (.d 4)) = some 5 := by decide
theorem test_check7 : Machine.slotCheck .loom (.mov t0 (.i 0) (.d 1)) = some 7 ∧ ¬ Instr.wellFormed (.mov t0 (.i 0) (.d 1))
    ∧ Machine.slotCheck .loom (.mov t0 (.d 0) (.o 1)) = some 7 := by decide
theorem test_check9 : Machine.slotCheck .loom (.amo t0 (.d 0) (.d 1) (.d 2) 0x802) = some 9
    ∧ ¬ Instr.wellFormed (.amo t0 (.d 0) (.d 1) (.d 2) 0x802) := by decide
theorem test_wellFormed : Instr.wf (.ask t0 (.d 0) (.d 1) (.d 2)) .loom ∧ Instr.wf (.faddF64 t0 (.d 2) (.d 4) (.d 6)) .evaluator := by decide

/-! One beat on the values of the spec's examples -/

/-- Register 5 and the flags after one beat of an instruction, with registers 1, 2, 3 and 5 set and the rounding of the mode. -/
def after (i : Instr) (d1 d2 d3 d5 : Word) (mode : RMode := .rne) : Option (Word × Flags) :=
  let key := placeFor i
  let s := (fireState i).modElem key fun e =>
    { e with regs := ((((e.regs.set 1 d1).set 2 d2).set 3 d3).set 5 d5), record := { e.record with mode := mode } }
  match exec i s with
  | .next t => (t.elem? key).map fun e => (e.regs.getD 5 0, e.fl)
  | _ => none
/-- 08 R143. -/
theorem test_division : after (.divS32 t0 (.d 5) (.d 1) (.d 2)) (-7) 2 0 0 = some (-3, 0)
    ∧ after (.divS32 t0 (.d 5) (.d 1) (.d 2)) (-7) 0 0 0 = some (0x80000000, flagSAT) := by decide +kernel
theorem test_remainder : after (.remS32 t0 (.d 5) (.d 1) (.d 2)) (-7) 2 0 0 = some (-1, 0)
    ∧ after (.remS32 t0 (.d 5) (.d 1) (.d 2)) (-7) 0 0 0 = some (-7, flagSAT)
    ∧ after (.remS32 t0 (.d 5) (.d 1) (.d 2)) 0x80000000 (-1) 0 0 = some (0, 0) := by decide +kernel
/-- 08 R141. -/
theorem test_addition : after (.addS32 t0 (.d 5) (.d 1) (.d 2)) 0x7FFFFFFF 1 0 0 = some (0x80000000, 0)
    ∧ after (.addsS32 t0 (.d 5) (.d 1) (.d 2)) 0x7FFFFFFF 1 0 0 = some (0x7FFFFFFF, flagSAT) := by decide +kernel
/-- 08 R162 and the refinement of 2.0. -/
theorem test_seed : after (.frsqsF32 t0 (.d 5) (.d 1)) 0x40000000 0 0 0 = some (0x3F350000, 0) := by decide +kernel
theorem test_refinement : after (.fmulF32 t0 (.d 5) (.d 1) (.d 2)) 0x40000000 0x3F350000 0 0 = some (0x3FB50000, 0)
    ∧ after (.fnmacF32 t0 (.d 5) (.d 1) (.d 2)) 0x3FB50000 0x3F350000 0 0x3F800000 = some (0x39600000, 0) := by decide +kernel
theorem test_update : after (.fmacF32 t0 (.d 5) (.d 1) (.d 2)) 0x3EB50000 0x39600000 0 0x3F350000 = some (0x3F3504F3, 0) := by
  decide +kernel
/-- 08 R155. -/
theorem test_conversions : after (.cvtS8F32 t0 (.d 5) (.d 1)) 0xC348B333 0 0 0 = some (0xFFFFFF80, flagNV)
    ∧ after (.cvtS32F32 t0 (.d 5) (.d 1)) 0x40200000 0 0 0 = some (2, flagNX) := by decide +kernel
/-- 07 R133: E5M2 57,344 with the scale 254. -/
theorem test_scaled : after (.cvtF32Mx8e5 t0 (.d 5) (.d 1) (.d 2)) 0x7B 0xFE 0 0 = some (0x7F800000, flagOF ||| flagNX) := by decide +kernel
/-- 19 R341: a block gives its element back. -/
theorem test_element_block :
    let e : Elem := { regs := List.replicate 16 5, lf := 77, tg := 3, sk := 9, halted := true, ptr := [1, 2, 3, 4], fl := 5, flt := 9, inp := [[{ data := 7, tag := 2 }], [], [], [], [], [], [], [{ data := 1, skip := 3, sparse := true }, { data := 0 }]], out := [[.token { data := 4 }, .reserved 3 { data := 0 }], [], [], [], [], [], [], []], inbox := [{ bit := 3, w0 := 5, w1 := 6, classL := true }] }
    e.ofBlock (e.block 0x120) = e := by decide +kernel

def beats1 : List Instr :=
  [.addiS32 t0 (.d 14) (.i 0) (-1), .addS32 t0 (.d 14) (.i 0) (.i 1), .addsS32 t0 (.d 14) (.i 0) (.i 1),
   .subS32 t0 (.d 14) (.i 0) (.i 1), .subsS32 t0 (.d 14) (.i 0) (.i 1), .negS32 t0 (.d 14) (.i 0),
   .absS32 t0 (.d 14) (.i 0), .addS16 t0 (.d 14) (.i 0) (.i 1), .addsS16 t0 (.d 14) (.i 0) (.i 1),
   .subS16 t0 (.d 14) (.i 0) (.i 1), .subsS16 t0 (.d 14) (.i 0) (.i 1), .mulS32 t0 (.d 14) (.i 0) (.i 1),
   .mulhS32 t0 (.d 14) (.i 0) (.i 1), .mulhN32 t0 (.d 14) (.i 0) (.i 1), .macS32 t0 (.d 15) (.i 0) (.i 1),
   .mulS16 t0 (.d 14) (.i 0) (.i 1), .dotS8 t0 (.d 14) (.i 0) (.i 1), .dotN8 t0 (.d 14) (.i 0) (.i 1),
   .divS32 t0 (.d 14) (.i 0) (.i 1), .divN32 t0 (.d 14) (.i 0) (.i 1)]

theorem witness_beats1 : ∀ i ∈ beats1, Fires i := by decide

def beats2 : List Instr :=
  [.remS32 t0 (.d 14) (.i 0) (.i 1), .remN32 t0 (.d 14) (.i 0) (.i 1), .minS32 t0 (.d 14) (.i 0) (.i 1),
   .maxS32 t0 (.d 14) (.i 0) (.i 1), .minN32 t0 (.d 14) (.i 0) (.i 1), .maxN32 t0 (.d 14) (.i 0) (.i 1),
   .and t0 (.d 14) (.i 0) (.i 1), .or t0 (.d 14) (.i 0) (.i 1), .xor t0 (.d 14) (.i 0) (.i 1),
   .not t0 (.d 14) (.i 0), .andi t0 (.d 14) (.i 0) (-1), .shl t0 (.d 14) (.i 0) (.i 1),
   .shr t0 (.d 14) (.i 0) (.i 1), .sar t0 (.d 14) (.i 0) (.i 1), .shli t0 (.d 14) (.i 0) (-1),
   .shri t0 (.d 14) (.i 0) (-1), .sari t0 (.d 14) (.i 0) (-1), .clz t0 (.d 14) (.i 0), .ctz t0 (.d 14) (.i 0),
   .popc t0 (.d 14) (.i 0)]

theorem witness_beats2 : ∀ i ∈ beats2, Fires i := by decide

def beats3 : List Instr :=
  [.ldi t0 (.d 14) (-1), .ldhi t0 (.d 14) (-1), .lit t0 (.d 14) 0, .ceqS32 t0 (.d 14) (.i 0) (.i 1),
   .cneS32 t0 (.d 14) (.i 0) (.i 1), .cltS32 t0 (.d 14) (.i 0) (.i 1), .cleS32 t0 (.d 14) (.i 0) (.i 1),
   .cgtS32 t0 (.d 14) (.i 0) (.i 1), .cgeS32 t0 (.d 14) (.i 0) (.i 1), .cltN32 t0 (.d 14) (.i 0) (.i 1),
   .cleN32 t0 (.d 14) (.i 0) (.i 1), .cgtN32 t0 (.d 14) (.i 0) (.i 1), .cgeN32 t0 (.d 14) (.i 0) (.i 1),
   .ceqF32 t0 (.d 14) (.i 0) (.i 1), .cneF32 t0 (.d 14) (.i 0) (.i 1), .cltF32 t0 (.d 14) (.i 0) (.i 1),
   .cleF32 t0 (.d 14) (.i 0) (.i 1), .cunF32 t0 (.d 14) (.i 0) (.i 1), .pand t0 (.d 14) (.i 0) (.i 1),
   .por t0 (.d 14) (.i 0) (.i 1)]

theorem witness_beats3 : ∀ i ∈ beats3, Fires i := by decide

def beats4 : List Instr :=
  [.pxor t0 (.d 14) (.i 0) (.i 1), .ceqF64 t0 (.d 14) (.i 0) (.i 1), .cltF64 t0 (.d 14) (.i 0) (.i 1),
   .cleF64 t0 (.d 14) (.i 0) (.i 1), .cunF64 t0 (.d 14) (.i 0) (.i 1), .ctag t0 (.d 14) (.i 0) (-1),
   .mov t0 (.d 14) (.i 0), .tagv t0 (.d 14) (.i 0) (.i 1), .selv t0 (.d 14) (.i 0) 7, .drop t0 (.i 0),
   .selPn t0 7 (.d 14) (.i 0) (.i 1), .send t0 (.i 3) 1, .sendr t0 (.d 3) (.i 0) (.i 1), .done t0 1,
   .spawn t0 (.d 14) (.i 0) (.i 1), .faddF32 t0 (.d 14) (.i 0) (.i 1), .fsubF32 t0 (.d 14) (.i 0) (.i 1),
   .fmulF32 t0 (.d 14) (.i 0) (.i 1), .fmacF32 t0 (.d 15) (.i 0) (.i 1), .fnmacF32 t0 (.d 15) (.i 0) (.i 1)]

theorem witness_beats4 : ∀ i ∈ beats4, Fires i := by decide

def beats5 : List Instr :=
  [.fminF32 t0 (.d 14) (.i 0) (.i 1), .fmaxF32 t0 (.d 14) (.i 0) (.i 1), .fabsF32 t0 (.d 14) (.i 0),
   .fnegF32 t0 (.d 14) (.i 0), .fcpsgnF32 t0 (.d 14) (.i 0) (.i 1), .frsqsF32 t0 (.d 14) (.i 0),
   .frcpsF32 t0 (.d 14) (.i 0), .fex2sF32 t0 (.d 14) (.i 0), .flg2sF32 t0 (.d 14) (.i 0), .fclsF32 t0 (.d 14) (.i 0),
   .frndF32 t0 (.d 14) (.i 0), .faddH16 t0 (.d 14) (.i 0) (.i 1), .fsubH16 t0 (.d 14) (.i 0) (.i 1),
   .fmulH16 t0 (.d 14) (.i 0) (.i 1), .fmacH16 t0 (.d 15) (.i 0) (.i 1), .fminH16 t0 (.d 14) (.i 0) (.i 1),
   .fmaxH16 t0 (.d 14) (.i 0) (.i 1), .fdotH16 t0 (.d 14) (.i 0) (.i 1), .fdmacH16 t0 (.d 15) (.i 0) (.i 1),
   .cvtF32S32 t0 (.d 14) (.i 0)]

theorem witness_beats5 : ∀ i ∈ beats5, Fires i := by decide

def beats6 : List Instr :=
  [.cvtS32F32 t0 (.d 14) (.i 0), .cvtF32N32 t0 (.d 14) (.i 0), .cvtN32F32 t0 (.d 14) (.i 0),
   .cvtH16F32 t0 (.d 14) (.i 0) (.i 1), .cvtlF32H16 t0 (.d 14) (.i 0), .cvthF32H16 t0 (.d 14) (.i 0),
   .cvtS8F32 t0 (.d 14) (.i 0), .cvtMx8e4F32 t0 (.d 14) (.i 0) (.i 1), .cvtMx8e5F32 t0 (.d 14) (.i 0) (.i 1),
   .cvtF32Mx8e4 t0 (.d 14) (.i 0) (.i 1), .cvtF32Mx8e5 t0 (.d 14) (.i 0) (.i 1), .cvtWf8F32 t0 (.d 14) (.i 0) (.i 1),
   .cvtF32Wf8 t0 (.d 14) (.i 0) (.i 1), .cvtWf5F32 t0 (.d 14) (.i 0) (.i 1), .cvtF32Wf5 t0 (.d 14) (.i 0) (.i 1),
   .cvtWf3F32 t0 (.d 14) (.i 0) (.i 1), .cvtF32Wf3 t0 (.d 14) (.i 0) (.i 1), .faddF64 t0 (.d 14) (.i 0) (.i 1),
   .fsubF64 t0 (.d 14) (.i 0) (.i 1), .fmulF64 t0 (.d 14) (.i 0) (.i 1)]

theorem witness_beats6 : ∀ i ∈ beats6, Fires i := by decide

def beats7 : List Instr :=
  [.fmacF64 t0 (.d 14) (.i 0) (.i 1), .fdivF64 t0 (.d 14) (.i 0) (.i 1), .fsqrtF64 t0 (.d 14) (.i 0),
   .fminF64 t0 (.d 14) (.i 0) (.i 1), .fmaxF64 t0 (.d 14) (.i 0) (.i 1), .cvtF64F32 t0 (.d 14) (.i 0),
   .cvtF32F64 t0 (.d 14) (.i 0), .cvtF64S32 t0 (.d 14) (.i 0), .cvtS32F64 t0 (.d 14) (.i 0),
   .fabsF64 t0 (.d 14) (.i 0), .fnegF64 t0 (.d 14) (.i 0), .ldN32 t0 (.d 14) (.i 0) 1, .ldS16 t0 (.d 14) (.i 0) 1,
   .ldN16 t0 (.d 14) (.i 0) 1, .ldS8 t0 (.d 14) (.i 0) 1, .ldN8 t0 (.d 14) (.i 0) 1, .stN32 t0 (.d 2) (.i 0) 1,
   .stN16 t0 (.d 2) (.i 0) 1, .stN8 t0 (.d 2) (.i 0) 1, .pf t0 (.i 0) 1]

theorem witness_beats7 : ∀ i ∈ beats7, Fires i := by decide

def beats8 : List Instr :=
  [.gstN32 t0 (.d 2) (.i 0) 1, .gstN16 t0 (.d 2) (.i 0) 1, .gstN8 t0 (.d 2) (.i 0) 1, .ldN64 t0 (.d 14) (.i 0) 1,
   .stN64 t0 (.d 2) (.i 0) 1, .amo t0 (.d 14) (.i 0) (.i 1) 0, .amoc t0 (.d 14) (.i 0) (.i 1) 0,
   .sems t0 (.d 14) (.i 0) (.i 1), .semw t0 (.d 14) (.i 0) (.i 1), .arrive t0 (.d 14) (.i 0) (.i 1),
   .fencel t0 (.d 14) (.i 0) (.i 1), .fenceh t0 (.d 14) (.i 0) (.i 1), .fence t0 0, .ifence t0 ,
   .mcmd t0 (.o 2) (.i 0) (.i 1), .scmd t0 (.o 2) (.i 0) (.i 1), .qcmd t0 (.o 2) (.i 0) (.i 1),
   .ask t0 (.d 14) (.i 0) (.i 1), .answer t0 (.i 0) (.d 12), .setpg t0 1]

theorem witness_beats8 : ∀ i ∈ beats8, Fires i := by decide

def beats9 : List Instr :=
  [.nop t0 , .trap t0 1, .bkpt t0 1, .srd t0 (.d 14) 1, .swr t0 (.c 4) 1]

theorem witness_beats9 : ∀ i ∈ beats9, Fires i := by decide

set_option maxRecDepth 8000

/-! ## Witnesses: states and operands that meet the hypotheses of the statements, clause by clause -/

/-- A firing state with its element changed, and its beat. -/
def fireFrom (i : Instr) (f : Elem → Elem) : State := (fireState i).modElem (placeFor i) f
def beatFrom (i : Instr) (f : Elem → Elem) : Beat := { fireBeat i with elem := f (fireBeat i).elem }
/-- Register 1 holds a word. -/
def reg1 (w : Word) (e : Elem) : Elem := { e with regs := e.regs.set 1 w }
/-- Segment 1 of tile 0 is a writable one of 2^12 bytes. -/
def segTile : Tile := { segs := [(1, 0xC000000000000F0C)] }

theorem witness_goesOn : (let x := fireBeat (.addS32 t0 (.o 0) (.i 0) (.k 1))
    let run : Issue := { x.run with n := 4, beat := 3 }
    let e := { x.elem with issue := some run }
    ({ x with elem := e, run := run } : Beat).Ready (.addS32 t0 (.o 0) (.i 0) (.k 1)) t0
      ((fireState (.addS32 t0 (.o 0) (.i 0) (.k 1))).setElem 0 e)) := by
  dsimp only
  (repeat' apply And.intro) <;> decide +kernel
theorem witness_fourth_entry_full : ¬ (let x := fireBeat (.addS32 t0 (.o 0) (.i 0) (.k 1))
    let e := { x.elem with out := x.elem.out.set 0 (List.replicate 4 (.token Token.zero)) }
    ({ x with elem := e } : Beat).Ready (.addS32 t0 (.o 0) (.i 0) (.k 1)) t0
      ((fireState (.addS32 t0 (.o 0) (.i 0) (.k 1))).setElem 0 e)) := by decide +kernel
theorem witness_LoadingValues : Fires (.ldhi t0 (.d 15) (-1)) ∧ Fires (.ldhi t0 (.o 7) 0) ∧ Fires (.ldhi t0 (.p 0) 1) := by
  decide +kernel
theorem witness_ShuttleSends :
    let routed (i : Instr) : State := (fireState i).setBh 0 { routes := [{ label := 127, elem := 0, bit := 0 }] }
    let i : Instr := .send t0 (.i 0) 127
    let j : Instr := .sendr t0 (.d 3) (.i 0) (.i 1)
    ((fireBeat i).Ready i t0 (routed i) ∧ ((routed i).bh 0).routes.any (fun r => r.label == 127) = true)
      ∧ (Fires i ∧ ((fireState i).bh 0).routes.any (fun r => r.label == 127) = false)
      ∧ ((beatFrom j (fun e => { e with regs := e.regs.set 3 0xFFFFFFFF })).Ready j t0
          ((routed j).modElem 0 fun e => { e with regs := e.regs.set 3 0xFFFFFFFF }))
      ∧ Fires j := by
  dsimp only
  (repeat' apply And.intro) <;> decide +kernel
theorem witness_AddressWordChecks :
    segTile.checkAddr false 0x0005FFFC 4 true = .ok { seg0 := true, va := 0x5FFFC }
      ∧ segTile.checkAddr false 0x00060000 4 true = .error 0x44
      ∧ segTile.checkAddr false 0x0005FFFE 4 true = .error 0x45
      ∧ segTile.checkAddr true 0x00000000 4 true = .error 0x43
      ∧ segTile.checkAddr true 0x20000000 4 false = .error 0x44
      ∧ segTile.checkAddr false 0x10000FFC 4 true = .ok { seg0 := false, va := 0xFFC, cls := 0, reads := 15 }
      ∧ segTile.checkAddr false 0x10001000 4 false = .error 0x44
      ∧ segTile.checkAddr false 0x10000002 4 false = .error 0x45
      ∧ ({ segs := [(1, 0x8000000000000F0C)] } : Tile).checkAddr false 0x10000FFC 4 true = .error 0x44
      ∧ ({ segs := [(1, 0x8000000000000F1F)] } : Tile).checkAddr false 0x10001000 4 false = .error 0x44 := by
  (repeat' apply And.intro) <;> decide +kernel
theorem witness_LoadsAtFire :
    let i : Instr := .ldN32 t0 (.o 0) (.d 1) 63
    ((beatFrom i (reg1 0x5FFFC)).Ready i t0 (fireFrom i (reg1 0x5FFFC))
        ∧ (beatFrom i (reg1 0x5FFFC)).val 0 = 0x5FFFC)
      ∧ ((beatFrom i (reg1 0x60000)).Ready i t0 (fireFrom i (reg1 0x60000))
        ∧ (beatFrom i (reg1 0x60000)).val 0 = 0x60000) := by
  dsimp only
  (repeat' apply And.intro) <;> decide +kernel
theorem witness_StoresAndPrefetchAtFire :
    let i : Instr := .gstN32 t0 (.i 0) (.d 1) 63
    let level (n : BitVec 4) (e : Elem) : Elem := { e with inp := e.inp.set 0 [{ data := 9, tag := n }] }
    ((beatFrom i (level 1)).Ready i t0 (fireFrom i (level 1)) ∧ ((beatFrom i (level 1)).reads.tok? 1).map Token.level = some 1)
      ∧ ((beatFrom i (level 7)).Ready i t0 (fireFrom i (level 7))
        ∧ ((beatFrom i (level 7)).reads.tok? 1).map Token.level = some 7)
      ∧ Fires (.gstN32 t0 (.d 2) (.d 1) 63) ∧ Fires (.pf t0 (.d 1) 63) ∧ Fires (.stN64 t0 (.d 2) (.d 1) 63) := by
  dsimp only
  (repeat' apply And.intro) <;> decide +kernel
theorem witness_AtomicsAtFire :
    let i (lit : Word) : Instr := .amo t0 (.d 0) (.d 1) (.i 1) lit
    let j : Instr := .amoc t0 (.d 0) (.d 1) (.i 1) 0
    let at_ (i : Instr) (a : Word) : State := (fireFrom i (reg1 a)).setTile 0 segTile
    let desc (e : Elem) : Elem := { reg1 0x10000FFC e with regs := (e.regs.set 1 0x10000FFC).set 0 0x100000 }
    ((beatFrom (i 0) (reg1 0x10000FFC)).Ready (i 0) t0 (at_ (i 0) 0x10000FFC)
        ∧ segTile.checkAddr false 0x10000FFC 4 true = .ok { seg0 := false, va := 0xFFC, cls := 0, reads := 15 })
      ∧ (beatFrom (i 0) (reg1 0x0FFFFFFC)).Ready (i 0) t0 (at_ (i 0) 0x0FFFFFFC)
      ∧ ((beatFrom (i 0x400) (reg1 0x10000FFC)).Ready (i 0x400) t0 (at_ (i 0x400) 0x10000FFC)
        ∧ gazette (at_ (i 0x400) 0x10000FFC) 0 0 = none)
      ∧ (gazette { fns := [(0, { gzcount := 1, rcqen := true, rcqbase := 4096, rcqlog2 := 1 })],
                   gazetteer := [(0, { valid := true })] } 0 0 ≠ none
        ∧ remoteRoom { fns := [(0, { gzcount := 1, rcqen := true, rcqbase := 4096, rcqlog2 := 1 })] } 0 = true
        ∧ remoteRoom State.reset 0 = false)
      ∧ (beatFrom j (reg1 0x10000FFC)).Ready j t0 (at_ j 0x10000FFC)
      ∧ ((beatFrom j desc).Ready j t0 ((fireFrom j desc).setTile 0 segTile) ∧ badDescriptor 0x100000 = true
        ∧ badDescriptor 0x7F = false) := by
  dsimp only
  (repeat' apply And.intro) <;> decide +kernel
theorem witness_SemaphoresAndArriveAtFire :
    Fires (.sems t0 (.d 0) (.i 0) (.i 1)) ∧ Fires (.semw t0 (.d 0) (.i 0) (.i 1)) ∧ Fires (.arrive t0 (.d 0) (.i 0) (.i 1)) := by
  decide +kernel
theorem witness_FencesAtFire :
    Fires (.fence t0 0x30303) ∧ Fires (.fence t0 0) ∧ Fires (.fencel t0 (.d 0) (.i 0) (.i 1)) ∧ Fires (.ifence t0) := by
  (repeat' apply And.intro) <;> decide +kernel
theorem witness_EngineCommandsAtFire :
    let i : Instr := .scmd t0 (.o 7) (.d 1) (.i 0)
    let e (e : Elem) : Elem := { reg1 0x08000000 e with pending := [{ id := 5, classes := 2, seg0 := true }] }
    Fires (.mcmd t0 (.o 7) (.d 1) (.i 0)) ∧ Fires (.qcmd t0 (.o 7) (.d 1) (.i 0))
      ∧ (Fires i ∧ (fireBeat i).val 1 = 0 ∧ segTile.checkAddr false 0 64 false = .ok { seg0 := true, va := 0 })
      ∧ (let i : Instr := .scmd t0 (.o 7) (.i 0) (.d 1)
         (beatFrom i (reg1 0x10)).Ready i t0 (fireFrom i (reg1 0x10))
           ∧ ({} : Tile).checkAddr false 0x10 64 false = .error 0x45)
      ∧ ((beatFrom i e).Ready i t0 (fireFrom i e) ∧ (beatFrom i e).val 0 = 0x08000000) := by
  dsimp only
  (repeat' apply And.intro) <;> decide +kernel
theorem witness_AsksAnswersPagesAndSpawnsAtFire :
    let i : Instr := .ask t0 (.d 0) (.d 1) (.d 2)
    (Fires i ∧ siteOf (fireState i) 0 0 = some 0 ∧ ((fireState i).hub 0).sites.length = 1)
      ∧ (Fires (.answer t0 (.d 1) (.d 15)) ∧ isMgmt (placeFor (.answer t0 (.d 1) (.d 15))) = false)
      ∧ Fires (.setpg t0 3) ∧ Fires (.spawn t0 (.d 0) (.d 1) (.d 2))
      ∧ (let j : Instr := .spawn t0 (.d 0) (.d 1) (.d 2)
         let s : State := { fireState j with queues := [(0, { qmapV := true })] }
         (fireBeat j).Ready j t0 s ∧ (fireBeat j).val 0 = 0 ∧ enqueueWaits s 0 0 (spawnPlace 0) s.spine = true)
      ∧ (let j : Instr := .spawn t0 (.d 0) (.d 1) (.d 2)
         let x := fireBeat j
         let run := x.run.hold 0
         let y : Beat := { x with elem := { x.elem with issue := some run }, run := run }
         let s : State := { (fireState j).setElem x.key y.elem with queues := [(0, { qmapV := true })], cycle := 2 }
         y.Ready j t0 s ∧ y.val 0 = 0 ∧ run.held = true ∧ enqueueWaits s 0 0 (spawnPlace 0) run.since = false
           ∧ enqueueWaits { s with queues := [(0, { qmapV := true, takenAt := some 1 })] } 0 0 (spawnPlace 0) run.since = true) := by
  dsimp only
  (repeat' apply And.intro) <;> decide +kernel
theorem witness_SystemInstructions :
    let hub (x : BitVec 12) : Bool := isHubIndex x.toNat
    (Fires (.srd t0 (.d 0) 0x120) ∧ hub 0x120 = true ∧ hub 0x15F = true ∧ hub 0x100 = true)
      ∧ (Fires (.srd t0 (.d 0) 0x08B) ∧ hub 0x08B = false ∧ readSpecial State.reset 0 {} 0x08B = some 0)
      ∧ (Fires (.srd t0 (.d 0) 0x160) ∧ hub 0x160 = false ∧ readSpecial State.reset 0 {} 0x160 = none)
      ∧ (Fires (.swr t0 (.d 0) 0x15F) ∧ Fires (.swr t0 (.d 0) 0x008) ∧ Fires (.swr t0 (.d 0) 0x048))
      ∧ readSpecial State.reset 0 {} 0x048 = none ∧ readSpecial State.reset 0x8000 {} 0x04B = some 0
      ∧ readSpecial State.reset 0x8000 {} 0x062 = some 0x0F0C ∧ readSpecial State.reset 0x8000 {} 0x07F = some 0
      ∧ readSpecial State.reset (16 * 65536 + 0x8000) {} 0x062 = none := by
  dsimp only
  (repeat' apply And.intro) <;> decide +kernel

/-- A resident load of queue 0 of function 3. -/
def aLoad : Load :=
  { fn := 3, queue := 0, pasid := 0, ident := 0, policy := 0, retryLimit := 0, image := 0, training := false }
/-- Bulkhead 0 dedicated to function 3, with its load. -/
def aBulkhead : Bulkhead := { mode := 1, owner := 3, load := some aLoad }
/-- A tile's sequencer in focus. -/
def seqState (t : Tile) : State := { tiles := [(0, t)], bhs := [(0, aBulkhead)], focus := .sequencer 0 }
def aRun (write : Bool) : StreamRun := { write := write, segs := [], base := 0, stride := 1, count := 2 }
def streamTile (x : Stream) : Tile := { streams := [(7, x)], program := [0] }
def idle : Tile := { program := [0] }
def aQueued : EngineCmd := { hi := 0x80000000, lo := 0, elem := 0, id := 9 }
/-- A state in which the accesses of one step of an engine have been answered. -/
def working (key : Nat) (answers : List Answer) (s : State) : State :=
  { s with works := [(key, { serial := 0, bh := 0, engine := 0, rank := 0, answers := answers })] }
def aJob : StreamJob := { what := .deliver 0 0 0 0 [] }

theorem witness_StreamAndConsumerCommands_runs :
    Serves 0 idle (seqState idle) ∧ (idle.stream 7).run = none
      ∧ Serves 0 (streamTile { run := some (aRun false) }) (seqState (streamTile { run := some (aRun false) }))
      ∧ ((streamTile { run := some (aRun false) }).stream 7).run ≠ none
      ∧ (bits (0x0FFFFFFF : Word).toNat 28 4 = 0) ∧ (segTile.seg 1).getLsbD 62 = true
      ∧ (bits (0x20000000 : Word).toNat 28 4 ≠ 0 ∧ (segTile.seg 2).getLsbD 62 = false) := by
  (repeat' apply And.intro) <;> decide +kernel
theorem witness_StreamAndConsumerCommands_jobs :
    let bound (x : Stream) : Tile :=
      { streams := [(7, x)], program := [0], bindings := [{ elem := 0, port := 0, kind := 1, island := 0 }, { elem := 0, port := 1, kind := 2, island := 0 }] }
    let s (x : Stream) : State :=
      { seqState (bound x) with islands := [(3, { rings := [(7, { bound := true, tlines := 3 })] })] }
    (Serves 0 (bound { run := some (aRun false) }) (s { run := some (aRun false) })
        ∧ ((s {}).ring 0 3 7).bound = true ∧ (4095 + 1) % (((s {}).ring 0 3 7).tlines + 1) = 0
        ∧ ((bound {}).bound 1 0 = true ∧ (bound {}).bound 2 1 = true))
      ∧ Serves 0 (bound {}) (s {}) ∧ Serves 0 (bound { run := some (aRun true) }) (s { run := some (aRun true) })
      ∧ ((({} : Tile).stream 1).consumerFree = true ∧ (({} : Tile).stream 0).feederFree = true)
      ∧ (Serves 0 (bound { waiting := some aJob }) (s { waiting := some aJob })
        ∧ ((bound { waiting := some aJob }).stream 7).waiting ≠ none)
      ∧ (Serves 0 (bound { feed := some aJob }) (s { feed := some aJob })
        ∧ ((bound { feed := some aJob }).stream 7).feed ≠ none)
      ∧ (let used (write : Bool) : Stream := { run := some (aRun write), user := some aJob }
         Serves 0 (bound (used false)) (s (used false)) ∧ ((bound (used false)).stream 7).user ≠ none
           ∧ ((bound (used false)).stream 7).run.any (fun r => !r.write) = true
           ∧ Serves 0 (bound (used true)) (s (used true)) ∧ ((bound (used true)).stream 7).run.any (·.write) = true)
      ∧ ((seqState {}).ring 0 0 0).bound = false := by
  dsimp only
  (repeat' apply And.intro) <;> decide +kernel
theorem witness_SequencerControl :
    (ServesStatic 0 idle (seqState idle) ∧ ({} : Tile).cmdq = [])
      ∧ ServesStatic 0 { idle with cmdq := [aQueued] } (seqState { idle with cmdq := [aQueued] })
      ∧ (Serves 0 { current := some aQueued } (seqState { current := some aQueued }))
      ∧ (∀ st < 8, (({} : Tile).stream st).run = none)
      ∧ (routeOf { seqState {} with bhs := [(0, { aBulkhead with routes := [{ label := 127, elem := 0, bit := 0 }] })] } 0 127).isSome
          = true
      ∧ routeOf (seqState {}) 0 127 = none
      ∧ (0x80 : Byte).getLsbD 7 = true ∧ ((streamTile { run := some (aRun false) }).stream 7).run ≠ none := by
  (repeat' apply And.intro) <;> decide +kernel
theorem witness_Loops :
    let t : Tile := { program := [0, 0, 0], index := 2, loops := [(0, { isOpen := true, rc := 0, start := 0, stop := 2 }),
      (1, { isOpen := true, rc := 1, start := 1, stop := 2 })] }
    (ServesStatic 0 t (seqState t) ∧ t.index + 1 ≤ 3 ∧ (tget t.loops 1 {}).stop = t.index ∧ (tget t.loops 1 {}).rc ≠ 0
        ∧ (tget t.loops 0 {}).stop = t.index ∧ (tget t.loops 0 {}).rc = 0)
      ∧ (let t : Tile := { program := [0, 0], index := 0 }
         ServesStatic 0 t (seqState t) ∧ (tget t.loops 1 {}).latchCount.getD 1 = 1 ∧ t.index + 1 < t.program.length
           ∧ (tget t.loops 1 {}).latchEnd.getD 1 < t.program.length ∧ ¬ (tget t.loops 0 {}).latchEnd.getD 2 < t.program.length)
      ∧ (let t : Tile := { program := [0], index := 0, loops := [(1, { latchCount := some 0 })] }
         ServesStatic 0 t (seqState t) ∧ (tget t.loops 1 {}).latchCount.getD 5 = 0) := by
  dsimp only
  (repeat' apply And.intro) <;> decide +kernel
theorem witness_AllocationsSemaphoresAndUpdates :
    (Serves 0 idle (seqState idle) ∧ (64 : BitVec 19).toNat + (0x5FF80 : BitVec 19).toNat + 64 ≤ 0x60000 ∧ tget? ({} : Tile).guards 63 = none)
      ∧ (Serves 0 { idle with guards := [(63, (128, 64))] } (seqState { idle with guards := [(63, (128, 64))] })
        ∧ tget? ({ guards := [(63, (128, 64))] } : Tile).guards 63 ≠ none)
      ∧ Serves 0 { idle with hold := .granted } (seqState { idle with hold := .granted })
      ∧ Serves 0 idle (seqState idle) ∧ ({} : Tile).hold = .none
      ∧ (Serves 0 { idle with hold := .swaitBusy 5 1 0 } (seqState { idle with hold := .swaitBusy 5 1 0 })
        ∧ 0 ≤ (seqState { idle with hold := .swaitBusy 5 1 0 }).cycle)
      ∧ (0 < (0x60000 : Nat) ∧ 0x60000 < 0x5FFC1 + 64) := by
  (repeat' apply And.intro) <;> decide +kernel
theorem witness_AllocationsSemaphoresAndUpdates_fupd :
    let s : State := working (sequencerWork 0) [{ value := 2 ^ 128 + 2 ^ 160 }] (seqState idle)
    let read := (answered s (sequencerWork 0) 0 0 rankElement).access
      { place := .scratch 0 0x5FFC0, size := 64, kind := kindStream, word := 0x5FFC0, seen := 0x5FFC0 }
    Serves 0 idle s ∧ (0x5FFC0 % 64 = 0 ∧ 0x5FFC0 + 64 ≤ 0x60000) ∧ read.1.asked = none ∧ read.2.poison = false
      ∧ ({ desc := wordsOf read.2.value 16 } : FusedUpdate).bad = false
      ∧ (let u : State := working (sequencerWork 0) [{ value := 0 }] (seqState idle)
         let none_ := (answered u (sequencerWork 0) 0 0 rankElement).access
           { place := .scratch 0 0x5FFC0, size := 64, kind := kindStream, word := 0x5FFC0, seen := 0x5FFC0 }
         Serves 0 idle u ∧ none_.1.asked = none ∧ none_.2.poison = false ∧ ({ desc := wordsOf none_.2.value 16 } : FusedUpdate).bad = true) := by
  dsimp only
  (repeat' apply And.intro) <;> decide +kernel

/-! Islands, queues, graphs -/

/-- An island in focus with a token at the head of its queue and a tile in ring 0 and in ring 7. -/
def aToken : EngineCmd := { hi := 0, lo := 0, elem := 0, id := 0 }
def anIsland : Island :=
  { configured := true, rpe := true, queue := [aToken],
    rings := [(0, { bound := true, tlines := 63, depth := 2, count := 1 }),
      (7, { bound := true, base := 128, tlines := 63, depth := 2, count := 1 })] }
def islandState (x : Island) : State :=
  { islands := [(0, x)], focus := .island 0, elems := [(0, {})],
    bhs := [(0, { aBulkhead with routes := [{ label := 127, elem := 0, bit := 0 }] })] }

/-- An island in focus whose token's accesses have all been answered with zeros, but for the first. -/
def servedIsland (x : Island) (first : Nat := 0) : State :=
  working (islandWork 0) ({ value := first } :: List.replicate 300 {}) (islandState x)

theorem witness_AccumulatorTokens :
    let s := servedIsland anIsland
    let u (rings : List Nat) : State := tokenState s 0 rings
    let a := (u [0, 7]).ringRead 0 0 (tileBytes 1 32 0)
    let b := a.1.ringRead 0 7 (tileBytes 1 32 0)
    let values := (u []).areaRead (oaTile 0 0) (4 * 1 * 1 + 1) (oaOff 0) (4 * 1 * 1)
    Takes 0 anIsland aToken [] s
      ∧ (Holds anIsland 0 ∧ Holds anIsland 7 ∧ tileBytes 1 32 0 ≤ (anIsland.ring 7).size ∧ b.1.asked = none
        ∧ a.2.2 = false ∧ b.2.2 = false)
      ∧ (oaOff 0x17FF + tileBytes 1 1 0 ≤ 0x60000 ∧ oaOff 0 + 4 * 128 * 256 ≤ 0x60000)
      ∧ ((u []).areaWrite (oaTile 0 0) (tileBytes 1 1 11 + 1) (oaOff 0) (accImage [] 11 1 1 false).1 (tileBytes 1 1 11)).asked = none
      ∧ values.1.asked = none ∧ values.2.2 = false
      ∧ (match (u []).islandReply 0 anIsland.istat with
        | some t => t.asked.isNone
        | none => false) = true
      ∧ (routeOf s 0 127).isSome = true := by
  dsimp only
  (repeat' apply And.intro) <;> decide +kernel
/-- Reflector accumulators: one that is initialised, and one whose 64 places are full. -/
def reflecting (k mode : Nat) : Island :=
  { anIsland with qa := [(0, { init := true, n := 2, mode := mode, v := List.replicate k [0], pivots := List.replicate k 0 })] }
theorem witness_ReflectorTokens :
    let x := reflecting 1 0
    let s := servedIsland x
    let r := x.qaOf 0
    let u (rings : List Nat) : State := tokenState s 0 rings
    let col := (u [7]).ringRead 0 7 (4 * (r.n + 1))
    let tile := (u [7]).ringRead 0 7 (4 * r.n * 1)
    let out := r.apply true false (wordsOf tile.2.1 (r.n * 1)) 1
    (Takes 0 x aToken [] s ∧ r.init = true ∧ r.k ≠ 64 ∧ Holds x 7 ∧ 4 * (r.n + 1) ≤ (x.ring 7).size ∧ 1 < r.n
        ∧ col.1.asked = none ∧ col.2.2 = false)
      ∧ (4 * r.n * 1 ≤ (x.ring 7).size ∧ oaOff 0 + 4 * r.n * 1 ≤ 0x60000 ∧ tile.2.2 = false
        ∧ (tile.1.areaWrite (oaTile 0 0) (4 * r.n * 1 + 1) (oaOff 0) (natOfWords out.1) (4 * r.n * 1)).asked = none)
      ∧ (match (u []).islandReply 0 0x00810001 with
        | some t => t.asked.isNone
        | none => false) = true
      ∧ oaOff 0 + imageBytes r.n r.k ≤ 0x60000
      ∧ ((u []).areaWrite (oaTile 0 0) (imageBytes r.n r.k + 1) (oaOff 0) r.image (imageBytes r.n r.k)).asked = none := by
  dsimp only
  (repeat' apply And.intro) <;> decide +kernel
theorem witness_ReflectorTokens_full :
    let x := reflecting 64 2
    let s := servedIsland x
    let r := x.qaOf 0
    let emptied := ((tokenState s 0 [7]).ringRead 0 7 (4 * (r.n + 1))).1.reflectorOverflow 0 r
    Takes 0 x aToken [] s ∧ r.k = 64 ∧ r.spills ≠ 255 ∧ oaOff r.oa + (r.spills + 1) * (16512 + 256 * r.n) ≤ 0x60000
      ∧ emptied.1.asked = none ∧ (match emptied.2 with
        | .ok _ => true
        | .error _ => false) = true := by
  dsimp only
  (repeat' apply And.intro) <;> decide +kernel
theorem witness_ReflectorTokens_image :
    let x := reflecting 1 0
    let s := servedIsland x 1
    let head := (tokenState s 0 []).areaRead (oaTile 0 0) 129 (oaOff 0) 128
    let hd := bits head.2.1 0 512
    let k := bits hd 8 7
    let n := 4 * (x.qaOf 0).n * k + 4 * k * k
    let body := head.1.areaRead (oaTile 0 0) (n + 1) (oaOff 0 + 128) n
    Takes 0 x aToken [] s ∧ head.2.2 = false ∧ bits hd 0 7 + 1 = (x.qaOf 0).n ∧ k ≤ 64 ∧ bits hd 7 1 = 0
      ∧ bits hd 15 497 = 0 ∧ (∀ j < k, bits (bits head.2.1 512 512) (8 * j) 8 < (x.qaOf 0).n) ∧ oaOff 0 + (128 + n) ≤ 0x60000
      ∧ body.1.asked = none ∧ body.2.2 = false := by
  dsimp only
  (repeat' apply And.intro) <;> decide +kernel
/-- What completes: beats of the element forms that may run, and the tokens, whose conditions the witnesses above meet. -/
theorem witness_FormsThatComplete :
    Fires (.frsqsF32 t0 (.d 14) (.i 0)) ∧ Fires (.fdmacH16 t0 (.d 14) (.i 0) (.i 1)) ∧ Fires (.cvtF32Wf3 t0 (.d 14) (.i 0) (.i 1))
      ∧ Fires (.fdivF64 t0 (.d 14) (.i 0) (.i 1)) ∧ Takes 0 anIsland aToken [] (servedIsland anIsland)
      ∧ ((2 : BitVec 2).toNat < 3 ∧ (2 : BitVec 2) ≠ 0) ∧ (2 : BitVec 2) = 2 := by
  (repeat' apply And.intro) <;> decide +kernel

/-- A queue of function 3 in focus, its head dispatched. -/
def aHead : Accepted := { id := 1, cmd := { kind := 1 }, source := .doorbell, dispatched := true }
def queueState (h : HwQueue) : State :=
  { queues := [(0, { h with qmapV := true, qmapTag := 3 })], focus := .queue 0,
    bhs := [(0, { aBulkhead with routes := [{ label := 127, elem := 0, bit := 0 }] })] }
theorem witness_QueueCommands :
    (Dispatched 0 aHead (queueState { accepted := [aHead] }) ∧ mayRun (queueState { accepted := [aHead] }) 3 aHead.target = true)
      ∧ (routeOf (queueState {}) 0 127).isSome = true ∧ routeOf (queueState {}) 0 126 = none
      ∧ (tget ((queueState {}).fn 3).counters 0 {}).count = 0
      ∧ (tget (({ queueState {} with fns := [(3, { counters := [(65535, { count := 1 })] })] } : State).fn 3).counters 65535 {}).count ≠ 0
      ∧ ((queueState {}).readGraph 3 0 0 1).2 = none := by
  (repeat' apply And.intro) <;> decide +kernel

/-- A translation of one page of 2^30 bytes of function 3, and what a graph of one END node lies in. -/
def aPage : TlbEntry :=
  { fn := 3, pasid := some 0, base := 0, log2 := 30, ipa := 0, pa := 0, rd := true, wr := true, exe := true, np := false, ns := false }
def mapped (s : State) : State := { s.modBh 0 fun b => { b with tlb2 := [aPage] } with fns := [(3, { fkey := 7, s2v := true })] }
theorem witness_QueueCommands_graph :
    (({ mapped (queueState { accepted := [aHead] }) with mem := [(0, 1), (32, 4)] } : State).readGraph 3 0 0 1).2.isSome = true := by
  decide +kernel
/-- A graph whose one node has the words given. -/
def aGraph (w0 w3 : DWord) : Graph :=
  { command := 1, policy := 0, retryLimit := 0, entry := 0, nodes := [{ w0 := w0, w1 := 0, w2 := 0, w3 := w3 }],
    edges := [{ first := 0, last := 0, watermark := 0, buffer := 0, word := 8 }], current := 0 }
def graphState (g : Graph) : State := mapped (queueState { graph := some g })
theorem witness_GraphNodes :
    (∀ k ∈ [1, 2, 3, 4], AtNode 0 (aGraph (BitVec.ofNat 64 k) 0) k (graphState (aGraph (BitVec.ofNat 64 k) 0)))
      ∧ ((graphState (aGraph 1 0)).readWord 0 (va57 0)).2 = .ok 0
      ∧ ((queueState { graph := some (aGraph 1 0) }).readWord 0 (va57 0)).2 ≠ .ok 0
      ∧ (0 ≤ (255 : BitVec 8).toNat * 1024 ∧ (1 : BitVec 8).toNat * 1024 < 1025)
      ∧ ((aGraph 4 0).replays = [])
      ∧ AtNode 0 (aGraph 0 0xFFFF) 0 (graphState (aGraph 0 0xFFFF))
      ∧ (AtNode 0 (aGraph 0 0) 0 (graphState (aGraph 0 0)) ∧ (aGraph 0 0).state = .ready ∧ (aGraph 0 0).edges[0]?.isSome = true)
      ∧ ((graphState (aGraph 0 0)).readWord 0 8).2 = .ok 0
      ∧ (({ graphState (aGraph 0 0) with mem := [(8, 1)] } : State).readWord 0 8).2 = .ok 1 := by
  (repeat' apply And.intro) <;> decide +kernel

/-! Steps of an element -/

/-- A state of one element. -/
def oneElem (e : Elem) : State := { elems := [(0, e)], bhs := [(0, aBulkhead)] }
theorem witness_BeatsTokensAndShuttles :
    (let i : Instr := .addS32 t0 (.o 0) (.i 0) (.k 1)
     let x := fireBeat i
     let run : Issue := { x.run with n := 4, beat := 3 }
     let e := { x.elem with issue := some run }
     (fireState i |>.setElem 0 e).elem? 0 = some e ∧ decodeWord run.word run.lit = .ok i ∧ (formOf i).isSome = true)
      ∧ (let e : Elem := { out := [[.token Token.zero]] }
         let s : State := { oneElem e with bhs := [(0, { links := [{ prod := 0, prodPort := 0, cons := 0, consPort := 7, sparse := false }] })] }
         s.elem? 0 = some e ∧ e.out.getD 0 [] = [.token Token.zero]
           ∧ consumerRoom s 0 { prod := 0, prodPort := 0, cons := 0, consPort := 7, sparse := false } = true)
      ∧ (let e : Elem := { inp := List.replicate 8 (List.replicate 16 Token.zero) }
         consumerRoom (oneElem e) 0 { prod := 0, prodPort := 0, cons := 0, consPort := 7, sparse := false } = false) := by
  (repeat' apply And.intro) <;> decide +kernel
/-- A shuttle that waits for element 0, which handles bit 0 or nothing. -/
def aShuttle (l : Bool) : Shuttle := { classL := l, source := 0, label := 127, w0 := 0, w1 := 0 }
def shuttleState (e : Elem) (l : Bool) : State :=
  { elems := [(0, e)], bhs := [(0, { aBulkhead with shuttles := [aShuttle l], routes := [{ label := 127, elem := 0, bit := 0 }] })] }
def handling (inbox : List InboxEntry) : Elem :=
  { pages := [some { kinds := 1, heddles := List.replicate 16 0x01000100 }, none, none, none], inbox := inbox }
theorem witness_BeatsTokensAndShuttles_arrivals :
    (routeOf (shuttleState {} false) 0 127 = some { label := 127, elem := 0, bit := 0 } ∧ elemKey 0 0 = 0)
      ∧ ((handlerSet (handling []).page 0).isSome = true ∧ (handling []).inbox.length < 8)
      ∧ (let e := handling (List.replicate 6 { bit := 0, w0 := 0, w1 := 0, classL := false })
         e.inbox.length < 8 ∧ ¬ (e.inbox.filter fun y => !y.classL).length < 6)
      ∧ (handlerSet ({} : Elem).page 0).isSome = false ∧ ({ killed := true } : Elem).killed ≠ false := by
  (repeat' apply And.intro) <;> decide +kernel
/-- An element with one request at the head of its issue queue. -/
def asking (k : ReqKind) (more : List Pending) : Elem :=
  { issueq := [{ id := 5, elem := 0, kind := k, slot := 0 }],
    pending := more ++ [{ id := 5, kind := k, classes := 0, isStore := k.isStore, barrier := k.isBarrier }] }
theorem witness_HandOvers :
    ((oneElem (asking .prefetch [])).elem? 0 = some (asking .prefetch []))
      ∧ (∀ p ∈ (asking .prefetch []).pending, p.barrier = true → 5 ≤ p.id)
      ∧ ((oneElem (asking .prefetch [])).tile 0).wrb.length < 32
      ∧ 32 ≤ (({ tiles := [(0, { wrb := List.replicate 32 { id := 1, elem := 0, kind := .skipped, slot := 0 } })] } : State).tile 0).wrb.length
      ∧ (∀ p ∈ (asking (.arrive 0 0) []).pending, p.id < 5 → p.performed = true ∧ p.isStore = false)
      ∧ ¬ (∀ p ∈ (asking (.arrive 0 0) [{ id := 4, classes := 2, isStore := true, performed := true }]).pending,
            p.id < 5 → p.performed = true ∧ p.isStore = false)
      ∧ (let s := oneElem (asking (.sems 0 5 1) [])
         (∀ p ∈ (asking (.sems 0 5 1) []).pending, p.id < 5 → isCommand p = true)
           ∧ (State.gate { s with bhs := [(0, { aBulkhead with load := some aLoad })] } 0 3 0 false).2 = 0
           ∧ (State.gate { s with bhs := [(0, { mode := 0 })] } 0 3 0 false).2 ≠ 0) := by
  (repeat' apply And.intro) <;> decide +kernel
/-- A tile whose wave table lets the first request of element 0 go. -/
def waving (k : ReqKind) (n : Nat) : Tile :=
  { wrb := [{ id := 5, elem := 0, kind := k, slot := 0 }], waves := [(0, { pred := 65, succ := 65 })], sbuf := List.replicate n
      { elem := 0, id := 1, scratch := true, addr := 0x5FFFC, size := 4, data := 1, cls := 0, reads := 15, word := 0x5FFFC, slot := 0 } }
theorem witness_LoadAndStoreSteps :
    (performable (waving (.load 4 false) 0) 0 { id := 5, elem := 0, kind := .load 4 false, slot := 0 } = true)
      ∧ (performable (waving (.store 4 1) 15) 0 { id := 5, elem := 0, kind := .store 4 1, slot := 0 } = true
        ∧ (waving (.store 4 1) 15).sbuf.length < 16)
      ∧ 16 ≤ (waving (.store 4 1) 16).sbuf.length
      ∧ (let r : Req := { id := 5, elem := 0, kind := .load 4 false, slot := 0, addr := 0x5FFFC, va := 0x5FFFC }
         performWait { tiles := [(0, waving .prefetch 0)] } 0 r = 0
           ∧ performWait { tiles := [(0, { waving .prefetch 0 with banks := [(bankOf 0x5FFFC, 1)] })] } 0 r ≠ 0
           ∧ (({ tiles := [(0, waving .prefetch 0)] } : State).scratchRead 0 0x5FFFC 4 kindElement).2.2 = false)
      ∧ (let r : Req := { id := 5, elem := 0, kind := .load 4 false, slot := 0, addr := 0x10000000, va := 0 }
         let s := mapped { bhs := [(0, aBulkhead)], elems := [(0, {})] }
         bits r.addr.toNat 28 4 ≠ 0 ∧ performWait s 0 r = 0
           ∧ (match (s.resolveReq 0 r .read).2 with
              | .home _ _ => true
              | .status _ => false) = true
           ∧ performWait { s with bhs := [(0, aBulkhead)] } 0 r = 2)
      ∧ (missFree State.reset 0 = true ∧ (homeOf State.reset 0x2FFFFFFFFF).isSome = true)
      ∧ (bankServes State.reset 0 0x5FFFC = true ∧ bankServes { tiles := [(0, { banks := [(bankOf 0x5FFFC, 1)] })] } 0 0x5FFFC = false)
      ∧ (5 ∈ [5] ∧ 5 ∉ ([] : List Nat) ∧ 32 ≤ (List.range 32).length)
      ∧ replyBehind 0 [] { elem := 0, id := 5, status := 0, value := 0 } = false
      ∧ ((oneElem { pending := [{ id := 5, kind := .load 4 false, classes := 1 }] }).elem? 0).isSome = true := by
  (repeat' apply And.intro) <;> decide +kernel
theorem witness_FencesPagesAndRetirement :
    (let e : Elem := { fence := some { pred := 2, preds := [4], succ := 1, scope := 0 } }
     e.fence.isSome = true ∧ ([4].all (predComplete e 0)) = true)
      ∧ (let e : Elem := { fence := some { pred := 2, preds := [4], succ := 1, scope := 3 }, pending := [{ id := 4, classes := 2 }] }
         ([4].all (predComplete e 3)) = false ∧ (∀ p ∈ fenceLines State.reset 0 { pred := 2, preds := [4], succ := 1, scope := 3 }, lineLinkUp State.reset p.2 = true))
      ∧ (({ bhs := [(0, { fencehs := [{ elem := 0, id := 1, marked := [], status := 0 }] })] } : State).bh 0).fencehs[0]?.isSome = true
      ∧ (let k : ReqKind := .setpg 3 0 0 0 0 15
         let e : Elem := { pending := [{ id := 1, kind := k, classes := 0x80, handedOver := true }], pages := [some {}, none, none, some {}] }
         (e.pages.getD 3 none).isSome = true ∧ e.stale.getLsbD 3 = false ∧ (e.pages.getD 1 none) = none)
      ∧ (let e : Elem := { done := true }
         e.issue = none ∧ e.issueq = [] ∧ e.sendq = [] ∧ ∀ p ∈ e.pending, p.dest = .none)
      ∧ (let e : Elem := { pending := [{ id := 1, kind := .semw 0 0 1, classes := 0x40 }] }
         let s : State := { elems := [(0, e)], bhs := [(0, { sweep := some { kind := .endOfSlice, column := 0 } })] }
         reached s 0 = true ∧ s.sweepKind 0 ≠ some .kill ∧ inQueue e 1 = false ∧ (e.pending? 1).isSome = true)
      ∧ (let e := asking (.semw 0 0 1) []
         inQueue e 5 = true ∧ (e.pending? 5).isSome = true) := by
  (repeat' apply And.intro) <;> decide +kernel
theorem witness_FencesPagesAndRetirement_page :
    let page : Page := {}
    let k : ReqKind := .setpg 3 0x10000000 0 0 0 15
    let e : Elem := { pending := [{ id := 1, kind := k, classes := 0x80, handedOver := true, pieces := [0, 8] }], pages := [none, none, none, some {}] }
    let s (n : Nat) : State := working (pageWork 0x8000) (List.replicate n {}) { elems := [(0x8000, e)], bhs := [(0, aBulkhead)] }
    let go (n : Nat) : State := answered (s n) (pageWork 0x8000) 0 (38 + colOf 0x8000) rankElement
    (s 0).elem? 0x8000 = some e ∧ ((go 0).selectPage 0x8000 1 3 none).asked = none ∧ ((go 0).rejectPage 0x8000 1 1 1 0 0).asked = none
      ∧ ((go 2).fetchPieces false 0 15 [0, 8]).2 = some (List.replicate 16 0)
      ∧ (((go 2).fetchPieces false 0 15 [0, 8]).1.selectPage 0x8000 1 1 (some page)).asked = none := by
  dsimp only
  (repeat' apply And.intro) <;> decide +kernel
theorem witness_FencesPagesAndRetirement_parsed :
    (parsePage (List.replicate 272 0)).2 = false ∧ (parsePage (List.replicate 272 0)).1.firstBad .evaluator true = none := by
  decide +kernel

/-! Steps of tiles, islands, homes, hubs -/

def streaming (x : Stream) : State := seqState (streamTile x)
theorem witness_StreamAndUpdateSteps :
    (((streaming { run := some (aRun false) }).tile 0).stream 7).run = some (aRun false)
      ∧ tileRuns (streaming { run := some (aRun false) }) 0 = true
      ∧ (let r := { aRun false with taken := 2 }
         r.taken = r.count ∧ (none : Option StreamJob).all (fun u => u.what.flushed) = true)
      ∧ (aRun false).taken ≠ (aRun false).count
      ∧ (let r : StreamRun := { aRun false with count := 100 }
         max r.prefetched (r.taken + 64) < r.count ∧ max r.prefetched (r.taken + 64) < r.taken + 256
           ∧ (match Tile.checkAddr { idle with segs := r.segs } false (lineWord r.base r.stride 64) 64 false with
              | .ok c => c.seg0
              | .error _ => false) = true)
      ∧ (let r : StreamRun := { aRun false with count := 100, base := 0x20000000 }
         (match Tile.checkAddr { idle with segs := r.segs } false (lineWord r.base r.stride 64) 64 false with
           | .ok _ => true
           | .error _ => false) = false)
      ∧ workBegun State.reset (prefetchWork 0 7) = false
      ∧ (let s := mapped { bhs := [(0, { aBulkhead with load := some aLoad })] }
         (s.prefetchTarget (.tile 0) 0 3 0 0x1000 (some 0)).2.isSome = true ∧ lineFree s 0 0x10 = true
           ∧ (s.prefetchTarget (.tile 0) 0 3 0 0x40000000 none).2 = none) := by
  (repeat' apply And.intro) <;> decide +kernel
theorem witness_StreamAndUpdateSteps_ports :
    let e : Elem := { out := [[.command Token.zero 3, .command Token.zero 3]] }
    let s (kind : Nat) : State :=
      { seqState { idle with bindings := [{ elem := 0, port := 0, kind := kind, island := 1 }] } with
        elems := [(0, e)], isl := 2 }
    (s 0).elem? 0 = some e ∧ (headPair e 0).isSome = true ∧ ((s 0).tile 0).cmdq.length < 8 ∧ tileRuns (s 0) 0 = true
      ∧ bit (s 3).isl.toNat 1 = true ∧ ((s 3).streamer 1).queue.length < 16
      ∧ (match ((s 3).tile 0).checkAddr false 0 64 false with
          | .ok _ => true
          | .error _ => false) = true := by
  dsimp only
  (repeat' apply And.intro) <;> decide +kernel
/-- A fused update of scratchpad blocks at step 1. -/
def anUpdate : FusedUpdate := { desc := [0, 0x1000, 0x2000, 0x3000, 1, 1] }
theorem witness_StreamAndUpdateSteps_update :
    let s : State := seqState { idle with hold := .fupd anUpdate }
    let w := anUpdate.block 0
    let headed (step : Nat) : Option Nat :=
      let go := answered (working (sequencerWork 0) [{ value := step }] s) (sequencerWork 0) 0 0 rankElement
      match go.placeBlock 0 w (anUpdate.past 0) false with
      | (t, .ok a) => (match (t.readBlock 0 w a 0 1).2 with
        | .ok v => some v
        | .error _ => none)
      | (_, .error _) => none
    ((s.tile 0).hold = .fupd anUpdate ∧ tileRuns s 0 = true ∧ anUpdate.staged = none ∧ anUpdate.targets = [])
      ∧ (headed 0 = some 0 ∧ 0 % 2 ^ 32 + 1 = anUpdate.step ∧ headed 7 = some 7 ∧ anUpdate.step ≤ 7 % 2 ^ 32)
      ∧ (match (s.placeArrays 0 anUpdate anUpdate.arrays).2 with
          | .ok ts => ts != []
          | .error _ => false) = true
      ∧ (match (s.placeBlock 0 0x20000000 false false).2 with
          | .ok _ => false
          | .error _ => true) = true
      ∧ (let u := { anUpdate with staged := some ([], [], []), targets := [(true, 0), (true, 0x1000), (true, 0x3000)] }
         let go := answered (working (sequencerWork 0) (List.replicate 200 {}) s) (sequencerWork 0) 0 0 rankElement
         u.adaptive = false ∧ drainRuns s 0 = true ∧ (go.writeGranules 0 w (true, 0) 0 0 64).2 = 0) := by
  dsimp only
  (repeat' apply And.intro) <;> decide +kernel
/-- A streamer run of a kind, before its first step. -/
def aStream (kind : Word) : StreamerRun := { cmd := { aQueued with hi := kind <<< 28 }, desc := [0, 0, 0, 0, 1, 1] }
theorem witness_StreamerAndIslandSteps :
    (∀ k ∈ [(0, 0), (1, 1), (2, 2), (3, 3), (4, 4), (5, 5)],
      (aStream (BitVec.ofNat 32 k.1)).kind = k.2 ∧ (aStream (BitVec.ofNat 32 k.1)).next < ((aStream 0).word 4 + 255) / 256
        ∧ (aStream (BitVec.ofNat 32 k.1)).next < (aStream 0).word 5)
      ∧ (let s : State := { bhs := [(0, aBulkhead)], streamers := [(0, { running := [aStream 0] })] }
         (s.streamer 0).running[0]? = some (aStream 0) ∧ drainRuns s 0 = true)
      ∧ (let c : EngineCmd := { aQueued with tile := some 0 }
         let s : State := working (streamerWork 0 4) [{}] { bhs := [(0, aBulkhead)], streamers := [(0, { queue := [c] })] }
         startRuns s 0 = true ∧ (s.streamer 0).running.length < 4
           ∧ (match ((answered s (streamerWork 0 4) 0 36 rankElement).readAt c.descAddr 0 64).2 with
              | .ok p => p.marks.isEmpty
              | .error _ => false) = true
           ∧ ((answered s (streamerWork 0 4) 0 36 rankElement).writeAt c.descAddr 0x3C 4 { value := 5 }).2 = none)
      ∧ (let e : Elem := { out := [[.command Token.zero 3, .command Token.zero 3]] }
         let s : State := { islandState { configured := true } with elems := [(0, e)], isl := 4 }
         s.isl.getLsbD 2 = true ∧ enginesRun s 0 = true ∧ restarting s 0 = false ∧ (s.island 0).queue.length < 8
           ∧ (headPair e 0).isSome = true)
      ∧ (let s := islandState { exec := some (aToken, [7]) }
         (s.island 0).exec = some (aToken, [7]) ∧ drainRuns s 0 = true)
      ∧ (islandState { exec := some (aToken, []) } |>.island 0).exec = some (aToken, [])
      ∧ (islandState { restart := true, re := true } |>.island 0).restart = true := by
  (repeat' apply And.intro) <;> decide +kernel
/-- A request of element 0 at a slice. -/
def arriving (op : HomeOp) : HomeReq := { src := .elem 0, id := 1, pa := 0, op := op, cls := 0, reads := 15, word := 0 }
def sliceState (x : Slice) : State := { slices := [(0, x)], bhs := [(0, aBulkhead)] }
theorem witness_HomeSteps :
    (gated (sliceState {}) 0 = false ∧ 0 + 0xFFFFFF ≤ 0xFFFFFF ∧ (sliceState { arrivals := [arriving (.sems 5 0xFFFFFF)] } |>.slice 0).waiters = []
        ∧ 0xFFFFFF < tget ({ sems := [(5, 1)] } : Slice).sems 5 0 + 0xFFFFFF)
      ∧ (let l : Launch := { src := .elem 0, id := 1, desc := 0x7F, word := 0, old := 0, size := 4, fn := 3, ended := some (0x03, 1) }
         tget? ({ launches := [(63, l)] } : Slice).launches 63 = some l ∧ l.desc.getLsbD 31 = false)
      ∧ (match (({ bhs := [(0, aBulkhead)] } : State).translate .none 0 3 0 0 .update).2 with
          | .ok _ => true
          | .error _ => false) = false
      ∧ (((mapped { bhs := [(0, aBulkhead)] }).writeBytes 0 3 0 (va57 0) (List.replicate 16 0)).2 = 0)
      ∧ (0 + 135000000 ≤ ({ cycle := 135000000 } : State).cycle ∧ ¬ 0 + 135000000 ≤ ({ cycle := 134999999 } : State).cycle)
      ∧ owns (sliceState {}) 3 0 = true := by
  (repeat' apply And.intro) <;> decide +kernel
/-- A hub of one site, with a deadline of 64 cycles, that feeds port 0 of element 0. -/
def aSite : Site :=
  { elem := 0, slot := 0, qport := 0, q := 1, cons := 0, consPort := 0, pool := 0, cls := 0, dl := 1, policy := List.replicate 32 0 }
def hubState (h : Hub) : State := { oneElem {} with hubs := [(0, { h with sites := [aSite] })] }
def anEntry : AskEntry :=
  { site := 0, elem := 0, estimate := 0, estExc := false, feature := 0, words := [], bin := 0, forced := false, cycle := 0, state := .wait }
theorem witness_HubSteps :
    (hubRuns (hubState {}) 0 = true ∧ hubMay (hubState {}) 0 5 = true ∧ hubMay { hubState { stage := 5 } with cycle := 0 } 0 5 = false)
      ∧ (let s := hubState { queue := [.answer 0x8000 1 511 [0]], table := [(511, { anEntry with evaluator := some 0x8000 })] }
         let s' := ((s.modHub 0 fun h => { h with queue := [] }).hubStage 0 2).modElem 0x8000 (·.dropPending 1)
         hubMay s 0 2 = true ∧ s.sweepKind 0 ≠ some .endOfSlice
           ∧ tget? (s'.hub 0).table 511 = some { anEntry with evaluator := some 0x8000 })
      ∧ consumerRoom (hubState {}) 0 { prod := 0, prodPort := 0, cons := 0, consPort := 0, sparse := false } = true
      ∧ consumerRoom (oneElem { inp := List.replicate 8 (List.replicate 16 Token.zero) }) 0
          { prod := 0, prodPort := 0, cons := 0, consPort := 0, sparse := false } = false
      ∧ (let s (c : Nat) : State := { hubState { table := [(511, anEntry)] } with cycle := c }
         tget? ((s 64).hub 0).table 511 = some anEntry ∧ aSite.dl ≠ 0 ∧ anEntry.cycle + 64 * aSite.dl = (s 64).cycle
           ∧ hubMay (s 64) 0 3 = true ∧ answerWaits (s 64) 0 = false
           ∧ anEntry.cycle + 64 * aSite.dl < (s 65).cycle ∧ (s 63).cycle < anEntry.cycle + 64 * aSite.dl)
      ∧ (({ hubState {} with cycle := 4095 } : State).cycle - 0) / 4096 ≤ 0
      ∧ (0 < (({ hubState {} with cycle := 4096 } : State).cycle - 0) / 4096 ∧ hubMay { hubState {} with cycle := 4096 } 0 1 = true)
      ∧ (let h : Hub := { sites := [aSite], frames := [(511, [Token.zero])], table := [(511, anEntry)], classes := [(0, { elem := 0, port := 0, valid := true })] }
         (h.classPort anEntry).isSome = true ∧ ((hubState h).bh 0).sweep = none)
      ∧ (0x140 ≤ 0x14F ∧ 0x14F < 0x150) := by
  dsimp only
  (repeat' apply And.intro) <;> decide +kernel

/-! Steps of queues, loads, faults, placing -/

/-- Queue 0 of function 3, with a ring of 16 entries, on bulkhead 0. -/
def aQueue (h : HwQueue) : State := { queueState h with bhs := [(0, aBulkhead)] }
theorem witness_QueueSteps :
    queueBlock (aQueue {}) 3 0 = some 0
      ∧ (let s (h : HwQueue) : State := { aQueue h with cycle := 2 }
         enqueueWaits (s { tail := 16 }) 3 0 0 0 = false ∧ ((s { tail := 16 }).queue 0).head ≠ 16 ∧ ((s { tail := 16 }).queue 0).killBusy = false
           ∧ enqueueWaits (s { tail := 16 }) 3 0 0 1 = true ∧ enqueueWaits (s { takenAt := some 1 }) 3 0 0 0 = true)
      ∧ (16 < 2 ^ 32 ∧ (16 + 2 ^ 32 - ((aQueue {}).queue 0).head) % 2 ^ 32 ≤ 2 ^ (((aQueue {}).queue 0).log2 + 4))
      ∧ 2 ^ (((aQueue {}).queue 0).log2 + 4) < (17 + 2 ^ 32 - ((aQueue {}).queue 0).head) % 2 ^ 32
      ∧ ((0x80000000 : Word).getLsbD 31 = true ∧ bits (0x83000000 : Word).toNat 22 4 ≤ 12 ∧ 12 < bits (0x83400000 : Word).toNat 22 4)
      ∧ (let s : State := { aQueue { en := true, accepted := [{ id := 1, cmd := { kind := 1 }, source := .doorbell }] } with
           fns := [(3, { pwt := [(0, 0x100000)] })] }
         holder s 0 = some 3 ∧ mayRun s 3 0 = true ∧ (arbitrate s 3 0).isSome = true)
      ∧ ({ id := 1, cmd := { kind := 1 }, source := .doorbell, status := some 0 } : Accepted).status = some 0
      ∧ (let s : State := { mgmt := 1, bhs := [(0, aBulkhead)], fns := [(3, { jen := true, jtail := [{ seq := 0, kind := 1, source := .doorbell, queue := 0, time := 0, digest := [], ring := true }] })] }
         ((s.fn 3).jtail.find? (fun r => r.ring && decide ((s.fn 3).jnext ≤ r.seq))).isSome = true ∧ (s.writePhys 0 [0]).2 = true ∧ s.mgmt ≠ 0
           ∧ (s.writePhys 0x3000000000 [0]).2 = false)
      ∧ (let g : Graph := { aGraph 1 0 with state := .dropped }
         graphRuns (aQueue { graph := some g }) 0 = true ∧ g.replays.length < 8 ∧ g.nodes[g.current]?.isSome = true
           ∧ g.edges[0]?.isSome = true) := by
  (repeat' apply And.intro) <;> decide +kernel
/-- An image of an ELEM section without records: its header but the digest, the digest, its section table (02 R17, R18). -/
def imageHead : List Byte := [0x50, 0x4C, 0x59, 0x4E, 0, 0, 3, 0, 0x50, 0, 0, 0, 1, 0, 0, 0] ++ List.replicate 16 0
def imageTable : List Byte := [1, 0, 0, 0, 0x50, 0, 0, 0, 0, 0, 0, 0, 0, 0, 0, 0]
def anImage (digest : List Byte) : List Byte := imageHead ++ (digest ++ imageTable)
def loadingState (l : Loading) (b : Bulkhead) : State :=
  { bhs := [(0, { b with loading := [l] })], queues := [(0, { qmapV := true, qmapTag := 3 })] }
theorem anImage_head (d : List Byte) (off n : Nat) (h : off + n ≤ 32) : fieldAt (anImage d) off n = fieldAt imageHead off n := by
  have l : imageHead.length = 32 := rfl
  rw [fieldAt, fieldAt, anImage, List.drop_append_of_le_length (by omega), List.take_append_of_le_length (by simp [l]; omega)]
theorem anImage_table (d : List Byte) (n : d.length = 32) : (anImage d).drop 64 = imageTable := by
  have l : (imageHead ++ d).length = 64 := by simp [n]; rfl
  rw [anImage, ← List.append_assoc, ← l, List.drop_left]
theorem anImage_tableField (d : List Byte) (n : d.length = 32) (off k : Nat) :
    fieldAt (anImage d) (64 + off) k = fieldAt imageTable off k := by
  rw [fieldAt, fieldAt, ← List.drop_drop, anImage_table d n]
theorem anImage_digest (d : List Byte) (n : d.length = 32) : ((anImage d).drop 32).take 32 = d := by
  have l : imageHead.length = 32 := rfl
  rw [anImage, ← l, List.drop_left, l, ← n, List.take_left]
theorem anImage_entries (d : List Byte) (n : d.length = 32) :
    (parseImage (anImage d)).entries = [{ index := 0, type := 1, reserved := 0, off := 0x50, len := 0, count := 0 }] := by
  have e : fieldAt (anImage d) 0x0C 2 = 1 := by rw [anImage_head d _ _ (by omega)]; decide
  simp only [parseImage, parseTable, e, List.range_one, List.map_cons, List.map_nil, Nat.mul_zero, Nat.add_zero, Nat.reduceAdd]
  have f (off k v : Nat) (h : fieldAt imageTable off k = v) : fieldAt (anImage d) (64 + off) k = v := by
    rw [anImage_tableField d n]; exact h
  rw [f 0 2 1 (by decide), f 2 2 0 (by decide), f 4 4 0x50 (by decide), f 8 4 0 (by decide), f 12 4 0 (by decide)]
theorem anImage_passes (d : List Byte) (n : d.length = 32) (h : d = sha3 imageTable) : imageFails (anImage d) false [] = none := by
  have g (off k v : Nat) (h : off + k ≤ 32) (e : fieldAt imageHead off k = v) : fieldAt (anImage d) off k = v := by
    rw [anImage_head d off k h]; exact e
  have len : (anImage d).length = 0x50 := by simp [anImage, n]; rfl
  have es := anImage_entries d n
  have dig : (parseImage (anImage d)).digest = d := anImage_digest d n
  have head : headerBad (anImage d) = false := by
    simp only [headerBad, g 0 4 0x4E594C50 (by omega) (by decide), g 6 2 3 (by omega) (by decide), g 8 4 0x50 (by omega) (by decide), len,
      g 0x0C 2 1 (by omega) (by decide), g 0x0E 2 0 (by omega) (by decide), g 0x10 4 0 (by omega) (by decide), g 0x18 8 0 (by omega) (by decide)]
    decide
  have body : digestBytes (anImage d) (parseImage (anImage d)) = imageTable := by
    simp only [digestBytes, es, g 8 4 0x50 (by omega) (by decide)]
    rw [show List.find? (fun e : Entry => e.type == 10) [{ index := 0, type := 1, reserved := 0, off := 0x50, len := 0, count := 0 }] = none
      from rfl]
    simp only [← len, List.take_length, anImage_table d n]
  have signed_ : (parseImage (anImage d)).isSigned = false := by
    simp only [parseImage, g 0x0E 2 0 (by omega) (by decide)]; decide
  have elems : (parseImage (anImage d)).elems = [] := by
    have := es
    simp only [parseImage] at this
    simp only [parseImage, this]; rfl
  have table : tableFails (anImage d) 0x50 1 [] [{ index := 0, type := 1, reserved := 0, off := 0x50, len := 0, count := 0 }] = none := rfl
  simp [imageFails, head, g 8 4 0x50 (by omega) (by decide), g 0x0C 2 1 (by omega) (by decide), table, es, dig, body, signed_, ← h,
    sectionFails, elems, elemFails, slotsFail]
theorem sha3_length (bs : List Byte) : (sha3 bs).length = 32 := by
  have build (f : Nat → Nat → DWord) : (Keccak.build f).length = 25 := by simp [Keccak.build]
  have round (a : Keccak) (c : DWord) : (Keccak.round a c).length = 25 := by
    unfold Keccak.round Keccak.chi
    split
    · rename_i h; have := build (fun x y => (a.theta.rhoPi).lane x y ^^^ (~~~((a.theta.rhoPi).lane (x + 1) y) &&& (a.theta.rhoPi).lane (x + 2) y)); simp_all
    · rename_i h; have := build (fun x y => (a.theta.rhoPi).lane x y ^^^ (~~~((a.theta.rhoPi).lane (x + 1) y) &&& (a.theta.rhoPi).lane (x + 2) y)); simp_all
  have perm (a : Keccak) : (Keccak.permute a).length = 25 := by
    have fold (cs : List DWord) : ∀ a : Keccak, a.length = 25 → (cs.foldl Keccak.round a).length = 25 := by
      induction cs with
      | nil => exact fun _ h => h
      | cons c cs ih => exact fun a _ => ih _ (round a c)
    obtain ⟨c, cs, h⟩ : ∃ c cs, keccakConstants = c :: cs := ⟨_, _, rfl⟩
    rw [Keccak.permute, h]
    exact fold cs _ (round a c)
  have abs (n : Nat) : ∀ ls (a : Keccak), a.length = 25 → (absorb n ls a).length = 25 := by
    induction n with
    | zero => intro ls a h; exact h
    | succ n ih => intro ls a h; exact ih _ _ (perm _)
  simp [sha3, laneBytes, List.length_flatMap, abs]
theorem witness_LoaderSteps_image :
    imageFails (anImage (sha3 imageTable)) false [] = none
      ∧ (imageFails [] false []).isSome = true :=
  ⟨anImage_passes _ (sha3_length _) rfl, by decide⟩
theorem witness_LoaderSteps :
    gated (loadingState { queue := 0, image := 0, block := 0 } aBulkhead) 0 = false
      ∧ (let s := loadingState { queue := 0, image := 0, block := 0, valid := true } aBulkhead
         mayRun s 3 0 = true ∧ ∀ b ∈ membersFor s 3, (headOf s b 0).any Loading.valid = true)
      ∧ (let s := loadingState { queue := 0, image := 0, block := 0 } { aBulkhead with sweep := some { kind := .reconfigure, column := 12 } }
         let ts (s : State) (c : Nat) : List Nat := (tilesOf 0 c).filter fun t => (s.tile t).guardRec.isSome
         ts s 12 = [] ∧ columnDrained s .reconfigure 0 12 = true
          ∧ columnDrained { s with tiles := [(32, waving .prefetch 1)] } .reconfigure 0 12 = false
          ∧ ts { s with tiles := [(32, waving .prefetch 1)] } 12 = []
          ∧ ts { s with tiles := [(3, { guardRec := some { bank := 0, offset := 0, kind := 0 } })] } 2 = [3])
      ∧ mayRun (loadingState { queue := 0, image := 0, block := 0, valid := true }
          { aBulkhead with sweep := some { kind := .reconfigure, column := 13 } }) 3 0 = true
      ∧ (let i : Instr := .done t0 0
         let e := ((fireState i).elem? 0).getD {}
         let s := oneElem { record := { page := e.page }, retired := true }
         drainRuns s 0 = true ∧ (s.bh 0).sweep = none ∧ (s.bh 0).ret = false ∧ ((s.elemsOf 0).filter fun p => p.2.active) ≠ [])
      ∧ loadDrained { bhs := [(0, { aBulkhead with retiring := 1 })] } 0 = true := by
  (repeat' apply And.intro) <;> decide +kernel
def aFault : FaultRec := { unit := .elem 0x7F70, start := .element, code := 1 }
theorem witness_FaultSteps :
    (let s (e : Elem) : State := { elems := [(0x7F70, e)], bhs := [(0, { aBulkhead with faults := [aFault] })] }
     (s { record := { policy := 1, retryLimit := 15 }, retries := 14 }).elem? (elemKey 0 0x7F70) ≠ none ∧ 14 < 15)
      ∧ (let s : State := { bhs := [(0, { aBulkhead with sweep := some { kind := .kill, column := 0 } })] }
         s.sweepKind 0 = some .kill ∧ gated s 0 = false)
      ∧ (let s : State := { bhs := [(0, { aBulkhead with faults := [aFault] })] }
         walkWaits s 0 (.elem 0x7F70) = false
           ∧ walkWaits { s with tiles := [(0, { hold := .fupd { anUpdate with staged := some ([], [], []) } })] } 0 (.engine 0) = true)
      ∧ (let s : State := { bhs := [(0, { aBulkhead with load := some aLoad, sweep := some { kind := .kill, column := 12 } })] }
         columnKilled s 0 12 = true ∧ s.columnElems 0 12 = [] ∧ columnKilled { s with tiles := [(32, waving .prefetch 1)] } 0 12 = false
           ∧ (s.bh 0).load.map Load.queue = some 0)
      ∧ ((aQueue { killBusy := true, killNext := 7 }).queue 0).killNext = 7
      ∧ ({ parentKill := some 3 } : DepCounter).parentKill = some 3
      ∧ ((aQueue { killBusy := true, killCode := 7 }).queue 0).killBusy = true
      ∧ residents { aQueue { killBusy := true, killCode := 7 } with bhs := [] } 0 = [] := by
  (repeat' apply And.intro) <;> decide +kernel
theorem witness_PlacementSteps :
    ((aQueue {}).queue 0).en = false ∧ ((aQueue { en := true }).queue 0).en = true
      ∧ (0x80000000 : Word).getLsbD 31 = true ∧ (0x7FFFFFFF : Word).getLsbD 31 = false
      ∧ (let b (n : Nat) : Bulkhead := { aBulkhead with state := n, load := none }
         (({ bhs := [(15, b 1)] } : State).bh 15).state = 1 ∧ (({ bhs := [(15, b 2)] } : State).bh 15).load = none
           ∧ (({ bhs := [(15, b 5)] } : State).bh 15).applied = false)
      ∧ (let s : State := { bhs := [(15, { aBulkhead with state := 1, flush := true })],
                            slices := [(120, { cache := [{ line := 0x2D00000, data := [], cls := 0, reads := 15, dirty := true, cxl := false }] })] }
         let t := (s.flushSlices 15).modBh 15 fun b => { b with replies := [], portal := [] }
         (t.bh 15).flush = true ∧ slicesDirty s 15 = true ∧ slicesDirty t 15 = false)
      ∧ (({ mgmt := 8, bhs := [(15, { aBulkhead with state := 5, applied := true })] } : State).mgmt.getLsbD (15 / 4) = true)
      ∧ (({ mgmt := 7 } : State).mgmt.getLsbD (15 / 4) = false)
      ∧ (bits (0xC0000000 : Word).toNat 30 2 = 3 ∧ 64 < bits (0x80410000 : Word).toNat 16 7
          ∧ ¬ 64 < bits (0x80400000 : Word).toNat 16 7) := by
  (repeat' apply And.intro) <;> decide +kernel
/-- Bulkhead 0, member of pool 7, whose rotation names functions 3 and 4; in a change to function 4 where the flag is set. -/
def aPool (switching : Bool) : SharedPool :=
  { en := true, rot := [(0, 0x8203), (15, 0x8204)], current := some 0, fn := 3, left := 1,
    switching := if switching then some { entry := 15, fn := 4, slice := 2, since := 0 } else none }
def pooled (switching : Bool) (b : Bulkhead) : State :=
  { pools := [(7, aPool switching)], bhs := [(0, { b with mode := 2, pool := 7, joined := true })] }
theorem witness_PoolSteps_ticks :
    ((pooled false {}).pool 7).nextTick ≤ (pooled false {}).cycle
      ∧ ({ aPool false with left := 2 } : SharedPool).left > 1
      ∧ (let s : State := { pooled false {} with
            queues := [(0, { en := true, qmapV := true, qmapTag := 4, accepted := [{ id := 1, cmd := { kind := 1 }, source := .doorbell }] })] }
         nextEntry s 7 (s.pool 7).rot 1 15 = some 15 ∧ (rotEntry (s.pool 7).rot 15).2.1 ≠ (s.pool 7).fn)
      ∧ (nextEntry (pooled false {}) 7 (aPool false).rot 1 15 = none ∧ nextEntry (pooled false {}) 7 (aPool false).rotation 1 15 = none)
      ∧ switchOf (pooled true {}) 0 ≠ none ∧ gated (pooled true {}) 0 = false := by
  (repeat' apply And.intro) <;> decide +kernel
theorem witness_PoolSteps_saves :
    (let swept : Bulkhead := { sweep := some { kind := .endOfSlice, column := 13 } }
     nextUnit (pooled true swept) 0 = some 0 ∧ unitTile 0 = none ∧ unitTile 16 = some 0
       ∧ nextUnit (pooled true { swept with units := List.range 16 }) 0 = some 16
       ∧ (∀ j < 48, bankFree (pooled true swept) 0 (64 * j) = true)
       ∧ (∃ j < 48, bankFree { pooled true swept with tiles := [(0, { banks := [(47, 9)] })] } 0 (64 * j) = false)
       ∧ nextUnit (pooled true { swept with units := List.range saveUnits }) 0 = none
       ∧ saving (pooled true { swept with units := List.range saveUnits }) 0 = true ∧ saving (pooled true {}) 0 = false
       ∧ nextUnit (pooled true {}) 0 = none
       ∧ saving (pooled true swept) 0 = true ∧ saving (pooled true { swept with saveFault := 3 }) 0 = true
       ∧ ((pooled true swept).fn 3).saveV = false
       ∧ (({ pooled true swept with fns := [(3, { saveV := true })] } : State).fn 3).saveV = true
       ∧ saving { pooled true swept with fns := [(3, { saveV := true })] } 0 = true
       ∧ (({ swept with saveFault := 3, qbufV := true } : Bulkhead).qbufV = true))
      ∧ (let dl := 2 * max 1 (aPool true).dl * 2700
         (aPool true).switching = some { entry := 15, fn := 4, slice := 2, since := 0 } ∧ dl - 1 < 0 + dl ∧ 0 + dl ≤ dl)
      ∧ participants (pooled true { load := some aLoad }) 7 = [0]
      ∧ (∀ c ∈ participants (pooled true { saved := true }) 7, ((pooled true { saved := true }).bh c).saved = true)
      ∧ (let c : Context := { fn := 4, bulkhead := 0, quarantined := false, body := {}, elems := [], tiles := [], islands := [],
                              streamers := [], hub := {}, sems := [], waiters := [], logs := [] }
         let s : State := { pooled true { saved := true } with contexts := [c] }
         switchOf s 0 = some { entry := 15, fn := 4, slice := 2, since := 0 } ∧ gated s 0 = false
           ∧ (s.blank 0).contexts.find? (fun c : Context => c.fn == 4 && c.bulkhead == 0 && !c.quarantined) = some c)
      ∧ (∀ c ∈ ((pooled true { saved := true }).blank 0).contexts, c.fn = 4 → c.bulkhead = 0 → c.quarantined = true)
      ∧ (∀ b ∈ participants (pooled true { restored := true }) 7, ((pooled true { restored := true }).bh b).restored = true)
      ∧ (∀ k ∈ (pooled true { restored := true }).packets, k.vc = 0 → k.fn = 3 → (3 : Nat) = 4) := by
  (repeat' apply And.intro) <;> decide +kernel
theorem witness_PoolSteps_quarantine :
    let c : Context := { fn := 3, bulkhead := 0, quarantined := true, body := aBulkhead, elems := [], tiles := [], islands := [], streamers := [],
                         hub := {}, sems := [], waiters := [], logs := [] }
    let s : State := { contexts := [c], bhs := [(0, { qfull := true, qbufV := true })], fns := [(3, { saveV := true })] }
    s.contexts.find? (fun c : Context => c.bulkhead == 0 && c.quarantined) = some c ∧ (s.bh 0).qfull = true
      ∧ c.body.load = some aLoad ∧ (({ s with fns := [] } : State).fn 3).saveV = false := by
  dsimp only
  (repeat' apply And.intro) <;> decide +kernel
/-- A packet to bulkhead 0 that carries a remote atomic of function 4. -/
def aPacket (key : BitVec 16) : Packet :=
  { key := key, vc := 15, target := 0, port := 0, fn := 4,
    atomic := some { va := 0, op := 0, size := 4, v := 0, c := 0, key := key, srcFn := 4, ticket := 1, elem := 0 } }
def spine (key : BitVec 16) (b : Bulkhead) : State :=
  { packets := [aPacket key], fns := [(3, { fkey := 7 })], bhs := [(0, b)], ovns := [(15, { on := true })] }
theorem witness_NetworkSteps :
    (let y (v : Word) : Nat := bits v.toNat 16 10
     y 0x80070000 < 8 ∧ 8 ≤ y 0x80080000 ∧ y 0x81000000 ≤ 256 ∧ 256 < y 0x81010000)
      ∧ (let full : State := { ovns := [(0, { on := true, slots := 256, members := 1 }), (1, { on := true, slots := 256, members := 1 }),
           (2, { on := true, slots := 256, members := 1 }), (3, { on := true, slots := 64, members := 1 })] }
         slotsTaken full 15 + 64 ≤ 896 ∧ 896 < slotsTaken full 15 + 65)
      ∧ (let q : PeerAtomic := { bh := 0, device := 1, key := 7, va := 0, word := 0, op := 0, wide := false, v := 0, c := 0, cls := 0,
                                 reads := 15, ticket := 1, elem := 0 }
         (peerPacket q).atomic.isSome = true ∧ ((spine 7 aBulkhead).bh q.bh.val).atomics.length < 256)
      ∧ (({ ovns := [(15, { on := true })] } : State).ovnOf 15).on = true
      ∧ (∃ p ∈ (spine 7 aBulkhead).packets, p.vc = 15)
      ∧ gated (spine 7 { aBulkhead with frozen := true }) 0 = true ∧ gated (spine 7 aBulkhead) 0 = false
      ∧ keyAccepted (spine 7 aBulkhead) 0 7 = true ∧ keyAccepted (spine 8 aBulkhead) 0 8 = false
      ∧ (let s : State := { bhs := [(0, aBulkhead)] }
         owns s 3 0 = true ∧ s.window 0 7 = {} ∧ (0x8003 : BitVec 128).getLsbD 15 = true ∧ importersOf s 0 7 = [])
      ∧ (let s : State := { bhs := [(0, aBulkhead), (1, { aBulkhead with
            windows := [(5, { imp := { en := true, state := 1, expBh := 0, expWin := 7, peer := 3 } })] })] }
         importersOf s 0 7 = [(1, 5)] ∧ (s.window 1 5).imp.state = 1 ∧ holder s 1 = some (bits (0x8003 : BitVec 128).toNat 0 7)
           ∧ holder s 0 = some (s.window 1 5).imp.peer
           ∧ (s.window 1 5).imp.base % 2 ^ bits (0x8003 : BitVec 128).toNat 64 6 = 0)
      ∧ (let s : State := { bhs := [(0, { aBulkhead with windows := [(7, { imp := { state := 3 } })] })] }
         (s.window 0 7).imp.state = 3 ∧ accessesLeft s 0 7 = false
           ∧ accessesLeft { s with slices := [(0, { arrivals := [{ arriving (.write 4 1) with via := some 7 }] })] } 0 7 = true) := by
  (repeat' apply And.intro) <;> decide +kernel
theorem witness_Shootdowns :
    (let s : State := { fns := [(3, { pctxLog2 := 8 })] }
     (s.fn 3).sdbusy = false ∧ 255 < 2 ^ (s.fn 3).pctxLog2 ∧ 2 ^ (s.fn 3).pctxLog2 ≤ 256)
      ∧ (({ fns := [(3, { sdbusy := true })] } : State).fn 3).sdbusy = true
      ∧ ([.request 5].any (accessLeft (oneElem (asking .prefetch []))) = true
        ∧ [.request 4].any (accessLeft (oneElem (asking .prefetch []))) = false)
      ∧ (({ s2busy := true, s2wait := [.request 4] } : State).s2wait.any (accessLeft {}) = false) := by
  (repeat' apply And.intro) <;> decide +kernel
theorem witness_ObservingSteps :
    (owns { bhs := [(0, aBulkhead)] } 3 0 = true ∧ (oneElem { halted := true }).elem? (elemKey 0 0) = some { halted := true })
      ∧ (let i : Instr := .addS32 t0 (.d 0) (.i 0) (.k 1)
         let s := (fireState i).modBh 0 fun b => { b with dbg := { b.dbg with sbp := [(0, 1)] } }
         (fires s 0 ((s.elem? 0).getD {})).isSome = true ∧ (tget (s.bh 0).dbg.sbp 0 0).getLsbD 0 = true)
      ∧ (let d : Debug := { smpen := true, smpat := 4096, smptail := 15, smphead := 0 }
         d.smpat ≤ 4096 ∧ 4095 < d.smpat ∧ (d.smptail + 1) % d.ring = d.smphead % d.ring
           ∧ (({ d with smptail := 0 } : Debug).smptail + 1) % d.ring ≠ d.smphead % d.ring)
      ∧ ((oneElem {}).elemsOf 0).head?.map Prod.fst = some 0
      ∧ reaches { bhs := [(0, aBulkhead)] } 3 0 = true ∧ ({ halted := true } : Elem).haltAt ≠ some 0
      ∧ ({ time := 1, a := 0, b := 0, kind := 1, sub := 0, unit := 0 } : TraceRec).time ≠ ({} : State).time
      ∧ ((0x80000000 : Word).getLsbD 31 = true ∧ (0x40000000 : Word).getLsbD 31 = false)
      ∧ (let s : State := { mgmt := 8 }
         s.mgmt.getLsbD (15 / 4) = true ∧ (s.bh 15).evalAt ≤ s.cycle ∧ heartLost s (s.bh 15) = false)
      ∧ ((109 : Byte).toNat < 110 ∧ 110 ≤ (110 : Byte).toNat) := by
  (repeat' apply And.intro) <;> decide +kernel
theorem witness_HostBootAndAttestation :
    ((({ fns := [(64, { msiPending := 8 })] } : State).fn 64).msiPending.getLsbD 3 = true
        ∧ (({} : State).fn 64).msiPending.getLsbD 3 = false)
      ∧ (let s : State := { packets := [aPacket 7] }
         (s.slices = [] ∧ ∀ b < 16, (s.bh b).replies = []) ∧ (∀ p ∈ s.packets, p.target ≠ 1) ∧ ∃ a, s.packets = [aPacket 7] ∧ (aPacket 7).atomic = some a)
      ∧ (let f : Function := { sdaddr := 2 ^ 57 - 4096 }
         f.sdaddr % 4096 = 0 ∧ f.sdaddr < 2 ^ 57)
      ∧ (({} : State).sec = false ∧ ({ sec := true } : State).sec = true)
      ∧ (({ doe := true } : State).doe = true ∧ ({} : State).doe = false ∧ (7 : BitVec 4) ≠ 15) := by
  refine ⟨by decide +kernel, ⟨by decide +kernel, by decide +kernel, _, rfl, rfl⟩, ?_⟩
  (repeat' apply And.intro) <;> decide +kernel

/-! The step, frames, exceptions, rounding, invariants -/

theorem witness_StepRunsDecoded :
    (let i : Instr := .addS32 t0 (.d 0) (.i 0) (.k 1)
     let s : State := { fireState i with agenda := [.elem 0], focus := .none }
     let u : State := { s with agenda := [] }
     let e := (u.elem? 0).getD {}
     s.agenda = [.elem 0] ∧ (u.elem? 0).isSome = true ∧ clockRuns u 0 = true ∧ e.issue = none ∧ (fires u 0 e).map Prod.fst = some 0
       ∧ (u.elemCount 0).counted u.cycle = false ∧ breaksAt u 0 e 0 = false ∧ e.page.kind 0 = 1 ∧ decodeWord (e.page.slot 0) 0 = .ok i)
      ∧ (let u := seqState { idle with current := some aQueued }
         clockRuns u 0 = true ∧ throttled u 0 = false ∧ tileRuns u 0 = true ∧ (u.tile 0).seqAt ≤ u.cycle ∧ (u.tile 0).current ≠ none)
      ∧ (let u := seqState { idle with halted := true, cmdq := [{ aQueued with hi := 0x58000000 }] }
         tileRuns u 0 = true ∧ (u.tile 0).serving = true ∧ (u.tile 0).current = none
           ∧ (decodeSeq ((0x0A000000 : Word) ++ (0 : Word))).isSome = true)
      ∧ (let u := queueState { log2 := 0, tail := 1 }
         (u.queue 0).unread = true ∧ (u.queue 0).takenAt ≠ some u.spine)
      ∧ (let u := islandState anIsland
         clockRuns u 0 = true ∧ throttled u 0 = false ∧ (u.island 0).queue = [aToken] ∧ (decodeToken aToken.hi aToken.lo).isSome = true)
      ∧ (let u := queueState { graph := some (aGraph 1 0) }
         u.spineFrozen = false ∧ (u.queue 0).graph = some (aGraph 1 0) ∧ (aGraph 1 0).nodes[0]?.isSome = true)
      ∧ (isStep (.railUp 3) = true ∧ mayHappen State.reset (.railUp 3) = true) := by
  (repeat' apply And.intro) <;> decide +kernel
/-- A sequencer's command as the whole step runs it: `halt` of a tile, from its program. -/
theorem witness_StepRunsDecoded_command :
    let t : Tile := { program := [encodeSeq .halt], halted := false }
    let u := seqState t
    (u.tile 0).command = some (encodeSeq .halt) ∧ decodeSeq (encodeSeq .halt) = some .halt := by
  dsimp only
  (repeat' apply And.intro) <;> decide +kernel
theorem witness_ElementFrame :
    let i : Instr := .addS32 t0 (.d 0) (.i 0) (.k 1)
    (formOf i).isSome = true ∧ plainInstr i = true ∧ ((fireState i).elem? 0).isSome = true
      ∧ (match exec i (fireState i) with
          | .next _ => true
          | _ => false) = true := by
  dsimp only
  (repeat' apply And.intro) <;> decide +kernel
theorem witness_StoredBytes :
    (((seqState (waving .prefetch 1)).tile 0).sbuf.length = 1 ∧ ((waving .prefetch 1).guarded 0x5FFFC 4 = false)
        ∧ ({ waving .prefetch 1 with guards := [(0, (0x5FF80, 64))] } : Tile).guarded 0x5FFFC 4 = true)
      ∧ (let s := sliceState { arrivals := [arriving (.write 4 1)] }
         gated s 0 = false ∧ cxlUp s (reqHome s 0 0) = true ∧ 252 / 256 = (252 + 4 - 1) / 256
           ∧ ((s.slice 0).cache.filter fun l => Machine.setOf l.line == Machine.setOf (0 / 256)).length < 16) := by
  (repeat' apply And.intro) <;> decide +kernel
theorem witness_TakingAnException :
    (oneElem {}).elem? 0 = some {} ∧ ({ flt := 0x1F000 } : Elem).killed = false ∧ bits (0x1F000 : Word).toNat 12 5 = 31 := by
  (repeat' apply And.intro) <;> decide +kernel
theorem witness_ConversionForms : ieeeFormat fmt32 ∧ ieeeFormat fmtFP16 ∧ (-128 : ℤ) ≤ 0 ∧ (0 : ℤ) ≤ 127
    ∧ Fires (.cvtS8F32 t0 (.d 0) (.d 1)) ∧ Fires (.cvtMx8e4F32 t0 (.d 0) (.d 1) (.d 2)) := by
  refine ⟨.inr (.inl rfl), .inr (.inr (.inl rfl)), by decide, by decide, ?_⟩
  (repeat' apply And.intro) <;> decide +kernel
theorem witness_RoundedResults_seeds : Normalised 12 0x3F800000 0 0 ∧ Normalised 11 0x3F800001 0 0 ∧ Normalised 12 0x3FFFFFFF 0 4095
    ∧ codeValue fmt32 0x3F800000 = (2 : ℚ) ^ (0 : ℤ) ∧ codeValue fmt32 0x3F800001 ≠ (2 : ℚ) ^ (0 : ℤ)
    ∧ finiteCode fmt32 0x3FFFFFFF = true ∧ negCode fmt32 0x3FFFFFFF = false := by
  (repeat' apply And.intro) <;> decide +kernel
theorem witness_RoundedResults : ieeeFormat fmtBF16 ∧ ieeeFormat fmt64 ∧ (1 : Nat) ≠ 0
    ∧ (∃ num, exactUnits fmt32 num 0 < units fmt32 fmt32.infMag) := by
  refine ⟨.inr (.inr (.inr rfl)), .inl rfl, one_ne_zero, 0, ?_⟩
  have : units fmt32 fmt32.infMag ≠ 0 ∧ 0 ≤ units fmt32 fmt32.infMag := by decide +kernel
  simp only [exactUnits, Nat.cast_zero, zero_mul]
  exact_mod_cast lt_of_le_of_ne this.2 this.1.symm
theorem witness_MemoryBytes : Mem.wf [(0, 1), (5, 2)] = true ∧ Mem.wf [(5, 1), (0, 2)] = false := by
  (repeat' apply And.intro) <;> decide +kernel
theorem witness_MemoryKept : Canonical State.reset ∧ SetUp State.reset
    ∧ (match step { State.reset with agenda := [.cycles 1] } with
        | .next _ => true
        | _ => false) = true := by
  (repeat' apply And.intro) <;> decide +kernel
theorem witness_CommandsRoundTrip : Instr.isSeq .halt = true ∧ Instr.isToken (.rpop 0) = true := by
  (repeat' apply And.intro) <;> decide +kernel

end Sys2Proof.Tests
end

/-! PROOFS of the statements on integer arithmetic (08 R141-R147): first what a beat leaves that writes the value of a
function of its reads, then each function of the model as its exact integer formula, then the statements. -/

namespace Sys2Proof.Arithmetic
open Sys2Proof Sys2Proof.Machine Sys2Proof.Safety Sys2Proof.Laws

/-! ## Beats that write the value of a function of what they read -/

/-- The result of a body that writes a word and raises flags, and has rounded nothing. -/
def resultOf (y : Word × Flags) : FRes := { bits := y.1.toNat, flags := y.2 }

@[simp] theorem resultOf_plain (w : Word) : resultOf (plain w) = .exact w.toNat := rfl

section
variable {i : Instr} {t : Trig} {d : Operand} {f : (Nat → Word) → Word × Flags}

theorem writes_of_result {g : Reads → FRes} (hexec : ∀ s, exec i s = runBeat i t (writeBody d fun _ r => g r) s)
    (hg : ∀ r, g r = resultOf (f r.val)) : Writes i t d f := by
  intro x s h
  rw [hexec, runBeat_write h, hg]
  simp [resultOf]

theorem writes_of_word {g : Reads → Word} (hexec : ∀ s, exec i s = runBeat i t (wordBody d g) s)
    (hg : ∀ r, f r.val = plain (g r)) : Writes i t d f :=
  writes_of_result hexec fun r => by rw [hg, resultOf_plain]

end

/-! ## Words and lanes as integers -/

@[simp] theorem word_toInt (a : Word) : word a.toInt = a := BitVec.ofInt_toInt
@[simp] theorem word_add (m n : ℤ) : word (m + n) = word m + word n := BitVec.ofInt_add m n
@[simp] theorem word_neg (n : ℤ) : word (-n) = -word n := BitVec.ofInt_neg
@[simp] theorem word_mul (m n : ℤ) : word (m * n) = word m * word n := BitVec.ofInt_mul m n

theorem ofInt_sub {w : Nat} (m n : ℤ) : BitVec.ofInt w (m - n) = BitVec.ofInt w m - BitVec.ofInt w n := by
  rw [sub_eq_add_neg, BitVec.ofInt_add, BitVec.ofInt_neg, BitVec.sub_eq_add_neg]

@[simp] theorem word_sub (m n : ℤ) : word (m - n) = word m - word n := ofInt_sub m n

theorem ofNat_lane (w : Word) (j : Nat) : BitVec.ofNat 16 (lane w j) = half w j := by
  apply BitVec.eq_of_toNat_eq
  simp [lane, half, Nat.shiftRight_eq_div_pow, Nat.pow_mul]

theorem ofNat_byte (w : Word) (j : Nat) : BitVec.ofNat 8 (bits w.toNat (8 * j) 8) = byteOf w j := by
  apply BitVec.eq_of_toNat_eq
  simp [bits, byteOf, Nat.shiftRight_eq_div_pow]

theorem signed_eq_toInt {w : Nat} (hw : 0 < w) (n : Nat) : signed n w = (BitVec.ofNat w n).toInt := by
  rw [BitVec.toInt_eq_msb_cond, BitVec.msb_eq_getLsbD_last, BitVec.getLsbD_ofNat, BitVec.toNat_ofNat, signed, bit,
    Nat.testBit_eq_decide_div_mod_eq]
  simp [hw, beq_eq_decide]

theorem signed_lane (w : Word) (j : Nat) : signed (lane w j) 16 = (half w j).toInt := by
  rw [signed_eq_toInt (by decide), ofNat_lane]

theorem signed_byte (w : Word) (j : Nat) : signed (bits w.toNat (8 * j) 8) 8 = (byteOf w j).toInt := by
  rw [signed_eq_toInt (by decide), ofNat_byte]

theorem unsigned_byte (w : Word) (j : Nat) : bits w.toNat (8 * j) 8 = (byteOf w j).toNat := by
  simp [byteOf, bits, Nat.shiftRight_eq_div_pow]

/-- An operation on lanes that is an operation on integers modulo 2^16 (08 R140). -/
theorem lanes16_eq_halves {f : BitVec 16 → BitVec 16 → BitVec 16} {op : ℤ → ℤ → ℤ}
    (h : ∀ u v, f u v = BitVec.ofInt 16 (op u.toInt v.toInt)) (a b : Word) :
    lanes16 f a b = halves fun j => op (half a j).toInt (half b j).toInt := by
  simp only [lanes16, halves, ofNat_lane, h]

/-! ## Saturation (08 R141) -/

theorem clamped_above {lo hi v : ℤ} (hr : lo ≤ hi) (h : hi < v) :
    clamped lo hi v = hi ∧ satIf lo hi v = flagSAT := by
  have : ¬ v < lo := by omega
  simp [clamped, satIf, h, this]

theorem clamped_below {lo hi v : ℤ} (h : v < lo) : clamped lo hi v = lo ∧ satIf lo hi v = flagSAT := by
  simp [clamped, satIf, h]

theorem clamped_inside {lo hi v : ℤ} (hl : ¬ v < lo) (hh : ¬ hi < v) : clamped lo hi v = v ∧ satIf lo hi v = 0 := by
  simp [clamped, satIf, hl, hh]

theorem saturate32_eq (v : ℤ) : saturate32 v = resultOf (saturated v) := by
  unfold saturate32 saturated
  split_ifs with hh hl
  · obtain ⟨hc, hs⟩ := clamped_above (lo := -2147483648) (by decide) hh
    rw [hc, hs]; rfl
  · obtain ⟨hc, hs⟩ := clamped_below (hi := 2147483647) hl
    rw [hc, hs]; rfl
  · obtain ⟨hc, hs⟩ := clamped_inside hl hh
    rw [hc, hs]; simp [resultOf, FRes.exact, word, BitVec.toNat_ofInt]

theorem clamp16_eq (v : ℤ) :
    clamp16 v = ((BitVec.ofInt 16 (clamped (-32768) 32767 v)).toNat, satIf (-32768) 32767 v) := by
  unfold clamp16
  split_ifs with hh hl
  · obtain ⟨hc, hs⟩ := clamped_above (lo := -32768) (by decide) hh
    rw [hc, hs]; rfl
  · obtain ⟨hc, hs⟩ := clamped_below (hi := 32767) hl
    rw [hc, hs]; rfl
  · obtain ⟨hc, hs⟩ := clamped_inside hl hh
    rw [hc, hs]; simp [BitVec.toNat_ofInt]

theorem toNat_append16 (u v : BitVec 16) : (u ++ v).toNat = v.toNat + 65536 * u.toNat := by
  rw [BitVec.toNat_append, ← Nat.shiftLeft_add_eq_or_of_lt v.isLt, Nat.shiftLeft_eq]
  omega

theorem saturate16_eq (op : ℤ → ℤ → ℤ) (a b : Word) :
    saturate16 op a b = resultOf (saturatedHalves fun j => op (half a j).toInt (half b j).toInt) := by
  simp only [saturate16, saturatedHalves, resultOf, halves, clamp16_eq, signed_lane, toNat_append16]

/-- Settles O1: each form's body is its exact sum reduced or clamped, lane by lane in the 16-bit forms. -/
theorem additionForms : Obligations.AdditionForms := by
  intro t d a b imm
  refine ⟨?addi, ?add, ?adds, ?sub, ?subs, ?neg, ?abs, ?addLanes, ?addsLanes, ?subLanes, ?subsLanes⟩
  case addi => exact writes_of_word (fun _ => rfl) fun r => by rw [word_add, word_toInt]; rfl
  case add => exact writes_of_word (fun _ => rfl) fun r => by rw [word_add, word_toInt, word_toInt]
  case adds => exact writes_of_result (fun _ => rfl) fun r => saturate32_eq _
  case sub => exact writes_of_word (fun _ => rfl) fun r => by rw [word_sub, word_toInt, word_toInt]
  case subs => exact writes_of_result (fun _ => rfl) fun r => saturate32_eq _
  case neg => exact writes_of_word (fun _ => rfl) fun r => by rw [word_neg, word_toInt, zero_sub]
  case abs =>
    exact writes_of_word (fun _ => rfl) fun r => by
      rw [apply_ite word, word_neg, word_toInt, BitVec.msb_eq_toInt]; simp only [decide_eq_true_eq, zero_sub]
  case addLanes =>
    exact writes_of_word (fun _ => rfl) fun r =>
      congrArg plain (lanes16_eq_halves (fun u v => by simp [BitVec.ofInt_add]) _ _).symm
  case addsLanes => exact writes_of_result (fun _ => rfl) fun r => saturate16_eq _ _ _
  case subLanes =>
    exact writes_of_word (fun _ => rfl) fun r =>
      congrArg plain (lanes16_eq_halves (fun u v => by simp [ofInt_sub]) _ _).symm
  case subsLanes => exact writes_of_result (fun _ => rfl) fun r => saturate16_eq _ _ _

/-! ## Products (08 R142) -/

/-- The high half of a signed 64-bit product is its floor quotient by 2^32. -/
theorem highHalf_ofInt (p : ℤ) : (BitVec.ofInt 64 p).extractLsb' 32 32 = BitVec.ofInt 32 (p / 4294967296) := by
  apply BitVec.eq_of_toNat_eq
  simp only [BitVec.extractLsb'_toNat, BitVec.toNat_ofInt, Nat.shiftRight_eq_div_pow]
  omega

theorem highHalf_ofNat (p : Nat) : (BitVec.ofNat 64 p).extractLsb' 32 32 = BitVec.ofNat 32 (p / 4294967296) := by
  apply BitVec.eq_of_toNat_eq
  simp only [BitVec.extractLsb'_toNat, BitVec.toNat_ofNat, Nat.shiftRight_eq_div_pow]
  omega

theorem dotBytes_signed (a b : Word) : dotBytes true a b =
    (byteOf a 0).toInt * (byteOf b 0).toInt + (byteOf a 1).toInt * (byteOf b 1).toInt
      + (byteOf a 2).toInt * (byteOf b 2).toInt + (byteOf a 3).toInt * (byteOf b 3).toInt := by
  simp only [dotBytes, if_true, signed_byte]

theorem dotBytes_unsigned (a b : Word) : dotBytes false a b =
    ((byteOf a 0).toNat * (byteOf b 0).toNat + (byteOf a 1).toNat * (byteOf b 1).toNat
      + (byteOf a 2).toNat * (byteOf b 2).toNat + (byteOf a 3).toNat * (byteOf b 3).toNat : Nat) := by
  simp only [dotBytes, Bool.false_eq_true, if_false, unsigned_byte]
  push_cast
  rfl

/-- Settles O2: each form's body is its exact product or sum of products reduced. -/
theorem productForms : Obligations.ProductForms := by
  intro t d a b
  refine ⟨?mul, ?mulh, ?mulhN, ?mac, ?mulLanes, ?dot, ?dotN⟩
  case mul => exact writes_of_word (fun _ => rfl) fun r => by rw [word_mul, word_toInt, word_toInt]
  case mulh => exact writes_of_word (fun _ => rfl) fun r => congrArg plain (highHalf_ofInt _)
  case mulhN => exact writes_of_word (fun _ => rfl) fun r => congrArg plain (highHalf_ofNat _)
  case mac =>
    exact writes_of_word (fun _ => rfl) fun r => by rw [word_add, word_mul, word_toInt, word_toInt, word_toInt]
  case mulLanes =>
    exact writes_of_word (fun _ => rfl) fun r =>
      congrArg plain (lanes16_eq_halves (fun u v => by simp [BitVec.ofInt_mul]) _ _).symm
  case dot => exact writes_of_word (fun _ => rfl) fun r => by rw [dotBytes_signed]; rfl
  case dotN => exact writes_of_word (fun _ => rfl) fun r => by rw [dotBytes_unsigned, BitVec.ofInt_natCast]

/-! ## Division (08 R143) -/

theorem word_eq_zero_iff_toInt (a : Word) : a = 0 ↔ a.toInt = 0 := by
  rw [← BitVec.toInt_inj]; rfl

theorem word_eq_zero_iff_toNat (a : Word) : a = 0 ↔ a.toNat = 0 := by
  rw [← BitVec.toNat_inj]; rfl

theorem exact_eq_resultOf {n : Nat} (h : n < 2 ^ 32) : FRes.exact n = resultOf (plain (BitVec.ofNat 32 n)) := by
  rw [resultOf_plain, BitVec.toNat_ofNat, Nat.mod_eq_of_lt h]

theorem divS_eq (a b : Word) : divS a b = resultOf (
    if b.toInt = 0 then (if 0 ≤ a.toInt then 0x7FFFFFFF else 0x80000000, flagSAT)
    else if a.toInt = -2147483648 ∧ b.toInt = -1 then (0x7FFFFFFF, flagSAT)
    else plain (word (a.toInt.tdiv b.toInt))) := by
  have hmin : a = 0x80000000 ↔ a.toInt = -2147483648 := by rw [← BitVec.toInt_inj]; rfl
  have hneg : b = 0xFFFFFFFF ↔ b.toInt = -1 := by rw [← BitVec.toInt_inj]; rfl
  have hsign (p q : Nat) : (if a.msb then p else q) = if 0 ≤ a.toInt then q else p := by
    rw [BitVec.msb_eq_toInt, ← ite_not]
    simp only [decide_eq_true_eq, not_lt]
  simp only [divS, hsign, beq_iff_eq, Bool.and_eq_true, word_eq_zero_iff_toInt, hmin, hneg]
  split_ifs with hzero hpos hover
  · rfl
  · rfl
  · rfl
  · exact (resultOf_plain _).symm

theorem divN_eq (a b : Word) : divN a b = resultOf (
    if b.toNat = 0 then (0xFFFFFFFF, flagSAT) else plain (BitVec.ofNat 32 (a.toNat / b.toNat))) := by
  simp only [divN, beq_iff_eq, word_eq_zero_iff_toNat]
  split_ifs with hzero
  · rfl
  · exact exact_eq_resultOf (Nat.div_le_self _ _ |>.trans_lt a.isLt)

/-- The remainder of the overflow pair needs no case of its own: the formula gives 0 there. -/
theorem remS_eq (a b : Word) : remS a b = resultOf (
    if b.toInt = 0 then (a, flagSAT) else plain (word (a.toInt - b.toInt * a.toInt.tdiv b.toInt))) := by
  simp only [remS, beq_iff_eq, word_eq_zero_iff_toInt]
  split_ifs with hzero
  · rfl
  · rw [resultOf_plain, ← Int.tmod_def]; rfl

theorem remN_eq (a b : Word) : remN a b = resultOf (
    if b.toNat = 0 then (a, flagSAT) else plain (BitVec.ofNat 32 (a.toNat % b.toNat))) := by
  simp only [remN, beq_iff_eq, word_eq_zero_iff_toNat]
  split_ifs with hzero
  · rfl
  · exact exact_eq_resultOf (Nat.mod_le _ _ |>.trans_lt a.isLt)

/-- Settles O3: each body is the table of its quotient or remainder. -/
theorem divisionForms : Obligations.DivisionForms := fun _ _ _ _ =>
  ⟨writes_of_result (fun _ => rfl) fun _ => divS_eq _ _, writes_of_result (fun _ => rfl) fun _ => divN_eq _ _,
    writes_of_result (fun _ => rfl) fun _ => remS_eq _ _, writes_of_result (fun _ => rfl) fun _ => remN_eq _ _⟩

/-! ## Minimum and maximum (08 R144) -/

theorem word_min (a b : Word) : word (min a.toInt b.toInt) = if a.toInt ≤ b.toInt then a else b := by
  rw [min_def, apply_ite word, word_toInt, word_toInt]

theorem word_max (a b : Word) : word (max a.toInt b.toInt) = if a.toInt ≤ b.toInt then b else a := by
  rw [max_def, apply_ite word, word_toInt, word_toInt]

theorem ofNat_min (a b : Word) : BitVec.ofNat 32 (min a.toNat b.toNat) = if a.toNat ≤ b.toNat then a else b := by
  simp only [min_def, apply_ite (BitVec.ofNat 32), BitVec.ofNat_toNat, BitVec.setWidth_eq]

theorem ofNat_max (a b : Word) : BitVec.ofNat 32 (max a.toNat b.toNat) = if a.toNat ≤ b.toNat then b else a := by
  simp only [max_def, apply_ite (BitVec.ofNat 32), BitVec.ofNat_toNat, BitVec.setWidth_eq]

/-! ## Shifts by any amount (08 R145) -/

theorem shiftLeft_eq (a : Word) (n : Nat) :
    shiftLeft a n = if n < 32 then BitVec.ofNat 32 (a.toNat * 2 ^ n) else 0 := by
  rw [shiftLeft, ← Nat.shiftLeft_eq]; rfl

theorem shiftRight_eq (a : Word) (n : Nat) :
    shiftRight a n = if n < 32 then BitVec.ofNat 32 (a.toNat / 2 ^ n) else 0 := by
  rw [shiftRight, ← Nat.shiftRight_eq_div_pow, ← BitVec.toNat_ushiftRight, BitVec.ofNat_toNat,
    BitVec.setWidth_eq]

theorem shiftArith_eq (a : Word) (n : Nat) :
    shiftArith a n = if n < 32 then word (a.toInt / 2 ^ n) else if a.toInt < 0 then 0xFFFFFFFF else 0 := by
  simp only [shiftArith, BitVec.sshiftRight_eq, BitVec.msb_eq_toInt, decide_eq_true_eq, word,
    Int.shiftRight_eq_div_pow]
  norm_cast

/-! ## Bit counts (08 R146) -/

theorem leadingZeros_eq (a : Word) :
    leadingZeros a = ((List.range 32).find? fun j => a.getLsbD (31 - j)).getD 32 := by
  unfold leadingZeros
  split_ifs with hzero
  · obtain rfl := beq_iff_eq.mp hzero
    rfl
  · have hne : a.toNat ≠ 0 := fun h => hzero (beq_iff_eq.mpr ((word_eq_zero_iff_toNat a).mpr h))
    have hlog : Nat.log2 a.toNat < 32 := (Nat.log2_lt hne).mpr a.isLt
    have hfind : ((List.range 32).find? fun j => a.getLsbD (31 - j)) = some (31 - Nat.log2 a.toNat) := by
      refine List.find?_range_eq_some.mpr ⟨?_, List.mem_range.mpr (by omega), fun j hj => ?_⟩
      · rw [show 31 - (31 - Nat.log2 a.toNat) = Nat.log2 a.toNat by omega]
        exact Nat.testBit_log2 hne
      · have hlt : a.toNat < 2 ^ (31 - j) := (Nat.log2_lt hne).mp (by omega)
        simpa [BitVec.getLsbD] using Nat.testBit_lt_two_pow hlt
    rw [hfind]; rfl

theorem testBit_comp_succ (n : Nat) : n.testBit ∘ Nat.succ = (n / 2).testBit := funext fun j => Nat.testBit_succ n j

theorem trailingZeros_eq (k n : Nat) : trailingZeros k n = ((List.range k).find? n.testBit).getD k := by
  induction k generalizing n with
  | zero => rfl
  | succ k ih =>
    rw [trailingZeros, ih, List.range_succ_eq_map, List.find?_cons, List.find?_map, testBit_comp_succ, Nat.testBit_zero]
    rcases Nat.mod_two_eq_zero_or_one n with h | h
    · cases (List.range k).find? (n / 2).testBit <;> simp [h, Nat.add_comm]
    · simp [h]

theorem oneBits_eq (k n : Nat) : oneBits k n = ((List.range k).filter n.testBit).length := by
  induction k generalizing n with
  | zero => rfl
  | succ k ih =>
    rw [oneBits, ih, List.range_succ_eq_map, List.filter_cons, List.filter_map, testBit_comp_succ, Nat.testBit_zero]
    rcases Nat.mod_two_eq_zero_or_one n with h | h <;> simp [h, Nat.add_comm]

/-- Settles O4: each form's body is the integer formula of its rule; an immediate shift amount is below 32. -/
theorem selectionLogicShiftsAndCounts : Obligations.SelectionLogicShiftsAndCounts := by
  constructor
  · intro t d a b imm k
    have hk : k.toNat < 32 := k.isLt
    refine ⟨?minS, ?maxS, ?minN, ?maxN, ?and, ?or, ?xor, ?not, ?andi, ?shl, ?shr, ?sar, ?shli, ?shri, ?sari⟩
    case minS => exact writes_of_word (fun _ => rfl) fun r => congrArg plain (word_min _ _)
    case maxS => exact writes_of_word (fun _ => rfl) fun r => congrArg plain (word_max _ _)
    case minN => exact writes_of_word (fun _ => rfl) fun r => congrArg plain (ofNat_min _ _)
    case maxN => exact writes_of_word (fun _ => rfl) fun r => congrArg plain (ofNat_max _ _)
    case and => exact writes_of_word (fun _ => rfl) fun r => rfl
    case or => exact writes_of_word (fun _ => rfl) fun r => rfl
    case xor => exact writes_of_word (fun _ => rfl) fun r => rfl
    case not => exact writes_of_word (fun _ => rfl) fun r => rfl
    case andi => exact writes_of_word (fun _ => rfl) fun r => by rw [BitVec.ofNat_toNat]
    case shl => exact writes_of_word (fun _ => rfl) fun r => congrArg plain (shiftLeft_eq _ _).symm
    case shr => exact writes_of_word (fun _ => rfl) fun r => congrArg plain (shiftRight_eq _ _).symm
    case sar => exact writes_of_word (fun _ => rfl) fun r => congrArg plain (shiftArith_eq _ _).symm
    case shli => exact writes_of_word (fun _ => rfl) fun r => by rw [shiftLeft_eq, if_pos hk]
    case shri => exact writes_of_word (fun _ => rfl) fun r => by rw [shiftRight_eq, if_pos hk]
    case sari => exact writes_of_word (fun _ => rfl) fun r => by rw [shiftArith_eq, if_pos hk]
  · intro t d a
    refine ⟨?clz, ?ctz, ?popc⟩
    case clz => exact writes_of_word (fun _ => rfl) fun r => by rw [leadingZeros_eq]
    case ctz => exact writes_of_word (fun _ => rfl) fun r => by rw [trailingZeros_eq]; rfl
    case popc => exact writes_of_word (fun _ => rfl) fun r => by rw [oneBits_eq]; rfl

/-! ## Loading values (08 R147) -/

theorem start_regs (x : Beat) : x.start.regs = x.elem.regs := by
  unfold Beat.start
  split <;> rfl

theorem popOrder_writeOnly (d : Operand) : popOrder (Form.writeOnly d).fields = [] := by cases d <;> rfl

/-- A beat of ldhi reads no field, so it leaves the registers as they stand at its start. -/
theorem ldhi_reads_regs {x : Beat} {t : Trig} {d : Operand} {imm : BitVec 12} {s : State}
    (h : x.Ready (.ldhi t d imm) t s) : x.reads.e.regs = x.elem.regs := by
  obtain ⟨-, hform, -⟩ := h
  have hfields : (Form.writeOnly d).fields = x.form.fields := congrArg Form.fields (Option.some.inj hform)
  rw [Beat.reads, ← hfields, ← start_regs]
  simp only [readFields, popAll, popOrder_writeOnly, List.foldl_nil]
  rfl

theorem ldhiBody_register (n : Fin 16) (imm : BitVec 12) (s : State) (key : Nat) (r : Reads) :
    ldhiBody (.d n) imm s key r = wordBody (.d n)
      (fun _ => BitVec.ofNat 32 (imm.toNat * 2 ^ 20 + (r.e.regs.getD n.val 0).toNat % 2 ^ 20)) s key r := rfl

theorem ldhiBody_other {d : Operand} (h : ∀ n, d ≠ .d n) (imm : BitVec 12) :
    ldhiBody d imm = wordBody d fun _ => BitVec.ofNat 32 (imm.toNat * 2 ^ 20) := by
  cases d with
  | d n => exact absurd rfl (h n)
  | _ => funext s key r; simp only [ldhiBody, Nat.add_zero]

/-- Bodies that do the same with what a beat reads end it alike. -/
theorem runBeat_congr {x : Beat} {i : Instr} {t : Trig} {s : State} (h : x.Ready i t s) {body body' : Body}
    (hb : body s x.key x.reads = body' s x.key x.reads) : runBeat i t body s = runBeat i t body' s := by
  rw [runBeat_ready body h, runBeat_ready body' h]
  simp only [runIssue, hb]

/-- Settles O5: the word ldhi writes holds bits of a register only where dst is that register. -/
theorem loadingValues : Obligations.LoadingValues := by
  intro t d imm v n
  refine ⟨?ldi, ?lit, ?register, ?other⟩
  case ldi => exact writes_of_word (fun _ => rfl) fun r => rfl
  case lit => exact writes_of_word (fun _ => rfl) fun r => rfl
  case register =>
    intro x s h
    rw [← ldhi_reads_regs h]
    exact (runBeat_congr h (ldhiBody_register n imm s x.key x.reads)).trans (runBeat_word h _ _)
  case other =>
    intro hd
    exact writes_of_word (fun s => congrArg (runBeat _ t · s) (ldhiBody_other hd imm)) fun r => rfl

end Sys2Proof.Arithmetic

/-! PROOFS of the round trips (05 R70-R79, 10 R202, 12 R226): each instruction comes back from its encoding. -/

namespace Sys2Proof.Laws.RoundTrip
open Sys2Proof

/-- Settles O49: one case for each constructor of `Instr`, each the lemma of its name. -/
theorem instructionsRoundTrip : Obligations.InstructionsRoundTrip := fun i =>
  Instr.rec (motive := Statement)
    addiS32 addS32 addsS32 subS32 subsS32 negS32 absS32 addS16 addsS16 subS16 subsS16 mulS32 mulhS32 mulhN32 macS32
    mulS16 dotS8 dotN8 divS32 divN32 remS32 remN32 minS32 maxS32 minN32 maxN32 and or xor not andi shl shr sar shli
    shri sari clz ctz popc ldi ldhi lit ceqS32 cneS32 cltS32 cleS32 cgtS32 cgeS32 cltN32 cleN32 cgtN32 cgeN32 ceqF32
    cneF32 cltF32 cleF32 cunF32 pand por pxor ceqF64 cltF64 cleF64 cunF64 ctag mov tagv selv drop selPn send sendr
    done spawn faddF32 fsubF32 fmulF32 fmacF32 fnmacF32 fminF32 fmaxF32 fabsF32 fnegF32 fcpsgnF32 frsqsF32 frcpsF32
    fex2sF32 flg2sF32 fclsF32 frndF32 faddH16 fsubH16 fmulH16 fmacH16 fminH16 fmaxH16 fdotH16 fdmacH16 cvtF32S32
    cvtS32F32 cvtF32N32 cvtN32F32 cvtH16F32 cvtlF32H16 cvthF32H16 cvtS8F32 cvtMx8e4F32 cvtMx8e5F32 cvtF32Mx8e4
    cvtF32Mx8e5 cvtWf8F32 cvtF32Wf8 cvtWf5F32 cvtF32Wf5 cvtWf3F32 cvtF32Wf3 faddF64 fsubF64 fmulF64 fmacF64 fdivF64
    fsqrtF64 fminF64 fmaxF64 cvtF64F32 cvtF32F64 cvtF64S32 cvtS32F64 fabsF64 fnegF64 ldN32 ldS16 ldN16 ldS8 ldN8 stN32
    stN16 stN8 pf gstN32 gstN16 gstN8 ldN64 stN64 amo amoc sems semw arrive fencel fenceh fence ifence mcmd scmd qcmd
    ask answer setpg nop trap bkpt srd swr vectorBeat halt streamRd streamWr snextRd snextWr sadd deliver push accept
    spcopy galloc gfree sbar loop lpset segw qwait fupd notify ssig swait mma accw accl msig rpop qinit qadd qapl qapr
    qcnt qspl qldv graph task setctr arriveCommand loadNode condNode loopNode switchNode endNode slotBreakpointHalt
    tokenDelivery sendQueueDrain shuttleArrival handOver performRequest storeBufferDrain homeSliceApply replyReturn
    pageWalk runAheadPrefetch fenceComplete fencehReply pageFetchInstall elementRetire fupdReadPhase fupdCommit
    swaitRetry streamLineAccess runComplete enginePortTake strmPairMove streamerCommandStart copy cred gather scatter
    fill xpose streamerCommandEnd controlTokenTake tokenRetire islandRestart continuationLaunchEnd semwWithdraw
    remoteAtomicApply remoteCompletion portalCompletion portalTimeout askDecide askFrameDelivery answerAccept askDue
    poolRefill conditioningToken hubRegisterWrite qdb qcfgWrite journalWrite commandDispatch commandComplete
    recomputeReplay imageValidation reconfigurationSweep sweepColumnPass configurationLoad loadRetire faultRecord
    killSweep queueLevelKill qkill parentKill qmapWrite bhcfgWrite bhrst gate railOff railUp pllLock release ready
    poolEnable gangSwitchTick endOfSliceSweep contextSave contextRestore saveQuarantine saveDeadline gangStart
    restoreQuarantine discard ovnEnable ovnRelease spinePacketArrival dropcntClear windowGrantWrite
    windowCloseComplete shootdownPage shootdownPasid shootdownFunction s2ShootdownPage s2ShootdownTag
    s2ShootdownRegion shootdownComplete counterClear semcntWrite sinklogClear haltlogClear debugRelease debugStep
    debugReleaseAll sample traceRecord freeze thermalEvaluation msixUnmask cxlLinkDown cxlLinkUp ualinkPortFail
    powerOnBoot getVersion getCapabilities negotiateAlgorithms getDigests getCertificate challenge getMeasurements
    registerWrite ualinkPortReady spineUncorrectableError i

end Sys2Proof.Laws.RoundTrip

namespace Sys2Proof.Laws
open Sys2Proof Sys2Proof.Machine

/-! ## Fields packed into a word -/

/-- The number that fields make, each with the place of its lowest bit. -/
def packed : List (Nat × Nat) → Nat
  | [] => 0
  | p :: l => p.1 * 2 ^ p.2 + packed l

theorem packFields_eq (l : List (Nat × Nat)) : packFields l = packed l := by
  have h : ∀ (l : List (Nat × Nat)) (n : Nat), l.foldl (fun n p => n + p.1 * 2 ^ p.2) n = n + packed l := by
    intro l
    induction l with
    | nil => intro n; rfl
    | cons p l ih => intro n; rw [List.foldl_cons, ih, packed, Nat.add_assoc]
  exact (h l 0).trans (Nat.zero_add _)

/-- A field of k bits read as its own operand. -/
theorem ofNat_field {k n : Nat} {x : BitVec k} (h : n = x.toNat) : BitVec.ofNat k n = x := by
  rw [h, BitVec.ofNat_toNat, BitVec.setWidth_eq]

/-! ## Sequencer commands (10 R202) -/

/-- A command comes back where the decoder finds it in every word of its opcode and its packed fields. -/
theorem decodeSeq_encodeSeq {i : Instr} {op : Nat} {l : List (Nat × Nat)}
    (he : encodeSeq i = .ofNat 64 (packFields ((op, 59) :: l))) (hop : op < 32) (hl : packed l < 2 ^ 59)
    (h : ∀ w : DWord, w.toNat = op * 2 ^ 59 + packed l → dwordField w 59 5 = op → decodeSeq w = some i) :
    decodeSeq (encodeSeq i) = some i := by
  have hw : (encodeSeq i).toNat = op * 2 ^ 59 + packed l := by
    rw [he, BitVec.toNat_ofNat, packFields_eq]
    exact Nat.mod_eq_of_lt (show op * 2 ^ 59 + packed l < 2 ^ 64 by omega)
  refine h _ hw ?_
  rw [dwordField, hw]
  omega

theorem zeroField_ok {c : DWord} {lo n : Nat} {i j : Instr} (h : dwordField c lo n = 0) (hij : i = j) :
    zeroField c lo n i = some j := by
  rw [zeroField, h, hij]
  rfl

theorem decodeSeq_isSeq {i : Instr} (h : i.isSeq = true) : decodeSeq (encodeSeq i) = some i := by
  cases i with
  | halt =>
    refine decodeSeq_encodeSeq (op := 0) (l := []) rfl (by decide) (by simp only [packed]; omega) fun w hw ho => ?_
    simp only [packed] at hw
    simp only [decodeSeq, ho]
    exact zeroField_ok (by simp only [dwordField]; omega) rfl
  | streamRd st base n d =>
    refine decodeSeq_encodeSeq (op := 1) (l := [(st.toNat, 56), (base.toNat, 24), (n.toNat, 12), (d.toNat, 0)]) rfl (by decide) (by simp only [packed]; omega) fun w hw ho => ?_
    simp only [packed] at hw
    simp only [decodeSeq, ho]
    congr 2 <;> exact ofNat_field (by simp only [dwordField]; omega)
  | streamWr st base n d =>
    refine decodeSeq_encodeSeq (op := 2) (l := [(st.toNat, 56), (base.toNat, 24), (n.toNat, 12), (d.toNat, 0)]) rfl (by decide) (by simp only [packed]; omega) fun w hw ho => ?_
    simp only [packed] at hw
    simp only [decodeSeq, ho]
    congr 2 <;> exact ofNat_field (by simp only [dwordField]; omega)
  | snextRd st n d =>
    refine decodeSeq_encodeSeq (op := 3) (l := [(st.toNat, 56), (n.toNat, 12), (d.toNat, 0)]) rfl (by decide) (by simp only [packed]; omega) fun w hw ho => ?_
    simp only [packed] at hw
    simp only [decodeSeq, ho]
    refine zeroField_ok (by simp only [dwordField]; omega) ?_
    congr 1 <;> exact ofNat_field (by simp only [dwordField]; omega)
  | snextWr st n d =>
    refine decodeSeq_encodeSeq (op := 4) (l := [(st.toNat, 56), (n.toNat, 12), (d.toNat, 0)]) rfl (by decide) (by simp only [packed]; omega) fun w hw ho => ?_
    simp only [packed] at hw
    simp only [decodeSeq, ho]
    refine zeroField_ok (by simp only [dwordField]; omega) ?_
    congr 1 <;> exact ofNat_field (by simp only [dwordField]; omega)
  | sadd st d =>
    refine decodeSeq_encodeSeq (op := 5) (l := [(st.toNat, 56), (d.toNat, 24)]) rfl (by decide) (by simp only [packed]; omega) fun w hw ho => ?_
    simp only [packed] at hw
    simp only [decodeSeq, ho]
    refine zeroField_ok (by simp only [dwordField]; omega) ?_
    congr 1 <;> exact ofNat_field (by simp only [dwordField]; omega)
  | deliver st p r e =>
    refine decodeSeq_encodeSeq (op := 6) (l := [(st.toNat, 56), (p.toNat, 52), (r.toNat, 40), (e.toNat, 37)]) rfl (by decide) (by simp only [packed]; omega) fun w hw ho => ?_
    simp only [packed] at hw
    simp only [decodeSeq, ho]
    refine zeroField_ok (by simp only [dwordField]; omega) ?_
    congr 1 <;> exact ofNat_field (by simp only [dwordField]; omega)
  | push n r st b =>
    refine decodeSeq_encodeSeq (op := 7) (l := [(st.toNat, 56), (n.toNat, 54), (r.toNat, 51), (b.toNat, 39)]) rfl (by decide) (by simp only [packed]; omega) fun w hw ho => ?_
    simp only [packed] at hw
    simp only [decodeSeq, ho]
    refine zeroField_ok (by simp only [dwordField]; omega) ?_
    congr 1 <;> exact ofNat_field (by simp only [dwordField]; omega)
  | accept st p =>
    refine decodeSeq_encodeSeq (op := 8) (l := [(st.toNat, 56), (p.toNat, 52)]) rfl (by decide) (by simp only [packed]; omega) fun w hw ho => ?_
    simp only [packed] at hw
    simp only [decodeSeq, ho]
    refine zeroField_ok (by simp only [dwordField]; omega) ?_
    congr 1 <;> exact ofNat_field (by simp only [dwordField]; omega)
  | spcopy a b =>
    refine decodeSeq_encodeSeq (op := 9) (l := [(a.toNat, 56), (b.toNat, 53)]) rfl (by decide) (by simp only [packed]; omega) fun w hw ho => ?_
    simp only [packed] at hw
    simp only [decodeSeq, ho]
    refine zeroField_ok (by simp only [dwordField]; omega) ?_
    congr 1 <;> exact ofNat_field (by simp only [dwordField]; omega)
  | galloc g o b =>
    refine decodeSeq_encodeSeq (op := 10) (l := [(g.toNat, 53), (o.toNat, 34), (b.toNat, 15)]) rfl (by decide) (by simp only [packed]; omega) fun w hw ho => ?_
    simp only [packed] at hw
    simp only [decodeSeq, ho]
    refine zeroField_ok (by simp only [dwordField]; omega) ?_
    congr 1 <;> exact ofNat_field (by simp only [dwordField]; omega)
  | gfree g =>
    refine decodeSeq_encodeSeq (op := 11) (l := [(g.toNat, 53)]) rfl (by decide) (by simp only [packed]; omega) fun w hw ho => ?_
    simp only [packed] at hw
    simp only [decodeSeq, ho]
    refine zeroField_ok (by simp only [dwordField]; omega) ?_
    congr 1; exact ofNat_field (by simp only [dwordField]; omega)
  | sbar m =>
    refine decodeSeq_encodeSeq (op := 12) (l := [(m.toNat, 51)]) rfl (by decide) (by simp only [packed]; omega) fun w hw ho => ?_
    simp only [packed] at hw
    simp only [decodeSeq, ho]
    refine zeroField_ok (by simp only [dwordField]; omega) ?_
    congr 1; exact ofNat_field (by simp only [dwordField]; omega)
  | loop n k e =>
    refine decodeSeq_encodeSeq (op := 13) (l := [(n.toNat, 58), (k.toNat, 42), (e.toNat, 34)]) rfl (by decide) (by simp only [packed]; omega) fun w hw ho => ?_
    simp only [packed] at hw
    simp only [decodeSeq, ho]
    refine zeroField_ok (by simp only [dwordField]; omega) ?_
    congr 1 <;> exact ofNat_field (by simp only [dwordField]; omega)
  | lpset n r v =>
    refine decodeSeq_encodeSeq (op := 14) (l := [(n.toNat, 58), (r.toNat, 56), (v.toNat, 40)]) rfl (by decide) (by simp only [packed]; omega) fun w hw ho => ?_
    simp only [packed] at hw
    have hr : (dwordField w 56 2 == 3) = false := by
      have : r.toNat ≠ 3 := fun e => bne_iff_ne.1 h (BitVec.eq_of_toNat_eq e : r = 3)
      simp only [dwordField, beq_eq_false_iff_ne]; omega
    simp only [decodeSeq, ho, hr, Bool.false_eq_true, if_false]
    refine zeroField_ok (by simp only [dwordField]; omega) ?_
    congr 1 <;> exact ofNat_field (by simp only [dwordField]; omega)
  | segw n k v =>
    refine decodeSeq_encodeSeq (op := 15) (l := [(n.toNat, 55), (k.toNat, 54), (v.toNat, 22)]) rfl (by decide) (by simp only [packed]; omega) fun w hw ho => ?_
    simp only [packed] at hw
    have hr : (dwordField w 55 4 == 0) = false := by
      have : n.toNat ≠ 0 := fun e => bne_iff_ne.1 h (BitVec.eq_of_toNat_eq e : n = 0)
      simp only [dwordField, beq_eq_false_iff_ne]; omega
    simp only [decodeSeq, ho, hr, Bool.false_eq_true, if_false]
    refine zeroField_ok (by simp only [dwordField]; omega) ?_
    congr 1 <;> exact ofNat_field (by simp only [dwordField]; omega)
  | qwait =>
    refine decodeSeq_encodeSeq (op := 16) (l := []) rfl (by decide) (by simp only [packed]; omega) fun w hw ho => ?_
    simp only [packed] at hw
    simp only [decodeSeq, ho]
    exact zeroField_ok (by simp only [dwordField]; omega) rfl
  | fupd d =>
    refine decodeSeq_encodeSeq (op := 17) (l := [(d.toNat, 40)]) rfl (by decide) (by simp only [packed]; omega) fun w hw ho => ?_
    simp only [packed] at hw
    simp only [decodeSeq, ho]
    refine zeroField_ok (by simp only [dwordField]; omega) ?_
    congr 1; exact ofNat_field (by simp only [dwordField]; omega)
  | notify m l =>
    refine decodeSeq_encodeSeq (op := 18) (l := [(m.toNat, 51), (l.toNat, 44)]) rfl (by decide) (by simp only [packed]; omega) fun w hw ho => ?_
    simp only [packed] at hw
    simp only [decodeSeq, ho]
    refine zeroField_ok (by simp only [dwordField]; omega) ?_
    congr 1 <;> exact ofNat_field (by simp only [dwordField]; omega)
  | ssig m n =>
    refine decodeSeq_encodeSeq (op := 19) (l := [(m.toNat, 49), (n.toNat, 33)]) rfl (by decide) (by simp only [packed]; omega) fun w hw ho => ?_
    simp only [packed] at hw
    simp only [decodeSeq, ho]
    refine zeroField_ok (by simp only [dwordField]; omega) ?_
    congr 1 <;> exact ofNat_field (by simp only [dwordField]; omega)
  | swait m n =>
    refine decodeSeq_encodeSeq (op := 20) (l := [(m.toNat, 49), (n.toNat, 33)]) rfl (by decide) (by simp only [packed]; omega) fun w hw ho => ?_
    simp only [packed] at hw
    simp only [decodeSeq, ho]
    refine zeroField_ok (by simp only [dwordField]; omega) ?_
    congr 1 <;> exact ofNat_field (by simp only [dwordField]; omega)
  | _ => exact Bool.noConfusion h

/-! ## Control tokens (12 R226) -/

/-- A token comes back where the decoder finds it in every two words of its opcode and its packed fields. -/
theorem decodeToken_encodeToken {i : Instr} {op : Nat} {l m : List (Nat × Nat)}
    (he : encodeToken i = (.ofNat 32 (packFields ((op, 28) :: l)), .ofNat 32 (packFields m))) (hop : op < 16)
    (hl : packed l < 2 ^ 28) (hm : packed m < 2 ^ 32)
    (h : ∀ w v : Word, w.toNat = op * 2 ^ 28 + packed l → v.toNat = packed m → wordField w 28 4 = op →
      decodeToken w v = some i) : decodeToken (encodeToken i).1 (encodeToken i).2 = some i := by
  have hw : (encodeToken i).1.toNat = op * 2 ^ 28 + packed l := by
    rw [he, BitVec.toNat_ofNat, packFields_eq]
    exact Nat.mod_eq_of_lt (show op * 2 ^ 28 + packed l < 2 ^ 32 by omega)
  have hv : (encodeToken i).2.toNat = packed m := by
    rw [he, BitVec.toNat_ofNat, packFields_eq, Nat.mod_eq_of_lt hm]
  refine h _ _ hw hv ?_
  rw [wordField, hw]
  omega

/-- The mask of fields, each by its lowest bit and its width. -/
def maskOf : List (Nat × Nat) → Word
  | [] => 0
  | p :: l => BitVec.ofNat 32 ((2 ^ p.2 - 1) * 2 ^ p.1) ||| maskOf l

theorem and_field {w : Word} {lo n : Nat} (h : wordField w lo n = 0) : w &&& BitVec.ofNat 32 ((2 ^ n - 1) * 2 ^ lo) = 0 := by
  apply BitVec.eq_of_getLsbD_eq
  intro j hj
  rw [BitVec.getLsbD_and, BitVec.getLsbD_ofNat, Nat.testBit_mul_two_pow, Nat.testBit_two_pow_sub_one]
  by_cases hlo : lo ≤ j
  · by_cases hn : j - lo < n
    · have hb : (w.toNat / 2 ^ lo % 2 ^ n).testBit (j - lo) = w.getLsbD j := by
        rw [Nat.testBit_mod_two_pow, Nat.testBit_div_two_pow, decide_eq_true hn, Bool.true_and, Nat.sub_add_cancel hlo]
        rfl
      rw [wordField] at h
      rw [h, Nat.zero_testBit] at hb
      rw [← hb]
      simp
    · simp [hn]
  · simp [hlo]

/-- Every one of the fields is 0. -/
def Clear (w : Word) : List (Nat × Nat) → Prop
  | [] => True
  | p :: l => wordField w p.1 p.2 = 0 ∧ Clear w l

theorem and_maskOf {w : Word} {l : List (Nat × Nat)} (h : Clear w l) : w &&& maskOf l = 0 := by
  induction l with
  | nil => exact BitVec.and_zero
  | cons p l ih =>
    obtain ⟨hp, hl⟩ := h
    rw [maskOf, BitVec.and_or_distrib_left, and_field hp, ih hl]
    rfl

theorem zeroToken_ok {w v m n : Word} {a b : List (Nat × Nat)} {i j : Instr} (hm : m = maskOf a) (hn : n = maskOf b)
    (ha : Clear w a) (hb : Clear v b) (hij : i = j) :
    zeroToken w v m n i = some j := by
  rw [zeroToken, hm, hn, and_maskOf ha, and_maskOf hb, hij]
  rfl

theorem decodeToken_isToken {i : Instr} (h : i.isToken = true) :
    decodeToken (encodeToken i).1 (encodeToken i).2 = some i := by
  cases i with
  | mma acc a ra rb fa fb m n k =>
    refine decodeToken_encodeToken (op := 0) (l := [(acc.toNat, 26), (a.toNat, 25), (ra.toNat, 22), (rb.toNat, 19), (fa.toNat, 15), (fb.toNat, 11)]) (m := [(m.toNat, 25), (n.toNat, 17), (k.toNat, 14)]) rfl (by decide) (by simp only [packed]; omega)
      (by simp only [packed]; omega) fun w v hw hv ho => ?_
    simp only [packed] at hw hv
    simp only [decodeToken, ho]
    refine zeroToken_ok (a := [(0, 11)]) (b := [(0, 14)]) rfl rfl
      (by simp only [Clear, wordField, and_true]; omega) (by simp only [Clear, wordField, and_true]; omega) ?_
    congr 1 <;> exact ofNat_field (by simp only [wordField]; omega)
  | accw acc f sat oa m n =>
    refine decodeToken_encodeToken (op := 1) (l := [(acc.toNat, 26), (f.toNat, 22), (sat.toNat, 21), (oa.toNat, 0)]) (m := [(m.toNat, 25), (n.toNat, 17)]) rfl (by decide) (by simp only [packed]; omega)
      (by simp only [packed]; omega) fun w v hw hv ho => ?_
    simp only [packed] at hw hv
    simp only [decodeToken, ho]
    refine zeroToken_ok (a := [(16, 5)]) (b := [(0, 17)]) rfl rfl
      (by simp only [Clear, wordField, and_true]; omega) (by simp only [Clear, wordField, and_true]; omega) ?_
    congr 1 <;> exact ofNat_field (by simp only [wordField]; omega)
  | accl acc oa m n =>
    refine decodeToken_encodeToken (op := 2) (l := [(acc.toNat, 26), (oa.toNat, 0)]) (m := [(m.toNat, 25), (n.toNat, 17)]) rfl (by decide) (by simp only [packed]; omega)
      (by simp only [packed]; omega) fun w v hw hv ho => ?_
    simp only [packed] at hw hv
    simp only [decodeToken, ho]
    refine zeroToken_ok (a := [(16, 10)]) (b := [(0, 17)]) rfl rfl
      (by simp only [Clear, wordField, and_true]; omega) (by simp only [Clear, wordField, and_true]; omega) ?_
    congr 1 <;> exact ofNat_field (by simp only [wordField]; omega)
  | msig kind n sem =>
    refine decodeToken_encodeToken (op := 3) (l := []) (m := [(kind.toNat, 30), (n.toNat, 10), (sem.toNat, 0)]) rfl (by decide) (by simp only [packed]; omega)
      (by simp only [packed]; omega) fun w v hw hv ho => ?_
    simp only [packed] at hw hv
    simp only [decodeToken, ho]
    refine zeroToken_ok (a := [(0, 28)]) (b := [(26, 4)]) rfl rfl
      (by simp only [Clear, wordField, and_true]; omega) (by simp only [Clear, wordField, and_true]; omega) ?_
    congr 1 <;> exact ofNat_field (by simp only [wordField]; omega)
  | rpop r =>
    refine decodeToken_encodeToken (op := 4) (l := [(r.toNat, 25)]) (m := []) rfl (by decide) (by simp only [packed]; omega)
      (by simp only [packed]; omega) fun w v hw hv ho => ?_
    simp only [packed] at hw hv
    simp only [decodeToken, ho]
    refine zeroToken_ok (a := [(0, 25)]) (b := [(0, 32)]) rfl rfl
      (by simp only [Clear, wordField, and_true]; omega) (by simp only [Clear, wordField, and_true]; omega) ?_
    congr 1 <;> exact ofNat_field (by simp only [wordField]; omega)
  | qinit q mode n oa var k =>
    refine decodeToken_encodeToken (op := 5) (l := [(q.toNat, 26), (mode.toNat, 24), (n.toNat, 17)]) (m := [(oa.toNat, 16), (var.toNat, 14), (k.toNat, 7)]) rfl (by decide) (by simp only [packed]; omega)
      (by simp only [packed]; omega) fun w v hw hv ho => ?_
    simp only [packed] at hw hv
    simp only [decodeToken, ho]
    refine zeroToken_ok (a := [(0, 17), (27, 1)]) (b := [(0, 7)]) rfl rfl
      (by simp only [Clear, wordField, and_true]; omega) (by simp only [Clear, wordField, and_true]; omega) ?_
    congr 1 <;> exact ofNat_field (by simp only [wordField]; omega)
  | qadd q r p =>
    refine decodeToken_encodeToken (op := 6) (l := [(q.toNat, 26), (r.toNat, 22), (p.toNat, 15)]) (m := []) rfl (by decide) (by simp only [packed]; omega)
      (by simp only [packed]; omega) fun w v hw hv ho => ?_
    simp only [packed] at hw hv
    simp only [decodeToken, ho]
    refine zeroToken_ok (a := [(0, 15), (25, 1), (27, 1)]) (b := [(0, 32)]) rfl rfl
      (by simp only [Clear, wordField, and_true]; omega) (by simp only [Clear, wordField, and_true]; omega) ?_
    congr 1 <;> exact ofNat_field (by simp only [wordField]; omega)
  | qapl q t r oa k =>
    refine decodeToken_encodeToken (op := 7) (l := [(q.toNat, 26), (t.toNat, 25), (r.toNat, 22), (oa.toNat, 0)]) (m := [(k.toNat, 25)]) rfl (by decide) (by simp only [packed]; omega)
      (by simp only [packed]; omega) fun w v hw hv ho => ?_
    simp only [packed] at hw hv
    simp only [decodeToken, ho]
    refine zeroToken_ok (a := [(16, 6), (27, 1)]) (b := [(0, 25)]) rfl rfl
      (by simp only [Clear, wordField, and_true]; omega) (by simp only [Clear, wordField, and_true]; omega) ?_
    congr 1 <;> exact ofNat_field (by simp only [wordField]; omega)
  | qapr q t r oa k =>
    refine decodeToken_encodeToken (op := 8) (l := [(q.toNat, 26), (t.toNat, 25), (r.toNat, 22), (oa.toNat, 0)]) (m := [(k.toNat, 25)]) rfl (by decide) (by simp only [packed]; omega)
      (by simp only [packed]; omega) fun w v hw hv ho => ?_
    simp only [packed] at hw hv
    simp only [decodeToken, ho]
    refine zeroToken_ok (a := [(16, 6), (27, 1)]) (b := [(0, 25)]) rfl rfl
      (by simp only [Clear, wordField, and_true]; omega) (by simp only [Clear, wordField, and_true]; omega) ?_
    congr 1 <;> exact ofNat_field (by simp only [wordField]; omega)
  | qcnt q =>
    refine decodeToken_encodeToken (op := 9) (l := [(q.toNat, 26)]) (m := []) rfl (by decide) (by simp only [packed]; omega)
      (by simp only [packed]; omega) fun w v hw hv ho => ?_
    simp only [packed] at hw hv
    simp only [decodeToken, ho]
    refine zeroToken_ok (a := [(0, 26), (27, 1)]) (b := [(0, 32)]) rfl rfl
      (by simp only [Clear, wordField, and_true]; omega) (by simp only [Clear, wordField, and_true]; omega) ?_
    congr 1 <;> exact ofNat_field (by simp only [wordField]; omega)
  | qspl q oa =>
    refine decodeToken_encodeToken (op := 10) (l := [(q.toNat, 26), (oa.toNat, 0)]) (m := []) rfl (by decide) (by simp only [packed]; omega)
      (by simp only [packed]; omega) fun w v hw hv ho => ?_
    simp only [packed] at hw hv
    simp only [decodeToken, ho]
    refine zeroToken_ok (a := [(16, 10), (27, 1)]) (b := [(0, 32)]) rfl rfl
      (by simp only [Clear, wordField, and_true]; omega) (by simp only [Clear, wordField, and_true]; omega) ?_
    congr 1 <;> exact ofNat_field (by simp only [wordField]; omega)
  | qldv q oa =>
    refine decodeToken_encodeToken (op := 11) (l := [(q.toNat, 26), (oa.toNat, 0)]) (m := []) rfl (by decide) (by simp only [packed]; omega)
      (by simp only [packed]; omega) fun w v hw hv ho => ?_
    simp only [packed] at hw hv
    simp only [decodeToken, ho]
    refine zeroToken_ok (a := [(16, 10), (27, 1)]) (b := [(0, 32)]) rfl rfl
      (by simp only [Clear, wordField, and_true]; omega) (by simp only [Clear, wordField, and_true]; omega) ?_
    congr 1 <;> exact ofNat_field (by simp only [wordField]; omega)
  | _ => exact Bool.noConfusion h

/-- Settles O50: the decoder reads the opcode and every field back from the packed words. -/
theorem commandsRoundTrip : Obligations.CommandsRoundTrip :=
  ⟨fun _ => decodeSeq_isSeq, fun _ => decodeToken_isToken⟩

end Sys2Proof.Laws

/-! PROOFS of the statements on compares, tags, selection, shuttles and rounded results of a beat (06 R103-R109, 08 R148-R165):
what the reads of a beat leave of its element, and the ways that a beat writes a rounded result. -/

namespace Sys2Proof.Beats
open Sys2Proof Sys2Proof.Machine Sys2Proof.Safety Sys2Proof.Laws Sys2Proof.Arithmetic

/-! ## What the reads of a beat leave of its element (05 R76, R77) -/

theorem readHd_frame (e : Elem) (h : DWord) : ∃ inbox, (readHd e h).2 = { e with inbox := inbox } := by
  unfold readHd
  split
  · exact ⟨e.inbox, rfl⟩
  · split
    · exact ⟨e.inbox, rfl⟩
    · exact ⟨_, rfl⟩

theorem readOperand_frame (key : Nat) (h : DWord) (beat : Nat) (e0 e : Elem) (f : Field) :
    ∃ lf inbox, (readOperand key h beat e0 e f).2 = { e with lf := lf, inbox := inbox } := by
  unfold readOperand
  cases f.op with
  | lf => exact ⟨_, e.inbox, rfl⟩
  | hd =>
    obtain ⟨inbox, hi⟩ := readHd_frame e h
    exact ⟨e.lf, inbox, hi⟩
  | _ => exact ⟨e.lf, e.inbox, rfl⟩

theorem readAll_frame (key : Nat) (h : DWord) (beat : Nat) (e0 : Elem) (fs : List Field) :
    ∀ e : Elem, ∃ lf inbox, (readAll key h beat e0 e fs).2 = { e with lf := lf, inbox := inbox } := by
  induction fs with
  | nil => exact fun e => ⟨e.lf, e.inbox, rfl⟩
  | cons f fs ih =>
    intro e
    unfold readAll
    split
    · obtain ⟨lf, inbox, h1⟩ := readOperand_frame key h beat e0 e f
      obtain ⟨lf', inbox', h2⟩ := ih (readOperand key h beat e0 e f).2
      exact ⟨lf', inbox', h2.trans (by rw [h1])⟩
    · exact ih e

theorem pop_frame (e : Elem) (p n : Nat) : ∃ inp tg sk, e.pop p n = { e with inp := inp, tg := tg, sk := sk } := by
  unfold Elem.pop
  dsimp only
  split
  · exact ⟨e.inp, e.tg, e.sk, rfl⟩
  · exact ⟨_, _, _, rfl⟩

theorem popAll_frame (fs : List Field) (e : Elem) :
    ∃ inp tg sk, popAll fs e = { e with inp := inp, tg := tg, sk := sk } := by
  unfold popAll
  induction popOrder fs generalizing e with
  | nil => exact ⟨e.inp, e.tg, e.sk, rfl⟩
  | cons p ps ih =>
    obtain ⟨inp, tg, sk, h1⟩ := pop_frame e p (popCount fs p)
    obtain ⟨inp', tg', sk', h2⟩ := ih (e.pop p (popCount fs p))
    exact ⟨inp', tg', sk', h2.trans (by rw [h1])⟩

/-- The reads of a beat change the generator, the inbox, the input ports, tg and sk of its element, and nothing else. -/
theorem readFields_frame (key slot : Nat) (h : DWord) (beat n : Nat) (fs : List Field) (e : Elem) :
    ∃ lf inbox inp tg sk, (readFields key slot h beat n fs e).e =
      { e with lf := lf, inbox := inbox, inp := inp, tg := tg, sk := sk } := by
  obtain ⟨lf, inbox, h1⟩ := readAll_frame key h beat e fs e
  obtain ⟨inp, tg, sk, h2⟩ := popAll_frame fs (readAll key h beat e e fs).2
  exact ⟨lf, inbox, inp, tg, sk, h2.trans (by rw [h1])⟩

theorem start_preds (x : Beat) : x.start.preds = x.elem.preds := by
  unfold Beat.start
  split <;> rfl

theorem reads_preds (x : Beat) : x.reads.e.preds = x.elem.preds := by
  obtain ⟨_, _, _, _, _, h⟩ := readFields_frame x.key x.run.slot x.run.heddle x.run.beat x.run.n x.form.fields x.start
  exact (congrArg Elem.preds h).trans (start_preds x)

/-! ## Compares and predicates (06 R103, R104) -/

/-- A condition is written as the truth of a Bool that says the same. -/
theorem oneIf_of_iff {p : Prop} [Decidable p] {b : Bool} (h : p ↔ b = true) : oneIf p = plain (truth b) := by
  rw [oneIf, truth]
  exact congrArg plain (if_congr h rfl rfl)

/-- Settles O6: each condition is that of the Bool which the model tests. -/
theorem integerComparesAndPredicates : Obligations.IntegerComparesAndPredicates := by
  intro t d a b
  refine ⟨?eq, ?ne, ?ltS, ?leS, ?gtS, ?geS, ?ltN, ?leN, ?gtN, ?geN, ?and, ?or, ?xor⟩
  case eq => exact writes_of_word (fun _ => rfl) fun r => oneIf_of_iff (by rw [BitVec.toInt_inj, beq_iff_eq])
  case ne => exact writes_of_word (fun _ => rfl) fun r => oneIf_of_iff (by rw [ne_eq, BitVec.toInt_inj, bne_iff_ne])
  case ltS => exact writes_of_word (fun _ => rfl) fun r => oneIf_of_iff decide_eq_true_iff.symm
  case leS => exact writes_of_word (fun _ => rfl) fun r => oneIf_of_iff decide_eq_true_iff.symm
  case gtS => exact writes_of_word (fun _ => rfl) fun r => oneIf_of_iff decide_eq_true_iff.symm
  case geS => exact writes_of_word (fun _ => rfl) fun r => oneIf_of_iff decide_eq_true_iff.symm
  case ltN => exact writes_of_word (fun _ => rfl) fun r => oneIf_of_iff decide_eq_true_iff.symm
  case leN => exact writes_of_word (fun _ => rfl) fun r => oneIf_of_iff decide_eq_true_iff.symm
  case gtN => exact writes_of_word (fun _ => rfl) fun r => oneIf_of_iff decide_eq_true_iff.symm
  case geN => exact writes_of_word (fun _ => rfl) fun r => oneIf_of_iff decide_eq_true_iff.symm
  case and => exact writes_of_word (fun _ => rfl) fun r => oneIf_of_iff (by rw [Bool.and_eq_true, bne_iff_ne, bne_iff_ne])
  case or => exact writes_of_word (fun _ => rfl) fun r => oneIf_of_iff (by rw [Bool.or_eq_true, bne_iff_ne, bne_iff_ne])
  case xor =>
    exact writes_of_word (fun _ => rfl) fun r => oneIf_of_iff
      (by rw [bne_iff_ne]; exact not_congr (by rw [Bool.eq_iff_iff, bne_iff_ne, bne_iff_ne, eq_iff_iff]))

/-! ## Tags, moves and selection (06 R105, R107, R108) -/

theorem levelOf_eq (r : Reads) (a : Operand) :
    levelOf r a = if portOperand a then ((r.tok? 0).map Token.level).getD 0 else (r.val 0).toNat % 8 := by
  cases a <;> rfl

theorem movBody_eq (d a : Operand) (s : State) (key : Nat) (r : Reads) : movBody d a s key r =
    { s := s, e := r.e.write (sparsePorts s key) d (r.val 0)
        (if portOperand a then ((r.tok? 0).map Token.tag).getD 0 else 0) false } := by
  cases a <;> rfl

theorem selBody_eq (d : Operand) (n : Fin 8) (s : State) (key : Nat) (r : Reads) : selBody d n s key r =
    { s := s, e := r.e.write (sparsePorts s key) d (if r.e.preds.getD n.val false then r.val 0 else r.val 1)
        (mkTag 0 (if r.e.preds.getD n.val false then ((r.tok? 0).map Token.exc).getD false
          else ((r.tok? 1).map Token.exc).getD false)) false } := by
  unfold selBody
  cases r.e.preds.getD n.val false <;> rfl

/-- Settles O8: each form's body ends its beat, and its reads leave the predicates. -/
theorem tagMoveAndSelect : Obligations.TagMoveAndSelect := by
  intro t d a b l n x s
  refine ⟨?ctag, ?mov, ?tagv, ?selv, ?sel, ?drop⟩
  case ctag =>
    intro h
    refine (runBeat_word h d fun r => truth (levelOf r a == l.toNat)).trans ?_
    rw [levelOf_eq, truth]
    simp only [beq_iff_eq]
  case mov => exact fun h => runBeat_done h (movBody_eq d a s x.key x.reads)
  case tagv => exact fun h => runBeat_done h rfl
  case selv => exact fun h => runBeat_done h rfl
  case sel =>
    intro h
    rw [← reads_preds x]
    exact runBeat_done h (selBody_eq d n s x.key x.reads)
  case drop => exact fun h => runBeat_done h rfl

/-! ## Shuttles (06 R109) -/

theorem sendBody_bound {f : Reads → Nat × Word × Word} {s : State} {key : Nat} {r : Reads}
    (h : (s.bh (bhOf key)).routes.any (fun x => x.label == (f r).1) = true) : sendBody f s key r =
      { s := s, e := { r.e with sendq := r.e.sendq ++
          [{ classL := false, source := key, label := (f r).1, w0 := (f r).2.1, w1 := (f r).2.2 }] } } := by
  unfold sendBody
  exact if_pos h

theorem sendBody_unbound {f : Reads → Nat × Word × Word} {s : State} {key : Nat} {r : Reads}
    (h : ¬ (s.bh (bhOf key)).routes.any (fun x => x.label == (f r).1) = true) :
    sendBody f s key r = { s := s, e := r.e, stop := .fault 0x47 r.slot 0 } := by
  unfold sendBody
  exact if_neg h

/-- Settles O9: the body sends where the label is bound, and meets the fault where it is not. -/
theorem shuttleSends : Obligations.ShuttleSends := by
  intro t p l a b lab x s
  refine ⟨?send, ?sendUnbound, ?sendr, ?sendrUnbound⟩
  case send => exact fun h hb => runBeat_done h (sendBody_bound hb)
  case sendUnbound => exact fun h hb => runBeat_fault h (sendBody_unbound hb)
  case sendr => exact fun h hb => runBeat_done h (sendBody_bound hb)
  case sendrUnbound => exact fun h hb => runBeat_fault h (sendBody_unbound hb)

/-! ## Beats that write a rounded result (07 R127, R128, 08 R140) -/

theorem stepSR_eq (e : Elem) : stepSR e = stepped e := by
  unfold stepSR stepped Elem.mode
  simp only [beq_iff_eq]

theorem stepped_record (e : Elem) : (stepped e).record = e.record := by
  unfold stepped
  split <;> rfl

theorem stepped_half (e : Elem) : (stepped e).half = e.half := by
  unfold Elem.half
  rw [stepped_record]

section
variable {i : Instr} {t : Trig} {d : Operand}

theorem writesResult_of {f : Reads → FRes} (hexec : ∀ s, exec i s = runBeat i t (writeBody d fun _ r => f r) s) :
    WritesResult i t d f := fun _ s h => (hexec s).trans (runBeat_write h d fun _ r => f r)

theorem writesPair_of {f : Reads → FRes} (hexec : ∀ s, exec i s = runBeat i t (writeBody2 d fun _ r => f r) s) :
    WritesPair i t d f := fun _ s h => (hexec s).trans (runBeat_write2 h d fun _ r => f r)

/-- What a rounding body computes must not depend on the generator but through its argument. -/
theorem writesRounded_of {g : RMode → Nat → Reads → FRes}
    (hexec : ∀ s, exec i s = runBeat i t (roundBody false d g) s)
    (hg : ∀ m x r, g m x { r with e := stepped r.e } = g m x r) : WritesRounded i t d fun r m x => g m x r := by
  intro x s h
  dsimp only
  rw [hexec, ← hg]
  refine runBeat_done h ?_
  simp only [roundBody, stepSR_eq]
  rfl

theorem writesRoundedPair_of {g : RMode → Nat → Reads → FRes}
    (hexec : ∀ s, exec i s = runBeat i t (roundBody true d g) s)
    (hg : ∀ m x r, g m x { r with e := stepped r.e } = g m x r) : WritesRoundedPair i t d fun r m x => g m x r := by
  intro x s h
  dsimp only
  rw [hexec, ← hg]
  refine runBeat_done h ?_
  simp only [roundBody, stepSR_eq]
  rfl

theorem writesLanes_of {g : RMode → Nat → Nat → Reads → FRes}
    (hexec : ∀ s, exec i s = runBeat i t (laneBody d g) s)
    (hg : ∀ m x k r, g m x k { r with e := stepped r.e } = g m x k r) : WritesLanes i t d fun k r m x => g m x k r := by
  intro x s h
  dsimp only
  rw [hexec]
  refine runBeat_done h ?_
  simp only [laneBody, stepSR_eq, Elem.mode]
  rw [hg _ _ 0 x.reads, hg _ _ 1 { x.reads with e := stepped x.reads.e }, hg _ _ 1 x.reads, stepped_record (stepped _)]
  rfl

end

/-! ## The binary32, seed, packed and binary64 forms (08 R148-R165) -/

theorem and_low31 (w : Word) : w &&& 0x7FFFFFFF = BitVec.ofNat 32 (w.toNat % 2 ^ 31) := by
  apply BitVec.eq_of_toNat_eq
  rw [BitVec.toNat_and, BitVec.toNat_ofNat, show (0x7FFFFFFF : Word).toNat = 2 ^ 31 - 1 from rfl, Nat.and_two_pow_sub_one_eq_mod]
  omega

theorem toNat_and_sign (w : Word) : (w &&& 0x80000000).toNat = w.toNat / 2 ^ 31 * 2 ^ 31 := by
  have h := w.isLt
  rw [BitVec.toNat_and, show (0x80000000 : Word).toNat = 2 ^ 31 from rfl, Nat.and_two_pow, Nat.toNat_testBit]
  omega

theorem copySign_eq (a b : Word) : (a &&& 0x7FFFFFFF) ||| (b &&& 0x80000000) =
    BitVec.ofNat 32 (a.toNat % 2 ^ 31 + b.toNat / 2 ^ 31 * 2 ^ 31) := by
  have hb := b.isLt
  have ha : a.toNat % 2 ^ 31 < 2 ^ 31 := Nat.mod_lt _ (by decide)
  have hand : (a &&& 0x7FFFFFFF).toNat = a.toNat % 2 ^ 31 := by
    rw [and_low31, BitVec.toNat_ofNat]
    omega
  apply BitVec.eq_of_toNat_eq
  rw [BitVec.toNat_or, BitVec.toNat_ofNat, hand, toNat_and_sign, Nat.or_comm, Nat.mul_comm,
    ← Nat.two_pow_add_eq_or_of_lt ha]
  omega

theorem fclass_lt (a : Nat) : fclass a < 2 ^ 32 := by
  unfold fclass
  repeat' split
  all_goals decide

/-- Settles O10: the body of each form rounds, or writes, the result of its function. -/
theorem binary32Forms : Obligations.Binary32Forms := by
  intro t d a b
  refine ⟨?add, ?sub, ?mul, ?mac, ?nmac, ?min, ?max, ?abs, ?neg, ?cpsgn, ?cls, ?rnd⟩
  case add => exact writesRounded_of (fun _ => rfl) fun _ _ _ => rfl
  case sub => exact writesRounded_of (fun _ => rfl) fun _ _ _ => rfl
  case mul => exact writesRounded_of (fun _ => rfl) fun _ _ _ => rfl
  case mac => exact writesRounded_of (fun _ => rfl) fun _ _ _ => rfl
  case nmac => exact writesRounded_of (fun _ => rfl) fun _ _ _ => rfl
  case min => exact writesResult_of fun _ => rfl
  case max => exact writesResult_of fun _ => rfl
  case abs => exact writes_of_word (fun _ => rfl) fun r => congrArg plain (and_low31 _).symm
  case neg => exact writes_of_word (fun _ => rfl) fun r => rfl
  case cpsgn => exact writes_of_word (fun _ => rfl) fun r => congrArg plain (copySign_eq _ _).symm
  case cls => exact writes_of_result (fun _ => rfl) fun r => exact_eq_resultOf (fclass_lt _)
  case rnd => exact writesRounded_of (fun _ => rfl) fun _ _ _ => rfl

/-- Settles O11: a packed form takes the half format of its element, which a step of the generator leaves. -/
theorem seedAndPackedHalfForms : Obligations.SeedAndPackedHalfForms := by
  refine ⟨fun t d a => ⟨?rsqs, ?rcps, ?ex2s, ?lg2s⟩, fun t d a b => ⟨?add, ?sub, ?mul, ?mac, ?min, ?max, ?dot, ?dmac⟩⟩
  case rsqs => exact writesResult_of fun _ => rfl
  case rcps => exact writesResult_of fun _ => rfl
  case ex2s => exact writesResult_of fun _ => rfl
  case lg2s => exact writesResult_of fun _ => rfl
  case add => exact writesLanes_of (fun _ => rfl) fun m x k r => by rw [stepped_half]; rfl
  case sub => exact writesLanes_of (fun _ => rfl) fun m x k r => by rw [stepped_half]; rfl
  case mul => exact writesLanes_of (fun _ => rfl) fun m x k r => by rw [stepped_half]; rfl
  case mac => exact writesLanes_of (fun _ => rfl) fun m x k r => by rw [stepped_half]; rfl
  case min => exact writesResult_of fun _ => rfl
  case max => exact writesResult_of fun _ => rfl
  case dot => exact writesRounded_of (fun _ => rfl) fun m x r => by rw [stepped_half]; rfl
  case dmac => exact writesRounded_of (fun _ => rfl) fun m x r => by rw [stepped_half]; rfl

/-- Settles O13: the binary64 forms write pairs, and the two that narrow write a word. -/
theorem binary64Forms : Obligations.Binary64Forms := by
  intro t d a b
  refine ⟨?add, ?sub, ?mul, ?mac, ?div, ?sqrt, ?min, ?max, ?abs, ?neg, ?widen, ?fromInt, ?narrow, ?toInt⟩
  case add => exact writesRoundedPair_of (fun _ => rfl) fun _ _ _ => rfl
  case sub => exact writesRoundedPair_of (fun _ => rfl) fun _ _ _ => rfl
  case mul => exact writesRoundedPair_of (fun _ => rfl) fun _ _ _ => rfl
  case mac => exact writesRoundedPair_of (fun _ => rfl) fun _ _ _ => rfl
  case div => exact writesRoundedPair_of (fun _ => rfl) fun _ _ _ => rfl
  case sqrt => exact writesRoundedPair_of (fun _ => rfl) fun _ _ _ => rfl
  case min => exact writesPair_of fun _ => rfl
  case max => exact writesPair_of fun _ => rfl
  case abs => exact writesPair_of fun _ => rfl
  case neg => exact writesPair_of fun _ => rfl
  case widen => exact writesPair_of fun _ => rfl
  case fromInt => exact writesPair_of fun _ => rfl
  case narrow => exact writesRounded_of (fun _ => rfl) fun _ _ _ => rfl
  case toInt => exact writesRounded_of (fun _ => rfl) fun _ _ _ => rfl

end Sys2Proof.Beats

/-! PROOFS of the statements on what memory, atomic, fence, engine, ask and system instructions do at fire
(09 R178, 10 R192-R198, 14 R256-R259, 15 R267-R289, 17 R298-R319, 19 R334, R335): the checks of an address word, and how a
beat places its request. -/

namespace Sys2Proof.AtFire
open Sys2Proof Sys2Proof.Machine Sys2Proof.Safety Sys2Proof.Laws

/-! ## Fields of a word -/

theorem bit_eq_decide (w n : Nat) : bit w n = decide (w / 2 ^ n % 2 = 1) := by
  rw [Bool.eq_iff_iff, bit, beq_iff_eq, decide_eq_true_iff]

theorem bits_zero (w n : Nat) : bits w 0 n = w % 2 ^ n := by
  rw [bits, pow_zero, Nat.div_one]

theorem bit_iff (w n : Nat) : bit w n = true ↔ w / 2 ^ n % 2 = 1 := by
  rw [bit_eq_decide, decide_eq_true_iff]

/-- A field that reaches the top of its word is 0 where the word is below the field. -/
theorem topField_eq_zero {w lo n : Nat} (h : w < 2 ^ (lo + n)) : bits w lo n = 0 ↔ w < 2 ^ lo := by
  have hlt : w / 2 ^ lo < 2 ^ n := Nat.div_lt_of_lt_mul (by rwa [← pow_add])
  rw [bits, Nat.mod_eq_of_lt hlt, Nat.div_eq_zero_iff_lt (by positivity)]

theorem topField_ne_zero {w lo n : Nat} (h : w < 2 ^ (lo + n)) : (bits w lo n != 0) = decide (2 ^ lo ≤ w) := by
  rw [Bool.eq_iff_iff, bne_iff_ne, decide_eq_true_iff, ne_eq, topField_eq_zero h, not_lt]

/-! ## Placing a request (10 R193, R194) -/

section
variable {x : Beat} {i : Instr} {t : Trig} {s : State} {body : Body}

theorem placeRequest_eq {s₀ : State} {e : Elem} {exc : Bool} {q : Issued} (h₀ : s₀.elem? x.key = some x.elem)
    (he : q.kind.isSemw = false ∨ e = x.reads.e) :
    placeRequest s₀ x.key { x.reads with e := e, exc := exc } q =
      ({ s₀ with nextId := s₀.nextId + 1 }, x.withRequest s₀ e q exc, s₀.nextId) := by
  unfold placeRequest Beat.withRequest Beat.record
  obtain hk | rfl := he
  · simp only [hk]
    rfl
  · simp only [h₀]
    rfl

/-- A beat whose body places one request asks. -/
theorem runBeat_request {s₀ : State} {e : Elem} {exc : Bool} {q : Issued} (h : x.Ready i t s)
    (hb : body s x.key x.reads = requestBody s₀ x.key { x.reads with e := e, exc := exc } q)
    (h₀ : s₀.elem? x.key = s.elem? x.key) (he : q.kind.isSemw = false ∨ e = x.reads.e) :
    runBeat i t body s = .next (x.asksFrom s₀ e q exc) := by
  have hp := placeRequest_eq (exc := exc) (h₀.trans h.1) he
  have hb' : body s x.key x.reads =
      { s := { s₀ with nextId := s₀.nextId + 1 }, e := x.withRequest s₀ e q exc, stop := q.dest.stop s₀.nextId } := by
    rw [hb, requestBody, hp]
  unfold Beat.asksFrom
  cases hd : q.dest with
  | operand o => exact runBeat_await h (hb'.trans (by rw [hd]; rfl))
  | port n => exact runBeat_done h (hb'.trans (by rw [hd]; rfl))
  | none => exact runBeat_done h (hb'.trans (by rw [hd]; rfl))

/-- The same where nothing but the request changes. -/
theorem runBeat_asks {q : Issued} (h : x.Ready i t s) (hb : body s x.key x.reads = requestBody s x.key x.reads q) :
    runBeat i t body s = .next (x.asks s q) := runBeat_request h hb rfl (.inr rfl)

theorem orFlags_zero (e : Elem) : e.orFlags 0 = e := by
  exact congrArg (fun f => { e with fl := f }) (BitVec.or_zero (x := e.fl))

/-- A beat that answers a status at fire. -/
theorem runBeat_status {d : Operand} {c : Nat} (h : x.Ready i t s)
    (hb : body s x.key x.reads = statusBody s x.key x.reads d c) :
    runBeat i t body s = .next (x.ends s (x.put s x.reads.e d (BitVec.ofNat 32 c) 0 false)) := by
  rw [Beat.put, orFlags_zero, show (0 : Flags).isFloat = false from rfl, Bool.or_false]
  exact runBeat_done h hb

end

/-! ## Address words (09 R178, R179) -/

theorem checkAddr_of_error {k : Tile} {ev write : Bool} {a : Word} {c : Nat} (size : Nat) (h : k.checkRange ev a write = .error c) :
    k.checkAddr ev a size write = .error c := by
  unfold Tile.checkAddr
  rw [h]

theorem checkAddr_of_ok {k : Tile} {ev write : Bool} {a : Word} {y : Checked} (size : Nat) (h : k.checkRange ev a write = .ok y) :
    k.checkAddr ev a size write =
      if a.toNat % size = 0 then (if ev = true ∧ y.seg0 = true then .error 0x43 else .ok y) else .error 0x45 := by
  unfold Tile.checkAddr
  simp only [h, bne_iff_ne, ne_eq, ite_not, Bool.and_eq_true]

/-- The number of the segment that an address word names. -/
def segmentOf (a : Word) : Nat := a.toNat / 2 ^ 28

theorem bits_segment (a : Word) : bits a.toNat 28 4 = segmentOf a :=
  Nat.mod_eq_of_lt (by have := a.isLt; omega)

theorem checkRange_seg0 {k : Tile} {ev write : Bool} {a : Word} (h : segmentOf a = 0) :
    k.checkRange ev a write =
      if ev = false ∧ 0x60000 ≤ a.toNat % 2 ^ 28 then .error 0x44 else .ok { seg0 := true, va := a.toNat % 2 ^ 28 } := by
  unfold Tile.checkRange
  simp only [bits_segment, h, beq_self_eq_true, if_true, Bool.and_eq_true, Bool.not_eq_true', decide_eq_true_eq, bits_zero]

theorem segLog2_eq (r : DWord) : segLog2 r = if 12 ≤ r.toNat % 32 ∧ r.toNat % 32 ≤ 28 then r.toNat % 32 else 12 := by
  unfold segLog2
  simp only [Bool.and_eq_true, decide_eq_true_eq, bits_zero, Nat.reducePow]

theorem checkRange_segment {k : Tile} {ev write : Bool} {a : Word} (h : segmentOf a ≠ 0) :
    k.checkRange ev a write =
      let r := (k.seg (segmentOf a)).toNat
      let off := a.toNat % 2 ^ 28
      if r / 2 ^ 63 % 2 ≠ 1 ∨ 2 ^ segLog2 (k.seg (segmentOf a)) ≤ off ∨ (write = true ∧ r / 2 ^ 62 % 2 ≠ 1) then .error 0x44
      else .ok { seg0 := false, va := segVa (r / 2 ^ 12 % 2 ^ 45 * 2 ^ 12) off, cls := r / 2 ^ 60 % 4, reads := r / 2 ^ 8 % 16 } := by
  unfold Tile.checkRange
  simp only [bits_segment, beq_iff_eq, h, if_false, Bool.and_eq_true, Bool.not_eq_true', bit_eq_decide, decide_eq_false_iff_not]
  rw [bits_zero]
  split_ifs <;> first | rfl | (exfalso; tauto)

/-- Settles O14: each clause is a branch of the range check, and the alignment after it. -/
theorem addressWordChecks : Obligations.AddressWordChecks := by
  intro k ev write a size hsize
  have hr := (k.seg (a.toNat / 2 ^ 28)).isLt
  dsimp only
  rw [← segLog2_eq]
  refine ⟨?low, ?unaligned, ?inside, ?evaluator, ?invalid, ?long, ?readOnly, ?segment⟩
  case low =>
    intro h hev hoff
    exact checkAddr_of_error size ((checkRange_seg0 h).trans (if_pos ⟨hev, hoff⟩))
  case unaligned =>
    intro h hev hoff hal
    exact (checkAddr_of_ok size ((checkRange_seg0 h).trans (if_neg fun c => by omega))).trans (if_neg hal)
  case inside =>
    intro h hev hoff hal
    refine (checkAddr_of_ok size ((checkRange_seg0 h).trans (if_neg fun c => by omega))).trans ((if_pos hal).trans (if_neg ?_))
    rw [hev]
    exact fun c => Bool.false_ne_true c.1
  case evaluator =>
    intro h hev
    rw [checkAddr_of_ok size ((checkRange_seg0 h).trans (if_neg fun c => by rw [hev] at c; exact Bool.noConfusion c.1))]
    split
    · exact ⟨_, if_pos ⟨hev, rfl⟩⟩
    · exact ⟨_, rfl⟩
  case invalid =>
    intro h hv
    exact checkAddr_of_error size ((checkRange_segment h).trans (if_pos (.inl (by unfold segmentOf; omega))))
  case long =>
    intro h hoff
    exact checkAddr_of_error size ((checkRange_segment h).trans (if_pos (.inr (.inl hoff))))
  case readOnly =>
    intro h hal hw hro
    exact checkAddr_of_error size ((checkRange_segment h).trans (if_pos (.inr (.inr ⟨hw, by unfold segmentOf; omega⟩))))
  case segment =>
    intro h hv hoff hw
    refine (checkAddr_of_ok size ((checkRange_segment h).trans (if_neg ?_))).trans
      (if_congr Iff.rfl (if_neg fun c => Bool.false_ne_true c.2) rfl)
    rintro (hv' | hoff' | ⟨hw', hro⟩)
    · exact hv' (by unfold segmentOf; omega)
    · exact absurd hoff (not_lt.mpr hoff')
    · exact hro (hw hw')

/-! ## Loads, stores and prefetches (10 R192-R198) -/

section
variable {x : Beat} {i : Instr} {t : Trig} {s : State}

theorem loadBeat {d : Operand} {w : BitVec 6} {size : Nat} {sgn : Bool} (h : x.Ready i t s) :
    match (s.tile (servingTile x.key)).checkAddr (isEv x.key) (x.val 0) size false with
    | .ok c => runBeat i t (loadBody d w size sgn) s = .next (x.asks s
        { kind := .load size sgn, classes := 0x01, wave := w.toNat, addr := x.val 0, at_ := c, dest := destOf d,
          wide := size == 8 })
    | .error c => runBeat i t (loadBody d w size sgn) s = .next (x.takes s c w.toNat (x.val 0).toNat) := by
  cases hc : (s.tile (servingTile x.key)).checkAddr (isEv x.key) (x.val 0) size false with
  | ok c => exact runBeat_asks h (by simp only [loadBody, hc])
  | error c => exact runBeat_fault h (by simp only [loadBody, hc]; rfl)

/-- A beat whose body is that of a store. -/
theorem storeBeat {w : BitVec 6} {size : Nat} {body : Body} (h : x.Ready i t s)
    (hb : body s x.key x.reads = storeBody w size s x.key x.reads) :
    match (s.tile (servingTile x.key)).checkAddr (isEv x.key) (x.val 0) size true with
    | .ok c => runBeat i t body s = .next (x.asks s
        { kind := .store size (x.reads.pair 1 % 2 ^ (8 * size)), classes := 0x02, wave := w.toNat, addr := x.val 0, at_ := c })
    | .error c => runBeat i t body s = .next (x.takes s c w.toNat (x.val 0).toNat) := by
  cases hc : (s.tile (servingTile x.key)).checkAddr (isEv x.key) (x.val 0) size true with
  | ok c => exact runBeat_asks h (hb.trans (by simp only [storeBody, hc]))
  | error c => exact runBeat_fault h (hb.trans (by simp only [storeBody, hc]; rfl))

theorem guardOf_eq (r : Reads) : guardOf r = ((r.tok? 1).map Token.level).getD 1 := by
  unfold guardOf
  cases r.tok? 1 <;> rfl

/-- A guarded store stores where its guard is 1, and else places a skipped request. -/
theorem guardedBeat {w : BitVec 6} {size : Nat} (h : x.Ready i t s) :
    if ((x.reads.tok? 1).map Token.level).getD 1 = 1 then
      match (s.tile (servingTile x.key)).checkAddr (isEv x.key) (x.val 0) size true with
      | .ok c => runBeat i t (guardedBody w size) s = .next (x.asks s
          { kind := .store size (x.reads.pair 1 % 2 ^ (8 * size)), classes := 0x02, wave := w.toNat, addr := x.val 0, at_ := c })
      | .error c => runBeat i t (guardedBody w size) s = .next (x.takes s c w.toNat (x.val 0).toNat)
    else runBeat i t (guardedBody w size) s = .next (x.asks s
      { kind := .skipped, classes := 0x02, wave := w.toNat, addr := x.val 0 }) := by
  rw [← guardOf_eq]
  split
  · next hg => exact storeBeat h (if_pos (beq_iff_eq.mpr hg))
  · next hg => exact runBeat_asks h (if_neg (mt beq_iff_eq.mp hg))

/-- A prefetch is placed, or skipped in segment 0, or dropped and counted. -/
theorem prefetchBeat {w : BitVec 6} (h : x.Ready i t s) :
    match (s.tile (servingTile x.key)).checkAddr (isEv x.key) (x.val 0) 1 false with
    | .ok c => runBeat i t (prefetchBody w) s = .next (x.asks s (if c.seg0 then
          { kind := .skipped, classes := 0x01, wave := w.toNat, addr := x.val 0 }
        else { kind := .prefetch, classes := 0x01, wave := w.toNat, addr := x.val 0, at_ := c }))
    | .error _ => runBeat i t (prefetchBody w) s = .next (x.asks (s.countDrop (servingTile x.key))
        { kind := .skipped, classes := 0x01, wave := w.toNat, addr := x.val 0 }) := by
  cases hc : (s.tile (servingTile x.key)).checkAddr (isEv x.key) (x.val 0) 1 false with
  | ok c => exact runBeat_asks h (by simp only [prefetchBody, hc]; split <;> rfl)
  | error c => exact runBeat_request h (by simp only [prefetchBody, hc]) rfl (.inl rfl)

end

/-- Settles O15: one lemma for every size and sign. -/
theorem loadsAtFire : Obligations.LoadsAtFire := fun _ _ _ _ _ _ => ⟨loadBeat, loadBeat, loadBeat, loadBeat, loadBeat, loadBeat⟩

/-- Settles O16: one lemma for stores, one for guarded stores, one for prefetches. -/
theorem storesAndPrefetchAtFire : Obligations.StoresAndPrefetchAtFire := fun _ _ _ _ _ _ =>
  ⟨fun h => storeBeat h rfl, fun h => storeBeat h rfl, fun h => storeBeat h rfl, fun h => storeBeat h rfl,
    guardedBeat, guardedBeat, guardedBeat, prefetchBeat⟩

/-! ## Atomics, semaphores and arrive (15 R267-R289) -/

theorem litSize_eq (lit : Word) : litSize lit = if lit.toNat / 2 ^ 9 % 2 = 1 then 8 else 4 := by
  unfold litSize
  simp only [bit_iff]

/-- A choice made on bit SIZE of the literal is one made on the size. -/
theorem size_eq_8 (p : Prop) [Decidable p] {α : Type} (a b : α) :
    (if (if p then 8 else 4) = 8 then a else b) = if p then a else b := by
  split_ifs <;> first | rfl | omega

theorem litOperand_eq (e : Elem) (lit b : Word) : litOperand e lit b =
    if lit.toNat / 2 ^ 9 % 2 = 1 then litReg e lit 16 * 2 ^ 32 + b.toNat else b.toNat := by
  unfold litOperand
  simp only [bit_iff]

theorem litCompare_eq (e : Elem) (lit : Word) : litCompare e lit =
    if lit.toNat / 2 ^ 9 % 2 = 1 then litReg e lit 20 * 2 ^ 32 + litReg e lit 12 else litReg e lit 12 := by
  unfold litCompare
  simp only [bit_iff]

theorem checkAtomic_eq (s : State) (key : Nat) (a : Word) (size : Nat) : checkAtomic s key a size =
    if a.toNat / 2 ^ 28 = 0 then .error 0x44 else (s.tile (servingTile key)).checkAddr (isEv key) a size true := by
  unfold checkAtomic
  simp only [bits_segment, segmentOf, beq_iff_eq]

section
variable {x : Beat} {i : Instr} {t : Trig} {s : State} {d : Operand} {lit : Word}

theorem amoBody_error {c : Nat} (h : checkAtomic s x.key (x.val 0) (litSize lit) = .error c) :
    amoBody d lit s x.key x.reads = { s := s, e := x.reads.e, stop := .fault c x.run.slot (x.val 0).toNat } := by
  simp only [amoBody, h]
  rfl

theorem amocBody_error {c : Nat} (h : checkAtomic s x.key (x.val 0) (litSize lit) = .error c) :
    amocBody d lit s x.key x.reads = { s := s, e := x.reads.e, stop := .fault c x.run.slot (x.val 0).toNat } := by
  simp only [amocBody, h]
  rfl

/-- The request kind of an amo. -/
def amoKind (s : State) (key : Nat) (r : Reads) (lit : Word) : ReqKind :=
  .amo (bits lit.toNat 0 4) (litSize lit) (litOperand r.e lit (r.val 1)) (litCompare r.e lit) (bits lit.toNat 10 2)
    (bits (litReg r.e lit 24) 0 16) (s.fn (loadFn s (bhOf key))).ticket.toNat

theorem amoKind_eq (s : State) (x : Beat) (lit : Word) : amoKind s x.key x.reads lit =
    let size := if lit.toNat / 2 ^ 9 % 2 = 1 then 8 else 4
    let reg (lo : Nat) : Nat := (x.reads.e.regs.getD (lit.toNat / 2 ^ lo % 16) 0).toNat
    .amo (lit.toNat % 16) size (if size = 8 then reg 16 * 2 ^ 32 + (x.val 1).toNat else (x.val 1).toNat)
      (if size = 8 then reg 20 * 2 ^ 32 + reg 12 else reg 12) (lit.toNat / 2 ^ 10 % 4) (reg 24 % 2 ^ 16)
      (s.fn (loadFn s (bhOf x.key))).ticket.toNat := by
  simp only [amoKind, litSize_eq, litOperand_eq, litCompare_eq, size_eq_8, bits_zero]
  rfl

theorem amoBody_ok {z : Checked} (h : checkAtomic s x.key (x.val 0) (litSize lit) = .ok z) :
    amoBody d lit s x.key x.reads = if lit.toNat / 2 ^ 10 % 4 = 1 then
        remoteBody s x.key x.reads d z (amoKind s x.key x.reads lit) (litReg x.reads.e lit 24 % 2 ^ 16)
      else requestBody s x.key x.reads { kind := amoKind s x.key x.reads lit, classes := 0x40, addr := x.val 0, at_ := z, dest := destOf d } := by
  simp only [amoBody, h, beq_iff_eq, amoKind, bits_zero]
  rfl

theorem remoteBody_noRank {z : Checked} {k : ReqKind} {rank : Nat} (h : gazette s (loadFn s (bhOf x.key)) rank = none) :
    remoteBody s x.key x.reads d z k rank = ticketBody s x.key x.reads.e x.reads d 0x0E 0 := by
  simp only [remoteBody, h]

theorem remoteBody_full {z : Checked} {k : ReqKind} {rank : Nat} (h : gazette s (loadFn s (bhOf x.key)) rank ≠ none)
    (hr : remoteRoom s (loadFn s (bhOf x.key)) = false) :
    remoteBody s x.key x.reads d z k rank = ticketBody s x.key x.reads.e x.reads d 0x14 0 := by
  obtain ⟨g, hg⟩ := Option.ne_none_iff_exists'.mp h
  simp only [remoteBody, hg, hr, Bool.not_false, if_true]

theorem remoteBody_issued {z : Checked} {k : ReqKind} {rank : Nat} (he : s.elem? x.key = some x.elem) (hk : k.isSemw = false)
    (h : gazette s (loadFn s (bhOf x.key)) rank ≠ none) (hr : remoteRoom s (loadFn s (bhOf x.key)) = true) :
    remoteBody s x.key x.reads d z k rank =
      let fn := loadFn s (bhOf x.key)
      let f := s.fn fn
      ticketBody (State.setFn { s with nextId := s.nextId + 1 } fn { f with
          ticket := f.ticket + 1
          remote := f.remote ++ [{ ticket := f.ticket.toNat, elem := x.key, id := s.nextId, pasid := loadPasid s (bhOf x.key) }] })
        x.key (x.withRequest s x.reads.e { kind := k, classes := 0x40, addr := x.val 0, at_ := z }) x.reads d 0
        (BitVec.ofNat 32 f.ticket.toNat) := by
  obtain ⟨g, hg⟩ := Option.ne_none_iff_exists'.mp h
  have hp := placeRequest_eq (x := x) (e := x.reads.e) (exc := x.reads.exc)
    (q := { kind := k, classes := 0x40, addr := x.val 0, at_ := z }) he (.inl hk)
  simp only [remoteBody, hg, hr, Bool.not_true, Bool.false_eq_true, if_false]
  rw [show placeRequest s x.key x.reads _ = _ from hp]
  rfl

/-- The request kind of an amoc. -/
def amocKind (r : Reads) (lit : Word) : ReqKind :=
  .amoc (bits lit.toNat 0 4) (litSize lit) (litOperand r.e lit (r.val 1)) (litCompare r.e lit) (BitVec.ofNat 32 (litReg r.e lit 28))

theorem amocKind_eq (x : Beat) (lit : Word) : amocKind x.reads lit =
    let size := if lit.toNat / 2 ^ 9 % 2 = 1 then 8 else 4
    let reg (lo : Nat) : Nat := (x.reads.e.regs.getD (lit.toNat / 2 ^ lo % 16) 0).toNat
    .amoc (lit.toNat % 16) size (if size = 8 then reg 16 * 2 ^ 32 + (x.val 1).toNat else (x.val 1).toNat)
      (if size = 8 then reg 20 * 2 ^ 32 + reg 12 else reg 12) (BitVec.ofNat 32 (reg 28)) := by
  simp only [amocKind, litSize_eq, litOperand_eq, litCompare_eq, size_eq_8, bits_zero]
  rfl

theorem amocBody_ok {z : Checked} (h : checkAtomic s x.key (x.val 0) (litSize lit) = .ok z) :
    amocBody d lit s x.key x.reads = if badDescriptor (BitVec.ofNat 32 (litReg x.reads.e lit 28)) = true then
        statusBody s x.key x.reads d 0x05
      else requestBody s x.key x.reads { kind := amocKind x.reads lit, classes := 0x40, addr := x.val 0, at_ := z, dest := destOf d } := by
  simp only [amocBody, h]
  rfl

/-- An answer at fire with the status of a remote issue. -/
theorem ticketBeat {body : Body} {s' : State} {e : Elem} {c : Nat} {v : Word} (h : x.Ready i t s)
    (hb : body s x.key x.reads = ticketBody s' x.key e x.reads d c v) (hp : sparsePorts s' x.key = sparsePorts s x.key) :
    runBeat i t body s = .next (x.ends s'
      ({ e with astat := BitVec.ofNat 8 c }.write (sparsePorts s x.key) d v (mkTag 0 x.reads.exc) false)) := by
  rw [← hp]
  exact runBeat_done h hb

end

/-- Settles O17: the two bodies by the outcome of the address check, and the remote one by the gazetteer and by room. -/
theorem atomicsAtFire : Obligations.AtomicsAtFire := by
  intro t d a b lit x s
  dsimp only
  have hc : checkAtomic s x.key (x.val 0) (litSize lit) = _ := checkAtomic_eq s x.key (x.val 0) (litSize lit)
  rw [litSize_eq] at hc
  rw [← hc, ← litSize_eq]
  refine ⟨?amo, ?remote, ?amoFault, ?amoc, ?amocBad, ?amocFault⟩
  case amo =>
    intro z h hz hp
    refine (runBeat_asks h ((amoBody_ok hz).trans (if_neg hp))).trans ?_
    rw [amoKind_eq, litSize_eq]
  case remote =>
    intro z h hz hp
    have hb := (amoBody_ok (d := d) hz).trans (if_pos hp)
    split
    · next hg => exact ticketBeat h (hb.trans (remoteBody_noRank hg)) rfl
    · next hg =>
      split
      · next hr => exact ticketBeat h (hb.trans (remoteBody_full hg hr)) rfl
      · next hr =>
        refine (ticketBeat h (hb.trans (remoteBody_issued h.1 rfl hg (Bool.eq_true_of_not_eq_false hr))) rfl).trans ?_
        rw [amoKind_eq, litSize_eq]
        rfl
  case amoFault => exact fun f h hf => runBeat_fault h (amoBody_error hf)
  case amoc =>
    intro z h hz hd
    refine (runBeat_asks h ((amocBody_ok hz).trans (if_neg (Bool.eq_false_iff.mp hd)))).trans ?_
    rw [amocKind_eq, litSize_eq]
  case amocBad => exact fun z h hz hd => runBeat_status h ((amocBody_ok hz).trans (if_pos hd))
  case amocFault => exact fun f h hf => runBeat_fault h (amocBody_error hf)

theorem semBulkhead_eq (key : Nat) (a : Word) :
    semBulkhead key a = if a.toNat / 2 ^ 14 % 2 = 1 then a.toNat / 2 ^ 10 % 16 else bhOf key := by
  unfold semBulkhead
  simp only [bit_iff]
  rfl

/-- The request kind of a semaphore operation by its two operands. -/
def semKind (wait : Bool) (key u n : Nat) : ReqKind :=
  let bh := if u / 2 ^ 14 % 2 = 1 then u / 2 ^ 10 % 16 else bhOf key
  if wait then .semw bh (u % 1024) (n % 2 ^ 24) else .sems bh (u % 1024) (n % 2 ^ 24)

theorem semBody_eq (d : Operand) (wait : Bool) (s : State) (key : Nat) (r : Reads) : semBody d wait s key r =
    if 2 ^ 15 ≤ (r.val 0).toNat ∨ 2 ^ 24 ≤ (r.val 1).toNat then statusBody s key r d 0x05
    else requestBody s key r
      { kind := semKind wait key (r.val 0).toNat (r.val 1).toNat, classes := 0x40, addr := r.val 0, dest := destOf d } := by
  have ha : (r.val 0).toNat < 2 ^ (15 + 17) := (r.val 0).isLt
  have hb : (r.val 1).toNat < 2 ^ (24 + 8) := (r.val 1).isLt
  simp only [semBody, topField_ne_zero ha, topField_ne_zero hb, Bool.or_eq_true, decide_eq_true_eq, semBulkhead_eq, bits_zero]
  rfl

section
variable {x : Beat} {i : Instr} {t : Trig} {s : State} {d : Operand}

/-- A semaphore beat is refused, or places the request of its kind. -/
theorem semBeat {wait : Bool} (h : x.Ready i t s) : runBeat i t (semBody d wait) s = .next
    (if 2 ^ 15 ≤ (x.val 0).toNat ∨ 2 ^ 24 ≤ (x.val 1).toNat then x.ends s (x.put s x.reads.e d 5 0 false)
    else x.asks s { kind := semKind wait x.key (x.val 0).toNat (x.val 1).toNat, classes := 0x40, addr := x.val 0,
                    dest := destOf d }) := by
  split
  · next hbad => exact runBeat_status h ((semBody_eq ..).trans (if_pos hbad))
  · next hbad => exact runBeat_asks h ((semBody_eq ..).trans (if_neg hbad))

end

/-- Settles O18: sems and semw share their beat but for the kind of the request. -/
theorem semaphoresAndArriveAtFire : Obligations.SemaphoresAndArriveAtFire := fun _ _ _ _ _ _ =>
  ⟨semBeat, semBeat, fun h => runBeat_asks h rfl⟩

/-! ## Fences (14 R256-R258, R264) -/

theorem fenceBody_eq (lit : Word) (s : State) (key : Nat) (r : Reads) : fenceBody lit s key r =
    { s := s, e := if BitVec.ofNat 8 lit.toNat = 0 ∨ BitVec.ofNat 8 (lit.toNat / 2 ^ 8) = 0 then r.e
        else { r.e with fence := some {
          pred := BitVec.ofNat 8 lit.toNat,
          preds := (r.e.pending.filter fun p => p.classes &&& BitVec.ofNat 8 lit.toNat != 0).map Pending.id,
          succ := BitVec.ofNat 8 (lit.toNat / 2 ^ 8), scope := lit.toNat / 2 ^ 16 % 4 } } } := by
  have hmod (n : Nat) : BitVec.ofNat 8 (n % 2 ^ 8) = BitVec.ofNat 8 n := BitVec.eq_of_toNat_eq (by simp)
  simp only [fenceBody, bits, hmod, pow_zero, Nat.div_one, Bool.or_eq_true, beq_iff_eq]
  split <;> rfl

/-- Settles O19: a fence notes its predecessors, fencel and fenceh place their requests, ifence marks the pages. -/
theorem fencesAtFire : Obligations.FencesAtFire := by
  intro t d a b lit x s
  refine ⟨fun h => runBeat_done h (fenceBody_eq ..), ?fencel, ?fenceh, fun h => runBeat_done h rfl⟩
  case fencel =>
    intro h
    have hp := placeRequest_eq (x := x) (e := x.reads.e) (exc := x.reads.exc) (q := { kind := .fencelMark }) h.1 (.inr rfl)
    exact runBeat_done h (by rw [fencelBody, show placeRequest s x.key x.reads _ = _ from hp]; rfl)
  case fenceh =>
    have ha : (x.val 0).toNat < 2 ^ (16 + 16) := (x.val 0).isLt
    exact fun h => runBeat_asks h (by rw [fencehBody, topField_ne_zero ha, bits_zero])

/-! ## Commands to engines (10 R212, 12 R219, 13 R243, 14 R252, R259) -/

theorem scmdBody_fault {target : Operand} {s : State} {key c : Nat} {r : Reads} (hf : r.e.issue.any Issue.held = false)
    (h : (s.tile (servingTile key)).checkAddr false (r.val 1) 64 false = .error c) :
    scmdBody target s key r = { s := s, e := r.e, stop := .fault c r.slot (r.val 1).toNat } := by
  simp only [scmdBody, h, hf, Bool.not_false]

/-- A descriptor that passes its check, or a beat that has held before. -/
theorem scmdBody_passes {target : Operand} {s : State} {key : Nat} {r : Reads}
    (h : (∃ c, (s.tile (servingTile key)).checkAddr false (r.val 1) 64 false = .ok c) ∨ ¬ r.e.issue.any Issue.held = false) :
    scmdBody target s key r = if (r.val 0).toNat / 2 ^ 27 % 2 = 1 ∧ r.e.pending.any Pending.seg0 = true then
        { s := s, e := r.e, stop := .hold }
      else commandBody target 0x0C s key r := by
  simp only [scmdBody, Bool.and_eq_true, bit_iff]
  split
  · next c hc hf =>
    obtain ⟨c', hok⟩ | hheld := h
    · rw [hok] at hc
      exact absurd hc (by simp)
    · exact absurd (by simpa using hf) hheld
  · rfl

theorem reads_issue (x : Beat) : x.reads.e.issue = x.elem.issue := by
  obtain ⟨_, _, _, _, _, h⟩ := Beats.readFields_frame x.key x.run.slot x.run.heddle x.run.beat x.run.n x.form.fields x.start
  refine (congrArg Elem.issue h).trans ?_
  unfold Beat.start
  split <;> rfl

/-- Settles O20: the three commands push one entry; scmd checks its descriptor and its stores first. -/
theorem engineCommandsAtFire : Obligations.EngineCommandsAtFire := by
  intro t n a b x s
  refine ⟨fun h => runBeat_done h rfl, fun h => runBeat_done h rfl, ?fault, ?passes⟩
  case fault =>
    intro c h hf hc
    exact runBeat_fault h (scmdBody_fault (by rw [reads_issue]; exact hf) hc)
  case passes =>
    intro h hp
    have hb := scmdBody_passes (target := .o n) (s := s) (key := x.key) (r := x.reads) (by rw [reads_issue]; exact hp)
    exact ⟨fun hw => runBeat_done h (hb.trans (if_neg hw)), fun hw => runBeat_hold h (hb.trans (if_pos hw))⟩

/-! ## ask, answer, setpg and spawn (17 R298, R308, R319, 03 R38) -/

theorem askBody_eq {d : Operand} {s : State} {key k : Nat} {r : Reads} {site : Site} (hk : siteOf s key r.slot = some k)
    (hs : (s.hub (bhOf key)).sites[k]? = some site) :
    askBody d s key r =
      let words := (r.e.inp.getD site.qport []).take site.q
      requestBody s key { r with e := r.e.pop site.qport site.q, exc := r.exc || words.any Token.exc }
        { kind := .ask k words (r.val 0) (((r.tok? 0).map Token.exc).getD false) (r.val 1), classes := 0x80, dest := destOf d } := by
  simp only [askBody, hk, hs]
  cases r.tok? 0 <;> rfl

theorem answerBody_eq (n : Fin 16) (s : State) (key : Nat) (r : Reads) : answerBody (.d n) s key r =
    if 2 ^ 11 ≤ (r.val 0).toNat ∨ 16 < n.val + ((r.val 0).toNat / 2 ^ 9 % 4 + 1) then
      { s := s, e := r.e, stop := .fault 0x4C ((r.val 0).toNat % 2 ^ 9) 0 }
    else requestBody s key r
      { kind := .answer (r.val 0) ((List.range ((r.val 0).toNat / 2 ^ 9 % 4 + 1)).map fun j => r.e.regs.getD (n.val + j) 0),
        classes := 0x80 } := by
  have ha : (r.val 0).toNat < 2 ^ (11 + 21) := (r.val 0).isLt
  simp only [answerBody, topField_ne_zero ha, bits_zero, Bool.or_eq_true, decide_eq_true_eq]
  rfl

/-- spawn names a kind that does not exist. -/
theorem spawnBad_eq {a : Nat} (ha : a < 2 ^ 32) : (bits a 20 12 != 0 || (bit a 12 && bits a 17 3 != 0)) =
    decide (2 ^ 20 ≤ a ∨ (decide (a / 2 ^ 12 % 2 = 1) = true ∧ a / 2 ^ 17 % 8 ≠ 0)) := by
  have ha' : a < 2 ^ (20 + 12) := ha
  rw [topField_ne_zero ha', bit_eq_decide, Bool.eq_iff_iff]
  simp only [Bool.or_eq_true, Bool.and_eq_true, decide_eq_true_eq, bne_iff_ne]
  rfl

/-- Since when the beat of a spawn has been waiting. -/
def spawnSince (s : State) (e : Elem) : Nat := match e.issue with
  | some y => if y.held then y.since else s.spine
  | none => s.spine

theorem spawnBody_eq (d : Operand) (s : State) (key : Nat) (r : Reads) : spawnBody d s key r =
    let a := (r.val 0).toNat
    let fn := loadFn s (bhOf key)
    let graph := decide (a / 2 ^ 12 % 2 = 1)
    let bad := 2 ^ 20 ≤ a ∨ (graph = true ∧ a / 2 ^ 17 % 8 ≠ 0)
    let p := s.enqueue fn (a % 2 ^ 12) (queuedCommand s fn (a % 2 ^ 12) graph (a / 2 ^ 13 % 2 ^ 7) (r.val 1) 0) .spawn key
      ((r.e.pending.filter fun p => p.isStore && p.performed).map Pending.id)
    if ¬ bad ∧ enqueueWaits s fn (a % 2 ^ 12) (spawnPlace key) (spawnSince s r.e) = true then
      { s := s, e := r.e, stop := .hold }
    else if bad then statusBody s key r d 0x05
    else { s := p.1, e := r.e.write (sparsePorts s key) d (BitVec.ofNat 32 p.2) (mkTag 0 r.exc) false } := by
  have hbad := spawnBad_eq (r.val 0).isLt
  dsimp only
  split_ifs with hw hb
  · simp only [spawnBody, hbad, hw.1, decide_false, Bool.not_false, Bool.true_and]
    exact if_pos (by rw [bits_zero]; exact hw.2)
  · simp only [spawnBody, hbad, hb, decide_true, Bool.not_true, Bool.false_and, Bool.false_eq_true, if_false, if_true]
    rfl
  · simp only [spawnBody, hbad, hb, decide_false, Bool.not_false, Bool.true_and, Bool.false_eq_true, if_false]
    rw [if_neg fun h => hw ⟨hb, by rwa [bits_zero] at h⟩, bits_zero, bit_eq_decide]
    rfl

/-- Settles O21: each body by its outcomes; spawn holds, is refused, or enqueues. -/
theorem asksAnswersPagesAndSpawnsAtFire : Obligations.AsksAnswersPagesAndSpawnsAtFire := by
  refine ⟨fun t d a b r page x s => ⟨?ask, ?answer, ?setpg⟩, fun t d a b x s => ⟨?spawnHolds, ?spawn⟩⟩
  case ask => exact fun k site h hk hs => runBeat_request h (askBody_eq hk hs) rfl (.inl rfl)
  case answer =>
    intro h _
    dsimp only
    split
    · next hbad => exact runBeat_fault h ((answerBody_eq ..).trans (if_pos hbad))
    · next hbad => exact runBeat_asks h ((answerBody_eq ..).trans (if_neg hbad))
  case setpg =>
    intro h
    exact runBeat_asks h (by simp only [setpgBody, bits_zero] <;> rfl)
  case spawnHolds => exact fun h hb hw => runBeat_hold h ((spawnBody_eq ..).trans (if_pos ⟨hb, hw⟩))
  case spawn =>
    intro h hbw
    have hb := (spawnBody_eq d s x.key x.reads).trans (if_neg fun c => hbw.elim c.1 (fun hw => hw c.2))
    dsimp only
    split
    · next hbad => exact runBeat_status h (hb.trans (if_pos hbad))
    · next hbad => exact runBeat_done h (hb.trans (if_neg hbad))

/-! ## System instructions (19 R334, R335, 21 R345) -/

section
variable {d : Operand} {s : State} {key n : Nat} {r : Reads}

theorem srdBody_hub (h : isHubIndex n = true ∧ isMgmt key = false) :
    srdBody d n s key r = requestBody s key r { kind := .hubRead n, dest := .operand d } :=
  if_pos (by rw [h.1, h.2]; rfl)

theorem swrBody_hub (h : isHubIndex n = true ∧ isMgmt key = false) :
    swrBody n s key r = requestBody s key r { kind := .hubWrite n (r.val 0) } :=
  if_pos (by rw [h.1, h.2]; rfl)

theorem not_hub (h : ¬ (isHubIndex n = true ∧ isMgmt key = false)) : ¬ (isHubIndex n && !isMgmt key) = true := by
  rwa [Bool.and_eq_true, Bool.not_eq_true']

theorem srdBody_some {v : Word} (h : ¬ (isHubIndex n = true ∧ isMgmt key = false)) (hv : readSpecial s key r.e n = some v) :
    srdBody d n s key r = { s := s, e := r.e.write (sparsePorts s key) d v (mkTag 0 r.exc) false } :=
  (if_neg (not_hub h)).trans (by rw [hv])

theorem srdBody_none (h : ¬ (isHubIndex n = true ∧ isMgmt key = false)) (hv : readSpecial s key r.e n = none) :
    srdBody d n s key r = { s := s, e := r.e, stop := .fault 0x4F r.slot 0 } :=
  (if_neg (not_hub h)).trans (by rw [hv])

theorem swrBody_some {v : Word} (h : ¬ (isHubIndex n = true ∧ isMgmt key = false)) (hv : readSpecial s key r.e n = some v) :
    swrBody n s key r = { s := (writeSpecial s key r.e n (r.val 0)).1, e := (writeSpecial s key r.e n (r.val 0)).2 } :=
  (if_neg (not_hub h)).trans (by rw [hv])

theorem swrBody_none (h : ¬ (isHubIndex n = true ∧ isMgmt key = false)) (hv : readSpecial s key r.e n = none) :
    swrBody n s key r = { s := s, e := r.e, stop := .fault 0x4F r.slot 0 } :=
  (if_neg (not_hub h)).trans (by rw [hv])

end

/-- A beat that writes a word outside the arithmetic forms, with no flag. -/
theorem put_noFlags (x : Beat) (s : State) (e : Elem) (d : Operand) (v : Word) :
    x.put s e d v 0 false = e.write (sparsePorts s x.key) d v (mkTag 0 x.reads.exc) false := by
  rw [Beat.put, orFlags_zero, show (0 : Flags).isFloat = false from rfl, Bool.or_false]

theorem doneBody_eq (x : Beat) : (if x.reads.beat + 1 == x.reads.n then { x.reads.e with done := true } else x.reads.e) =
    if x.run.beat + 1 = x.run.n then { x.reads.e with done := true } else x.reads.e :=
  if_congr beq_iff_eq rfl rfl

section
variable {s : State} {key x : Nat} {e : Elem}

/-- The page registers of an evaluator element (17 R318, R319). -/
theorem readSpecial_page (h : 0x048 ≤ x ∧ x ≤ 0x04C) : readSpecial s key e x =
    if isEv key = true then some (if x = 0x04C then BitVec.ofNat 32 e.pgstat else e.pga.getD (x - 0x048) 0) else none := by
  unfold readSpecial
  simp only [beq_iff_eq, Bool.and_eq_true, decide_eq_true_eq]
  iterate 8 refine (if_neg (by omega)).trans ?_
  by_cases hx : x = 0x04C
  · exact (if_neg (by omega)).trans ((if_pos hx).trans (by rw [if_pos hx]))
  · exact (if_pos (by omega)).trans (by rw [if_neg hx])

/-- The segment registers of an evaluator element (09 R180). -/
theorem readSpecial_segment (h : 0x062 ≤ x ∧ x ≤ 0x07F) : readSpecial s key e x =
    if isEv key = true ∧ isMgmt key = false then
      some (if x % 2 = 0 then loWord ((s.tile (servingTile key)).seg ((x - 0x060) / 2)).toNat
        else hiWord ((s.tile (servingTile key)).seg ((x - 0x060) / 2)).toNat)
    else none := by
  unfold readSpecial
  simp only [beq_iff_eq, Bool.and_eq_true, decide_eq_true_eq, Bool.not_eq_true']
  iterate 10 refine (if_neg (by omega)).trans ?_
  exact if_pos (by omega)

/-- The counters of stalls (23 R361). -/
theorem readSpecial_stall (h : 0x080 ≤ x ∧ x ≤ 0x089) :
    readSpecial s key e x = some ((s.elemCount key).stall.getD (x - 0x080) 0) := by
  unfold readSpecial
  simp only [beq_iff_eq, Bool.and_eq_true, decide_eq_true_eq]
  iterate 11 refine (if_neg (by omega)).trans ?_
  exact if_pos (by omega)

theorem readSpecial_unassigned (h : x ≠ 0x000 ∧ x ≠ 0x001 ∧ x ≠ 0x008 ∧ ¬ (0x040 ≤ x ∧ x ≤ 0x041) ∧ ¬ (0x044 ≤ x ∧ x ≤ 0x046)
    ∧ ¬ (0x048 ≤ x ∧ x ≤ 0x04C) ∧ ¬ (0x062 ≤ x ∧ x ≤ 0x08B)) : readSpecial s key e x = none := by
  unfold readSpecial
  simp only [beq_iff_eq, Bool.and_eq_true, decide_eq_true_eq]
  iterate 14 refine (if_neg (by omega)).trans ?_
  rfl

end

/-- Settles O22: the bodies of the system instructions, and the map of special registers row by row. -/
theorem systemInstructions : Obligations.SystemInstructions := by
  refine ⟨fun t d code index x s => ⟨?nop, ?trap, ?bkpt, ?done, ?srdHub, ?srd, ?srdFault, ?swrHub, ?swr, ?swrFault⟩, ?map⟩
  case nop => exact fun h => runBeat_done h rfl
  case trap => exact fun h => runBeat_fault h rfl
  case bkpt => exact fun h => runBeat_done h rfl
  case done =>
    intro h
    rw [← doneBody_eq]
    exact runBeat_done h rfl
  case srdHub => exact fun h hh => runBeat_asks h (srdBody_hub hh)
  case srd =>
    intro v h hh hv
    rw [put_noFlags]
    exact runBeat_done h (srdBody_some hh hv)
  case srdFault => exact fun h hh hv => runBeat_fault h (srdBody_none hh hv)
  case swrHub => exact fun h hh => runBeat_asks h (swrBody_hub hh)
  case swr => exact fun v h hh hv => runBeat_done h (swrBody_some hh hv)
  case swrFault => exact fun h hh hv => runBeat_fault h (swrBody_none hh hv)
  case map =>
    intro s key e x
    refine ⟨?flt, ?fltaddr, ?dbgctl, ?inbox, ?shdrop, ?astat, ?aold, ?aohi, ?pga, ?pgstat, ?noPage, ?segLow, ?segHigh, ?noSegment,
      ?stall, ?issue, ?idle, ?unassigned⟩
    case flt => rintro rfl; rfl
    case fltaddr => rintro rfl; rfl
    case dbgctl => rintro rfl; rfl
    case inbox => rintro rfl; rfl
    case shdrop => rintro rfl; rfl
    case astat => rintro rfl; rfl
    case aold => rintro rfl; rfl
    case aohi => rintro rfl; rfl
    case pga =>
      rintro n hn rfl hev
      rw [readSpecial_page (by omega), if_pos hev, if_neg (by omega), Nat.add_sub_cancel_left]
    case pgstat =>
      rintro rfl hev
      rw [readSpecial_page (by omega), if_pos hev, if_pos rfl]
    case noPage =>
      intro h1 h2 hev
      rw [readSpecial_page ⟨h1, h2⟩, if_neg hev]
    case segLow =>
      rintro n h1 h2 rfl hev hm
      rw [readSpecial_segment (by omega), if_pos ⟨hev, hm⟩, if_pos (by omega), show (0x060 + 2 * n - 0x060) / 2 = n by omega]
      rfl
    case segHigh =>
      rintro n h1 h2 rfl hev hm
      rw [readSpecial_segment (by omega), if_pos ⟨hev, hm⟩, if_neg (by omega), show (0x061 + 2 * n - 0x060) / 2 = n by omega]
      rfl
    case noSegment =>
      intro h1 h2 hev
      rw [readSpecial_segment ⟨h1, h2⟩, if_neg]
      rintro ⟨he, hm⟩
      exact hev.elim (fun h => h he) (fun h => Bool.false_ne_true (hm.symm.trans h))
    case stall =>
      rintro n hn rfl
      rw [readSpecial_stall (by omega), Nat.add_sub_cancel_left]
    case issue => rintro rfl; rfl
    case idle => rintro rfl; rfl
    case unassigned => exact fun h0 h1 h8 h40 h44 h48 h62 => readSpecial_unassigned ⟨h0, h1, h8, h40, h44, h48, h62⟩

end Sys2Proof.AtFire

/-! PROOFS of the statements on memory as data (09 R174), on words of the encoding tables (05 R70-R79), on power-on (04 R46-R53,
R65, 24 R377) and on taking an exception (19 R322, R323). -/

namespace Sys2Proof.Memory
open Sys2Proof Sys2Proof.Machine Sys2Proof.Safety Sys2Proof.Laws

/-! ## Memory is its bytes (log 3) -/

theorem tget?_append {α : Type} (t u : Tab α) (n : Nat) : tget? (t ++ u) n = (tget? t n).or (tget? u n) := by
  induction t with
  | nil => rfl
  | cons c t ih =>
    obtain ⟨k, v⟩ := c
    simp only [List.cons_append, tget?]
    split
    · rfl
    · exact ih

/-- A listed entry of a rising table is the one that its key gives. -/
theorem tget?_of_mem {α : Type} {t : Tab α} (h : t.Pairwise fun c d => c.1 < d.1) {n : Nat} {x : α} (hm : (n, x) ∈ t) :
    tget? t n = some x := by
  induction t with
  | nil => cases hm
  | cons c t ih =>
    obtain ⟨k, v⟩ := c
    obtain ⟨h1, h2⟩ := List.pairwise_cons.1 h
    rcases List.mem_cons.1 hm with heq | hm
    · cases heq
      simp [tget?]
    · have hk : k ≠ n := (h1 _ hm).ne
      simp only [tget?, hk, if_false]
      exact ih h2 hm

/-- A canonical memory lists exactly the bytes that are not 0. -/
theorem mem_iff_get {m : Mem} (h : m.wf = true) (c : Nat × Byte) : c ∈ m ↔ m.get c.1 = c.2 ∧ c.2 ≠ 0 := by
  obtain ⟨hz, hp⟩ := (Mem_wf_iff m).1 h
  constructor
  · intro hc
    exact ⟨tget_of_some (tget?_of_mem hp hc), hz c hc⟩
  · rintro ⟨hg, hc⟩
    unfold Mem.get tget at hg
    cases hx : tget? m c.1 with
    | none =>
      rw [hx] at hg
      exact absurd hg.symm hc
    | some y =>
      rw [hx] at hg
      obtain rfl : y = c.2 := hg
      exact tget?_mem hx

/-- Two rising tables with the same entries are the same. -/
theorem eq_of_mem_iff {α : Type} {t u : Tab α} (ht : t.Pairwise fun c d => c.1 < d.1) (hu : u.Pairwise fun c d => c.1 < d.1)
    (h : ∀ c, c ∈ t ↔ c ∈ u) : t = u := by
  have nodup {v : Tab α} (hv : v.Pairwise fun c d => c.1 < d.1) : v.Nodup := hv.imp fun hlt heq => absurd (heq ▸ hlt) (lt_irrefl _)
  refine List.Perm.eq_of_pairwise (fun a b _ _ hab hba => absurd hab (lt_asymm hba)) ht hu ?_
  exact (List.perm_ext_iff_of_nodup (nodup ht) (nodup hu)).2 h

theorem get_write_outside (n : Nat) : ∀ (m : Mem) (a v b : Nat), b < a ∨ a + n ≤ b → (m.write a v n).get b = m.get b := by
  induction n with
  | zero => exact fun _ _ _ _ _ => rfl
  | succ n ih =>
    intro m a v b hb
    rw [Mem.write, ih _ _ _ _ (by omega), Mem_get_set, if_neg (by omega)]

theorem get_write_inside (n : Nat) : ∀ (m : Mem) (a v j : Nat), j < n →
    (m.write a v n).get (a + j) = BitVec.ofNat 8 (v / 256 ^ j) := by
  induction n with
  | zero => exact fun _ _ _ _ h => absurd h (Nat.not_lt_zero _)
  | succ n ih =>
    intro m a v j hj
    rw [Mem.write]
    cases j with
    | zero => rw [get_write_outside n _ _ _ _ (by omega), Mem_get_set, Nat.add_zero, if_pos rfl, pow_zero, Nat.div_one]
    | succ j =>
      rw [show a + (j + 1) = a + 1 + j by omega, ih _ _ _ _ (by omega), Nat.div_div_eq_div_mul, ← pow_succ']

theorem read_of_bytes (n : Nat) : ∀ (m : Mem) (a v : Nat), (∀ j < n, m.get (a + j) = BitVec.ofNat 8 (v / 256 ^ j)) →
    m.read a n = v % 256 ^ n := by
  induction n with
  | zero => intro m a v _; rw [Mem.read, pow_zero, Nat.mod_one]
  | succ n ih =>
    intro m a v h
    have hrest : m.read (a + 1) n = v / 256 % 256 ^ n := ih m (a + 1) (v / 256) fun j hj => by
      rw [show a + 1 + j = a + (j + 1) by omega, h (j + 1) (by omega), Nat.div_div_eq_div_mul, ← pow_succ']
    have hfirst : m.get a = BitVec.ofNat 8 v := by simpa using h 0 (by omega)
    have hsplit : v % 256 ^ (n + 1) = v % 256 + 256 * (v / 256 % 256 ^ n) := by rw [pow_succ', Nat.mod_mul]
    rw [Mem.read, hrest, hfirst, BitVec.toNat_ofNat, hsplit]

theorem get_splice (m cells : Mem) (a n b : Nat) :
    (m.splice a n cells).get b = if a ≤ b ∧ b < a + n then cells.get b else m.get b := by
  have hlow := tget?_filterKey m (fun x => decide (x < a)) b
  have hmid := tget?_filterKey cells (fun x => decide (a ≤ x) && decide (x < a + n)) b
  have hhigh := tget?_filterKey m (fun x => decide (a + n ≤ x)) b
  unfold Mem.get tget Mem.splice Mem.slice
  rw [tget?_append, tget?_append, hlow, hmid, hhigh]
  by_cases h1 : b < a
  · rw [if_pos (decide_eq_true h1), if_neg (by simp; omega), if_neg (by simp; omega), if_neg (by omega), Option.or_none, Option.or_none]
  · by_cases h2 : b < a + n
    · rw [if_neg (by simp; omega), if_pos (by simp; omega), if_neg (by simp; omega), if_pos (by omega), Option.none_or, Option.or_none]
    · rw [if_neg (by simp; omega), if_neg (by simp; omega), if_pos (by simp; omega), if_neg (by omega), Option.none_or, Option.none_or]

/-- Settles O57: a canonical memory is the table of its bytes that are not 0; writes and splices by the byte. -/
theorem memoryBytes : Obligations.MemoryBytes := by
  refine ⟨fun m n hm hn h => ?_, fun m a v n => ⟨?_, get_write_outside n m a v⟩, get_splice⟩
  · exact eq_of_mem_iff ((Mem_wf_iff m).1 hm).2 ((Mem_wf_iff n).1 hn).2 fun c => by rw [mem_iff_get hm, mem_iff_get hn, h]
  · exact read_of_bytes n _ a v (get_write_inside n m a v)

/-! ## Words of the encoding tables -/

/-- Settles O51: ten fixed words. -/
theorem decodedWords : Obligations.DecodedWords := by
  unfold Obligations.DecodedWords
  decide

/-! ## Power-on -/

theorem clockRuns_reset (b : Nat) : clockRuns State.reset b = true := by
  unfold clockRuns
  split <;> rfl

/-- Settles O58: every part reads as its default, and the tables are empty. -/
theorem resetState : Obligations.ResetState := by
  refine ⟨⟨fun b => ⟨rfl, rfl, rfl, rfl, rfl, rfl, rfl, clockRuns_reset b⟩, fun p => ⟨rfl, rfl, rfl⟩, fun f => rfl, fun n => rfl, fun k n => rfl,
    rfl, rfl, rfl, rfl⟩, ?_⟩
  decide

/-! ## Taking an exception (19 R322, R323, R335) -/

/-- Where a record enters the controller: behind every record of an earlier cycle and every one of its cycle whose unit does not
stand after its own. -/
theorem insertFault_eq (r : FaultRec) (l : List FaultRec) : ∃ n, insertFault r l = l.take n ++ r :: l.drop n
    ∧ (∀ x ∈ l.take n, x.since = r.since → x.unit.rank ≤ r.unit.rank)
    ∧ (∀ x, l[n]? = some x → x.since = r.since ∧ r.unit.rank < x.unit.rank) := by
  induction l with
  | nil => exact ⟨0, rfl, by simp, by simp⟩
  | cons y l ih =>
    by_cases hy : y.since = r.since ∧ r.unit.rank < y.unit.rank
    · exact ⟨0, by simp [insertFault, hy], by simp, by simpa using hy⟩
    · obtain ⟨n, heq, hbefore, hafter⟩ := ih
      refine ⟨n + 1, ?_, ?_, by simpa using hafter⟩
      · simp [insertFault, hy, heq]
      · intro x hx hs
        rcases List.mem_cons.1 hx with rfl | hx
        · exact not_lt.1 fun hlt => hy ⟨hs, hlt⟩
        · exact hbefore x hx hs

section
variable (old : Word) (code slot detail : Nat) (imprecise : Bool)

theorem fltAfter_toNat : (fltAfter old code slot imprecise detail).toNat =
    code % 256 * 2 ^ 24 + slot % 32 * 2 ^ 19 + b2n imprecise * 2 ^ 18 + min 31 (bits old.toNat 12 5 + 1) * 2 ^ 12 + detail % 4096 := by
  have hi : b2n imprecise < 2 := by cases imprecise <;> decide
  have hc : bits old.toNat 12 5 < 32 := Nat.mod_lt _ (by decide)
  have hn : (if bits old.toNat 12 5 < 31 then bits old.toNat 12 5 + 1 else 31) = min 31 (bits old.toNat 12 5 + 1) := by
    split <;> omega
  rw [fltAfter, hn, BitVec.toNat_ofNat]
  omega

/-- The fields of FLT after a fault. -/
theorem fltAfter_fields : bits (fltAfter old code slot imprecise detail).toNat 24 8 = code % 256
    ∧ bits (fltAfter old code slot imprecise detail).toNat 19 5 = slot % 32
    ∧ (fltAfter old code slot imprecise detail).getLsbD 18 = imprecise
    ∧ bits (fltAfter old code slot imprecise detail).toNat 12 5 = min 31 (bits old.toNat 12 5 + 1)
    ∧ bits (fltAfter old code slot imprecise detail).toNat 0 12 = detail % 4096 := by
  have hi : b2n imprecise < 2 := by cases imprecise <;> decide
  have hbit : (fltAfter old code slot imprecise detail).getLsbD 18 = decide (b2n imprecise = 1) := by
    rw [BitVec.getLsbD, Nat.testBit_eq_decide_div_mod_eq, fltAfter_toNat]
    exact decide_eq_decide.2 (by omega)
  refine ⟨?_, ?_, hbit.trans (by cases imprecise <;> rfl), ?_, ?_⟩ <;> rw [fltAfter_toNat, bits] <;> omega

end

theorem elemRuns_stopped (s : State) (key : Nat) {e : Elem} (h : e.stopped = true) : elemRuns s key e = false := by
  simp [elemRuns, h]

/-- Settles O55: the registers of the element, the place of the record, and the frame of the two changes. -/
theorem takingAnException : Obligations.TakingAnException := by
  intro s key slot code detail addr imprecise e he
  refine ⟨fun hk => ?_, fun hk => by simp only [State.raiseElem, he, hk, if_true]⟩
  obtain ⟨hcode, hslot, himp, hcount, hdetail⟩ := fltAfter_fields e.flt code slot detail imprecise
  simp only [State.raiseElem, he, hk, Bool.false_eq_true, if_false]
  refine ⟨e.afterFault code slot imprecise detail addr, setElem_elem? s key _, elemRuns_stopped _ _ rfl, hcode, hslot, himp, hcount,
    hdetail, rfl, rfl, ?_, fun k hne => setElem_elem?_ne s _ hne, rfl, rfl, rfl⟩
  unfold State.postFault
  rw [modBh_bh]
  obtain ⟨n, heq, hbefore, hafter⟩ := insertFault_eq _ _
  exact ⟨n, _, heq, hbefore, hafter, rfl, rfl, rfl, rfl, rfl, rfl, rfl⟩

end Sys2Proof.Memory

/-! PROOFS that the operations over the state keep the two invariants (09 R174, log 3; 09 R176, 04 R56, R61, 24 R377). One `Kind`
stands for either, so that each operation is treated once: by an equivalence where it touches nothing that the invariants speak of,
and by an implication where it changes bytes or a set-up register. -/

namespace Sys2Proof.Kept
open Sys2Proof Sys2Proof.Machine Sys2Proof.Safety Sys2Proof.Laws

/-- The two invariants. -/
inductive Kind
  | memory
  | setUp

/-- What an invariant says of a state. -/
def Kind.Holds : Kind → State → Prop
  | .memory, s => Canonical s
  | .setUp, s => SetUp s

/-- What the invariant says of what a meaning answers. -/
def Kind.Answers (v : Kind) : Out → Prop
  | .next t => v.Holds t
  | _ => True

variable {v : Kind}

@[simp] theorem answers_next (t : State) : v.Answers (.next t) ↔ v.Holds t := Iff.rfl
@[simp] theorem answers_fault (f : Fault) : v.Answers (.fault f) := trivial
@[simp] theorem answers_refused (r : Refusal) : v.Answers (.refused r) := trivial

/-- An invariant sees of a state only its bytes and its set-up registers. -/
theorem Kind.Holds.of_eq {s t : State} (h : v.Holds s) (hm : t.mem = s.mem := by rfl) (hs : t.slices = s.slices := by rfl)
    (ht : t.tiles = s.tiles := by rfl) (hc : t.contexts = s.contexts := by rfl) (hx : t.cxlmap = s.cxlmap := by rfl)
    (hg : t.gazetteer = s.gazetteer := by rfl) (ho : t.ovns = s.ovns := by rfl) (he : t.sec = s.sec := by rfl)
    (hq : t.mgmt = s.mgmt := by rfl) : v.Holds t := by
  cases v with
  | memory =>
    change Canonical t
    unfold Canonical
    rw [hm, hs, ht, hc]
    exact h
  | setUp =>
    change SetUp t
    unfold SetUp
    rw [hx, hg, ho, he, hq]
    exact h

theorem Kind.holds_congr {s t : State} (hm : t.mem = s.mem := by rfl) (hs : t.slices = s.slices := by rfl)
    (ht : t.tiles = s.tiles := by rfl) (hc : t.contexts = s.contexts := by rfl) (hx : t.cxlmap = s.cxlmap := by rfl)
    (hg : t.gazetteer = s.gazetteer := by rfl) (ho : t.ovns = s.ovns := by rfl) (he : t.sec = s.sec := by rfl)
    (hq : t.mgmt = s.mgmt := by rfl) : v.Holds t ↔ v.Holds s :=
  ⟨fun h => h.of_eq hm.symm hs.symm ht.symm hc.symm hx.symm hg.symm ho.symm he.symm hq.symm, fun h => h.of_eq hm hs ht hc hx hg ho he hq⟩

/-- From the two invariants by themselves. -/
theorem Kind.Holds.of_both {s t : State} (h : v.Holds s) (hm : Canonical s → Canonical t) (hu : SetUp s → SetUp t) : v.Holds t := by
  cases v with
  | memory => exact hm h
  | setUp => exact hu h

/-- A change that leaves the set-up registers. -/
theorem Kind.Holds.of_canonical {s t : State} (h : v.Holds s) (hm : Canonical s → Canonical t) (hx : t.cxlmap = s.cxlmap := by rfl)
    (hg : t.gazetteer = s.gazetteer := by rfl) (ho : t.ovns = s.ovns := by rfl) (he : t.sec = s.sec := by rfl)
    (hq : t.mgmt = s.mgmt := by rfl) : v.Holds t := by
  refine h.of_both hm fun hu => ?_
  unfold SetUp
  rw [hx, hg, ho, he, hq]
  exact hu

/-! ## Fields that the invariants do not see -/

/-- A change of fields that the invariants do not see. -/
@[simp] theorem holds_update (s : State)
    (agenda : List Turn) (asking : Option (List Answer × Option Access)) (fresh : Nat) (focus : Focus) (cycle : Nat)
    (nextId : Nat) (poison : List Nat) (softC : List Nat) (softU : List Nat) (elems : Tab Elem) (islands : Tab Island)
    (streamers : Tab Streamer) (hubs : Tab Hub) (bhs : Tab Bulkhead) (fns : Tab Function) (queues : Tab HwQueue)
    (pools : Tab SharedPool) (engineCounts : Tab Counters) (elemCounts : Tab Counters) (zeroed : Tab Nat) (drops : Tab
    (List DropRec)) (dropcnt : Tab Nat) (works : Tab Work) (packets : List Packet) (s2sdaddr : Nat) (s2sdctl : Word)
    (s2busy : Bool) (s2err : Bool) (s2wait : List Translated) (s2lines : List (Nat × Nat)) (frzspine : Bool) (frzmask
    : BitVec 16) (spineFrozen : Bool) (cxl : BitVec 2) (doe : Bool) (isl : BitVec 3) (ualrdy : BitVec 16) (firmware :
    Nat) (keydg : Tab (List Byte)) (spdm : List (Nat × List Byte)) (sent : List SentReq) (replied : List PeerReply)
    (spineErrors : List (Nat × Word)) :
    v.Holds { s with
        agenda := agenda, asking := asking, fresh := fresh, focus := focus, cycle := cycle, nextId := nextId, poison
        := poison, softC := softC, softU := softU, elems := elems, islands := islands, streamers :=
        streamers, hubs := hubs, bhs := bhs, fns := fns, queues := queues, pools := pools, engineCounts :=
        engineCounts, elemCounts := elemCounts, zeroed := zeroed, drops := drops, dropcnt := dropcnt, works
        := works, packets := packets, s2sdaddr := s2sdaddr, s2sdctl := s2sdctl, s2busy := s2busy, s2err :=
        s2err, s2wait := s2wait, s2lines := s2lines, frzspine := frzspine, frzmask := frzmask, spineFrozen
        := spineFrozen, cxl := cxl, doe := doe, isl := isl, ualrdy := ualrdy, firmware := firmware, keydg :=
        keydg, spdm := spdm, sent := sent, replied := replied, spineErrors := spineErrors }
      ↔ v.Holds s := Kind.holds_congr

@[simp] theorem holds_takeFree (s : State) : v.Holds s.takeFree.2 ↔ v.Holds s := Kind.holds_congr
@[simp] theorem holds_newId (s : State) : v.Holds s.newId.2 ↔ v.Holds s := Kind.holds_congr

/-! ## The parts of the device by key -/

section
variable (s : State) (k : Nat)

@[simp] theorem holds_setElem (e : Elem) : v.Holds (s.setElem k e) ↔ v.Holds s := Kind.holds_congr
@[simp] theorem holds_setIsland (x : Island) : v.Holds (s.setIsland k x) ↔ v.Holds s := Kind.holds_congr
@[simp] theorem holds_setStreamer (x : Streamer) : v.Holds (s.setStreamer k x) ↔ v.Holds s := Kind.holds_congr
@[simp] theorem holds_setHub (x : Hub) : v.Holds (s.setHub k x) ↔ v.Holds s := Kind.holds_congr
@[simp] theorem holds_setBh (x : Bulkhead) : v.Holds (s.setBh k x) ↔ v.Holds s := Kind.holds_congr
@[simp] theorem holds_setFn (x : Function) : v.Holds (s.setFn k x) ↔ v.Holds s := Kind.holds_congr
@[simp] theorem holds_setQueue (x : HwQueue) : v.Holds (s.setQueue k x) ↔ v.Holds s := Kind.holds_congr
@[simp] theorem holds_setPool (x : SharedPool) : v.Holds (s.setPool k x) ↔ v.Holds s := Kind.holds_congr
@[simp] theorem holds_modElem (f : Elem → Elem) : v.Holds (s.modElem k f) ↔ v.Holds s := by
  unfold State.modElem
  split <;> simp
@[simp] theorem holds_modIsland (f : Island → Island) : v.Holds (s.modIsland k f) ↔ v.Holds s := Kind.holds_congr
@[simp] theorem holds_modStreamer (f : Streamer → Streamer) : v.Holds (s.modStreamer k f) ↔ v.Holds s := Kind.holds_congr
@[simp] theorem holds_modHub (f : Hub → Hub) : v.Holds (s.modHub k f) ↔ v.Holds s := Kind.holds_congr
@[simp] theorem holds_modBh (f : Bulkhead → Bulkhead) : v.Holds (s.modBh k f) ↔ v.Holds s := Kind.holds_congr
@[simp] theorem holds_modFn (f : Function → Function) : v.Holds (s.modFn k f) ↔ v.Holds s := Kind.holds_congr
@[simp] theorem holds_modQueue (f : HwQueue → HwQueue) : v.Holds (s.modQueue k f) ↔ v.Holds s := Kind.holds_congr
@[simp] theorem holds_modPool (f : SharedPool → SharedPool) : v.Holds (s.modPool k f) ↔ v.Holds s := Kind.holds_congr
@[simp] theorem holds_mapElems (f : Nat → Elem → Elem) : v.Holds (s.mapElems k f) ↔ v.Holds s := Kind.holds_congr
@[simp] theorem holds_modEngineCount (f : Counters → Counters) : v.Holds (s.modEngineCount k f) ↔ v.Holds s := Kind.holds_congr
@[simp] theorem holds_modElemCount (f : Counters → Counters) : v.Holds (s.modElemCount k f) ↔ v.Holds s := Kind.holds_congr
@[simp] theorem holds_countIssue : v.Holds (s.countIssue k) ↔ v.Holds s := Kind.holds_congr
@[simp] theorem holds_countFire (n b : Nat) : v.Holds (s.countFire k n b) ↔ v.Holds s := Kind.holds_congr
@[simp] theorem holds_raiseMsi (n : Nat) : v.Holds (s.raiseMsi k n) ↔ v.Holds s := Kind.holds_congr
@[simp] theorem holds_trace (n i u : Nat) (x y : Word) : v.Holds (s.trace k n i u x y) ↔ v.Holds s := Kind.holds_congr
@[simp] theorem holds_postFault (r : FaultRec) : v.Holds (s.postFault k r) ↔ v.Holds s := Kind.holds_congr
@[simp] theorem holds_haltElem (c n : Nat) (d : Word) (w : Nat) : v.Holds (s.haltElem k c n d w) ↔ v.Holds s := by
  simp [State.haltElem]
@[simp] theorem holds_raiseElem (n c : Nat) (m : Bool) (d a : Nat) : v.Holds (s.raiseElem k n c m d a) ↔ v.Holds s := by
  unfold State.raiseElem
  split
  · rfl
  · split <;> simp
@[simp] theorem holds_raiseEngine (i : Nat) (l : Level) (c d a : Nat) (m : Bool) : v.Holds (s.raiseEngine k i l c d a m) ↔ v.Holds s := by
  unfold State.raiseEngine
  split <;> simp

end

/-! ## Tiles and slices, whose bytes memory's form speaks of -/

/-- Putting an entry in a table whose property the old one, or every new one, has. -/
theorem forall_tset_iff {α : Type} {P : Nat × α → Prop} {k : Nat} {x : α} (t : Tab α)
    (hx : (∀ p ∈ t, P p) → P (k, x)) (hold : P (k, x) → ∀ y, tget? t k = some y → P (k, y)) :
    (∀ p ∈ tset t k x, P p) ↔ ∀ p ∈ t, P p := by
  refine ⟨fun h => ?_, fun h => forall_tset h (hx h)⟩
  have hnew : P (k, x) := h _ (tget?_mem (tget?_tset t k x))
  replace hold := hold hnew
  clear hx
  induction t with
  | nil => intro p hp; cases hp
  | cons c t ih =>
    obtain ⟨n, y⟩ := c
    intro p hp
    simp only [tset] at h
    simp only [tget?] at hold
    split at h
    · next hn =>
      rcases List.mem_cons.1 hp with rfl | hp
      · rw [hn]
        exact hold y (if_pos hn)
      · exact h p (List.mem_cons_of_mem _ hp)
    · next hn =>
      split at h
      · exact h p (List.mem_cons_of_mem _ hp)
      · rcases List.mem_cons.1 hp with rfl | hp
        · exact h _ (List.mem_cons_self ..)
        · exact ih (fun q hq => h q (List.mem_cons_of_mem _ hq)) (fun z hz => hold z (by rw [if_neg hn]; exact hz)) p hp

theorem holds_setTile_iff (s : State) (k : Nat) (t : Tile) (ht : t.scratch = (s.tile k).scratch) :
    v.Holds (s.setTile k t) ↔ v.Holds s := by
  cases v with
  | memory =>
    have h := forall_tset_iff (P := fun p : Nat × Tile => p.2.scratch.wf = true) (k := k) (x := t) s.tiles
      (fun h => by
        dsimp only
        rw [ht]
        exact tget_prop (P := fun t : Tile => t.scratch.wf = true) h rfl k)
      (fun h y hy => by
        dsimp only at h ⊢
        rw [ht] at h
        rwa [show s.tile k = y from tget_of_some hy] at h)
    change Canonical (s.setTile k t) ↔ Canonical s
    unfold Canonical State.setTile
    dsimp only
    rw [h]
  | setUp => exact Iff.rfl

/-- A change of a tile that leaves its scratchpad. -/
@[simp] theorem holds_modTile (s : State) (k : Nat) (f : Tile → Tile) (hf : (f (s.tile k)).scratch = (s.tile k).scratch) :
    v.Holds (s.modTile k f) ↔ v.Holds s := holds_setTile_iff s k _ hf

theorem holds_setSlice_iff (s : State) (k : Nat) (x : Slice) (hx : x.cache = (s.slice k).cache) :
    v.Holds (s.setSlice k x) ↔ v.Holds s := by
  cases v with
  | memory =>
    have hwf {y z : Slice} (h : y.cache = z.cache) : SliceWf y ↔ SliceWf z := by
      unfold SliceWf
      rw [h]
    have h := forall_tset_iff (P := fun p : Nat × Slice => SliceWf p.2) (k := k) (x := x) s.slices
      (fun h => (hwf hx).2 (tget_prop (P := SliceWf) h ⟨by intro l hl; simp at hl, by simp⟩ k))
      (fun h y hy => by
        have := (hwf hx).1 h
        rwa [show s.slice k = y from tget_of_some hy] at this)
    change Canonical (s.setSlice k x) ↔ Canonical s
    unfold Canonical State.setSlice
    dsimp only
    exact and_congr_right fun _ => and_congr_left fun _ => h
  | setUp => exact Iff.rfl

/-- A change of a slice that leaves its cache. -/
@[simp] theorem holds_modSlice (s : State) (k : Nat) (f : Slice → Slice) (hf : (f (s.slice k)).cache = (s.slice k).cache) :
    v.Holds (s.modSlice k f) ↔ v.Holds s := holds_setSlice_iff s k _ hf

/-! ## Device memory and the last-level cache (09 R183, R184) -/

/-- A change of bytes, by what it does to either invariant. -/
theorem Kind.Holds.of_bytes {s t : State} (h : v.Holds s) (hm : Canonical s → Canonical t)
    (hu : Kind.setUp.Holds t ↔ Kind.setUp.Holds s) : v.Holds t := h.of_both hm hu.2

section
variable (s : State)

@[simp] theorem setUp_setTile (k : Nat) (t : Tile) : Kind.setUp.Holds (s.setTile k t) ↔ Kind.setUp.Holds s := Iff.rfl
@[simp] theorem setUp_modTile (k : Nat) (f : Tile → Tile) : Kind.setUp.Holds (s.modTile k f) ↔ Kind.setUp.Holds s := Iff.rfl
@[simp] theorem setUp_setSlice (k : Nat) (x : Slice) : Kind.setUp.Holds (s.setSlice k x) ↔ Kind.setUp.Holds s := Iff.rfl
@[simp] theorem setUp_modSlice (k : Nat) (f : Slice → Slice) : Kind.setUp.Holds (s.modSlice k f) ↔ Kind.setUp.Holds s := Iff.rfl
@[simp] theorem setUp_mapTiles (b : Nat) (f : Nat → Tile → Tile) : Kind.setUp.Holds (s.mapTiles b f) ↔ Kind.setUp.Holds s := Iff.rfl
@[simp] theorem setUp_writeBack (l : CacheLine) : Kind.setUp.Holds (s.writeBack l) ↔ Kind.setUp.Holds s := Iff.rfl

@[simp] theorem setUp_makeRoom (k line : Nat) : Kind.setUp.Holds (s.makeRoom k line) ↔ Kind.setUp.Holds s := by
  unfold State.makeRoom
  dsimp only
  split
  · rfl
  · split
    · rfl
    · split <;> rfl

@[simp] theorem setUp_putLine (x : Home) (l : CacheLine) : Kind.setUp.Holds (s.putLine x l) ↔ Kind.setUp.Holds s := by
  unfold State.putLine
  dsimp only
  split
  · rfl
  · split <;> rfl

@[simp] theorem setUp_fetchLine (x : Home) (cls reads : Nat) :
    Kind.setUp.Holds (s.fetchLine x cls reads).1 ↔ Kind.setUp.Holds s := by
  unfold State.fetchLine
  dsimp only
  split
  · rfl
  · exact setUp_makeRoom ..

@[simp] theorem holds_meetErrors (b : Nat) (gs : List Nat) : v.Holds (s.meetErrors b gs).1 ↔ v.Holds s := by
  unfold State.meetErrors
  dsimp only
  split <;> simp

@[simp] theorem setUp_homeRead (x : Home) (n cls reads : Nat) (c : Bool) :
    Kind.setUp.Holds (s.homeRead x n cls reads c).s ↔ Kind.setUp.Holds s := by
  simp [State.homeRead]

@[simp] theorem setUp_homeWrite (x : Home) (a n cls reads : Nat) (p : Bool) (o : Option Source) (w : Bool) :
    Kind.setUp.Holds (s.homeWrite x a n cls reads p o w) ↔ Kind.setUp.Holds s := by
  simp [State.homeWrite]

end

section
variable {s : State}

@[simp] theorem holds_homeRead (h : v.Holds s) (x : Home) (n cls reads : Nat) (c : Bool) : v.Holds (s.homeRead x n cls reads c).s :=
  h.of_bytes (fun h => canonical_homeRead h ..) (setUp_homeRead ..)

@[simp] theorem holds_homeWrite (h : v.Holds s) (x : Home) (a n cls reads : Nat) (p : Bool) (o : Option Source) (w : Bool) :
    v.Holds (s.homeWrite x a n cls reads p o w) :=
  h.of_bytes (fun h => canonical_homeWrite h ..) (setUp_homeWrite ..)

@[simp] theorem holds_makeRoom (h : v.Holds s) (k line : Nat) : v.Holds (s.makeRoom k line) :=
  h.of_bytes (fun h => canonical_makeRoom h ..) (setUp_makeRoom ..)

@[simp] theorem holds_dropLines (h : v.Holds s) (k : Nat) (p : CacheLine → Bool) :
    v.Holds (s.modSlice k fun x => { x with cache := x.cache.filter p }) :=
  h.of_bytes (fun h => canonical_dropLines h ..) (setUp_modSlice ..)

end

/-! ## Gates, translation and windows (04 R46, R58, R64, 09 R168-R173) -/

/-- What a call that gives a state and an answer gives, from what it gives as a projection. -/
theorem holds_of_eq {α : Type} {x : State × α} {s : State} {a : α} (e : x = (s, a)) (h : v.Holds x.1) : v.Holds s := by
  rwa [e] at h

section
variable (s : State)

@[simp] theorem holds_dropPacket (die : Nat) (x y : BitVec 16) (n : Nat) : v.Holds (s.dropPacket die x y n) ↔ v.Holds s := by
  unfold State.dropPacket
  dsimp only
  split <;> simp [State.takeFree]

@[simp] theorem holds_sendKey (f g b : Nat) (k : BitVec 16) (w : Bool) : v.Holds (s.sendKey f g b k w).1 ↔ v.Holds s := by
  unfold State.sendKey
  dsimp only
  split
  · simp
  · split <;> simp

@[simp] theorem holds_gate (f g b : Nat) (w : Bool) : v.Holds (s.gate f g b w).1 ↔ v.Holds s := by
  unfold State.gate
  repeat' split
  all_goals simp

@[simp] theorem holds_reach (b f a : Nat) : v.Holds (s.reach b f a).1 ↔ v.Holds s := by
  unfold State.reach
  split
  · rfl
  · next x _ =>
    split
    · rfl
    · have := holds_gate (v := v) s b f x.bh true
      split <;> (rename_i e; simpa only [e] using this)

@[simp] theorem holds_countMismatch (o : TlbOf) (l : Leaf) : v.Holds (s.countMismatch o l) ↔ v.Holds s := by
  unfold State.countMismatch
  dsimp only
  split
  · rfl
  · split <;> simp

@[simp] theorem holds_install2 (b : Nat) (t : TlbEntry) : v.Holds (s.install2 b t) ↔ v.Holds s := by simp [State.install2]

@[simp] theorem holds_setTlb (o : TlbOf) (l : List TlbEntry) : v.Holds (s.setTlb o l) ↔ v.Holds s := by
  unfold State.setTlb
  split <;> simp

@[simp] theorem holds_scrub (o : TlbOf) (b f : Nat) (p : Option Nat) (a : Nat) : v.Holds (s.scrub o b f p a) ↔ v.Holds s := by
  unfold State.scrub
  dsimp only
  split <;> simp

@[simp] theorem holds_mendWalkers (b : Nat) : v.Holds (s.mendWalkers b) ↔ v.Holds s := by
  unfold State.mendWalkers
  split <;> simp

@[simp] theorem holds_drop2 (b f p a : Nat) : v.Holds (s.drop2 b f p a) ↔ v.Holds s := by simp [State.drop2]
@[simp] theorem holds_countDrop (k : Nat) : v.Holds (s.countDrop k) ↔ v.Holds s := by simp [State.countDrop]

end

section
variable {s : State}

theorem holds_walkRead (h : v.Holds s) (b f a : Nat) : v.Holds (s.walkRead b f a).1 := by
  have hr := (holds_reach (v := v) s b f a).2 h
  unfold State.walkRead
  split
  · next e => exact holds_of_eq e hr
  · next s' x e =>
    have hs' : v.Holds s' := holds_of_eq e hr
    exact holds_homeRead (by simpa using hs') ..

/-- A way of reading table entries keeps the invariants. -/
def ReaderHolds (v : Kind) (rd : EntryReader) : Prop := ∀ s a, v.Holds s → v.Holds (rd s a).1

theorem holds_readGroup {rd : EntryReader} (hr : ReaderHolds v rd) (table : Nat) (is : List Nat) :
    ∀ {s : State}, v.Holds s → v.Holds (readGroup rd table s is).1 := by
  induction is with
  | nil => exact fun h => h
  | cons i is ih =>
    intro s h
    have h1 := hr s (table + 8 * i) h
    unfold readGroup
    split
    · next e => exact holds_of_eq e h1
    · next s' _ e =>
      have h2 := ih (holds_of_eq e h1)
      split <;> (rename_i e'; exact holds_of_eq e' h2)

theorem holds_walkFrom {rd : EntryReader} (hr : ReaderHolds v rd) (bad input level : Nat) :
    ∀ {s : State} (table : Nat), v.Holds s → v.Holds (walkFrom rd bad input level s table).1 := by
  induction level with
  | zero =>
    intro s table h
    unfold walkFrom
    dsimp only
    generalize (if (0 == 4) = true then bits input 48 9 else bits input (12 + 9 * 0) 9) = idx
    have h1 := hr s (table + 8 * idx) h
    split
    · next e => exact holds_of_eq e h1
    · next s' x e =>
      have h2 : v.Holds s' := holds_of_eq e h1
      split
      · exact h2
      · split
        · exact h2
        · split
          · have h3 := holds_readGroup hr table ((List.range 16).map (· + idx / 16 * 16)) h2
            split
            · next e' => exact holds_of_eq e' h3
            · next e' => split <;> exact holds_of_eq e' h3
          · exact h2
  | succ l ih =>
    intro s table h
    unfold walkFrom
    dsimp only
    generalize (if (l + 1 == 4) = true then bits input 48 9 else bits input (12 + 9 * (l + 1)) 9) = idx
    have h1 := hr s (table + 8 * idx) h
    split
    · next e => exact holds_of_eq e h1
    · next s' x e =>
      have h2 : v.Holds s' := holds_of_eq e h1
      split
      · exact h2
      · split
        · exact ih _ h2
        · split
          · have h3 := holds_readGroup hr table ((List.range 16).map (· + idx / 16 * 16)) h2
            split
            · next e' => exact holds_of_eq e' h3
            · next e' => split <;> exact holds_of_eq e' h3
          · exact h2

theorem holds_stage2 (h : v.Holds s) (o : TlbOf) (b f a : Nat) : v.Holds (s.stage2 o b f a).1 := by
  have h0 : v.Holds (s.scrub o b f none a) := by simpa using h
  unfold State.stage2
  dsimp only
  split
  · exact h0
  · have h1 := holds_walkFrom (rd := fun s pa => s.walkRead b f pa) (fun s a h => holds_walkRead h b f a) 0x41 a 4
      ((s.scrub o b f none a).fn f).s2root h0
    split
    · next e => exact holds_of_eq e h1
    · next s' l e =>
      have h2 : v.Holds s' := holds_of_eq e h1
      simpa using h2

theorem holds_read1 (h : v.Holds s) (o : TlbOf) (b f a : Nat) : v.Holds (s.read1 o b f a).1 := by
  have h1 := holds_stage2 h o b f a
  unfold State.read1
  split
  · next e => exact holds_of_eq e h1
  · next s' l e =>
    have h2 : v.Holds s' := holds_of_eq e h1
    split
    · exact h2
    · exact holds_walkRead h2 ..

theorem holds_processRoot (h : v.Holds s) (o : TlbOf) (b f p : Nat) : v.Holds (s.processRoot o b f p).1 := by
  unfold State.processRoot
  dsimp only
  split
  · exact h
  · have h1 := holds_read1 h o b f ((s.fn f).pctx + 16 * p)
    split
    · next e => exact holds_of_eq e h1
    · next s' w e =>
      have h2 := holds_read1 (holds_of_eq e h1) o b f ((s.fn f).pctx + 16 * p + 8)
      split
      · next e' => exact holds_of_eq e' h2
      · next e' => split <;> exact holds_of_eq e' h2

theorem holds_walk (h : v.Holds s) (o : TlbOf) (b f p a : Nat) : v.Holds (s.walk o b f p a).1 := by
  have h1 := holds_processRoot ((holds_mendWalkers s b).2 h) o b f p
  unfold State.walk
  split
  · next e => exact holds_of_eq e h1
  · next s' root e =>
    have h2 := holds_walkFrom (rd := fun s ipa => s.read1 o b f ipa) (fun s a h => holds_read1 h o b f a) 0x40 a 4 root (holds_of_eq e h1)
    split
    · next e' => exact holds_of_eq e' h2
    · next s'' l e' =>
      have h3 := holds_stage2 ((holds_countMismatch s'' o l).2 (holds_of_eq e' h2)) o b f (l.base + a % 2 ^ l.log2)
      dsimp only
      split <;> (rename_i e''; exact holds_of_eq e'' h3)

theorem holds_lookup (h : v.Holds s) (o : TlbOf) (b f p a : Nat) : v.Holds (s.lookup o b f p a).1 := by
  unfold State.lookup
  dsimp only
  have h0 : v.Holds ((if firstParity s o f p (a % 2 ^ 57) then s.drop2 b f p (a % 2 ^ 57) else s).scrub o b f (some p) (a % 2 ^ 57)) := by
    split <;> simpa using h
  split
  · simpa using h0
  · split
    · simpa using h0
    · have h1 := holds_walk h0 o b f p (a % 2 ^ 57)
      split
      · next e => exact holds_of_eq e h1
      · next s' t e =>
        have h2 : v.Holds s' := holds_of_eq e h1
        simpa using h2

theorem holds_translate (h : v.Holds s) (o : TlbOf) (b f p a : Nat) (n : Need) : v.Holds (s.translate o b f p a n).1 := by
  have h1 := holds_lookup h o b f p a
  unfold State.translate
  split
  · exact h
  · split
    · exact h
    · split
      · next e => exact holds_of_eq e h1
      · next e => split <;> exact holds_of_eq e h1

theorem holds_resolveWindow (h : v.Holds s) (b f a : Nat) (n : Need) (w : Window) : v.Holds (s.resolveWindow b f a n w).1 := by
  have hg := (holds_gate (v := v) s b f w.imp.expBh true).2 h
  unfold State.resolveWindow
  dsimp only
  split_ifs
  · exact h
  · exact h
  · exact h
  · exact h
  · split
    · next s' e =>
      have h1 := holds_translate (holds_of_eq e hg) .none w.imp.expBh ((holder s' w.imp.expBh).getD 0)
        (((s'.bh w.imp.expBh).load.map Load.pasid).getD 0) (segVa (s.window w.imp.expBh w.imp.expWin).exp.base (a % 2 ^ 57 - w.imp.base)) n
      split
      · next s'' c e' =>
        have h2 : v.Holds s'' := holds_of_eq e' h1
        simpa using h2
      · next s'' pa e' =>
        have h2 : v.Holds s'' := holds_of_eq e' h1
        split
        · exact h2
        · next x _ =>
          split
          · exact h2
          · have h3 : v.Holds (if x.bh == w.imp.expBh then (s'', 0) else s''.gate b f x.bh).1 := by
              split <;> simpa using h2
            split <;> (rename_i e''; exact holds_of_eq e'' h3)
    · next e => exact holds_of_eq e hg

theorem holds_resolve (h : v.Holds s) (o : TlbOf) (b f p a : Nat) (n : Need) : v.Holds (s.resolve o b f p a n).1 := by
  unfold State.resolve
  split
  · exact holds_resolveWindow h ..
  · have h1 := holds_translate h o b f p a n
    split
    · next e => exact holds_of_eq e h1
    · next s' pa e => exact (holds_reach s' b f pa).2 (holds_of_eq e h1)

theorem holds_engineRead (h : v.Holds s) (o : TlbOf) (b a n cls reads : Nat) : v.Holds (s.engineRead o b a n cls reads).s := by
  have h1 := holds_resolve h o b (loadFn s b) (loadPasid s b) a .read
  unfold State.engineRead
  split
  · next e => exact holds_of_eq e h1
  · next e =>
    dsimp only
    split <;> exact holds_homeRead (holds_of_eq e h1) ..

theorem holds_engineWrite (h : v.Holds s) (o : TlbOf) (b a x n cls reads : Nat) (p : Bool) :
    v.Holds (s.engineWrite o b a x n cls reads p).s := by
  have h1 := holds_resolve h o b (loadFn s b) (loadPasid s b) a .write
  unfold State.engineWrite
  split
  · next e => exact holds_of_eq e h1
  · next e =>
    split
    · exact holds_of_eq e h1
    · dsimp only
      exact holds_homeWrite (holds_of_eq e h1) ..

theorem holds_readLines (b f p : Nat) (n : Need) (fuel : Nat) :
    ∀ {s : State} (a k : Nat), v.Holds s → v.Holds (s.readLines b f p n fuel a k).1 := by
  induction fuel with
  | zero => exact fun _ _ h => h
  | succ fuel ih =>
    intro s a k h
    have h1 := holds_resolve h .none b f p a n
    unfold State.readLines
    split
    · exact h
    · split
      · next e => exact holds_of_eq e h1
      · next s' x via e =>
        have h2 : v.Holds s' := holds_of_eq e h1
        have h3 := holds_homeRead ((holds_countIssue s' (sliceEngine x.key)).2 h2) x (min k (256 - x.pa % 256)) 0 15 true
        have h4 := ih (a + min k (256 - x.pa % 256)) (k - min k (256 - x.pa % 256)) h3
        dsimp only
        split
        · exact h3
        · split <;> (rename_i e'; exact holds_of_eq e' h4)

@[simp] theorem holds_readBytes (h : v.Holds s) (b f p a : Nat) (n : Need) (k : Nat) : v.Holds (s.readBytes b f p a n k).1 :=
  holds_readLines b f p n _ a k h

theorem holds_writeLines (b f p : Nat) (fuel : Nat) :
    ∀ {s : State} (a : Nat) (l : List Byte), v.Holds s → v.Holds (s.writeLines b f p fuel a l).1 := by
  induction fuel with
  | zero => exact fun _ _ h => h
  | succ fuel ih =>
    intro s a l h
    have h1 := holds_resolve h .none b f p a .write
    unfold State.writeLines
    split
    · exact h
    · split
      · next e => exact holds_of_eq e h1
      · next s' x via e =>
        have h2 : v.Holds s' := holds_of_eq e h1
        exact ih _ _ (holds_homeWrite ((holds_countIssue s' (sliceEngine x.key)).2 h2) ..)

@[simp] theorem holds_writeBytes (h : v.Holds s) (b f p a : Nat) (l : List Byte) : v.Holds (s.writeBytes b f p a l).1 :=
  holds_writeLines b f p _ a l h

theorem holds_markHome (h : v.Holds s) (x : Home) : v.Holds (s.markHome x) := by
  unfold State.markHome
  exact holds_homeWrite (holds_homeRead h ..) ..

@[simp] theorem holds_markGranules (h : v.Holds s) (b f p a : Nat) (l : List Nat) : v.Holds (s.markGranules b f p a l) := by
  unfold State.markGranules
  refine List.foldlRecOn _ _ h fun s h o _ => ?_
  have h1 := holds_resolve h .none b f p (a + o) .write
  split
  · next e => exact holds_markHome (holds_of_eq e h1) _
  · next e => exact holds_of_eq e h1

/-! ## Scratchpads and watchpoints (09 R181, R182, 23 R361) -/

@[simp] theorem setUp_meetScratch (s : State) (k : Nat) (gs : List Nat) : Kind.setUp.Holds (s.meetScratch k gs) ↔ Kind.setUp.Holds s := by
  unfold State.meetScratch
  dsimp only
  split <;> simp

theorem holds_scratchRead (h : v.Holds s) (k off n kind : Nat) : v.Holds (s.scratchRead k off n kind).1 :=
  h.of_bytes (fun h => canonical_scratchRead h ..) (by
    unfold State.scratchRead
    split <;> simp)

@[simp] theorem holds_scratchWrite (h : v.Holds s) (k off x n kind : Nat) (p w : Bool) : v.Holds (s.scratchWrite k off x n kind p w) :=
  h.of_bytes (fun h => canonical_scratchWrite h ..) (by
    unfold State.scratchWrite
    split <;> simp)

@[simp] theorem holds_raiseGuard (s : State) (k : Nat) : v.Holds (s.raiseGuard k) ↔ v.Holds s := by
  unfold State.raiseGuard
  split <;> simp

theorem holds_watchOne (h : v.Holds s) (k : Nat) (a : Watched) (n : Nat) : v.Holds (s.watchOne k a n) :=
  h.of_bytes (fun h => canonical_watchOne h ..) (by
    unfold State.watchOne
    dsimp only
    repeat' split
    all_goals simp)

@[simp] theorem holds_watch (h : v.Holds s) (k : Nat) (a : Watched) : v.Holds (s.watch k a) := by
  unfold State.watch
  split
  · exact h
  · exact List.foldlRecOn _ _ h fun _ hb n _ => holds_watchOne hb k a n

end

end Sys2Proof.Kept

/-! PROOFS about the beats of element instructions: every one of them leaves the bytes of memory, of cached lines and of scratchpads
and what the invariants say (06 R93-R95), and a plain one changes nothing but its element and what its links take (05 R77, 06 R85). -/

namespace Sys2Proof.ElementBeats
open Sys2Proof Sys2Proof.Machine Sys2Proof.Safety Sys2Proof.Laws Sys2Proof.Kept

/-! ## A step that touches no bytes -/

/-- The bytes of the device and both invariants are as they were. -/
structure Quiet (s t : State) : Prop where
  mem : t.mem = s.mem
  slices : t.slices = s.slices
  scratch : ∀ k, (t.tile k).scratch = (s.tile k).scratch
  holds : ∀ v : Kind, v.Holds t ↔ v.Holds s

theorem Quiet.refl (s : State) : Quiet s s := ⟨rfl, rfl, fun _ => rfl, fun _ => Iff.rfl⟩

theorem Quiet.trans {s t u : State} (h : Quiet s t) (g : Quiet t u) : Quiet s u :=
  ⟨g.mem.trans h.mem, g.slices.trans h.slices, fun k => (g.scratch k).trans (h.scratch k), fun v => (g.holds v).trans (h.holds v)⟩

/-- A step that leaves the parts which hold bytes and the set-up registers. -/
theorem Quiet.of_eq {s t : State} (hm : t.mem = s.mem := by rfl) (hs : t.slices = s.slices := by rfl)
    (ht : t.tiles = s.tiles := by rfl) (hc : t.contexts = s.contexts := by rfl) (hx : t.cxlmap = s.cxlmap := by rfl)
    (hg : t.gazetteer = s.gazetteer := by rfl) (ho : t.ovns = s.ovns := by rfl) (he : t.sec = s.sec := by rfl)
    (hq : t.mgmt = s.mgmt := by rfl) : Quiet s t :=
  ⟨hm, hs, fun k => by rw [State.tile, ht]; rfl, fun _ => Kind.holds_congr hm hs ht hc hx hg ho he hq⟩

theorem quiet_modElem (s : State) (k : Nat) (f : Elem → Elem) : Quiet s (s.modElem k f) := by
  unfold State.modElem
  split <;> exact .of_eq

theorem quiet_modTile (s : State) (k : Nat) (f : Tile → Tile) (hf : ∀ t, (f t).scratch = t.scratch) : Quiet s (s.modTile k f) := by
  refine ⟨rfl, rfl, fun j => ?_, fun v => holds_modTile s k f (hf _)⟩
  by_cases h : j = k
  · rw [h, modTile_tile, hf]
  · rw [modTile_tile_ne s f h]

theorem quiet_acceptToken (s : State) (bh prod : Nat) (l : Link) (t : Token) : Quiet s (s.acceptToken bh prod l t) := by
  unfold State.acceptToken State.sinkToken
  split
  · split <;> exact .of_eq
  · exact quiet_modElem ..

theorem quiet_deliver (s : State) (key port : Nat) : Quiet s (s.deliver key port) := by
  unfold State.deliver
  split
  · exact .refl s
  · split
    · dsimp only
      split
      · exact List.foldlRecOn (motive := Quiet s) _ _ .of_eq fun _ h l _ => h.trans (quiet_acceptToken ..)
      · exact .refl s
    · exact .refl s

theorem quiet_deliverSelf (s : State) (key : Nat) : Quiet s (s.deliverSelf key) := by
  unfold State.deliverSelf
  exact List.foldlRecOn (motive := Quiet s) _ _ (.refl s) fun t h p _ =>
    List.foldlRecOn (motive := Quiet s) _ _ h fun _ h _ _ => h.trans (quiet_deliver ..)

theorem quiet_haltElem (s : State) (k c n : Nat) (d : Word) (w : Nat) : Quiet s (s.haltElem k c n d w) := by
  unfold State.haltElem
  exact (quiet_modElem s k _).trans .of_eq

theorem quiet_raiseElem (s : State) (k n c : Nat) (m : Bool) (d a : Nat) : Quiet s (s.raiseElem k n c m d a) := by
  unfold State.raiseElem
  split
  · exact .refl s
  · split <;> exact .of_eq

theorem quiet_endBeat (s : State) (key : Nat) (e : Elem) (x : Issue) : Quiet s (s.endBeat key e x) := by
  have h : Quiet s ((s.setElem key (e.advance x)).deliverSelf key) :=
    Quiet.trans (t := s.setElem key (e.advance x)) .of_eq (quiet_deliverSelf ..)
  unfold State.endBeat
  dsimp only
  split
  · exact h.trans ((quiet_modElem ..).trans (quiet_haltElem ..))
  · split
    · exact h.trans (quiet_haltElem ..)
    · exact h

theorem quiet_faultBeat (s : State) (key : Nat) (e : Elem) (n c : Nat) (m : Bool) (d a : Nat) : Quiet s (s.faultBeat key e n c m d a) := by
  have h : Quiet s ((s.setElem key e.nextIssue).raiseElem key n c m d a) :=
    Quiet.trans (t := s.setElem key e.nextIssue) .of_eq (quiet_raiseElem ..)
  unfold State.faultBeat
  dsimp only
  split
  · exact h.trans (quiet_haltElem ..)
  · exact h

/-- A body that touches no bytes. -/
def QuietBody (b : Body) : Prop := ∀ s key r, Quiet s (b s key r).s

theorem quiet_runIssue {b : Body} (hb : QuietBody b) (form : Form) (s : State) (key : Nat) (e : Elem) (x : Issue) :
    Quiet s (runIssue form b s key e x) := by
  have hy : ∀ r : Reads, Quiet s (if e.parity then { s := s, e := r.e, stop := .fault 0x51 x.slot 0 } else b s key r : BodyResult).s := by
    intro r
    split
    · exact .refl s
    · exact hb s key r
  have hcount (t : State) : Quiet t (t.countFire key x.slot x.beat) := .of_eq
  unfold runIssue
  dsimp only
  split
  · exact (hy _).trans ((hcount _).trans (quiet_endBeat ..))
  · exact .of_eq
  · exact (hy _).trans .of_eq
  · exact (hcount s).trans (quiet_faultBeat ..)

/-- A beat of a quiet body, if it answers a state, answers one that it left quiet. -/
theorem quiet_runBeat {b : Body} (hb : QuietBody b) {i : Instr} {t : Trig} {s u : State} (h : runBeat i t b s = .next u) : Quiet s u := by
  unfold runBeat at h
  split at h
  · split at h
    · split at h
      · cases h
      · split at h
        · split at h <;> cases h
          · exact quiet_runIssue hb ..
          · exact .refl s
        · dsimp only at h
          split at h <;> cases h
          · exact quiet_runIssue hb ..
          · exact .refl s
    · cases h
  · cases h

/-! ## The bodies -/

theorem quiet_self {b : Body} (h : ∀ s key r, (b s key r).s = s) : QuietBody b := fun s key r => by
  rw [h]
  exact .refl s

theorem quiet_sendBody {f : Reads → Nat × Word × Word} : QuietBody (sendBody f) := quiet_self fun s key r => by
  unfold sendBody
  dsimp only
  split <;> rfl

theorem quiet_requestBody (s : State) (key : Nat) (r : Reads) (q : Issued) : Quiet s (requestBody s key r q).s := .of_eq

theorem quiet_loadBody {d : Operand} {w : BitVec 6} {n : Nat} {g : Bool} : QuietBody (loadBody d w n g) := by
  intro s key r
  unfold loadBody
  split
  · exact .refl s
  · exact quiet_requestBody ..

theorem quiet_storeBody {w : BitVec 6} {n : Nat} : QuietBody (storeBody w n) := by
  intro s key r
  unfold storeBody
  split
  · exact .refl s
  · exact quiet_requestBody ..

theorem quiet_guardedBody {w : BitVec 6} {n : Nat} : QuietBody (guardedBody w n) := by
  intro s key r
  unfold guardedBody
  split
  · exact quiet_storeBody s key r
  · exact quiet_requestBody ..

theorem quiet_prefetchBody {w : BitVec 6} : QuietBody (prefetchBody w) := by
  intro s key r
  unfold prefetchBody
  split
  · exact .of_eq
  · split <;> exact quiet_requestBody ..

theorem quiet_remoteBody (s : State) (key : Nat) (r : Reads) (d : Operand) (x : Checked) (k : ReqKind) (n : Nat) :
    Quiet s (remoteBody s key r d x k n).s := by
  unfold remoteBody
  dsimp only
  split
  · exact .refl s
  · split
    · exact .refl s
    · exact .of_eq

theorem quiet_amoBody {d : Operand} {lit : Word} : QuietBody (amoBody d lit) := by
  intro s key r
  unfold amoBody
  split
  · exact .refl s
  · dsimp only
    split
    · exact quiet_remoteBody ..
    · exact quiet_requestBody ..

theorem quiet_amocBody {d : Operand} {lit : Word} : QuietBody (amocBody d lit) := by
  intro s key r
  unfold amocBody
  split
  · exact .refl s
  · dsimp only
    split
    · exact .refl s
    · exact quiet_requestBody ..

theorem quiet_semBody {d : Operand} {w : Bool} : QuietBody (semBody d w) := by
  intro s key r
  unfold semBody
  dsimp only
  split
  · exact .refl s
  · exact quiet_requestBody ..

theorem quiet_fenceBody {lit : Word} : QuietBody (fenceBody lit) := quiet_self fun s key r => by
  unfold fenceBody
  dsimp only
  split <;> rfl

theorem quiet_fencelBody {d : Operand} : QuietBody (fencelBody d) := fun _ _ _ => .of_eq

theorem quiet_commandBody {target : Operand} {c : BitVec 8} : QuietBody (commandBody target c) := by
  intro s key r
  unfold commandBody
  split
  · exact .of_eq
  · exact .refl s

theorem quiet_scmdBody {target : Operand} : QuietBody (scmdBody target) := by
  intro s key r
  unfold scmdBody
  dsimp only
  split
  · exact .refl s
  · split
    · exact .refl s
    · exact quiet_commandBody s key r

theorem quiet_askBody {d : Operand} : QuietBody (askBody d) := by
  intro s key r
  unfold askBody
  split
  · exact .refl s
  · split
    · exact .refl s
    · exact quiet_requestBody ..

theorem quiet_answerBody {o : Operand} : QuietBody (answerBody o) := by
  intro s key r
  unfold answerBody
  dsimp only
  split
  · exact .refl s
  · exact quiet_requestBody ..

theorem quiet_setpgBody {n : BitVec 2} : QuietBody (setpgBody n) := fun _ _ _ => quiet_requestBody ..

theorem quiet_enqueue (s : State) (fn loc : Nat) (c : QCommand) (src : CmdSource) (o : Nat) (l : List Nat) :
    Quiet s (s.enqueue fn loc c src o l).1 := by
  unfold State.enqueue
  split
  · exact .refl s
  · split
    · exact .of_eq
    · exact .refl s

theorem quiet_spawnBody {d : Operand} : QuietBody (spawnBody d) := by
  intro s key r
  rw [AtFire.spawnBody_eq]
  dsimp only
  split
  · exact .refl s
  · split
    · exact .refl s
    · exact quiet_enqueue ..

theorem quiet_writeSpecial (s : State) (key : Nat) (e : Elem) (x : Nat) (w : Word) : Quiet s (writeSpecial s key e x w).1 := by
  unfold writeSpecial
  split
  · exact .refl s
  · split
    · exact .refl s
    · split
      · exact .refl s
      · split
        · dsimp only
          exact quiet_modTile s _ _ fun _ => rfl
        · exact .refl s

theorem quiet_srdBody {d : Operand} {n : Nat} : QuietBody (srdBody d n) := by
  intro s key r
  unfold srdBody
  split
  · exact quiet_requestBody ..
  · split <;> exact .refl s

theorem quiet_swrBody {n : Nat} : QuietBody (swrBody n) := by
  intro s key r
  unfold swrBody
  split
  · exact quiet_requestBody ..
  · split
    · exact .refl s
    · exact quiet_writeSpecial ..

/-! ## Every element instruction is a beat of a quiet body -/

/-- An instruction runs the beats of a quiet body. -/
def RunsQuiet (i : Instr) : Prop := ∃ t body, (∀ s, exec i s = runBeat i t body s) ∧ QuietBody body

/-- The instructions that touch state outside their element have their body lemma; the others leave that state as it stands. -/
theorem runsQuiet (i : Instr) : (formOf i).isSome = true → RunsQuiet i := by
  cases i
  case ldN32 => exact fun _ => ⟨_, _, fun _ => rfl, quiet_loadBody⟩
  case ldS16 => exact fun _ => ⟨_, _, fun _ => rfl, quiet_loadBody⟩
  case ldN16 => exact fun _ => ⟨_, _, fun _ => rfl, quiet_loadBody⟩
  case ldS8 => exact fun _ => ⟨_, _, fun _ => rfl, quiet_loadBody⟩
  case ldN8 => exact fun _ => ⟨_, _, fun _ => rfl, quiet_loadBody⟩
  case ldN64 => exact fun _ => ⟨_, _, fun _ => rfl, quiet_loadBody⟩
  case stN32 => exact fun _ => ⟨_, _, fun _ => rfl, quiet_storeBody⟩
  case stN16 => exact fun _ => ⟨_, _, fun _ => rfl, quiet_storeBody⟩
  case stN8 => exact fun _ => ⟨_, _, fun _ => rfl, quiet_storeBody⟩
  case stN64 => exact fun _ => ⟨_, _, fun _ => rfl, quiet_storeBody⟩
  case gstN32 => exact fun _ => ⟨_, _, fun _ => rfl, quiet_guardedBody⟩
  case gstN16 => exact fun _ => ⟨_, _, fun _ => rfl, quiet_guardedBody⟩
  case gstN8 => exact fun _ => ⟨_, _, fun _ => rfl, quiet_guardedBody⟩
  case pf => exact fun _ => ⟨_, _, fun _ => rfl, quiet_prefetchBody⟩
  case amo => exact fun _ => ⟨_, _, fun _ => rfl, quiet_amoBody⟩
  case amoc => exact fun _ => ⟨_, _, fun _ => rfl, quiet_amocBody⟩
  case sems => exact fun _ => ⟨_, _, fun _ => rfl, quiet_semBody⟩
  case semw => exact fun _ => ⟨_, _, fun _ => rfl, quiet_semBody⟩
  case arrive => exact fun _ => ⟨_, _, fun _ => rfl, fun s key r => quiet_requestBody s key r _⟩
  case fence => exact fun _ => ⟨_, _, fun _ => rfl, quiet_fenceBody⟩
  case fencel => exact fun _ => ⟨_, _, fun _ => rfl, quiet_fencelBody⟩
  case fenceh => exact fun _ => ⟨_, _, fun _ => rfl, fun s key r => quiet_requestBody s key r _⟩
  case mcmd => exact fun _ => ⟨_, _, fun _ => rfl, fun s key r => quiet_commandBody s key r⟩
  case qcmd => exact fun _ => ⟨_, _, fun _ => rfl, fun s key r => quiet_commandBody s key r⟩
  case scmd => exact fun _ => ⟨_, _, fun _ => rfl, quiet_scmdBody⟩
  case ask => exact fun _ => ⟨_, _, fun _ => rfl, quiet_askBody⟩
  case answer => exact fun _ => ⟨_, _, fun _ => rfl, quiet_answerBody⟩
  case setpg => exact fun _ => ⟨_, _, fun _ => rfl, quiet_setpgBody⟩
  case spawn => exact fun _ => ⟨_, _, fun _ => rfl, quiet_spawnBody⟩
  case srd => exact fun _ => ⟨_, _, fun _ => rfl, quiet_srdBody⟩
  case swr => exact fun _ => ⟨_, _, fun _ => rfl, quiet_swrBody⟩
  case done => exact fun _ => ⟨_, _, fun _ => rfl, fun _ _ _ => .of_eq⟩
  case send => exact fun _ => ⟨_, _, fun _ => rfl, quiet_sendBody⟩
  case sendr => exact fun _ => ⟨_, _, fun _ => rfl, quiet_sendBody⟩
  all_goals first
    | exact of_false_eq_true
    | exact fun _ => ⟨_, _, fun _ => rfl, quiet_self fun _ _ _ => rfl⟩

/-- A beat of an element instruction keeps both invariants. -/
theorem holds_element {v : Kind} {i : Instr} (hi : (formOf i).isSome = true) {s : State} (h : v.Holds s) : v.Answers (exec i s) := by
  obtain ⟨t, body, he, hb⟩ := runsQuiet i hi
  rw [he]
  cases hx : runBeat i t body s with
  | next u => exact ((quiet_runBeat hb hx).holds v).2 h
  | fault f => trivial
  | refused r => trivial

end Sys2Proof.ElementBeats

/-! PROOF of the frame of element instructions (05 R77, 06 R85, 10 R193, R195): what a step inside one element leaves of the rest of
the device, what a write of an operand leaves of the element, and both together for every plain instruction. -/

namespace Sys2Proof.ElementFrame
open Sys2Proof Sys2Proof.Machine Sys2Proof.Safety Sys2Proof.Laws Sys2Proof.ElementBeats

/-! ## Within the element -/

/-- What a beat with these fields leaves of its element; `loop` are the ports that links join to the element itself. -/
structure Frame (fs : List Field) (loop : Nat → Prop) (e e' : Elem) : Prop where
  consts : e'.consts = e.consts
  record : e'.record = e.record
  regs : ∀ n < 16, fs.any (fieldWritesReg n) = false → e'.regs.getD n 0 = e.regs.getD n 0
  preds : ∀ n < 8, fs.any (fieldWritesPred n) = false → e'.preds.getD n false = e.preds.getD n false
  out : ∀ n < 8, fs.any (fieldWritesPort n) = false → ¬ loop n → e'.out.getD n [] = e.out.getD n []
  flags : (fs.any fun x => x.write && x.op == .fl) = false → e.fl &&& e'.fl = e.fl

section
variable {fs : List Field} {loop : Nat → Prop} {e e' : Elem}

/-- A change of none of the fields that the frame speaks of. -/
theorem Frame.of_eq (hc : e'.consts = e.consts := by rfl) (hr : e'.record = e.record := by rfl) (hg : e'.regs = e.regs := by rfl)
    (hp : e'.preds = e.preds := by rfl) (ho : e'.out = e.out := by rfl) (hf : e'.fl = e.fl := by rfl) : Frame fs loop e e' :=
  ⟨hc, hr, fun _ _ _ => by rw [hg], fun _ _ _ => by rw [hp], fun _ _ _ _ => by rw [ho], fun _ => by rw [hf, BitVec.and_self]⟩

theorem Frame.refl (e : Elem) : Frame fs loop e e := .of_eq

theorem Frame.trans {e'' : Elem} (h : Frame fs loop e e') (g : Frame fs loop e' e'') : Frame fs loop e e'' where
  consts := g.consts.trans h.consts
  record := g.record.trans h.record
  regs n hn hw := (g.regs n hn hw).trans (h.regs n hn hw)
  preds n hn hw := (g.preds n hn hw).trans (h.preds n hn hw)
  out n hn hw hs := (g.out n hn hw hs).trans (h.out n hn hw hs)
  flags hw := by rw [← h.flags hw, BitVec.and_assoc, g.flags hw]

/-- A written operand of a form. -/
def Written (fs : List Field) (o : Operand) : Prop := ∃ x ∈ fs, x.write = true ∧ x.op = o

/-- A written operand of a form that holds a pair. -/
def WrittenPair (fs : List Field) (o : Operand) : Prop := ∃ x ∈ fs, x.write = true ∧ x.op = o ∧ x.wide = true

theorem reg_written {n : Fin 16} {m : Nat} (h : Written fs (.d n)) (hw : fs.any (fieldWritesReg m) = false) : n.val ≠ m := by
  obtain ⟨x, hx, hwr, hop⟩ := h
  rintro rfl
  have := List.any_eq_false.1 hw x hx
  simp [fieldWritesReg, hwr, hop] at this

theorem regPair_written {n : Fin 16} {m : Nat} (h : WrittenPair fs (.d n)) (hw : fs.any (fieldWritesReg m) = false) : n.val + 1 ≠ m := by
  obtain ⟨x, hx, hwr, hop, hwide⟩ := h
  rintro rfl
  have := List.any_eq_false.1 hw x hx
  simp [fieldWritesReg, hwr, hop, hwide] at this

theorem pred_written {n : Fin 8} {m : Nat} (hm : m < 8) (h : Written fs (.p n)) (hw : fs.any (fieldWritesPred m) = false) : n.val ≠ m := by
  obtain ⟨x, hx, hwr, hop⟩ := h
  rintro rfl
  have := List.any_eq_false.1 hw x hx
  simp [fieldWritesPred, hwr, hop] at this

theorem port_written {n : Fin 8} {m : Nat} (hm : m < 8) (h : Written fs (.o n)) (hw : fs.any (fieldWritesPort m) = false) : n.val ≠ m := by
  obtain ⟨x, hx, hwr, hop⟩ := h
  rintro rfl
  have := List.any_eq_false.1 hw x hx
  simp [fieldWritesPort, hwr, hop] at this

theorem flags_written (h : Written fs .fl) : (fs.any fun x => x.write && x.op == .fl) ≠ false := by
  obtain ⟨x, hx, hwr, hop⟩ := h
  intro hw
  have := List.any_eq_false.1 hw x hx
  simp [hwr, hop] at this

/-! ### Lists with one place changed -/

theorem getD_modifyAt_ne {α : Type} (l : List α) {n m : Nat} (f : α → α) (d : α) (h : n ≠ m) : (modifyAt l n f).getD m d = l.getD m d := by
  induction l generalizing n m with
  | nil => rfl
  | cons x xs ih =>
    cases n with
    | zero =>
      cases m with
      | zero => exact absurd rfl h
      | succ m => rfl
    | succ n =>
      cases m with
      | zero => rfl
      | succ m => exact ih (by omega)

theorem getD_set_ne {α : Type} (l : List α) {n m : Nat} (x d : α) (h : n ≠ m) : (l.set n x).getD m d = l.getD m d := by
  rw [List.getD_eq_getElem?_getD, List.getElem?_set_ne h, List.getD_eq_getElem?_getD]

/-! ### Writes -/

theorem frame_push (h : Written fs (.o p)) (sp : List Nat) (t : Token) (z : Bool) : Frame fs loop e (e.push sp p.val t z) := by
  have hout {f : List OutEntry → List OutEntry} (n : Nat) (hn : n < 8) (hw : fs.any (fieldWritesPort n) = false) :
      (modifyAt e.out p.val f).getD n [] = e.out.getD n [] := getD_modifyAt_ne _ _ _ (port_written hn h hw)
  unfold Elem.push
  dsimp only
  split
  · split
    · exact .of_eq
    · exact ⟨rfl, rfl, fun _ _ _ => rfl, fun _ _ _ => rfl, fun n hn hw _ => hout n hn hw, fun _ => BitVec.and_self⟩
  · exact ⟨rfl, rfl, fun _ _ _ => rfl, fun _ _ _ => rfl, fun n hn hw _ => hout n hn hw, fun _ => BitVec.and_self⟩

theorem frame_write {o : Operand} (h : Written fs o) (sp : List Nat) (w : Word) (tag : BitVec 4) (z : Bool) :
    Frame fs loop e (e.write sp o w tag z) := by
  cases o with
  | d n =>
    exact ⟨rfl, rfl, fun m _ hw => getD_set_ne _ _ _ (reg_written h hw), fun _ _ _ => rfl, fun _ _ _ _ => rfl, fun _ => BitVec.and_self⟩
  | o p => exact frame_push h sp _ z
  | p n =>
    exact ⟨rfl, rfl, fun _ _ _ => rfl, fun m hm hw => getD_set_ne _ _ _ (pred_written hm h hw), fun _ _ _ _ => rfl, fun _ => BitVec.and_self⟩
  | fl => exact ⟨rfl, rfl, fun _ _ _ => rfl, fun _ _ _ => rfl, fun _ _ _ _ => rfl, fun hw => absurd hw (flags_written h)⟩
  | _ => exact .of_eq

theorem frame_write2 {o : Operand} (h : WrittenPair fs o) (sp : List Nat) (w : Nat) (tag : BitVec 4) (z : Bool) :
    Frame fs loop e (e.write2 sp o w tag z) := by
  have h' : Written fs o := by
    obtain ⟨x, hx, hwr, hop, -⟩ := h
    exact ⟨x, hx, hwr, hop⟩
  cases o with
  | d n =>
    refine ⟨rfl, rfl, fun m _ hw => ?_, fun _ _ _ => rfl, fun _ _ _ _ => rfl, fun _ => BitVec.and_self⟩
    exact (getD_set_ne _ _ _ (regPair_written h hw)).trans (getD_set_ne _ _ _ (reg_written h' hw))
  | o p =>
    unfold Elem.write2
    dsimp only
    split
    · exact frame_push h' ..
    · exact (frame_push h' ..).trans (frame_push h' ..)
  | _ => exact .of_eq

theorem frame_orFlags (f : Flags) : Frame fs loop e (e.orFlags f) :=
  ⟨rfl, rfl, fun _ _ _ => rfl, fun _ _ _ => rfl, fun _ _ _ _ => rfl, fun _ => by
    rw [Elem.orFlags]
    ext i
    simp only [BitVec.getElem_and, BitVec.getElem_or]
    cases e.fl[i] <;> rfl⟩

theorem frame_stepSR : Frame fs loop e (stepSR e) := by
  unfold stepSR
  split
  · exact .of_eq
  · exact .refl e

theorem frame_reads (key slot : Nat) (h : DWord) (beat n : Nat) (gs : List Field) : Frame fs loop e (readFields key slot h beat n gs e).e := by
  obtain ⟨_, _, _, _, _, heq⟩ := Beats.readFields_frame key slot h beat n gs e
  rw [heq]
  exact .of_eq

theorem frame_take (h : DWord) : Frame fs loop e (e.take h) := by
  unfold Elem.take
  split
  · exact .refl e
  · split
    · exact .refl e
    · dsimp only
      split <;> exact .of_eq

theorem frame_advance (x : Issue) : Frame fs loop e (e.advance x) := by
  unfold Elem.advance
  split
  · exact .of_eq
  · exact (frame_take _).trans .of_eq

end

/-! ## Outside the element -/

/-- What a step inside the element `key` leaves of the device: it changes the element as P allows, hands tokens to others, enters the
sink log, the debug block and the fault queue of its bulkhead, and counts. -/
structure Within (key : Nat) (P : Elem → Elem → Prop) (s t : State) : Prop where
  rest : ({ t with elems := s.elems, bhs := s.bhs, elemCounts := s.elemCounts } : State) = s
  others : ∀ b, b ≠ bhOf key → t.bh b = s.bh b
  own : ({ t.bh (bhOf key) with sink := (s.bh (bhOf key)).sink, sinkcnt := (s.bh (bhOf key)).sinkcnt, dbg := (s.bh (bhOf key)).dbg,
                                faults := (s.bh (bhOf key)).faults } : Bulkhead) = s.bh (bhOf key)
  absent : ∀ k, k ≠ key → s.elem? k = none → t.elem? k = none
  present : ∀ k e', k ≠ key → s.elem? k = some e' → ∃ q, t.elem? k = some { e' with inp := q }
  element : ∀ e, s.elem? key = some e → ∃ e', t.elem? key = some e' ∧ P e e'

/-- A relation of an element before and after that a step may be made of: it is one, it composes, and input ports are free. -/
structure Allows (P : Elem → Elem → Prop) : Prop where
  refl : ∀ e, P e e
  trans : ∀ {a b c}, P a b → P b c → P a c
  inp : ∀ e q, P e { e with inp := q }

theorem allows_frame (fs : List Field) (loop : Nat → Prop) : Allows (Frame fs loop) := ⟨.refl, .trans, fun _ _ => .of_eq⟩

section
variable {key : Nat} {P : Elem → Elem → Prop} {s t u : State}

theorem Within.refl (hP : Allows P) (s : State) : Within key P s s where
  rest := rfl
  others _ _ := rfl
  own := rfl
  absent _ _ h := h
  present _ e' _ h := ⟨e'.inp, h⟩
  element e h := ⟨e, h, hP.refl e⟩

theorem Within.trans (hP : Allows P) (h : Within key P s t) (g : Within key P t u) : Within key P s u where
  rest := calc ({ u with elems := s.elems, bhs := s.bhs, elemCounts := s.elemCounts } : State)
      _ = { ({ u with elems := t.elems, bhs := t.bhs, elemCounts := t.elemCounts } : State) with
              elems := s.elems, bhs := s.bhs, elemCounts := s.elemCounts } := rfl
      _ = { t with elems := s.elems, bhs := s.bhs, elemCounts := s.elemCounts } := by rw [g.rest]
      _ = s := h.rest
  others b hb := (g.others b hb).trans (h.others b hb)
  own := by
    have hg := g.own
    have hh := h.own
    generalize u.bh (bhOf key) = x at *
    generalize t.bh (bhOf key) = y at *
    generalize s.bh (bhOf key) = z at *
    calc ({ x with sink := z.sink, sinkcnt := z.sinkcnt, dbg := z.dbg, faults := z.faults } : Bulkhead)
      _ = { ({ x with sink := y.sink, sinkcnt := y.sinkcnt, dbg := y.dbg, faults := y.faults } : Bulkhead) with
              sink := z.sink, sinkcnt := z.sinkcnt, dbg := z.dbg, faults := z.faults } := rfl
      _ = { y with sink := z.sink, sinkcnt := z.sinkcnt, dbg := z.dbg, faults := z.faults } := by rw [hg]
      _ = z := hh
  absent k hk hn := g.absent k hk (h.absent k hk hn)
  present k e' hk he := by
    obtain ⟨q, hq⟩ := h.present k e' hk he
    obtain ⟨q', hq'⟩ := g.present k _ hk hq
    exact ⟨q', hq'⟩
  element e he := by
    obtain ⟨e', he', h1⟩ := h.element e he
    obtain ⟨e'', he'', h2⟩ := g.element e' he'
    exact ⟨e'', he'', hP.trans h1 h2⟩

/-- The element is replaced. -/
theorem within_setElem {e e' : Elem} (he : s.elem? key = some e) (h : P e e') : Within key P s (s.setElem key e') where
  rest := rfl
  others _ _ := rfl
  own := rfl
  absent k hk hn := by rwa [setElem_elem?_ne s e' hk]
  present k x hk hx := ⟨x.inp, by rwa [setElem_elem?_ne s e' hk]⟩
  element x hx := ⟨e', setElem_elem? s key e', by rw [he] at hx; cases hx; exact h⟩

theorem within_modElem (f : Elem → Elem) (h : ∀ e, P e (f e)) (hP : Allows P) : Within key P s (s.modElem key f) := by
  unfold State.modElem
  split
  · exact .refl hP s
  · next e he => exact within_setElem he (h e)

/-- A change of the bulkhead that keeps all but its sink log, its debug block and its fault queue. -/
theorem within_modBh (hP : Allows P) (f : Bulkhead → Bulkhead)
    (hf : ∀ b, ({ f b with sink := b.sink, sinkcnt := b.sinkcnt, dbg := b.dbg, faults := b.faults } : Bulkhead) = b) :
    Within key P s (s.modBh (bhOf key) f) where
  rest := rfl
  others b hb := modBh_bh_ne s f hb
  own := by rw [modBh_bh]; exact hf _
  absent _ _ h := h
  present _ e' _ h := ⟨e'.inp, h⟩
  element e h := ⟨e, h, hP.refl e⟩

/-- Tokens handed to any element of the bulkhead. -/
theorem within_inp (hP : Allows P) (k : Nat) (f : Elem → Elem) (hf : ∀ e, ∃ q, f e = { e with inp := q }) :
    Within key P s (s.modElem k f) := by
  unfold State.modElem
  split
  · exact .refl hP s
  · next e he =>
    obtain ⟨q, hq⟩ := hf e
    refine ⟨rfl, fun _ _ => rfl, rfl, fun j hj hn => ?_, fun j x hj hx => ?_, fun x hx => ?_⟩
    · by_cases h : j = k
      · rw [← h, hn] at he
        cases he
      · rwa [setElem_elem?_ne s _ h]
    · by_cases h : j = k
      · subst h
        rw [hx] at he
        cases he
        exact ⟨q, by rw [setElem_elem?, hq]⟩
      · exact ⟨_, by rwa [setElem_elem?_ne s _ h]⟩
    · by_cases h : key = k
      · subst h
        rw [hx] at he
        cases he
        exact ⟨f e, setElem_elem? s key _, by rw [hq]; exact hP.inp e q⟩
      · exact ⟨x, by rwa [setElem_elem?_ne s _ h], hP.refl x⟩

theorem within_acceptToken (hP : Allows P) (prod : Nat) (l : Link) (t : Token) : Within key P s (s.acceptToken (bhOf key) prod l t) := by
  unfold State.acceptToken State.sinkToken
  split
  · split
    · exact .refl hP s
    · refine within_modBh hP _ fun b => ?_
      dsimp only
      split
      · rfl
      · split <;> rfl
  · refine within_inp hP _ _ fun e => ?_
    split
    · exact ⟨e.inp, rfl⟩
    · exact ⟨_, rfl⟩

/-- A delivery from a port that P lets go. -/
theorem within_deliver (hP : Allows P) {port : Nat} (ho : ∀ e l, P e { e with out := e.out.set port l }) :
    Within key P s (s.deliver key port) := by
  unfold State.deliver
  split
  · exact .refl hP s
  · next e he =>
    split
    · dsimp only
      split
      · exact List.foldlRecOn (motive := Within key P s) _ _ (within_setElem he (ho ..)) fun _ h l _ => h.trans hP (within_acceptToken hP ..)
      · exact .refl hP s
    · exact .refl hP s

/-- A port of the element that a link joins to the element itself. -/
def SelfLinked (s : State) (key n : Nat) : Prop :=
  ∃ l ∈ (s.bh (bhOf key)).links, l.prod = addrOf key ∧ l.cons = addrOf key ∧ l.prodPort = n

theorem within_deliverSelf (hP : Allows P) (ho : ∀ n e l, SelfLinked s key n → P e { e with out := e.out.set n l }) :
    Within key P s (s.deliverSelf key) := by
  unfold State.deliverSelf
  refine List.foldlRecOn (motive := Within key P s) _ _ (.refl hP s) fun t h p hp => ?_
  refine List.foldlRecOn (motive := Within key P s) _ _ h fun _ h _ _ => h.trans hP (within_deliver hP fun e l => ho p e l ?_)
  obtain ⟨l, hl, rfl⟩ := List.mem_map.1 hp
  obtain ⟨hm, hc⟩ := List.mem_filter.1 hl
  simp only [Bool.and_eq_true, beq_iff_eq] at hc
  exact ⟨l, hm, hc.1, hc.2, rfl⟩

theorem within_trace (hP : Allows P) (n i x : Nat) (d w : Word) : Within key P s (s.trace (bhOf key) n i x d w) := by
  unfold State.trace
  refine within_modBh hP _ fun b => ?_
  split <;> rfl

theorem within_haltElem (hP : Allows P) (hh : ∀ e h a st, P e { e with halted := h, haltAt := a, stepping := st }) (c n : Nat) (d : Word)
    (w : Nat) : Within key P s (s.haltElem key c n d w) := by
  unfold State.haltElem
  refine Within.trans hP ?_ (within_trace hP ..)
  refine Within.trans hP ?_ (within_modBh hP _ fun b => rfl)
  exact within_modElem _ (fun e => hh e ..) hP

theorem within_raiseElem (hP : Allows P) (hf : ∀ e x y z, P e { e with flt := x, fltaddr := y, stopped := z }) (n c : Nat) (m : Bool)
    (d a : Nat) : Within key P s (s.raiseElem key n c m d a) := by
  unfold State.raiseElem State.postFault
  split
  · exact .refl hP s
  · next e he =>
    split
    · exact .refl hP s
    · exact (within_setElem he (hf e ..)).trans hP (within_modBh hP _ fun b => rfl)

theorem within_countFire (hP : Allows P) (n b : Nat) : Within key P s (s.countFire key n b) where
  rest := rfl
  others _ _ := rfl
  own := rfl
  absent _ _ h := h
  present _ e' _ h := ⟨e'.inp, h⟩
  element e h := ⟨e, h, hP.refl e⟩

end

/-! ## A beat -/

section
variable {key : Nat} {fs : List Field} {loop : Nat → Prop} {s : State} {e e' : Elem}

/-- The frame of one element of a state, with its links. -/
abbrev InElement (key : Nat) (fs : List Field) (s : State) : State → State → Prop := Within key (Frame fs (SelfLinked s key))

theorem frame_deliver {n : Nat} (l : List OutEntry) (h : loop n) : Frame fs loop e { e with out := e.out.set n l } :=
  ⟨rfl, rfl, fun _ _ _ => rfl, fun _ _ _ => rfl, fun m _ _ hs => getD_set_ne _ _ _ (by rintro rfl; exact hs h), fun _ => BitVec.and_self⟩

theorem inElement_endBeat (he : s.elem? key = some e) (h : Frame fs (SelfLinked s key) e e') (x : Issue) :
    InElement key fs s s (s.endBeat key e' x) := by
  have hP := allows_frame fs (SelfLinked s key)
  have h0 : InElement key fs s s (s.setElem key (e'.advance x)) := within_setElem he (h.trans (frame_advance x))
  have h1 := h0.trans hP (within_deliverSelf hP fun n e l hl => frame_deliver l hl)
  have hh (t : State) (c n : Nat) (d : Word) (w : Nat) : InElement key fs s t (t.haltElem key c n d w) :=
    within_haltElem hP (fun _ _ _ _ => .of_eq) c n d w
  unfold State.endBeat
  dsimp only
  split
  · exact (h1.trans hP (within_modElem _ (fun _ => .of_eq) hP)).trans hP (hh ..)
  · split
    · exact h1.trans hP (hh ..)
    · exact h1

theorem inElement_faultBeat (he : s.elem? key = some e) (h : Frame fs (SelfLinked s key) e e') (n c : Nat) (m : Bool) (d a : Nat) :
    InElement key fs s s (s.faultBeat key e' n c m d a) := by
  have hP := allows_frame fs (SelfLinked s key)
  have h0 : InElement key fs s s (s.setElem key e'.nextIssue) := within_setElem he (h.trans .of_eq)
  have h1 := h0.trans hP (within_raiseElem hP (fun _ _ _ _ => .of_eq) n c m d a)
  unfold State.faultBeat
  dsimp only
  split
  · exact h1.trans hP (within_haltElem hP (fun _ _ _ _ => .of_eq) ..)
  · exact h1

/-- The body of a plain instruction: nothing outside its element, and in it what its fields write. -/
def PlainBody (fs : List Field) (b : Body) : Prop :=
  ∀ s key r, (b s key r).s = s ∧ ∀ loop, Frame fs loop r.e (b s key r).e

theorem inElement_runIssue {b : Body} {form : Form} (hb : PlainBody form.fields b) (he : s.elem? key = some e)
    (h : Frame form.fields (SelfLinked s key) e e') (x : Issue) : InElement key form.fields s s (runIssue form b s key e' x) := by
  have hP := allows_frame form.fields (SelfLinked s key)
  have hr := h.trans (frame_reads key x.slot x.heddle x.beat x.n form.fields)
  have hcount : InElement key form.fields s s (s.countFire key x.slot x.beat) := within_countFire hP ..
  unfold runIssue
  generalize readFields key x.slot x.heddle x.beat x.n form.fields e' = r at hr
  have hy : (if e'.parity then { s := s, e := r.e, stop := .fault 0x51 x.slot 0 } else b s key r : BodyResult).s = s
      ∧ Frame form.fields (SelfLinked s key) r.e
        (if e'.parity then { s := s, e := r.e, stop := .fault 0x51 x.slot 0 } else b s key r : BodyResult).e := by
    split
    · exact ⟨rfl, .refl _⟩
    · exact ⟨(hb s key r).1, (hb s key r).2 _⟩
  dsimp only
  generalize (if e'.parity then { s := s, e := r.e, stop := .fault 0x51 x.slot 0 } else b s key r : BodyResult) = y at hy
  obtain ⟨hs, hf⟩ := hy
  rw [hs]
  split
  · exact hcount.trans hP (inElement_endBeat (s := s.countFire key x.slot x.beat) he (hr.trans hf) x)
  · exact within_setElem he (h.trans .of_eq)
  · exact hcount.trans hP (within_setElem (s := s.countFire key x.slot x.beat) he ((hr.trans hf).trans .of_eq))
  · exact hcount.trans hP (inElement_faultBeat (s := s.countFire key x.slot x.beat) he (hr.trans .of_eq) ..)

theorem inElement_runBeat {b : Body} {form : Form} {i : Instr} {tr : Trig} {slot : Nat} {w lit : Word} {t : State}
    (hi : formOf i = some form) (hb : PlainBody form.fields b) (hf : s.focus = .elem key slot w lit) (he : s.elem? key = some e)
    (h : runBeat i tr b s = .next t) : InElement key form.fields s s t := by
  have hP := allows_frame form.fields (SelfLinked s key)
  simp only [runBeat, hf, he, hi] at h
  split at h
  · cases h
  · split at h
    · split at h <;> cases h
      · exact inElement_runIssue hb he (.refl e) _
      · exact .refl hP s
    · split at h <;> cases h
      · exact inElement_runIssue hb he .of_eq _
      · exact .refl hP s

end

/-! ## The bodies of plain instructions -/

section
variable {fs : List Field} {d : Operand}

theorem written_last (h : (fs.getLast?.map fun x => (x.op, x.write)) = some (d, true)) : Written fs d := by
  obtain ⟨x, hx, heq⟩ := Option.map_eq_some_iff.1 h
  simp only [Prod.mk.injEq] at heq
  exact ⟨x, List.mem_of_getLast? hx, heq.2, heq.1⟩

theorem writtenPair_last (h : (fs.getLast?.map fun x => (x.op, x.write, x.wide)) = some (d, true, true)) : WrittenPair fs d := by
  obtain ⟨x, hx, heq⟩ := Option.map_eq_some_iff.1 h
  simp only [Prod.mk.injEq] at heq
  exact ⟨x, List.mem_of_getLast? hx, heq.2.1, heq.1, heq.2.2⟩

theorem plain_write (h : Written fs d) (f : State → Reads → FRes) : PlainBody fs (writeBody d f) :=
  fun _ _ _ => ⟨rfl, fun _ => (frame_write h ..).trans (frame_orFlags _)⟩

theorem plain_write2 (h : WrittenPair fs d) (f : State → Reads → FRes) : PlainBody fs (writeBody2 d f) :=
  fun _ _ _ => ⟨rfl, fun _ => (frame_write2 h ..).trans (frame_orFlags _)⟩

theorem plain_word (h : Written fs d) (f : Reads → Word) : PlainBody fs (wordBody d f) := plain_write h _

theorem plain_round (h : Written fs d) (f : RMode → Nat → Reads → FRes) : PlainBody fs (roundBody false d f) :=
  fun _ _ _ => ⟨rfl, fun _ => frame_stepSR.trans ((frame_write h ..).trans (frame_orFlags _))⟩

theorem plain_round2 (h : WrittenPair fs d) (f : RMode → Nat → Reads → FRes) : PlainBody fs (roundBody true d f) :=
  fun _ _ _ => ⟨rfl, fun _ => frame_stepSR.trans ((frame_write2 h ..).trans (frame_orFlags _))⟩

theorem plain_lane (h : Written fs d) (f : RMode → Nat → Nat → Reads → FRes) : PlainBody fs (laneBody d f) :=
  fun _ _ _ => ⟨rfl, fun _ => frame_stepSR.trans (frame_stepSR.trans ((frame_write h ..).trans (frame_orFlags _)))⟩

theorem plain_mov (h : Written fs d) (a : Operand) : PlainBody fs (movBody d a) := fun _ _ _ => ⟨rfl, fun _ => frame_write h ..⟩
theorem plain_tag (h : Written fs d) (f : Reads → Nat) : PlainBody fs (tagBody d f) := fun _ _ _ => ⟨rfl, fun _ => frame_write h ..⟩
theorem plain_sel (h : Written fs d) (n : Fin 8) : PlainBody fs (selBody d n) := fun _ _ _ => ⟨rfl, fun _ => frame_write h ..⟩

theorem plain_ldhi (h : Written fs d) (imm : BitVec 12) : PlainBody fs (ldhiBody d imm) :=
  fun s key r => plain_word h _ s key r

/-- A body that changes, at most, fields of its element which the frame does not speak of. -/
theorem plain_of_eq {b : Body} (hs : ∀ s key r, (b s key r).s = s) (h : ∀ s key r loop, Frame fs loop r.e (b s key r).e) : PlainBody fs b :=
  fun s key r => ⟨hs s key r, h s key r⟩

theorem plain_fence (lit : Word) : PlainBody fs (fenceBody lit) := fun s key r => by
  unfold fenceBody
  dsimp only
  split
  · exact ⟨rfl, fun _ => .refl _⟩
  · exact ⟨rfl, fun _ => .of_eq⟩

end

/-- An instruction runs the beats of a plain body. -/
def RunsPlain (i : Instr) : Prop :=
  ∀ f, formOf i = some f → ∃ t body, (∀ s, exec i s = runBeat i t body s) ∧ PlainBody f.fields body

/-- Each plain instruction, by the shape of its body: the written operand is the last field of its form. -/
theorem runsPlain (i : Instr) : plainInstr i = true → RunsPlain i := by
  cases i
  case nop => rintro - _ ⟨⟩; exact ⟨_, _, fun _ => rfl, plain_of_eq (fun _ _ _ => rfl) fun _ _ _ _ => .refl _⟩
  case trap => rintro - _ ⟨⟩; exact ⟨_, _, fun _ => rfl, plain_of_eq (fun _ _ _ => rfl) fun _ _ _ _ => .refl _⟩
  case drop => rintro - _ ⟨⟩; exact ⟨_, _, fun _ => rfl, plain_of_eq (fun _ _ _ => rfl) fun _ _ _ _ => .refl _⟩
  case bkpt =>
    rintro - _ ⟨⟩
    refine ⟨_, _, fun _ => rfl, plain_of_eq (fun _ _ _ => rfl) fun _ _ _ _ => ?_⟩
    dsimp only
    split
    · exact .of_eq
    · exact .refl _
  case ifence =>
    rintro - _ ⟨⟩
    refine ⟨_, _, fun _ => rfl, plain_of_eq (fun _ _ _ => rfl) fun _ _ _ _ => ?_⟩
    dsimp only
    split
    · exact .of_eq
    · exact .refl _
  case fence => rintro - _ ⟨⟩; exact ⟨_, _, fun _ => rfl, plain_fence _⟩
  case mov => rintro - _ ⟨⟩; exact ⟨_, _, fun _ => rfl, plain_mov (written_last rfl) _⟩
  case tagv => rintro - _ ⟨⟩; exact ⟨_, _, fun _ => rfl, plain_tag (written_last rfl) _⟩
  case selv => rintro - _ ⟨⟩; exact ⟨_, _, fun _ => rfl, plain_tag (written_last rfl) _⟩
  case ldhi => rintro - _ ⟨⟩; exact ⟨_, _, fun _ => rfl, plain_ldhi (written_last rfl) _⟩
  case selPn => rintro - _ ⟨⟩; exact ⟨_, _, fun _ => rfl, plain_sel (written_last rfl) _⟩
  all_goals first
    | exact of_false_eq_true
    | rintro - _ ⟨⟩
      refine ⟨_, _, fun _ => rfl, ?_⟩
      first
        | with_reducible refine plain_word ?_ _
          exact written_last rfl
        | with_reducible refine plain_write ?_ _
          exact written_last rfl
        | with_reducible refine plain_write2 ?_ _
          exact writtenPair_last rfl
        | with_reducible refine plain_round ?_ _
          exact written_last rfl
        | with_reducible refine plain_round2 ?_ _
          exact writtenPair_last rfl
        | with_reducible refine plain_lane ?_ _
          exact written_last rfl

/-- Settles O53: a plain instruction runs a plain body, whose beats stay within their element; every element instruction runs a
quiet one. -/
theorem elementFrame : Obligations.ElementFrame := by
  intro i f s t key slot w lit e hi hf he h
  refine ⟨fun hp => ?_, fun _ => ?_⟩
  · obtain ⟨tr, body, hx, hb⟩ := runsPlain i hp f hi
    rw [hx] at h
    obtain ⟨hrest, hothers, hown, habsent, hpresent, helement⟩ := inElement_runBeat hi hb hf he h
    obtain ⟨e', he', hframe⟩ := helement e he
    refine ⟨hrest, hothers, hown, habsent, hpresent, e', he', hframe.consts, hframe.record, hframe.regs, hframe.preds, ?_, hframe.flags⟩
    intro n hn hw hl
    refine hframe.out n hn hw ?_
    rintro ⟨l, hm, hprod, hcons, hport⟩
    exact (hl l hm hprod).elim (fun h => h hport) (fun h => h hcons)
  · obtain ⟨tr, body, hx, hb⟩ := runsQuiet i (by rw [hi]; rfl)
    rw [hx] at h
    have hq := quiet_runBeat hb h
    exact ⟨hq.mem, hq.slices, hq.scratch⟩

end Sys2Proof.ElementFrame

/-! PROOFS that replies, queues, accesses of engines and home slices keep the two invariants (10 R194-R196, 03 R35-R37, 14 R246-R248,
15 R267-R288). -/

namespace Sys2Proof.Kept
open Sys2Proof Sys2Proof.Machine Sys2Proof.Safety Sys2Proof.Laws Sys2Proof.ElementBeats

variable {v : Kind}

theorem holds_ite {c : Prop} [Decidable c] {s t : State} (hs : v.Holds s) (ht : v.Holds t) : v.Holds (if c then s else t) := by
  split
  · exact hs
  · exact ht

/-! ## Beats and replies -/

section
variable (s : State)

@[simp] theorem holds_acceptToken (b n : Nat) (l : Link) (t : Token) : v.Holds (s.acceptToken b n l t) ↔ v.Holds s :=
  (quiet_acceptToken s b n l t).holds v
@[simp] theorem holds_deliver (k n : Nat) : v.Holds (s.deliver k n) ↔ v.Holds s := (quiet_deliver s k n).holds v
@[simp] theorem holds_deliverSelf (k : Nat) : v.Holds (s.deliverSelf k) ↔ v.Holds s := (quiet_deliverSelf s k).holds v
@[simp] theorem holds_endBeat (k : Nat) (e : Elem) (x : Issue) : v.Holds (s.endBeat k e x) ↔ v.Holds s := (quiet_endBeat s k e x).holds v
@[simp] theorem holds_faultBeat (k : Nat) (e : Elem) (n c : Nat) (m : Bool) (d a : Nat) :
    v.Holds (s.faultBeat k e n c m d a) ↔ v.Holds s := (quiet_faultBeat s k e n c m d a).holds v

@[simp] theorem holds_endHeld (k n : Nat) (e : Elem) : v.Holds (s.endHeld k n e) ↔ v.Holds s := by
  unfold State.endHeld
  split
  · split <;> simp
  · simp

@[simp] theorem holds_failRequest (k n c d a : Nat) : v.Holds (s.failRequest k n c d a) ↔ v.Holds s := by
  unfold State.failRequest
  split
  · rfl
  · split
    · rfl
    · dsimp only
      split
      · simp
      · split <;> simp

@[simp] theorem holds_finishRequest (k n w : Nat) (x : Bool) (f : Flags) (g : Elem → Elem) :
    v.Holds (s.finishRequest k n w x f g) ↔ v.Holds s := by
  unfold State.finishRequest
  split
  · rfl
  · split
    · rfl
    · split
      · simp
      · dsimp only
        split <;> simp

/-! ## Queues and counters (03 R35-R37) -/

@[simp] theorem holds_acceptCommand (f q : Nat) (a : Accepted) : v.Holds (s.acceptCommand f q a) ↔ v.Holds s := by
  simp [State.acceptCommand]

@[simp] theorem holds_enqueue (f l : Nat) (c : QCommand) (src : CmdSource) (o : Nat) (cs : List Nat) :
    v.Holds (s.enqueue f l c src o cs).1 ↔ v.Holds s := (quiet_enqueue s f l c src o cs).holds v

@[simp] theorem holds_arrive (f n : Nat) (b : Bool) : v.Holds (s.arrive f n b) ↔ v.Holds s := by simp [State.arrive]
@[simp] theorem holds_setCounter (f n x : Nat) : v.Holds (s.setCounter f n x) ↔ v.Holds s := by simp [State.setCounter]

@[simp] theorem holds_arriveOrMark (f n : Nat) (b : Bool) (p : Option Nat) : v.Holds (s.arriveOrMark f n b p) ↔ v.Holds s := by
  unfold State.arriveOrMark
  split <;> simp

@[simp] theorem holds_childArrives (f n : Nat) (b : Bool) (p : Option Nat) : v.Holds (s.childArrives f n b p) ↔ v.Holds s := by
  unfold State.childArrives
  split <;> simp

end

section
variable {s : State}

theorem holds_writeStatus (h : v.Holds s) (q e n : Nat) : v.Holds (s.writeStatus q e n) := holds_writeBytes h ..

theorem holds_completeCommand (h : v.Holds s) (q : Nat) (a : Accepted) (n : Nat) (p : Option Nat) :
    v.Holds (s.completeCommand q a n p) := by
  unfold State.completeCommand
  dsimp only
  generalize hu : ((s.modQueue q fun h => { h with accepted := h.accepted.filter (·.id != a.id) }).modFn a.fn fun f =>
    { f with used := f.used - 1 }) = u
  have h1 : v.Holds u := by simpa [← hu] using h
  have h2 : v.Holds (match a.entry with
      | some e => if n == 0 then u else u.writeStatus q e n
      | none => u) := by
    split
    · split
      · exact h1
      · exact holds_writeStatus h1 ..
    · exact h1
  split
  · exact h2
  · exact (holds_arriveOrMark ..).2 h2

end

/-! ## Accesses of engines (14 R246-R248) -/

section
variable (s : State)

@[simp] theorem holds_access (a : Access) : v.Holds (s.access a).1 ↔ v.Holds s := by
  unfold State.access
  split <;> simp

@[simp] theorem holds_takeBank (k n : Nat) : v.Holds (s.takeBank k n) ↔ v.Holds s := by simp [State.takeBank]
@[simp] theorem holds_takeBanks (k : Nat) : v.Holds (s.takeBanks k) ↔ v.Holds s := by simp [State.takeBanks]

@[simp] theorem holds_sendHome (k : Nat) (l : List HomeReq) : v.Holds (s.sendHome k l) ↔ v.Holds s := by
  unfold State.sendHome
  split
  · rfl
  · dsimp only
    split <;> simp [State.takeFree]

@[simp] theorem holds_shuffle {α : Type} (n : Nat) : ∀ (s : State) (l : List α), v.Holds (s.shuffle n l).1 ↔ v.Holds s := by
  induction n with
  | zero => exact fun _ _ => Iff.rfl
  | succ n ih =>
    intro s l
    unfold State.shuffle
    split
    · rfl
    · dsimp only [State.takeFree]
      split
      · simp
      · next x _ =>
        rw [show ∀ y : State × List α, (match y with | (s, rest) => (s, x :: rest) : State × List α).1 = y.1 from fun _ => rfl, ih]
        simp

@[simp] theorem holds_setWork (k : Nat) (w : Work) : v.Holds (s.setWork k w) ↔ v.Holds s := by simp [State.setWork]
@[simp] theorem holds_dropStream (k n : Nat) : v.Holds (s.dropStream k n) ↔ v.Holds s := by simp [State.dropStream]
@[simp] theorem holds_dropEngine (k : Nat) : v.Holds (s.dropEngine k) ↔ v.Holds s := by simp [State.dropEngine]
@[simp] theorem holds_dropWorks (k : Nat) : v.Holds (s.dropWorks k) ↔ v.Holds s := by simp [State.dropWorks]
@[simp] theorem holds_takePiece (a b : Nat) (x : Answer) : v.Holds (s.takePiece a b x) ↔ v.Holds s := by simp [State.takePiece]
@[simp] theorem holds_takePort : v.Holds s.takePort.1 ↔ v.Holds s := by simp [State.takePort, State.takeFree]

@[simp] theorem holds_sendRead (k : Nat) (w : Work) (a : Access) (r x : Nat) (g : Gazette) : v.Holds (s.sendRead k w a r x g) ↔ v.Holds s := by
  unfold State.sendRead
  have h := holds_takePort (v := v) s
  split <;> (rename_i e; simp [e] at h; simp [h])

@[simp] theorem holds_awaitRead (k : Nat) (w : Work) (a : Access) : v.Holds (s.awaitRead k w a) ↔ v.Holds s := by
  unfold State.awaitRead
  dsimp only [State.takeFree]
  split <;> simp

end

section
variable {s : State}

@[simp] theorem holds_watchAccess (h : v.Holds s) (w : Work) (a : Access) : v.Holds (s.watchAccess w a) := by
  unfold State.watchAccess
  split
  · exact h
  · dsimp only
    split <;> exact holds_watch h ..

theorem holds_scratchPiece (h : v.Holds s) (k : Nat) (w : Work) (a : Access) (t o : Nat) : v.Holds (s.scratchPiece k w a t o) := by
  unfold State.scratchPiece
  split
  · simpa using h
  · next p _ _ =>
    dsimp only
    split
    · simpa using h
    · generalize hu : (if w.accepted.contains ((o + p) / 64) then s else s.takeBank t (o + p)) = u
      have h1 : v.Holds u := by
        rw [← hu]
        split <;> simpa using h
      split
      · exact (holds_setWork ..).2 (holds_scratchWrite h1 ..)
      · exact (holds_setWork ..).2 (holds_scratchRead h1 ..)

theorem holds_scratchStart (h : v.Holds s) (k : Nat) (w : Work) (a : Access) (t o : Nat) : v.Holds (s.scratchStart k w a t o) := by
  unfold State.scratchStart
  have h1 := holds_watchAccess h w a
  dsimp only
  split
  · simpa [touchGuard_scratch] using h1
  · exact holds_scratchPiece ((holds_shuffle ..).2 h1) ..

theorem holds_rankTarget (h : v.Holds s) (b r a : Nat) : v.Holds (s.rankTarget b r a).1 := by
  unfold State.rankTarget
  dsimp only
  split
  · exact h
  · next g _ =>
    split
    · exact h
    · split
      · exact h
      · split
        · exact h
        · have h1 := (holds_sendKey (v := v) s b (loadFn s b) g.bh g.key true).2 h
          split
          · next s' e =>
            have h2 : v.Holds s' := holds_of_eq e h1
            have h3 := holds_translate h2 .none g.bh ((holder s' g.bh).getD 0) (loadPasid s' g.bh) a .read
            split
            · exact h2
            · split
              · next e' => exact holds_of_eq e' h3
              · next s'' pa e' => exact (holds_reach ..).2 (holds_of_eq e' h3)
          · next e => exact holds_of_eq e h1

theorem holds_placeTarget (h : v.Holds s) (w : Work) (a : Access) : v.Holds (s.placeTarget w a).1 := by
  unfold State.placeTarget
  split
  · exact h
  · exact holds_rankTarget h ..
  · exact h
  · exact holds_resolve h ..

theorem holds_deviceStart (h : v.Holds s) (k : Nat) (w : Work) (a : Access) : v.Holds (s.deviceStart k w a) := by
  have h1 := holds_placeTarget h w a
  unfold State.deviceStart
  dsimp only
  refine holds_ite (by simpa using h) ?_
  split
  · next s' g e =>
    have h2 : v.Holds s' := holds_of_eq e h1
    split <;> simpa using h2
  · next s' c e =>
    have h2 : v.Holds s' := holds_of_eq e h1
    simp [h2]
  · next s' x via e =>
    have h2 : v.Holds s' := holds_of_eq e h1
    have h3 := holds_watchAccess h2 w a
    split
    · simpa using h3
    · split
      · simpa using h2
      · split
        · simpa using h2
        · simpa using h3

theorem holds_progress (h : v.Holds s) (k : Nat) (w : Work) (a : Access) : v.Holds (s.progress k w a) := by
  unfold State.progress
  split
  · split
    · exact holds_scratchPiece h ..
    · split <;> simpa using h
    · simpa using h
  · split
    · exact holds_scratchStart h ..
    · exact holds_deviceStart h ..

/-- An attempt of a step whose body keeps the invariants. -/
theorem holds_attempt {α : Type} (h : v.Holds s) {k b n r : Nat} {body : State → State × α}
    (hb : ∀ a, v.Holds (body { s with asking := a }).1) : v.Holds (s.attempt k b n r body).1 := by
  unfold State.attempt
  dsimp only
  split
  · exact holds_progress (by simpa using h) ..
  · simpa using hb _

end

/-! ## Home slices (15 R267-R288) -/

section
variable (s : State)

@[simp] theorem holds_reply (r : Reply) : v.Holds (s.reply r) ↔ v.Holds s := by simp [State.reply]
@[simp] theorem holds_remoteReply (a b c d : Nat) : v.Holds (s.remoteReply a b c d) ↔ v.Holds s := by simp [State.remoteReply]
@[simp] theorem holds_remoteSent (a b : Nat) (p : Option Nat) : v.Holds (s.remoteSent a b p) ↔ v.Holds s := by simp [State.remoteSent]
@[simp] theorem holds_dropUnsent (p : Nat → Bool) : v.Holds (s.dropUnsent p) ↔ v.Holds s := by simp [State.dropUnsent]

@[simp] theorem holds_answerSource (k : Nat) (o : Source) (i n x : Nat) (f : Flags) (a : Bool) (w : Word) :
    v.Holds (s.answerSource k o i n x f a w) ↔ v.Holds s := by
  unfold State.answerSource
  split <;> simp

@[simp] theorem holds_answerAtomic (a : RemoteAtomic) (n o : Nat) : v.Holds (s.answerAtomic a n o) ↔ v.Holds s := by
  simp [State.answerAtomic]

@[simp] theorem holds_answerPiece (k : Nat) (r : HomeReq) (n x : Nat) (p : Bool) : v.Holds (s.answerPiece k r n x p) ↔ v.Holds s := by
  unfold State.answerPiece
  split <;> simp

@[simp] theorem holds_launchLog (k : Nat) (a d : Word) (n c : Nat) (e : BitVec 16) : v.Holds (s.launchLog k a d n c e) ↔ v.Holds s := by
  simp [State.launchLog]

@[simp] theorem holds_beginLaunch (k n : Nat) (l : Launch) : v.Holds (s.beginLaunch k n l) ↔ v.Holds s := by
  unfold State.beginLaunch
  dsimp only
  split
  · simp
  · split <;> simp

@[simp] theorem holds_grantWaiters (k sem n : Nat) : ∀ s : State, v.Holds (s.grantWaiters k sem n) ↔ v.Holds s := by
  induction n with
  | zero => exact fun _ => Iff.rfl
  | succ n ih =>
    intro s
    unfold State.grantWaiters
    dsimp only
    split
    · rfl
    · next w _ =>
      split
      · rw [ih]
        split
        · have hh (y : Tile) : (match y.hold with
            | .swait _ _ id => if id == w.id then { y with hold := .granted } else y
            | _ => y).scratch = y.scratch := by
            split
            · split <;> rfl
            · rfl
          rw [holds_modTile _ _ _ (hh _), holds_answerSource, holds_trace]
          exact holds_setSlice_iff _ _ _ rfl
        · rw [holds_answerSource, holds_trace]
          exact holds_setSlice_iff _ _ _ rfl
      · rfl

@[simp] theorem holds_grant (k sem : Nat) : v.Holds (s.grant k sem) ↔ v.Holds s := holds_grantWaiters ..

@[simp] theorem holds_semSignal (k sem n : Nat) : v.Holds (s.semSignal k sem n).1 ↔ v.Holds s := by
  unfold State.semSignal
  dsimp only
  split
  · simp
  · rw [holds_grant, holds_trace]
    exact holds_setSlice_iff _ _ _ rfl

@[simp] theorem holds_semWait (k sem n : Nat) (o : Source) (i : Nat) : v.Holds (s.semWait k sem n o i).1 ↔ v.Holds s := by
  unfold State.semWait
  dsimp only
  split
  · simp
  · rw [holds_grant, holds_trace]
    exact holds_setSlice_iff _ _ _ rfl

@[simp] theorem holds_sendEngineSem (b e sem i : Nat) (o : HomeOp) : v.Holds (s.sendEngineSem b e sem i o) ↔ v.Holds s := by
  simp [State.sendEngineSem]
@[simp] theorem holds_engineSignal (b e sem n : Nat) : v.Holds (s.engineSignal b e sem n) ↔ v.Holds s := by simp [State.engineSignal]

@[simp] theorem holds_swaitBusy (o : Source) (i : Nat) : v.Holds (s.swaitBusy o i) ↔ v.Holds s := by
  unfold State.swaitBusy
  split
  · refine holds_modTile _ _ _ ?_
    split
    · split <;> rfl
    · rfl
  · rfl

@[simp] theorem holds_retireRequest (o : Source) (i : Nat) : v.Holds (s.retireRequest o i) ↔ v.Holds s := by
  unfold State.retireRequest
  split <;> simp

@[simp] theorem holds_withdrawn (k : Nat) (p : Pending) : v.Holds (s.withdrawn k p) ↔ v.Holds s := by simp [State.withdrawn]

@[simp] theorem holds_acknowledge (o : Source) (i : Nat) : v.Holds (s.acknowledge o i) ↔ v.Holds s := by
  unfold State.acknowledge
  split
  · split <;> simp
  · rfl

@[simp] theorem holds_refuseReq (k : Nat) (r : HomeReq) (c : Nat) : v.Holds (s.refuseReq k r c) ↔ v.Holds s := by
  unfold State.refuseReq
  split
  · simp
  · split <;> simp

end

section
variable {s : State}

theorem holds_applyAmo (h : v.Holds s) (k : Nat) (r : HomeReq) (o n x c : Nat) : v.Holds (s.applyAmo k r o n x c) := by
  have h1 := holds_homeRead h (reqHome s k r.pa) n r.cls r.reads false
  unfold State.applyAmo
  dsimp only
  split
  · simpa using h1
  · rw [holds_answerSource]
    split
    · exact h1
    · exact holds_homeWrite h1 ..

theorem holds_applyAmoc (h : v.Holds s) (k : Nat) (r : HomeReq) (o n x c : Nat) (d : Word) : v.Holds (s.applyAmoc k r o n x c d) := by
  have h1 := holds_homeRead h (reqHome s k r.pa) n r.cls r.reads false
  unfold State.applyAmoc
  split
  · simpa using h
  · dsimp only
    split
    · simpa using h1
    · have h2 : ∀ w : Option Nat, v.Holds (match w with
          | none => (s.homeRead (reqHome s k r.pa) n r.cls r.reads false).s
          | some y => (s.homeRead (reqHome s k r.pa) n r.cls r.reads false).s.homeWrite (reqHome s k r.pa) y n r.cls r.reads false (some r.src)) := by
        intro w
        split
        · exact h1
        · exact holds_homeWrite h1 ..
      split
      · rw [holds_beginLaunch]
        exact h2 _
      · rw [holds_answerSource]
        exact h2 _

theorem holds_fetchAndPut (h : v.Holds s) (x : Home) (cls reads : Nat) :
    v.Holds ((s.fetchLine x cls reads).1.putLine x (s.fetchLine x cls reads).2.1) :=
  h.of_bytes (fun h => canonical_putLine (canonical_fetchLine h x cls reads).1 x (canonical_fetchLine h x cls reads).2)
    (by simp)

theorem holds_applyReq (h : v.Holds s) (k : Nat) (r : HomeReq) : v.Holds (s.applyReq k r) := by
  unfold State.applyReq
  split
  · simpa using h
  · split
    · simpa using h
    · dsimp only
      split
      · next size sgn mask fwd _ =>
        have h1 := holds_homeRead h (reqHome s k r.pa) size r.cls r.reads r.counts
        split
        · split <;> simpa using h1
        · split <;> simpa using h1
      · next size data _ =>
        have h1 := holds_homeWrite h (reqHome s k r.pa) data size r.cls r.reads r.mark (some r.src) r.whole
        split <;> simpa using h1
      · exact holds_applyAmo h ..
      · exact holds_applyAmoc h ..
      · next sem n _ =>
        have h1 := (holds_semSignal (v := v) s k sem n).2 h
        split
        · split
          · exact h1
          · simpa using h1
        · simpa using h1
      · next sem n _ =>
        have h1 := (holds_semWait (v := v) s k sem n r.src r.id).2 h
        split
        · next e => exact holds_of_eq e h1
        · next s' _ _ e =>
          have h2 : v.Holds s' := holds_of_eq e h1
          simpa using h2
      · split
        · exact h
        · simpa using h
      · rw [holds_retireRequest, holds_answerPiece]
        exact holds_fetchAndPut h ..

theorem holds_homeSliceApply (h : v.Holds s) (k : Nat) : v.Answers (execHomeSliceApply k s) := by
  unfold execHomeSliceApply
  split
  · exact h
  · exact holds_applyReq (by simpa using h) ..

theorem holds_semcntWrite (h : v.Holds s) (f b sem : Nat) (w : Word) : v.Answers (execSemcntWrite f b sem w s) := by
  unfold execSemcntWrite
  split <;> simpa using h

theorem holds_continuationLaunchEnd (h : v.Holds s) (k n : Nat) : v.Answers (execContinuationLaunchEnd k n s) := by
  unfold execContinuationLaunchEnd
  split
  · exact h
  · next l _ =>
    dsimp only
    split
    · split
      · exact h
      · have h1 (f a : Nat) (c : QCommand) (o : Nat) : v.Holds (s.enqueue f a c .continuation o []).1 := (holds_enqueue ..).2 h
        split
        · next s' e =>
          have h2 : v.Holds s' := holds_of_eq e (h1 ..)
          simpa using h2
        · next s' _ _ e =>
          have h2 : v.Holds s' := holds_of_eq e (h1 ..)
          simpa using h2
    · split
      · exact h
      · rw [answers_next, holds_answerSource]
        split <;> simpa using h

end

end Sys2Proof.Kept

/-! PROOFS that the steps of an element's requests after their fire keep the two invariants (06 R96-R118, 10 R199, 14 R248-R258, 17 R319,
21 R345). -/

namespace Sys2Proof.Kept
open Sys2Proof Sys2Proof.Machine Sys2Proof.Safety Sys2Proof.Laws Sys2Proof.ElementBeats

variable {v : Kind}

theorem holds_iff_of_eq {α : Type} {x : State × α} {s t : State} {a : α} (e : x = (t, a)) (h : v.Holds x.1 ↔ v.Holds s) :
    v.Holds t ↔ v.Holds s := by
  rw [e] at h
  exact h

/-! ## Tokens and shuttles -/

section
variable (s : State)

@[simp] theorem holds_endLaunch (l : Option (Nat × Nat)) (n c : Nat) : v.Holds (s.endLaunch l n c) ↔ v.Holds s := by
  unfold State.endLaunch
  split <;> simp

@[simp] theorem holds_arriveShuttle (b i : Nat) (x : Shuttle) : v.Holds (s.arriveShuttle b i x) ↔ v.Holds s := by
  unfold State.arriveShuttle
  dsimp only
  split
  · simp
  · split
    · simp
    · split
      · simp
      · split
        · simp
        · split <;> simp

theorem answers_sendQueueDrain (k : Nat) : v.Answers (execSendQueueDrain k s) ↔ v.Holds s := by
  unfold execSendQueueDrain
  split
  · rfl
  · split <;> simp

theorem answers_shuttleArrival (b i : Nat) : v.Answers (execShuttleArrival b i s) ↔ v.Holds s := by
  unfold execShuttleArrival
  dsimp only
  split
  · rfl
  · split <;> simp

/-! ## Hand-over (14 R249) -/

@[simp] theorem holds_applyArrive (f : Nat) (a b : Word) : v.Holds (s.applyArrive f a b).1 ↔ v.Holds s := by
  unfold State.applyArrive
  split <;> simp

@[simp] theorem holds_markStores (k i o : Nat) (b : Bool) : v.Holds (s.markStores k i o b) ↔ v.Holds s := by simp [State.markStores]
@[simp] theorem holds_demand (k e a : Nat) : v.Holds (s.demand k e a) ↔ v.Holds s := by simp [State.demand]

@[simp] theorem holds_sendRemote (k : Nat) (r : Req) (o n x c q t : Nat) : v.Holds (s.sendRemote k r o n x c q t) ↔ v.Holds s := by
  unfold State.sendRemote
  dsimp only
  split
  · simp
  · split
    · simp
    · split
      · split <;> simp
      · simp

@[simp] theorem holds_sendPortal (k : Nat) (e : Elem) (r : Req) (o n x c p q : Nat) :
    v.Holds (s.sendPortal k e r o n x c p q) ↔ v.Holds s := by
  unfold State.sendPortal
  dsimp only
  split
  · rfl
  · split
    · simp
    · split
      · simp
      · split
        · rfl
        · split <;> simp

@[simp] theorem holds_sendSem (k : Nat) (r : Req) (b n : Nat) (o : HomeOp) : v.Holds (s.sendSem k r b n o) ↔ v.Holds s := by
  unfold State.sendSem
  dsimp only
  split
  · next e => simp [holds_iff_of_eq e (holds_gate ..)]
  · next e => simp [holds_iff_of_eq e (holds_gate ..)]

end

section
variable {s : State}

theorem holds_sendAtomic (h : v.Holds s) (k : Nat) (e : Elem) (r : Req) (n : Nat) (o : HomeOp) : v.Holds (s.sendAtomic k e r n o) := by
  unfold State.sendAtomic
  dsimp only
  split
  · exact h
  · split
    all_goals (rename_i e; have h1 := holds_of_eq e (holds_resolve (by simpa using holds_watch (by simpa using h) ..) ..))
    · split <;> simpa using h1
    · simpa using h1

theorem holds_placePieces (k : Nat) (n : Nat) : ∀ {s : State}, v.Holds s → ∀ a, v.Holds (s.placePieces k a n).1 := by
  induction n with
  | zero => exact fun h _ => h
  | succ n ih =>
    intro s h a
    unfold State.placePieces
    dsimp only
    split
    all_goals (rename_i e; have h1 := holds_of_eq e (holds_resolve h ..))
    · exact h1
    · have h2 := ih h1 (a + 8)
      split <;> next e => exact holds_of_eq e h2

theorem holds_handOverPage (h : v.Holds s) (k : Nat) (e : Elem) (r : Req) (n : Nat) (w : Word) (a b c q : Nat) :
    v.Holds (s.handOverPage k e r n w a b c q) := by
  unfold State.handOverPage
  dsimp only
  split
  · simpa using h
  · split
    · exact h
    · have h1 := holds_placePieces k 34 (v := v) (s := s.setElem k (e.leaveQueue r.id true)) (by simpa using h) a
      split <;> next e => simpa using holds_of_eq e h1

theorem holds_handOverBarrier (h : v.Holds s) (k : Nat) (e : Elem) (r : Req) : v.Holds (s.handOverBarrier k e r) := by
  unfold State.handOverBarrier
  dsimp only
  split
  · split
    · exact holds_sendAtomic h ..
    · split
      · split <;> simpa using h
      · simpa using h
  · exact holds_sendAtomic h ..
  · split <;> simpa using h
  · split <;> simpa using h
  · simpa using h
  · simpa using h
  · simpa using h
  · simpa using h
  · exact holds_handOverPage h ..
  · exact h

theorem holds_handOver (h : v.Holds s) (k : Nat) : v.Holds (s.handOver k) := by
  unfold State.handOver
  split
  · exact h
  · split
    · exact h
    · refine holds_ite h ?_
      split
      · dsimp only
        exact holds_ite (holds_handOverBarrier h ..) h
      · dsimp only
        split
        · split <;> simpa using h
        · split <;> simpa using h
        · split <;> simpa using h
        · split <;> simpa using h

/-! ## Perform (10 R199, 14 R248) -/

@[simp] theorem holds_countServe (s : State) (k : Nat) : v.Holds (s.countServe k) ↔ v.Holds s := by
  unfold State.countServe
  split <;> simp

theorem holds_prefetchTarget (h : v.Holds s) (o : TlbOf) (b f p a : Nat) (l : Option Nat) : v.Holds (s.prefetchTarget o b f p a l).1 := by
  have hc (u : State) (hu : v.Holds u) (t : TlbEntry) :
      v.Holds (if (!t.rd || t.np || t.ns) = true then (u, none)
        else if cxlNonSpeculative u (t.pa + a % 2 ^ t.log2) = true then (u, none)
        else match homeOf u (t.pa + a % 2 ^ t.log2) with
          | none => (u, none)
          | some h => if (!cxlUp u h) = true then (u, none) else if ((u.gate b f h.bh).2 == 0) = true then (u, some h) else (u, none)).1 := by
    split
    · exact hu
    · split
      · exact hu
      · split
        · exact hu
        · split
          · exact hu
          · split <;> exact hu
  unfold State.prefetchTarget
  dsimp only
  split
  · exact h
  · split
    · exact hc _ h _
    · split
      · exact h
      · split
        · exact h
        · have h1 := holds_walk h o b f p (a % 2 ^ 57)
          split
          · next e => exact holds_of_eq e h1
          · next e =>
            have h2 := holds_of_eq e h1
            split
            · exact hc _ (by simpa using h2) _
            · exact h2

theorem holds_resolveReq (h : v.Holds s) (k : Nat) (r : Req) (n : Need) : v.Holds (s.resolveReq k r n).1 := by
  unfold State.resolveReq
  split
  · exact h
  · exact holds_resolve h ..

theorem holds_performLoad (h : v.Holds s) (k : Nat) (r : Req) (n : Nat) (g : Bool) : v.Holds (s.performLoad k r n g) := by
  unfold State.performLoad
  dsimp only
  split
  · have h1 := holds_scratchRead (v := v) (s := (s.modElem r.elem (·.modPending r.id fun p => { p with performed := true, miss := false })).takeBank k r.va)
      (by simpa using h) k r.va n kindElement
    split <;> simpa using h1
  · have h1 := holds_resolveReq (v := v) (s := s.demand k r.elem r.va) (by simpa using h) k r .read
    split <;> next e => simpa using holds_of_eq e h1

theorem holds_performStore (h : v.Holds s) (k : Nat) (r : Req) (n x : Nat) : v.Holds (s.performStore k r n x) := by
  unfold State.performStore
  dsimp only
  split
  · simpa using h
  · have h1 := holds_resolveReq (v := v) (s := s.demand k r.elem r.va) (by simpa using h) k r .write
    split <;> next e => simpa using holds_of_eq e h1

theorem holds_performPrefetch (h : v.Holds s) (k : Nat) (r : Req) : v.Holds (s.performPrefetch k r) := by
  unfold State.performPrefetch
  dsimp only
  have h1 := holds_prefetchTarget h (.tile k) (bhOf r.elem) (loadFn s (bhOf r.elem)) (loadPasid s (bhOf r.elem)) r.va
    (tget? (s.tile k).lastDemand (addrOf r.elem))
  split
  · split <;> simpa using h1
  · simpa using h1

@[simp] theorem stepWave_scratch (t : Tile) (i : Nat) (r : Req) : (t.stepWave i r).scratch = t.scratch := by
  unfold Tile.stepWave
  dsimp only
  split
  · rfl
  · split <;> rfl

theorem holds_perform (h : v.Holds s) (k i : Nat) (r : Req) : v.Holds (s.perform k i r) := by
  have hm : v.Holds ((s.countServe k).modTile k fun t => t.stepWave i r) := by simpa using h
  unfold State.perform
  dsimp only
  refine holds_ite h ?_
  split
  · exact holds_watch (holds_performLoad hm ..) ..
  · exact holds_watch (holds_performStore hm ..) ..
  · exact holds_performPrefetch hm ..
  · simpa using h

theorem holds_performRequest (h : v.Holds s) (k i : Nat) : v.Answers (execPerformRequest k i s) := by
  unfold execPerformRequest
  dsimp only
  split
  · exact h
  · split
    · exact holds_perform h ..
    · exact h

theorem holds_storeBufferDrain (h : v.Holds s) (k : Nat) : v.Answers (execStoreBufferDrain k s) := by
  unfold execStoreBufferDrain
  split
  · exact h
  · dsimp only
    split
    · split
      · exact h
      · rw [answers_next, holds_modElem]
        exact holds_scratchWrite (by simpa using h) ..
    · split
      · exact h
      · split
        · simpa using h
        · split <;> simpa using h

theorem holds_pageWalk (h : v.Holds s) (k i : Nat) : v.Answers (execPageWalk k i s) := by
  unfold execPageWalk
  split
  · exact h
  · dsimp only
    split
    · simpa using h
    · split
      · split
        all_goals (rename_i e; have h1 := holds_of_eq e (holds_lookup (by simpa using h) ..))
        · exact h1
        · simpa using h1
      · split <;> simpa using h

/-! ## Return (14 R248, 10 R194-R196, 15 R271-R279) -/

@[simp] theorem holds_finishFaulted (s : State) (k i w : Nat) (x : Bool) (f : Elem → Elem) (c d a : Nat) :
    v.Holds (s.finishFaulted k i w x f c d a) ↔ v.Holds s := by
  unfold State.finishFaulted
  split
  · rfl
  · split
    · rfl
    · split
      · simp
      · dsimp only
        split <;> simp

@[simp] theorem holds_takeReply (s : State) (r : Reply) : v.Holds (s.takeReply r) ↔ v.Holds s := by
  unfold State.takeReply
  split
  · rfl
  · split
    · rfl
    · dsimp only
      split
      · split <;> simp
      · split <;> simp
      · simp
      · simp
      · simp
      · simp
      · split
        · simp
        · split <;> simp

theorem answers_replyReturn (s : State) (b i : Nat) : v.Answers (execReplyReturn b i s) ↔ v.Holds s := by
  unfold execReplyReturn
  split
  · rfl
  · split
    · rfl
    · dsimp only
      split <;> simp

/-! ## Fences (14 R251, R256, R258) -/

/-- What an invariant asks of a cached line. -/
def Kind.Line : Kind → CacheLine → Prop
  | .memory, l => l.data.wf = true
  | .setUp, _ => True

theorem Kind.Holds.line (h : v.Holds s) {p : Nat × Slice} (hp : p ∈ s.slices) {l : CacheLine} (hl : l ∈ p.2.cache) : v.Line l := by
  cases v with
  | memory =>
    obtain ⟨_, hs, _⟩ := h
    exact (hs p hp).1 l hl
  | setUp => trivial

theorem Kind.Holds.sliceLine (h : v.Holds s) {k : Nat} {l : CacheLine} (hl : l ∈ (s.slice k).cache) : v.Line l := by
  cases v with
  | memory => exact (canonical_slice h k).1 l hl
  | setUp => trivial

theorem holds_writeBack (h : v.Holds s) {l : CacheLine} (hl : v.Line l) : v.Holds (s.writeBack l) := by
  cases v with
  | memory => exact canonical_writeBack h hl
  | setUp => simpa using h

/-- A change of what a slice notes of its lines. -/
theorem holds_mapLines (h : v.Holds s) (k : Nat) {f : CacheLine → CacheLine} (hd : ∀ l, (f l).data = l.data) (hf : ∀ l, (f l).line = l.line) :
    v.Holds (s.modSlice k fun x => { x with cache := x.cache.map f }) := by
  cases v with
  | memory =>
    obtain ⟨hw, hn⟩ := canonical_slice h k
    refine canonical_setSlice h k ⟨fun l hl => ?_, ?_⟩
    · obtain ⟨y, hy, rfl⟩ := List.mem_map.1 hl
      rw [hd]
      exact hw y hy
    · simpa [List.map_map, Function.comp_def, hf] using hn
  | setUp => simpa using h

theorem holds_cleanLine (h : v.Holds s) (k : Nat) {l : CacheLine} (hl : v.Line l) : v.Holds (s.cleanLine k l) := by
  refine holds_mapLines (holds_writeBack h hl) k (fun y => ?_) fun y => ?_
  all_goals split <;> rfl

/-- A fold whose step keeps the invariants. -/
theorem holds_foldl {α : Type} {f : State → α → State} (l : List α) (hf : ∀ u, ∀ x ∈ l, v.Holds u → v.Holds (f u x)) :
    ∀ {s : State}, v.Holds s → v.Holds (l.foldl f s) := by
  induction l with
  | nil => exact fun h => h
  | cons x l ih =>
    exact fun h => ih (fun u y hy => hf u y (List.mem_cons_of_mem _ hy)) (hf _ x List.mem_cons_self h)

theorem fenceLine (h : v.Holds s) {k : Nat} {f : Fence} {p : Nat × CacheLine} (hp : p ∈ fenceLines s k f) : v.Line p.2 := by
  unfold fenceLines at hp
  dsimp only at hp
  split at hp
  · obtain ⟨q, hq, hp⟩ := List.mem_flatMap.1 (List.mem_filter.1 hp).1
    obtain ⟨l, hl, rfl⟩ := List.mem_map.1 hp
    exact h.line hq (List.mem_filter.1 hl).1
  · cases hp

theorem holds_fenceComplete (h : v.Holds s) (k : Nat) : v.Answers (execFenceComplete k s) := by
  unfold execFenceComplete
  split
  · exact h
  · split
    · exact h
    · split
      · rw [answers_next, holds_modElem]
        exact holds_foldl _ (fun u p hp hu => holds_cleanLine hu _ (fenceLine h hp)) h
      · exact h

theorem answers_fencehReply (s : State) (b i : Nat) : v.Answers (execFencehReply b i s) ↔ v.Holds s := by
  unfold execFencehReply
  split
  · rfl
  · dsimp only
    split <;> simp

/-! ## Pages and retirement (17 R319, 21 R345) -/

@[simp] theorem holds_fetchPieces (w : Bool) (c r : Nat) (l : List Nat) : ∀ s : State, v.Holds (s.fetchPieces w c r l).1 ↔ v.Holds s := by
  induction l with
  | nil => exact fun _ => Iff.rfl
  | cons a l ih =>
    intro s
    unfold State.fetchPieces
    dsimp only
    have h1 := holds_access (v := v) s { place := .phys a, size := 8, need := .exec, cls := c, reads := r }
    split
    · exact h1
    · split <;> next e => exact (holds_iff_of_eq e (ih _)).trans h1

@[simp] theorem holds_rejectPage (s : State) (k i p c n a : Nat) : v.Holds (s.rejectPage k i p c n a) ↔ v.Holds s := by
  simp [State.rejectPage]
@[simp] theorem holds_selectPage (s : State) (k r p : Nat) (x : Option Page) : v.Holds (s.selectPage k r p x) ↔ v.Holds s := by
  simp [State.selectPage]

@[simp] theorem holds_fetchPage (s : State) (k : Nat) (e : Elem) (p : Pending) : v.Holds (s.fetchPage k e p) ↔ v.Holds s := by
  unfold State.fetchPage
  split
  · split
    · simp
    · split
      · simp
      · split
        · simp
        · split
          · next e => simp [holds_iff_of_eq e (holds_fetchPieces ..)]
          · next e =>
            have h1 := holds_iff_of_eq e (holds_fetchPieces (v := v) ..)
            dsimp only
            split
            · simpa using h1
            · split <;> simpa using h1
  · rfl

theorem holds_pageFetchInstall (h : v.Holds s) (k : Nat) : v.Answers (execPageFetchInstall k s) := by
  unfold execPageFetchInstall
  split
  · exact h
  · split
    · exact h
    · exact holds_attempt h fun a => by simpa using h

theorem answers_elementRetire (s : State) (k : Nat) : v.Answers (execElementRetire k s) ↔ v.Holds s := by
  unfold execElementRetire
  split
  · rfl
  · split <;> simp

end

end Sys2Proof.Kept

/-! PROOFS of the statements on an element's next beats, tokens, shuttles and the hand-over of its requests (06 R93-R118, 14 R249, R252). -/

namespace Sys2Proof.ElementSteps
open Sys2Proof Sys2Proof.Machine Sys2Proof.Safety Sys2Proof.Laws Sys2Proof.Arithmetic

variable {s : State} {key : Nat} {e : Elem}

/-! ## Next beats, tokens, shuttles -/

theorem vectorBeat_eq {y : Issue} {i : Instr} (he : s.elem? key = some e) (hy : e.issue = some y) (hd : decodeWord y.word y.lit = .ok i)
    (hi : (formOf i).isSome = true) : exec (.vectorBeat key) s = exec i { s with focus := .elem key y.slot y.word y.lit } := by
  rw [← runElement_eq i _ hi]
  change execVectorBeat key s = _
  simp only [execVectorBeat, he, Option.bind_some, hy, hd]

theorem sendQueueDrain_eq {x : Shuttle} {rest : List Shuttle} (he : s.elem? key = some e) (hq : e.sendq = x :: rest) :
    exec (.sendQueueDrain key) s = .next
      ((s.setElem key { e with sendq := rest }).modBh (bhOf key) fun b => { b with shuttles := b.shuttles ++ [x] }) := by
  change execSendQueueDrain key s = _
  simp only [execSendQueueDrain, he, hq]

/-- The links of an output port. -/
abbrev linksOf (s : State) (key port : Nat) : List Link :=
  (s.bh (bhOf key)).links.filter fun l => l.prod == addrOf key && l.prodPort == port

theorem deliver_eq {port : Nat} {t : Token} {rest : List OutEntry} (he : s.elem? key = some e) (ho : e.out.getD port [] = .token t :: rest) :
    s.deliver key port = if !(linksOf s key port).isEmpty && (linksOf s key port).all (consumerRoom s (bhOf key)) then
        (linksOf s key port).foldl (fun s l => s.acceptToken (bhOf key) (addrOf key) l t) (s.setElem key { e with out := e.out.set port rest })
      else s := by
  unfold State.deliver
  simp only [he, ho]

theorem deliver_moves {port : Nat} {t : Token} {rest : List OutEntry} (he : s.elem? key = some e) (ho : e.out.getD port [] = .token t :: rest)
    (hl : linksOf s key port ≠ []) (hr : ∀ l ∈ linksOf s key port, consumerRoom s (bhOf key) l = true) :
    s.deliver key port = (linksOf s key port).foldl (fun s l => s.acceptToken (bhOf key) (addrOf key) l t)
      (s.setElem key { e with out := e.out.set port rest }) := by
  rw [deliver_eq he ho, if_pos]
  rw [List.all_eq_true.2 hr, Bool.and_true]
  simpa only [Bool.not_eq_true', List.isEmpty_eq_false_iff] using hl

theorem deliver_stays {port : Nat} {t : Token} {rest : List OutEntry} (he : s.elem? key = some e) (ho : e.out.getD port [] = .token t :: rest)
    (hr : ∃ l ∈ linksOf s key port, consumerRoom s (bhOf key) l = false) : s.deliver key port = s := by
  obtain ⟨l, hl, hc⟩ := hr
  rw [deliver_eq he ho, if_neg]
  intro h
  have := List.all_eq_true.1 (Bool.and_eq_true_iff.1 h).2 l hl
  simp [hc] at this

theorem shuttleArrival_first {bh n : Nat} {x : Shuttle} (hx : (s.bh bh).shuttles[n]? = some x)
    (hf : ∀ y ∈ (s.bh bh).shuttles.take n, y.classL ≠ x.classL ∨ y.source ≠ x.source ∨ y.label ≠ x.label) :
    exec (.shuttleArrival bh n) s = .next (s.arriveShuttle bh n x) := by
  have h1 : ((s.bh bh).shuttles.take n).any (fun y => y.classL == x.classL && y.source == x.source && y.label == x.label) = false := by
    rw [List.any_eq_false]
    intro y hy h
    simp only [Bool.and_eq_true, beq_iff_eq] at h
    obtain ⟨⟨hc, ho⟩, hl⟩ := h
    exact (hf y hy).elim (· hc) (·.elim (· ho) (· hl))
  change execShuttleArrival bh n s = _
  simp [execShuttleArrival, hx, h1]

/-- What a shuttle does whose label is bound to an element of its bulkhead. -/
theorem arriveShuttle_eq {bh n : Nat} {x : Shuttle} {r : Route} (hr : routeOf s bh x.label = some r) (hk : elemKey bh r.elem = key)
    (he : s.elem? key = some e) : s.arriveShuttle bh n x =
      let gone (e : Elem) : State := (s.modBh bh fun b => { b with shuttles := removeAt b.shuttles n }).setElem key e
      if e.killed || e.done || e.retired then (gone e.countDrop).endLaunch x.launch 0x03 3
      else if (handlerSet e.page r.bit).isNone then (gone e.countDrop).endLaunch x.launch 0 0
      else if e.inboxRoom x.classL then
        (gone ({ e with inbox := e.inbox ++ [{ bit := r.bit, w0 := x.w0, w1 := x.w1, classL := x.classL }] } : Elem).expose).endLaunch x.launch 0 0
      else s := by
  unfold State.arriveShuttle
  simp only [hr, hk, he]

theorem inboxRoom_iff (e : Elem) (c : Bool) :
    e.inboxRoom c = true ↔ e.inbox.length < 8 ∧ (c = true ∨ (e.inbox.filter fun y => !y.classL).length < 6) := by
  simp [Elem.inboxRoom]

theorem countDrop_eq (e : Elem) : e.countDrop = { e with shdrop := if e.shdrop = 0xFFFF then 0xFFFF else e.shdrop + 1 } := by
  unfold Elem.countDrop
  by_cases h : e.shdrop = 0xFFFF
  · simp [h]
  · rw [if_neg (by simpa using h), if_neg h]

/-- Settles O32: a step lemma for each way a beat goes on, a token moves or stays, and a shuttle ends. -/
theorem beatsTokensAndShuttles : Obligations.BeatsTokensAndShuttles := by
  refine ⟨fun s key e y i he hy hd hi => ⟨vectorBeat_eq he hy hd hi, ?_⟩, fun s key e he => ⟨fun x rest => sendQueueDrain_eq he,
    fun port t rest ho hl => ⟨fun hr => congrArg Host.Outcome.next (deliver_moves he ho hl hr),
      fun hr => congrArg Host.Outcome.next (deliver_stays he ho hr)⟩, ?_⟩⟩
  · rintro x t d a b rfl rfl rfl hx
    obtain ⟨-, hadd, -⟩ := additionForms t d a b 0
    exact (vectorBeat_eq he hy hd hi).trans (hadd x _ hx)
  · intro n x r hx hf hr hk
    rw [shuttleArrival_first hx hf, arriveShuttle_eq hr hk he, ← countDrop_eq, ← inboxRoom_iff]
    have hlife : (e.killed || e.done || e.retired) = true ↔ ¬ (e.killed = false ∧ e.done = false ∧ e.retired = false) := by
      simp [Decidable.or_iff_not_imp_left]
    have hset : (handlerSet e.page r.bit).isNone = true ↔ ¬ (handlerSet e.page r.bit).isSome = true := by
      cases handlerSet e.page r.bit <;> simp
    dsimp only
    refine ⟨fun ha hh hm => ?_, fun ha hh hm => ?_, fun ha hh => ?_, fun ha => ?_⟩
    · rw [if_neg fun h => hlife.1 h ha, if_neg fun h => hset.1 h hh, if_pos hm]
    · rw [if_neg fun h => hlife.1 h ha, if_neg fun h => hset.1 h hh, if_neg hm]
    · rw [if_neg fun h => hlife.1 h ha, if_pos (hset.2 hh)]
    · rw [if_pos (hlife.2 ha)]

/-! ## Hand-over (14 R249) -/

variable {r : Req} {rest : List Req}

/-- What a request that goes behind a barrier waits for of the earlier ones of its element. -/
def mayGo (e : Elem) (r : Req) : Bool :=
  match r.kind with
  | .fenceh _ _ => earlierPerformed e r.id && earlierApplied e r.id
  | _ => earlierComplete e r.id

theorem all_earlier (l : List Pending) (n : Nat) (f : Pending → Bool) :
    (l.all fun p => n ≤ p.id || f p) = true ↔ ∀ p ∈ l, p.id < n → f p = true := by
  simp only [List.all_eq_true, Bool.or_eq_true, decide_eq_true_eq]
  exact forall₂_congr fun p _ => ⟨fun h hl => h.resolve_left (Nat.not_le.2 hl), fun h => (Nat.lt_or_ge p.id n).symm.imp_right h⟩

section
variable (he : s.elem? key = some e) (hq : e.issueq = r :: rest) (hb : ∀ p ∈ e.pending, p.barrier = true → r.id ≤ p.id)
include he hq hb

theorem handOver_barrier (hk : r.kind.isBarrier = true) : s.handOver key = if mayGo e r then s.handOverBarrier key e r else s := by
  have h1 : e.pending.any (fun p => p.barrier && decide (p.id < r.id)) = false := by
    simpa [List.any_eq_false] using hb
  unfold State.handOver mayGo
  simp only [he, hq, h1, hk, Bool.false_eq_true, if_false, if_true] <;> cases r.kind <;> rfl

theorem handOver_access (hk : (∃ size sgn, r.kind = .load size sgn) ∨ (∃ size data, r.kind = .store size data) ∨ r.kind = .prefetch
    ∨ r.kind = .skipped) : s.handOver key = if (s.tile (servingTile key)).wrb.length < 32 then
      (s.setElem key (e.leaveQueue r.id false)).modTile (servingTile key) fun t => { t with wrb := t.wrb ++ [r] } else s := by
  have h1 : e.pending.any (fun p => p.barrier && decide (p.id < r.id)) = false := by
    simpa [List.any_eq_false] using hb
  unfold State.handOver
  simp only [he, hq, h1, Bool.false_eq_true, if_false]
  obtain ⟨_, _, hk⟩ | ⟨_, _, hk⟩ | hk | hk := hk
  all_goals simp [hk, ReqKind.isBarrier]

end

theorem sendSem_eq (b sem : Nat) (op : HomeOp) : s.sendSem key r b sem op =
    let g := s.gate (bhOf key) (loadFn s (bhOf key)) b false
    if g.2 = 0 then g.1.sendHome (semSlice b sem)
      [{ src := .elem key, id := r.id, pa := 0, op := op, cls := 0, reads := 15, word := r.addr, fn := loadFn s (bhOf key) }]
    else g.1.reply { elem := key, id := r.id, status := g.2, value := 0, atomic := true, addr := r.addr } := by
  unfold State.sendSem
  dsimp only
  split
  · next h => simp [h]
  · next c hc h => simp [h, show c ≠ 0 from hc]

/-- Settles O33: the head enters the reorder buffer, waits, or acts by the clause of its kind. -/
theorem handOvers : Obligations.HandOvers := by
  intro s key e r rest he hq hb k out before
  have hmay : mayGo e r = true ↔ before := by
    simp only [before, mayGo, earlierPerformed, earlierApplied, earlierComplete]
    cases r.kind
    case fenceh =>
      simp only [Bool.and_eq_true, all_earlier, Bool.not_eq_true', ← forall_and]
    all_goals exact all_earlier ..
  have hfn (p : Bool) : loadFn (out p) (bhOf key) = loadFn s (bhOf key) := rfl
  have hgo (hk : r.kind.isBarrier = true) (h : before) : exec (.handOver key) s = .next (s.handOverBarrier key e r) := by
    change Host.Outcome.next _ = _
    rw [handOver_barrier he hq hb hk, if_pos (hmay.2 h)]
  refine ⟨fun hk => ?_, fun hk hn => ?_, fun h => ⟨fun a b hk => ?_, fun site words est x f hk => ?_, fun hd ws hk => ?_, fun b sem n hk => ?_⟩⟩
  · change (_ → Host.Outcome.next _ = _) ∧ (_ → Host.Outcome.next _ = _)
    rw [handOver_access he hq hb hk]
    exact ⟨fun h => by rw [if_pos h], fun h => by rw [if_neg (Nat.not_lt.2 h)]⟩
  · change Host.Outcome.next _ = _
    rw [handOver_barrier he hq hb hk, if_neg fun h => hn (hmay.1 h)]
  · rw [hgo (by rw [hk]; rfl) h]
    simp only [State.handOverBarrier, hk]
    rfl
  · rw [hgo (by rw [hk]; rfl) h]
    simp only [State.handOverBarrier, hk]
    rfl
  · rw [hgo (by rw [hk]; rfl) h]
    simp only [State.handOverBarrier, hk]
    rfl
  · intro g
    have hs : exec (.handOver key) s = .next (if sliceFull s (semSlice b sem) then s
        else (out true).sendSem key r b sem (if r.kind = .sems b sem n then .sems sem n else .semw sem n)) := by
      obtain hk | hk := hk
      all_goals
        rw [hgo (by rw [hk]; rfl) h]
        simp [State.handOverBarrier, hk, out]
    rw [hs, sendSem_eq, hfn]
    exact ⟨fun h => by rw [if_pos h], fun h h0 => by rw [if_neg (by simp [h]), if_pos h0], fun h h0 => by rw [if_neg (by simp [h]), if_neg h0]⟩

end Sys2Proof.ElementSteps

/-! PROOFS of the statements on requests that are performed, drained, walked for and answered, and on fences, pages, retirement and
withdrawn waits (09 R173, R181, 10 R194, R199, 14 R248-R258, 15 R287, 17 R319, 21 R345). -/

namespace Sys2Proof.RequestSteps
open Sys2Proof Sys2Proof.Machine Sys2Proof.Safety Sys2Proof.Laws

variable {s : State} {k n : Nat} {r : Req}

/-! ## Requests performed (10 R199) -/

theorem performRequest_eq (hr : (s.tile k).wrb[n]? = some r) (hp : performable (s.tile k) n r = true) :
    exec (.performRequest k n) s = .next (s.perform k n r) := by
  change execPerformRequest k n s = _
  simp only [execPerformRequest, hr, hp, if_true]

theorem perform_waits (h : performWait s k r ≠ 0) : s.perform k n r = s := by
  unfold State.perform
  rw [if_pos (by simpa using h)]

theorem performWait_store {size data : Nat} (hk : r.kind = .store size data) (hs : bits r.addr.toNat 28 4 = 0) (h : (s.tile k).sbuf.length < 16) :
    performWait s k r = 0 := by
  simp [performWait, hk, hs, h]

theorem performWait_full {size data : Nat} (hk : r.kind = .store size data) (h : 16 ≤ (s.tile k).sbuf.length) : performWait s k r ≠ 0 := by
  unfold performWait
  simp only [hk]
  split
  · decide
  · rw [if_neg (Nat.not_lt.2 h)]
    decide

/-- The state once the chain of a request's wave has moved. -/
abbrev moved (s : State) (k n : Nat) (r : Req) : State := (s.countServe k).modTile k fun t => t.stepWave n r

/-- The state once the watchpoints have seen an access of a request. -/
abbrev seen (s : State) (k : Nat) (r : Req) (size : Nat) (wr : Bool) : State := s.watch k
  { virtual_ := bits r.addr.toNat 28 4 != 0, addr := r.va, size := size, rd := !wr, wr := wr, word := r.addr,
    elem := some (r.elem, r.slot, r.wave) }

theorem perform_load {size : Nat} {sgn : Bool} (hk : r.kind = .load size sgn) (h : performWait s k r = 0) :
    s.perform k n r = seen ((moved s k n r).performLoad k r size sgn) k r size false := by
  simp only [State.perform, h, hk]
  rfl

theorem perform_store {size data : Nat} (hk : r.kind = .store size data) (h : performWait s k r = 0) :
    s.perform k n r = seen ((moved s k n r).performStore k r size data) k r size true := by
  simp only [State.perform, h, hk]
  rfl

theorem perform_prefetch (hk : r.kind = .prefetch) (h : performWait s k r = 0) :
    s.perform k n r = (moved s k n r).performPrefetch k r := by
  simp only [State.perform, h, hk]
  rfl

theorem perform_skipped (hk : r.kind = .skipped) : s.perform k n r = (moved s k n r).modElem r.elem (·.dropPending r.id) := by
  have h : performWait s k r = 0 := by simp [performWait, hk]
  simp only [State.perform, h, hk]
  rfl

/-- A load of the scratchpad that finds no poison. -/
theorem performLoad_scratch {size : Nat} {sgn : Bool} (hs : bits r.addr.toNat 28 4 = 0)
    (hx : (((s.modElem r.elem (·.modPending r.id fun p => { p with performed := true, miss := false })).takeBank k r.va).scratchRead k r.va
      size kindElement).2.2 = false) :
    s.performLoad k r size sgn =
      let x := ((s.modElem r.elem (·.modPending r.id fun p => { p with performed := true, miss := false })).takeBank k r.va).scratchRead k r.va
        size kindElement
      let own := forwarded (s.tile k) r.elem true r.va size
      let v := overlay size x.2.1 own.1 own.2
      let w := if sgn then (signed v (8 * size) % 2 ^ 32).toNat else v
      x.1.reply { elem := r.elem, id := r.id, status := 0, value := w, addr := r.addr,
                  point := some (128 + 64 * k + bankOf r.va) } := by
  unfold State.performLoad
  simp only [hs, hx]
  rfl

/-- A load of device memory whose translation leads to a home. -/
theorem performLoad_home {size : Nat} {sgn : Bool} {s' : State} {h : Home} {via : Option Nat} (hs : bits r.addr.toNat 28 4 ≠ 0)
    (hx : (s.demand k r.elem r.va).resolveReq k r .read = (s', .home h via)) :
    s.performLoad k r size sgn =
      let own := forwarded (s'.tile k) r.elem false h.pa size
      ((s'.modElem r.elem (·.modPending r.id fun p => { p with performed := true, miss := true })).modElem r.elem
        (·.modPending r.id fun p => { p with via := via })).sendHome (8 * h.bh + h.slice)
        [{ src := .elem r.elem, id := r.id, pa := h.pa, op := .read size sgn own.1 own.2, cls := r.cls, reads := r.reads,
           word := r.addr, via := via, fn := loadFn s' (bhOf r.elem) }] := by
  unfold State.performLoad
  simp only [beq_iff_eq, hs, if_false, hx]
  rfl

theorem performStore_scratch {size data : Nat} (hs : bits r.addr.toNat 28 4 = 0) : s.performStore k r size data =
    (s.modElem r.elem (·.modPending r.id fun p => { p with performed := true })).modTile k fun t => { t with sbuf := t.sbuf ++
        [{ elem := r.elem, id := r.id, scratch := true, addr := r.va, size := size, data := data, cls := r.cls,
           reads := r.reads, word := r.addr, slot := r.slot }] } := by
  unfold State.performStore
  simp only [beq_iff_eq, hs, if_true]

theorem performPrefetch_home {s' : State} {h : Home}
    (hx : s.prefetchTarget (.tile k) (bhOf r.elem) (loadFn s (bhOf r.elem)) (loadPasid s (bhOf r.elem)) r.va
      (tget? (s.tile k).lastDemand (addrOf r.elem)) = (s', some h)) (hf : missFree s' k = true) :
    s.performPrefetch k r = (s'.modElem r.elem (·.modPending r.id fun p => { p with performed := true, miss := true })).sendHome
        (8 * h.bh + h.slice)
        [{ src := .elem r.elem, id := r.id, pa := h.pa, op := .prefetch, cls := r.cls, reads := r.reads, word := r.addr,
           fn := loadFn s' (bhOf r.elem) }] := by
  unfold State.performPrefetch
  simp only [hx, hf, if_true]
  rfl

/-! ## Stores drained, walks, replies -/

theorem storeBufferDrain_eq {x : StoreEntry} {rest : List StoreEntry} (hx : (s.tile k).sbuf = x :: rest) :
    exec (.storeBufferDrain k) s =
      let out := s.modTile k fun t => { t with sbuf := rest }
      if x.scratch then
        if !bankServes s k x.addr then .next s
        else .next (((out.takeBank k x.addr).scratchWrite k x.addr x.data x.size kindElement false).modElem x.elem (·.dropPending x.id))
      else if !missFree s k then .next s
      else match homeOf s x.addr with
        | none => .next (out.failRequest x.elem x.id 0x43 (s.waveOf x.elem x.id) x.word.toNat)
        | some h => if sliceFull s h.key then .next s else .next ((out.sendHome h.key
            [{ src := .elem x.elem, id := x.id, pa := x.addr, op := .write x.size x.data, cls := x.cls, reads := x.reads,
               word := x.word, via := x.via, fn := loadFn s (bhOf x.elem) }]).modElem x.elem
            (·.modPending x.id fun p => { p with miss := true, left := h.bh != bhOf x.elem })) := by
  change execStoreBufferDrain k s = _
  simp only [execStoreBufferDrain, hx] <;> rfl

/-- What PAGE_WALK does for a request that waits for a walk. -/
theorem pageWalk_eq (hr : (s.tile k).wrb[n]? = some r) (hw : performWait s k r = 2) (ht : translated s k r.elem r.va = false) :
    exec (.pageWalk k n) s =
      let bh := bhOf r.elem
      let walking (l : List Nat) : State := s.modBh bh fun b => { b with walks := l }
      if (s.bh bh).walks.contains r.id then
        let found := (walking ((s.bh bh).walks.filter (· != r.id))).lookup (.tile k) bh (loadFn s bh) (loadPasid s bh) r.va
        match found.2 with
        | .ok _ => .next found.1
        | .error c => .next (found.1.modTile k fun t => { t with wrb := modifyAt t.wrb n fun q => { q with walked := some c } })
      else if walkerFree s bh then .next (walking ((s.bh bh).walks ++ [r.id])) else .next s := by
  change execPageWalk k n s = _
  simp only [execPageWalk, hr, hw, ht, bne_self_eq_false, Bool.or_self, Bool.false_eq_true, if_false]
  split
  · split <;> next h => simp only [h]
  · rfl

theorem replyReturn_eq {bh : Nat} {x : Reply} (hx : (s.bh bh).replies[n]? = some x) :
    exec (.replyReturn bh n) s = if replyBehind bh ((s.bh bh).replies.take n) x then .next s
      else
        let s' := s.modBh bh fun b => { b with replies := removeAt b.replies n }
        match x.piece with
        | none => .next (s'.takeReply x)
        | some p => .next (s'.takePiece x.id p { value := x.value % 2 ^ 64, poison := bit x.value 64, status := x.status }) := by
  change execReplyReturn bh n s = _
  simp only [execReplyReturn, hx] <;> rfl

theorem takeReply_load {x : Reply} {e : Elem} {p : Pending} {size : Nat} {sgn : Bool} (he : s.elem? x.elem = some e)
    (hp : e.pending? x.id = some p) (hk : p.kind = .load size sgn) (hz : x.status = 0) :
    s.takeReply x = s.finishRequest x.elem x.id x.value false 0 id := by
  simp [State.takeReply, he, hp, hk, hz]

/-- Settles O34: the lemma of each step, by the kind of the request and what it waits for. -/
theorem loadAndStoreSteps : Obligations.LoadAndStoreSteps := by
  intro s k n t
  refine ⟨fun r hr hp => ?_, fun x rest hx => ?_, fun r hr hw ht => ?_, fun r e p size sgn hr hb hq => ?_, fun r hr hb => ?_⟩
  · rw [performRequest_eq hr hp]
    refine ⟨fun h => by rw [perform_waits h], fun size sgn hk h hs => ?_, fun size sgn hk h hs s' hm via hx => ?_,
      fun hk h s' hm hx hf => ?_, fun size data hk hs hl => ?_, fun size data hk hl => ?_, fun hk => ?_⟩
    · intro x own v w hx
      rw [perform_load hk h, performLoad_scratch hs hx]
    · rw [perform_load hk h, performLoad_home hs hx]
    · rw [perform_prefetch hk h, performPrefetch_home hx hf]
    · rw [perform_store hk (performWait_store hk hs hl), performStore_scratch hs]
    · rw [perform_waits (performWait_full hk hl)]
    · rw [perform_skipped hk]
  · rw [storeBufferDrain_eq hx]
    refine ⟨fun hs hb => ?_, fun hs hb => ?_, fun hs hm => ?_, fun hs hm h hh => ⟨fun hf => ?_, fun hf => ?_⟩⟩
    · simp [hs, hb]
    · simp [hs, hb]
    · simp [hs, hm]
    · simp [hs, hm, hh, Home.key, hf]
    · simp [hs, hm, hh, Home.key, hf]
  · rw [pageWalk_eq hr hw ht]
    refine ⟨fun hi hf => ?_, fun hi c hf => ?_, fun hi hl => ?_, fun hi hl => ?_⟩
    · obtain ⟨y, hf⟩ := hf
      simp only [List.contains_iff_mem.2 hi, if_true]
      rw [hf]
    · simp only [List.contains_iff_mem.2 hi, if_true]
      rw [hf]
    · simp [hi, walkerFree, hl]
    · simp [hi, walkerFree, Nat.not_lt.2 hl]
  · intro s' he hp hk hz
    rw [replyReturn_eq hr, hb]
    simp only [Bool.false_eq_true, if_false, hq]
    rw [takeReply_load (s := s') he hp hk hz]
  · rw [replyReturn_eq hr, hb, if_pos rfl]

/-! ## Fences (14 R251, R256, R258) -/

variable {key : Nat} {e : Elem}

theorem fenceComplete_eq {f : Fence} (he : s.elem? key = some e) (hf : e.fence = some f) : exec (.fenceComplete key) s =
    if f.preds.all (predComplete e f.scope) && (fenceLines s key f).all fun p => lineLinkUp s p.2 then
      .next (((fenceLines s key f).foldl (fun s p => s.cleanLine p.1 p.2) s).modElem key fun e => { e with fence := none })
    else .next s := by
  change execFenceComplete key s = _
  simp only [execFenceComplete, he, hf]

theorem fenceLines_eq_nil {f : Fence} (h : f.scope ≠ 3) : fenceLines s key f = [] := by
  unfold fenceLines
  dsimp only
  rw [if_neg (by simpa using h)]

theorem modElem_of_some {f : Elem → Elem} (he : s.elem? key = some e) : s.modElem key f = s.setElem key (f e) := by
  simp [State.modElem, he]

theorem fencehReply_done {bh : Nat} {w : FencehWait} (hw : (s.bh bh).fencehs[n]? = some w)
    (hm : ∀ m ∈ w.marked, ∀ x, s.elem? m.1 = some x → x.pending? m.2 = none) : exec (.fencehReply bh n) s = .next
      ((s.modBh bh fun b => { b with fencehs := removeAt b.fencehs n }).finishRequest w.elem w.id w.status false 0 id) := by
  have h1 : (w.marked.any fun m => match s.elem? m.1 with
      | none => false
      | some e => (e.pending? m.2).isSome) = false := by
    rw [List.any_eq_false]
    intro m hmm
    cases hx : s.elem? m.1 with
    | none => simp
    | some x => simp [hm m hmm x hx]
  change execFencehReply bh n s = _
  simp only [execFencehReply, hw]
  rw [if_neg]
  exact fun h => Bool.noConfusion (h1.symm.trans h)

/-! ## Pages and retirement (17 R319, 21 R345) -/

/-- An attempt at a page whose fetch asks for nothing more takes effect. -/
theorem pageFetchInstall_of {p : Pending} {rest : List Pending} {page va bad cls reads : Nat} {pga : Word} {t : State}
    (he : s.elem? key = some e) (hq : e.pending = p :: rest) (hh : p.handedOver = true) (hk : p.kind = .setpg page pga va bad cls reads)
    (hb : (answered s (pageWork key) (bhOf key) (38 + colOf key) rankElement).fetchPage key e p = t) (ht : t.asked = none) :
    exec (.pageFetchInstall key) s = .next (settled (pageWork key) t) := by
  have h1 := attempt_of s (pageWork key) (bhOf key) (38 + colOf key) rankElement (fun s => (s.fetchPage key e p, ())) (by rw [hb]; exact ht)
  change execPageFetchInstall key s = _
  simp only [execPageFetchInstall, he, hq, List.find?_cons, hh, hk, Bool.and_self]
  rw [h1, hb]

section
variable {p : Pending} {page va bad cls reads : Nat} {pga : Word} (hk : p.kind = .setpg page pga va bad cls reads)
include hk

theorem fetchPage_selects (h1 : (e.pages.getD page none).isSome = true) (h2 : e.stale.getLsbD page = false) :
    s.fetchPage key e p = s.selectPage key p.id page none := by
  have h : e.freshPage page = true := by
    have h3 : bit e.stale.toNat page = false := by
      rw [← h2, BitVec.getLsbD, Nat.testBit_eq_decide_div_mod_eq]
      rfl
    rw [Elem.freshPage, h1, h3]
    rfl
  simp [State.fetchPage, hk, h]

theorem fetchPage_noImage (h1 : e.pages.getD page none = none) (h2 : pga = 0) :
    s.fetchPage key e p = s.rejectPage key p.id page 1 0 0 := by
  have h : e.freshPage page = false := by
    rw [Elem.freshPage, h1]
    rfl
  simp [State.fetchPage, hk, h, h2]

theorem fetchPage_installs {s' : State} {bs : List Byte} (h1 : e.pages.getD page none = none) (h2 : pga ≠ 0) (h3 : bad = 0)
    (h4 : s.fetchPieces p.via.isSome cls reads p.pieces = (s', some bs)) (h5 : (parsePage bs).2 = false)
    (h6 : (parsePage bs).1.firstBad (elemKind key) true = none) :
    s.fetchPage key e p = s'.selectPage key p.id page (some (parsePage bs).1) := by
  have h : e.freshPage page = false := by
    rw [Elem.freshPage, h1]
    rfl
  simp [State.fetchPage, hk, h, show ¬ pga = 0#32 from h2, h3, h4, h5, h6]

end

theorem elementRetire_eq (he : s.elem? key = some e) (h1 : e.done = true) (h2 : e.issue = none) (h3 : e.issueq = []) (h4 : e.sendq = [])
    (h5 : ∀ p ∈ e.pending, p.dest = .none) : exec (.elementRetire key) s = .next (s.setElem key { e with retired := true }) := by
  have h6 : e.pending.all (fun p => p.dest == .none) = true := by simpa using h5
  change execElementRetire key s = _
  simp only [execElementRetire, he, h1, h2, h3, h4, h6, Option.isNone_none, List.isEmpty_nil, Bool.and_self, if_true]

/-- A pending wait that its sweep has reached, no later one before it. -/
theorem semwWithdraw_eq {p : Pending} {id b sem c : Nat} (he : s.elem? key = some e) (hp : e.pending? id = some p) (hk : p.kind = .semw b sem c)
    (hr : reached s key = true) (hw : p.withdrawn = false) (hs : s.sweepKind (bhOf key) ≠ some .kill)
    (hl : ∀ q ∈ e.pending, q.kind.isSemw = true → q.id ≤ id) : exec (.semwWithdraw key id) s =
      if inQueue e id then .next ((s.setElem key { e with issueq := e.issueq.filter (·.id != id) }).withdrawn key p)
      else .next ((s.modElem key fun e => e.modPending id fun p => { p with withdrawn := true }).sendHome (semSlice b sem)
        [{ src := .elem key, id := id, pa := 0, op := .withdraw sem, cls := 0, reads := 15, word := 0 }]) := by
  have h1 : e.pending.any (fun q => q.kind.isSemw && decide (id < q.id)) = false := by
    simpa [List.any_eq_false] using hl
  have h2 : (s.sweepKind (bhOf key) == some .kill) = false := by simpa using hs
  change execSemwWithdraw key id s = _
  simp only [execSemwWithdraw, he, Option.bind_some, hp, Option.map_some, hk, hr, hw, h1, h2, Bool.not_true, Bool.or_self,
    Bool.false_eq_true, if_false]

/-- Settles O35: the lemma of each step, applied to the conditions of its clause. -/
theorem fencesPagesAndRetirement : Obligations.FencesPagesAndRetirement := by
  intro s key e he
  refine ⟨fun f hf => ?_, fun bh n w hw hm => fencehReply_done hw hm, fun p rest page pga va bad cls reads hq hh hk => ?_,
    fun h1 h2 h3 h4 h5 => elementRetire_eq he h1 h2 h3 h4 h5, fun id p b sem c hp hk hr hw hs hl => ?_⟩
  · rw [fenceComplete_eq he hf]
    refine ⟨fun hp hs => ?_, fun hp hs hl => ?_, fun hl => ?_, fun hp => ?_⟩
    · rw [fenceLines_eq_nil hs, hp]
      simp only [List.all_nil, Bool.and_self, if_true, List.foldl_nil, modElem_of_some he]
    · rw [hp, List.all_eq_true.2 hl]
      rfl
    · obtain ⟨p, hp, hl⟩ := hl
      rw [if_neg]
      intro h
      exact Bool.noConfusion (hl.symm.trans (List.all_eq_true.1 (Bool.and_eq_true_iff.1 h).2 p hp))
    · rw [hp]
      rfl
  · exact ⟨fun h1 h2 ha => pageFetchInstall_of he hq hh hk (fetchPage_selects hk h1 h2) ha,
      fun h1 h2 ha => pageFetchInstall_of he hq hh hk (fetchPage_noImage hk h1 h2) ha,
      fun h1 h2 h3 s' bs h4 h5 h6 ha => pageFetchInstall_of he hq hh hk (fetchPage_installs hk h1 h2 h3 h4 h5 h6) ha⟩
  · rw [semwWithdraw_eq he hp hk hr hw hs hl]
    exact ⟨fun h => by rw [if_pos h], fun h => by rw [h]; rfl⟩

end Sys2Proof.RequestSteps

/-! PROOFS of the statements on sequencer commands (10 R201-R210): one rule for each way an attempt ends and for a change of the tile or
of one stream of it, and then one lemma for each command. -/

namespace Sys2Proof.SequencerCommands
open Sys2Proof Sys2Proof.Machine Sys2Proof.Safety Sys2Proof.Laws Sys2Proof.Arithmetic

/-! ## Ends of an attempt; changes of the tile -/

section
variable {k : Nat} {t : Tile} {s s' : State} {body : State → Nat → Tile → SeqResult}

theorem seqRun_done (h : Serves k t s) (hb : body s k t = { s := s' }) : seqRun body s = .next (s'.seqEnd k none false) := by
  rw [seqRun_of body h, hb]

theorem seqRun_kept (h : Serves k t s) (hb : body s k t = { s := s', stop := .kept }) : seqRun body s = .next (s'.seqEnd k none true) := by
  rw [seqRun_of body h, hb]

theorem seqRun_jump {n : Nat} (h : Serves k t s) (hb : body s k t = { s := s', stop := .jump n }) :
    seqRun body s = .next (s'.seqEnd k (some n) false) := by
  rw [seqRun_of body h, hb]

theorem seqRun_wait (h : Serves k t s) (hb : body s k t = { s := s', stop := .wait }) : seqRun body s = .next s' := by
  rw [seqRun_of body h, hb]

theorem modTile_of (ht : s.tile k = t) (f : Tile → Tile) : s.modTile k f = s.setTile k (f t) := by
  rw [State.modTile, ht]

theorem modStream_of (ht : s.tile k = t) (st : Nat) (f : Stream → Stream) :
    s.modStream k st f = s.setTile k (withStream t st (f (t.stream st))) := by
  rw [State.modStream, modTile_of ht]
  rfl

@[simp] theorem withStream_stream (t : Tile) (st : Nat) (x : Stream) : (withStream t st x).stream st = x := by
  simp [withStream, Tile.stream]

@[simp] theorem withStream_withStream (t : Tile) (st : Nat) (x y : Stream) :
    withStream (withStream t st x) st y = withStream t st y := by
  simp [withStream]

end

/-! ## Streams (10 R203) -/

section
variable {k : Nat} {t : Tile} {s : State} {st : Nat} {base : Word} {count : Nat} {stride : Int}

theorem startRun_waits {write : Bool} (hr : (t.stream st).run ≠ none) : startRun write st base count stride s k t = { s := s, stop := .wait } := by
  unfold startRun
  rw [if_pos (Option.isSome_iff_ne_none.2 hr)]

/-- The run that a stream command starts. -/
def newRun (write : Bool) (t : Tile) (base : Word) (count : Nat) (stride : Int) : StreamRun :=
  { write := write, segs := t.segs, base := base, stride := stride, count := count, owner := t.owner }

theorem startRun_reads (ht : s.tile k = t) (hr : (t.stream st).run = none) : startRun false st base count stride s k t =
    { s := s.setTile k (withStream t st { t.stream st with nb := lineWord base stride count, run := some (newRun false t base count stride),
                                                           user := (t.stream st).waiting, waiting := none }),
      stop := .kept } := by
  unfold startRun newRun
  simp only [hr, Option.isSome_none, Bool.false_eq_true, if_false, Bool.false_and]
  rw [modStream_of ht, modStream_of (setTile_tile ..)]
  simp

theorem startRun_writes (ht : s.tile k = t) (hr : (t.stream st).run = none)
    (hw : bits base.toNat 28 4 = 0 ∨ bit (t.seg (bits base.toNat 28 4)).toNat 62 = true) : startRun true st base count stride s k t =
    { s := s.setTile k (withStream t st { t.stream st with nb := lineWord base stride count, run := some (newRun true t base count stride),
                                                           user := (t.stream st).feed, feed := none }),
      stop := .kept } := by
  unfold startRun newRun
  simp only [hr, Option.isSome_none, Bool.false_eq_true, if_false, Bool.true_and]
  rw [if_neg (by simpa [Decidable.or_iff_not_imp_left] using hw), modStream_of ht, modStream_of (setTile_tile ..)]
  simp

theorem startRun_readOnly (ht : s.tile k = t) (hr : (t.stream st).run = none)
    (hw : ¬ (bits base.toNat 28 4 = 0 ∨ bit (t.seg (bits base.toNat 28 4)).toNat 62 = true)) : startRun true st base count stride s k t =
    { s := (s.setTile k (withStream t st { t.stream st with nb := lineWord base stride count })).seqFault k 0x44 base.toNat } := by
  unfold startRun
  simp only [hr, Option.isSome_none, Bool.false_eq_true, if_false, Bool.true_and]
  rw [if_pos (by simpa using hw), modStream_of ht, hr]

end

theorem bit_eq_getLsbD {w : Nat} (x : BitVec w) (n : Nat) : bit x.toNat n = x.getLsbD n := by
  rw [BitVec.getLsbD, Nat.testBit_eq_decide_div_mod_eq]
  rfl

theorem strideOf_eq (w : BitVec 12) : strideOf w = w.toInt := by
  rw [strideOf, signed_eq_toInt (by decide), BitVec.ofNat_toNat, BitVec.setWidth_eq]

/-! ## Consumers and feeders (10 R204, R205) -/

section
variable {x : Stream}

theorem consumerFree_iff : x.consumerFree = true ↔ ¬ (x.waiting ≠ none ∨ (x.user ≠ none ∧ x.run.any (fun r => !r.write) = true)) := by
  unfold Stream.consumerFree
  cases x.run with
  | none => simp
  | some r => cases hw : r.write <;> simp [hw]

theorem feederFree_iff : x.feederFree = true ↔ ¬ (x.feed ≠ none ∨ (x.user ≠ none ∧ x.run.any (·.write) = true)) := by
  unfold Stream.feederFree
  cases x.run with
  | none => simp
  | some r => cases hw : r.write <;> simp [hw]

/-- A job takes a run of its kind that has nobody. -/
theorem attach_takes {write : Bool} (j : StreamJob) (hu : x.user = none) (hr : x.run.any (fun r => r.write == write) = true) :
    x.attach write j = { x with user := some j } := by
  unfold Stream.attach
  cases h : x.run with
  | none => simp [h] at hr
  | some r => simp [h] at hr; simp [hr, hu]

/-- A job waits where no run of its kind is in progress. -/
theorem attach_waits {write : Bool} (j : StreamJob) (hr : x.run.all (fun r => r.write != write) = true) :
    x.attach write j = if write then { x with feed := some j } else { x with waiting := some j } := by
  unfold Stream.attach
  cases h : x.run with
  | none => simp
  | some r => simp [h] at hr; simp [hr]

end

section
variable {k : Nat} {t : Tile} {s : State} {st : Nat} {write : Bool} {what : StreamUser}

theorem attachBody_attaches (ht : s.tile k = t) (hf : (if write then (t.stream st).feederFree else (t.stream st).consumerFree) = true) :
    attachBody write st what s k t =
      { s := s.setTile k (withStream t st ((t.stream st).attach write { what := what, owner := t.owner })), stop := .kept } := by
  unfold attachBody
  dsimp only
  rw [if_pos hf, modStream_of ht]

theorem attachBody_holds (hf : (if write then (t.stream st).feederFree else (t.stream st).consumerFree) = false) :
    attachBody write st what s k t = { s := s, stop := .wait } := by
  unfold attachBody
  dsimp only
  rw [if_neg (by simp [hf])]

end

theorem lineWord_of (b : Word) (stride : BitVec 12) (n : Nat) :
    lineWord b (strideOf stride) (n + 1) = word (b.toNat + 64 * stride.toInt * (n + 1)) := by
  rw [lineWord, strideOf_eq, word, Nat.cast_add, Nat.cast_one]

section
variable {k : Nat} {t : Tile} {s : State} {st sta stb : BitVec 3} {port : BitVec 4} {row bytes : BitVec 12} {level ring : BitVec 3}
  {island : BitVec 2}

/-- The state once a stream of the tile has a job and the command has been executed. -/
abbrev attached (k : Nat) (t : Tile) (s : State) (st : Nat) (write : Bool) (what : StreamUser) : State :=
  (s.setTile k (withStream t st ((t.stream st).attach write { what := what, owner := t.owner }))).seqEnd k none true

theorem deliver_attaches (h : Serves k t s) (hb : t.bound 1 port.toNat = true) (hf : (t.stream st.toNat).consumerFree = true) :
    execDeliver st port row level s = .next (attached k t s st.toNat false (.deliver port.toNat row.toNat level.toNat 0 [])) :=
  seqRun_kept h (by rw [if_pos hb]; exact attachBody_attaches (tile_of_serves h) hf)

theorem deliver_holds (h : Serves k t s) (hb : t.bound 1 port.toNat = true) (hf : (t.stream st.toNat).consumerFree = false) :
    execDeliver st port row level s = .next s :=
  seqRun_wait h (by rw [if_pos hb]; exact attachBody_holds hf)

/-- The bytes of a push are a multiple of the tile size of a bound ring. -/
abbrev pushFits (r : Ring) (bytes : BitVec 12) : Bool := r.bound && (bytes.toNat + 1) % (r.tlines + 1) == 0

theorem push_attaches (h : Serves k t s) (hb : pushFits (s.ring (k / 64) island.toNat ring.toNat) bytes = true)
    (hf : (t.stream st.toNat).consumerFree = true) : execPush island ring st bytes s =
      .next (attached k t s st.toNat false (.push island.toNat ring.toNat (bytes.toNat + 1) 0)) :=
  seqRun_kept h (by dsimp only; rw [if_pos hb]; exact attachBody_attaches (tile_of_serves h) hf)

theorem push_holds (h : Serves k t s) (hb : pushFits (s.ring (k / 64) island.toNat ring.toNat) bytes = true)
    (hf : (t.stream st.toNat).consumerFree = false) : execPush island ring st bytes s = .next s :=
  seqRun_wait h (by dsimp only; rw [if_pos hb]; exact attachBody_holds hf)

theorem push_unfit (h : Serves k t s) (hb : ¬ pushFits (s.ring (k / 64) island.toNat ring.toNat) bytes = true) :
    execPush island ring st bytes s = .next ((s.seqFault k 0x48 0).seqEnd k none false) :=
  seqRun_done h (by dsimp only; rw [if_neg hb])

theorem accept_attaches (h : Serves k t s) (hb : t.bound 2 port.toNat = true) (hf : (t.stream st.toNat).feederFree = true) :
    execAccept st port s = .next (attached k t s st.toNat true (.accept port.toNat [])) :=
  seqRun_kept h (by rw [if_pos hb]; exact attachBody_attaches (tile_of_serves h) hf)

theorem accept_holds (h : Serves k t s) (hb : t.bound 2 port.toNat = true) (hf : (t.stream st.toNat).feederFree = false) :
    execAccept st port s = .next s :=
  seqRun_wait h (by rw [if_pos hb]; exact attachBody_holds hf)

theorem spcopy_attaches (h : Serves k t s) (hc : (t.stream stb.toNat).consumerFree = true) (hf : (t.stream sta.toNat).feederFree = true) :
    execSpcopy sta stb s = .next (attached k
      (withStream t stb.toNat ((t.stream stb.toNat).attach false { what := .copyTo sta.toNat, owner := t.owner })) s sta.toNat true
      (.copyFrom stb.toNat)) := by
  have ht := tile_of_serves h
  refine seqRun_kept h ?_
  rw [hc, hf, modStream_of ht]
  dsimp only
  rw [modStream_of (setTile_tile ..), setTile_setTile]
  rfl

theorem spcopy_holds (h : Serves k t s) (hc : ((t.stream stb.toNat).consumerFree && (t.stream sta.toNat).feederFree) = false) :
    execSpcopy sta stb s = .next s :=
  seqRun_wait h (by rw [hc]; rfl)

end

/-- Settles O23: each command of a stream, a consumer or a feeder starts its run or takes its place, or waits. -/
theorem streamAndConsumerCommands : Obligations.StreamAndConsumerCommands := by
  refine ⟨fun k t s st base delta count stride h => ?_, fun k t s st sta stb port row level ring island bytes h => ?_⟩
  · have ht := tile_of_serves h
    intro x run after reads writes writable
    have hb (b : Word) : writable b ↔ bits b.toNat 28 4 = 0 ∨ bit (t.seg (bits b.toNat 28 4)).toNat 62 = true := by
      rw [bit_eq_getLsbD]
    have ha (b : Word) : lineWord b (strideOf stride) (count.toNat + 1) = after b := lineWord_of ..
    have hrun (w : Bool) (b : Word) : newRun w t b (count.toNat + 1) (strideOf stride) = run w b := by rw [newRun, strideOf_eq]
    have hread (b : Word) (hr : x.run = none) := startRun_reads (base := b) (count := count.toNat + 1) (stride := strideOf stride) ht hr
    have hwrite (b : Word) (hr : x.run = none) (hw : writable b) :=
      startRun_writes (count := count.toNat + 1) (stride := strideOf stride) ht hr ((hb b).1 hw)
    simp only [ha, hrun] at hread hwrite
    refine ⟨(seqRun_done h (by rw [modStream_of ht]) : execSadd st delta s = _), fun hr =>
      ⟨(seqRun_kept h (hread base hr) : execStreamRd st base count stride s = _),
        (seqRun_kept h (hread _ hr) : execSnextRd st count stride s = _),
        fun hw => (seqRun_kept h (hwrite base hr hw) : execStreamWr st base count stride s = _),
        fun hw => (seqRun_kept h (hwrite _ hr hw) : execSnextWr st count stride s = _), fun hw => ?_⟩, fun hr => ?_⟩
    · rw [← ha]
      exact (seqRun_done h (startRun_readOnly ht hr ((hb base).not.1 hw)) : execStreamWr st base count stride s = _)
    · exact ⟨(seqRun_wait h (startRun_waits hr) : execStreamRd st base count stride s = _),
        (seqRun_wait h (startRun_waits hr) : execStreamWr st base count stride s = _),
        (seqRun_wait h (startRun_waits hr) : execSnextRd st count stride s = _),
        (seqRun_wait h (startRun_waits hr) : execSnextWr st count stride s = _)⟩
  · have ht := tile_of_serves h
    intro x r deliver push accept put fits consumed fed
    have hfits : pushFits r bytes = true ↔ fits := by simp [fits]
    have hcons (y : Stream) : y.consumerFree = true ↔ ¬ consumed y := consumerFree_iff
    have hfed (y : Stream) : y.feederFree = true ↔ ¬ fed y := feederFree_iff
    have nfed (y : Stream) (hy : fed y) : y.feederFree = false := Bool.eq_false_iff.2 fun hf => (hfed y).1 hf hy
    have ncons (y : Stream) (hy : consumed y) : y.consumerFree = false := Bool.eq_false_iff.2 fun hf => (hcons y).1 hf hy
    refine ⟨fun hw hu hr => ?_, fun hw hr => ?_, fun hw hu hr hb => ?_, fun hw hr hb => ?_, fun hc hf => ?_, fun hc => ?_,
      fun hf hb => ?_, fun hc => ?_, fun hf => (push_unfit h (hfits.not.2 hf) : execPush island ring st bytes s = _)⟩
    · have hfree : x.consumerFree = true := (hcons x).2 (by simp [consumed, hw, hu])
      have hat (j : StreamJob) : x.attach false j = { x with user := some j } := attach_takes j hu (by simpa using hr)
      refine ⟨fun hb => ?_, fun hf => ?_⟩
      · exact (deliver_attaches h hb hfree : execDeliver st port row level s = _).trans (by rw [attached, hat])
      · exact (push_attaches h (hfits.2 hf) hfree : execPush island ring st bytes s = _).trans (by rw [attached, hat])
    · have hfree : x.consumerFree = true := (hcons x).2 (by cases h : x.run <;> simp_all [consumed])
      have hat (j : StreamJob) : x.attach false j = { x with waiting := some j } := attach_waits j (by simpa using hr)
      refine ⟨fun hb => ?_, fun hf => ?_⟩
      · exact (deliver_attaches h hb hfree : execDeliver st port row level s = _).trans (by rw [attached, hat])
      · exact (push_attaches h (hfits.2 hf) hfree : execPush island ring st bytes s = _).trans (by rw [attached, hat])
    · have hfree : x.feederFree = true := (hfed x).2 (by simp [fed, hw, hu])
      exact (accept_attaches h hb hfree : execAccept st port s = _).trans (by rw [attached, attach_takes _ hu (by simpa using hr)])
    · have hfree : x.feederFree = true := (hfed x).2 (by cases h : x.run <;> simp_all [fed])
      exact (accept_attaches h hb hfree : execAccept st port s = _).trans (by
        rw [attached, attach_waits _ (by simpa using hr), if_pos rfl])
    · exact (spcopy_attaches h ((hcons _).2 hc) ((hfed _).2 hf) : execSpcopy sta stb s = _)
    · exact ⟨fun hb => (deliver_holds h hb (ncons x hc) : execDeliver st port row level s = _),
        fun hf => (push_holds h (hfits.2 hf) (ncons x hc) : execPush island ring st bytes s = _)⟩
    · exact (accept_holds h hb (nfed x hf) : execAccept st port s = _)
    · refine (spcopy_holds h ?_ : execSpcopy sta stb s = _)
      obtain hc | hf := hc
      · rw [ncons _ hc, Bool.false_and]
      · rw [nfed _ hf, Bool.and_false]

end Sys2Proof.SequencerCommands

/-! PROOFS of the statements on the control commands of a sequencer, hardware loops, guarded allocations, semaphores and the fused update
(10 R201-R210, 15 R286). -/

namespace Sys2Proof.SequencerCommands
open Sys2Proof Sys2Proof.Machine Sys2Proof.Safety Sys2Proof.Laws Sys2Proof.Arithmetic

/-! ## Control (10 R201, R206) -/

section
variable {k : Nat} {t : Tile} {s s' : State} {body : State → Nat → Tile → SeqResult} {mask : Byte} {label : BitVec 7}

theorem staticOnly_static (hc : t.current = none) : staticOnly body s k t = body s k t := by
  simp [staticOnly, hc]

theorem staticOnly_queued (hc : t.current ≠ none) : staticOnly body s k t = { s := s.seqFault k 0x48 0 } := by
  rw [staticOnly, if_pos (Option.isSome_iff_ne_none.2 hc)]

theorem queued_faults (h : Serves k t s) (hc : t.current ≠ none) :
    seqRun (staticOnly body) s = .next ((s.seqFault k 0x48 0).seqEnd k none false) := seqRun_done h (staticOnly_queued hc)

theorem idle_iff : t.idle mask = true ↔ ∀ st < 8, mask.getLsbD st = true → (t.stream st).run = none := by
  simp [Tile.idle, bit_eq_getLsbD, Decidable.or_iff_not_imp_left]

/-- Settles O24: one attempt of each command, by what it waits for. -/
theorem sequencerControl : Obligations.SequencerControl := by
  intro k t s mask label n count value stop reg h idle shuttle faulted
  have ht := tile_of_serves h
  refine ⟨fun hc => ⟨?_, fun c q hq => ?_, fun hq => ?_⟩, fun hc => ⟨?_, ?_, ?_, ?_⟩, fun hi => ⟨?_, fun hr => ?_, fun hr => ?_⟩, fun hi => ?_⟩
  · exact (seqRun_done h ((staticOnly_static hc).trans (by rw [modTile_of ht])) : execHalt s = _)
  · exact (seqRun_wait h ((staticOnly_static hc).trans (by simp only [hq, modTile_of ht]; rfl)) : execQwait s = _)
  · exact (seqRun_wait h ((staticOnly_static hc).trans (by simp only [hq]; rfl)) : execQwait s = _)
  · exact (queued_faults h hc : execHalt s = _)
  · exact (queued_faults h hc : execQwait s = _)
  · exact (queued_faults h hc : execLoop n count stop s = _)
  · exact (queued_faults h hc : execLpset n reg value s = _)
  · exact (seqRun_done h (by rw [if_pos (idle_iff.2 hi), modTile_of ht]) : execSbar mask s = _)
  · obtain ⟨r, hr⟩ := Option.isSome_iff_exists.1 hr
    exact (seqRun_done h (by simp only [idle_iff.2 hi, hr]; rfl) : execNotify mask label s = _)
  · exact (seqRun_done h (by simp only [idle_iff.2 hi, hr]; rfl) : execNotify mask label s = _)
  · exact (seqRun_wait h (by rw [if_pos (by simpa using idle_iff.not.2 hi)]) : execNotify mask label s = _)

end

/-! ## Hardware loops (10 R208, R209) -/

/-- The command just executed ends the body of an open loop. -/
def Ends (l : HwLoop) (i : Nat) : Prop := l.isOpen = true ∧ l.stop = i

theorem endOfBody_repeats {l : HwLoop} {i : Nat} (h : Ends l i) (hr : l.rc ≠ 0) : l.endOfBody i = ({ l with rc := l.rc - 1 }, some l.start) := by
  obtain ⟨ho, hs⟩ := h
  simp [HwLoop.endOfBody, ho, hs, hr]

theorem endOfBody_closes {l : HwLoop} {i : Nat} (h : Ends l i) (hr : l.rc = 0) : l.endOfBody i = ({ l with isOpen := false }, none) := by
  obtain ⟨ho, hs⟩ := h
  simp [HwLoop.endOfBody, ho, hs, hr]

theorem endOfBody_passes {l : HwLoop} {i : Nat} (h : ¬ Ends l i) : l.endOfBody i = (l, none) := by
  unfold HwLoop.endOfBody
  rw [if_neg]
  simpa [Ends] using h

section
variable {t : Tile}

/-- The inner loop repeats. -/
theorem nextIndex_inner (h : Ends (tget t.loops 1 {}) t.index) (hr : (tget t.loops 1 {}).rc ≠ 0) :
    t.nextIndex = { t with loops := tset t.loops 1 { tget t.loops 1 {} with rc := (tget t.loops 1 {}).rc - 1 },
                           index := (tget t.loops 1 {}).start } := by
  simp only [Tile.nextIndex, endOfBody_repeats h hr]

/-- The inner loop does not repeat: the outer one is tested. -/
theorem nextIndex_outer (h : ¬ (Ends (tget t.loops 1 {}) t.index ∧ (tget t.loops 1 {}).rc ≠ 0)) :
    t.nextIndex = { t with
      loops := tset (tset t.loops 1 ((tget t.loops 1 {}).endOfBody t.index).1) 0 ((tget t.loops 0 {}).endOfBody t.index).1,
      index := ((tget t.loops 0 {}).endOfBody t.index).2.getD (t.index + 1) } := by
  have h1 : ((tget t.loops 1 {}).endOfBody t.index).2 = none := by
    by_cases he : Ends (tget t.loops 1 {}) t.index
    · rw [endOfBody_closes he (not_not.1 fun hr => h ⟨he, hr⟩)]
    · rw [endOfBody_passes he]
  unfold Tile.nextIndex
  dsimp only
  rw [h1]
  simp only [tget_tset_ne t.loops ((tget t.loops 1 {}).endOfBody t.index).1 {} (show 0 ≠ 1 by decide)]

theorem nextIndex_segs : t.nextIndex.segs = t.segs := by
  by_cases h : Ends (tget t.loops 1 {}) t.index ∧ (tget t.loops 1 {}).rc ≠ 0
  · rw [nextIndex_inner h.1 h.2]
  · rw [nextIndex_outer h]

end

/-- The tile after a static command that goes on at the next index. -/
theorem seqEnd_tile {s : State} {k : Nat} {t : Tile} (ht : s.tile k = t) (hc : t.current = none) (hh : t.halted = false) :
    (s.seqEnd k none false).tile k = ({ t with seqAt := s.cycle + 1 } : Tile).nextIndex := by
  have hi : (s.countIssue k).tile k = t := ht
  have hy : (s.countIssue k).cycle = s.cycle := rfl
  unfold State.seqEnd
  simp only [ht, hc, modTile_tile, hi, hh, Bool.false_eq_true, if_false]

theorem writeSegHalf_eq (r : DWord) (half : BitVec 1) (v : Word) : writeSegHalf r (half == 1) v =
    (if half = 1 then (v ++ r.extractLsb' 0 32 : DWord) else (r.extractLsb' 32 32 ++ v : DWord)) &&& 0xF1FFFFFFFFFFFF1F := by
  have hc {n : Nat} (hn : n < 2 ^ 64) : (BitVec.ofNat 64 (n &&& segMask)).toNat = n &&& segMask := by
    rw [BitVec.toNat_ofNat, Nat.mod_eq_of_lt (Nat.lt_of_le_of_lt Nat.and_le_left hn)]
  have hm : (0xF1FFFFFFFFFFFF1F : DWord).toNat = segMask := rfl
  have hv := v.isLt
  have hr := r.isLt
  apply BitVec.eq_of_toNat_eq
  unfold writeSegHalf
  by_cases h : half = 1
  · have hlo : r.toNat % 2 ^ 32 < 2 ^ 32 := Nat.mod_lt _ (by decide)
    have hlt : v.toNat * 2 ^ 32 + r.toNat % 2 ^ 32 < 2 ^ 64 := by omega
    rw [if_pos h, BitVec.toNat_and, hm, BitVec.toNat_append, BitVec.extractLsb'_toNat, Nat.shiftRight_zero,
      ← Nat.shiftLeft_add_eq_or_of_lt hlo, Nat.shiftLeft_eq]
    simp only [h, beq_self_eq_true, if_true]
    exact hc hlt
  · have hlt : r.toNat / 2 ^ 32 * 2 ^ 32 + v.toNat < 2 ^ 64 := by omega
    have hhi : r.toNat / 2 ^ 32 % 2 ^ 32 = r.toNat / 2 ^ 32 := Nat.mod_eq_of_lt (by omega)
    rw [if_neg h, BitVec.toNat_and, hm, BitVec.toNat_append, BitVec.extractLsb'_toNat, Nat.shiftRight_eq_div_pow, hhi,
      ← Nat.shiftLeft_add_eq_or_of_lt hv, Nat.shiftLeft_eq]
    simp only [beq_eq_false_iff_ne.2 h, Bool.false_eq_true, if_false]
    exact hc hlt

/-- Settles O25: the clauses of loop and lpset by one attempt each, and the index after a static segw by the two tests of its body's end. -/
theorem loops : Obligations.Loops := by
  refine ⟨fun k t s n count value stop h => ?_, fun k t s n half value h => ?_⟩
  · obtain ⟨h, hc⟩ := h
    have ht := tile_of_serves h
    intro l c a b clear put
    refine ⟨fun h0 => ?_, fun h0 ha hb => ?_, fun h0 hab => ?_, ?_, ?_, ?_⟩
    · exact (seqRun_jump h ((staticOnly_static hc).trans (if_pos (by simpa using h0))) : execLoop n count stop s = _)
    · refine (seqRun_jump h ((staticOnly_static hc).trans ?_) : execLoop n count stop s = _)
      simp only [modTile_of ht]
      rw [if_neg (by simpa using h0), if_neg (by simpa [a, b, l] using ⟨ha, hb⟩)]
    · refine (seqRun_jump h ((staticOnly_static hc).trans ?_) : execLoop n count stop s = _)
      simp only [modTile_of ht]
      rw [if_neg (by simpa using h0), if_pos (by simpa [a, b, l] using hab)]
    · exact (seqRun_done h ((staticOnly_static hc).trans (by simp only [modTile_of ht]; rfl)) : execLpset n 0 value s = _)
    · exact (seqRun_done h ((staticOnly_static hc).trans (by simp only [modTile_of ht]; rfl)) : execLpset n 1 value s = _)
    · exact (seqRun_done h ((staticOnly_static hc).trans (by simp only [modTile_of ht]; rfl)) : execLpset n 2 value s = _)
  · obtain ⟨h, hc⟩ := h
    intro l0 l1 ends
    have hh : t.halted = false := by
      obtain ⟨-, -, -, hs⟩ := h
      rw [hc] at hs
      exact (Bool.or_eq_false_iff.1 (hs.resolve_left (by simp))).1
    obtain ⟨v, hv⟩ : ∃ v, v = writeSegHalf (t.seg n.toNat) (half == 1) value := ⟨_, rfl⟩
    let u : Tile := { t with segs := tset t.segs n.toNat v }
    let u' : Tile := { u with seqAt := s.cycle + 1 }
    have hu : (((s.setTile k u).seqEnd k none false).tile k) = u'.nextIndex := seqEnd_tile (setTile_tile ..) hc hh
    refine ⟨_, (seqRun_done h (by rw [modTile_of (tile_of_serves h), ← hv]) : execSegw n half value s = _), ?_⟩
    change ((State.seqEnd (s.setTile k u) k none false).tile k).seg n.toNat = _ ∧ _
    rw [hu, ← writeSegHalf_eq, ← hv]
    have hseg (m : Nat) : u'.nextIndex.seg m = u.seg m := by rw [Tile.seg, nextIndex_segs]; rfl
    refine ⟨(hseg _).trans (tget_tset ..), fun m hm => (hseg m).trans (tget_tset_ne _ _ _ hm), fun h1 hr => ?_, fun h1 hr => ?_,
      fun h1 h0 hr => ?_, fun h1 h0 hr => ?_, fun h0 h1 => ?_⟩
    · rw [nextIndex_inner (t := u') h1 hr]
      exact ⟨rfl, tget_tset .., tget_tset_ne _ _ _ (by decide)⟩
    · rw [nextIndex_outer (t := u') fun h2 => h2.2 hr, endOfBody_closes (l := tget u'.loops 1 {}) h1 hr]
      exact (tget_tset_ne _ _ _ (by decide)).trans (tget_tset ..)
    · rw [nextIndex_outer (t := u') h1, endOfBody_repeats (l := tget u'.loops 0 {}) h0 hr]
      exact ⟨rfl, tget_tset ..⟩
    · rw [nextIndex_outer (t := u') h1, endOfBody_closes (l := tget u'.loops 0 {}) h0 hr]
      exact ⟨rfl, tget_tset ..⟩
    · rw [nextIndex_outer (t := u') h1, endOfBody_passes (l := tget u'.loops 0 {}) h0]
      rfl

/-! ## Allocations, semaphores, the fused update (10 R206, R207, R210, 15 R286) -/

theorem overlap_comm_iff (x y : Nat) : overlap x 64 y 64 = true ↔ x < y + 64 ∧ y < x + 64 := by
  simp [overlap]

theorem gallocBad_iff (t : Tile) (g : BitVec 6) (offset bytes : BitVec 19) : t.gallocBad g.toNat offset.toNat bytes.toNat = true ↔
    offset.toNat % 64 ≠ 0 ∨ bytes.toNat % 64 ≠ 0 ∨ bytes = 0 ∨ offset.toNat < 64 ∨ 0x60000 < offset.toNat + bytes.toNat + 64
      ∨ tget? t.guards g.toNat ≠ none
      ∨ ∃ p ∈ t.guards, ∃ x ∈ [offset.toNat - 64, offset.toNat + bytes.toNat], ∃ y ∈ [p.2.1 - 64, p.2.1 + p.2.2], y < x + 64 ∧ x < y + 64 := by
  have hb : bytes.toNat = 0 ↔ bytes = 0 := ⟨fun h => BitVec.eq_of_toNat_eq h, fun h => by rw [h]; rfl⟩
  have hx : (t.guards.any fun p => (granules p.2).any fun a => (granules (offset.toNat, bytes.toNat)).any fun b => overlap a 64 b 64) = true ↔
      ∃ p ∈ t.guards, ∃ x ∈ [offset.toNat - 64, offset.toNat + bytes.toNat], ∃ y ∈ [p.2.1 - 64, p.2.1 + p.2.2], y < x + 64 ∧ x < y + 64 := by
    simp only [List.any_eq_true, overlap_comm_iff, granules]
    exact exists_congr fun p => and_congr_right fun _ => ⟨fun ⟨a, ha, b, hb, h⟩ => ⟨b, hb, a, ha, h⟩, fun ⟨b, hb, a, ha, h⟩ => ⟨a, ha, b, hb, h⟩⟩
  unfold Tile.gallocBad
  rw [Bool.or_eq_true, hx]
  simp only [Bool.or_eq_true, bne_iff_ne, beq_iff_eq, decide_eq_true_eq, hb, Option.isSome_iff_ne_none, or_assoc]

section
variable (s : State) (k : Nat)

/-- A fault of a sequencer asks for no access. -/
theorem seqFault_asked (c a : Nat) : (s.seqFault k c a).asked = s.asked := by
  unfold State.seqFault State.raiseEngine
  split <;> rfl

theorem dropOwner_asked (o : Option (Nat × Nat)) : (s.dropOwner o).asked = s.asked := by
  unfold State.dropOwner
  split
  · rfl
  · simp [State.asked]

theorem seqEnd_asked (j : Option Nat) (kept : Bool) : (s.seqEnd k j kept).asked = s.asked := by
  have h1 (f : Tile → Tile) : ((s.countIssue k).modTile k f).asked = s.asked := rfl
  have h2 (u : State) (f : Tile → Tile) : (u.modTile k f).asked = u.asked := rfl
  unfold State.seqEnd
  dsimp only
  split
  · rw [h2]
    split
    · exact h1 _
    · exact (dropOwner_asked ..).trans (h1 _)
  · rw [h2, h1]

end

section
variable {k : Nat} {t : Tile} {s : State} {desc : Nat}

/-- The state and the answer of the read of a descriptor of a fused update. -/
abbrev descriptorRead (s : State) (k desc : Nat) : State × Answer :=
  s.access { place := .scratch k desc, size := 64, kind := kindStream, word := BitVec.ofNat 32 desc, seen := desc }

theorem fupdDescriptor_accepts (hp : (descriptorRead s k desc).2.poison = false)
    (hb : ({ desc := wordsOf (descriptorRead s k desc).2.value 16 } : FusedUpdate).bad = false) : s.fupdDescriptor k desc =
      (descriptorRead s k desc).1.modTile k fun t => { t with hold := .fupd { desc := wordsOf (descriptorRead s k desc).2.value 16 } } := by
  unfold State.fupdDescriptor
  dsimp only
  rw [if_neg (Bool.eq_false_iff.1 hp), if_neg (Bool.eq_false_iff.1 hb)]

theorem fupdDescriptor_refuses (hp : (descriptorRead s k desc).2.poison = false)
    (hb : ({ desc := wordsOf (descriptorRead s k desc).2.value 16 } : FusedUpdate).bad = true) : s.fupdDescriptor k desc =
      ((descriptorRead s k desc).1.seqFault k 0x48 desc).seqEnd k none false := by
  unfold State.fupdDescriptor
  dsimp only
  rw [if_neg (Bool.eq_false_iff.1 hp), if_pos hb]

/-- A fupd whose descriptor lies in the scratchpad makes an attempt at it. -/
theorem fupd_attempts {d : BitVec 19} {u : State} (h : Serves k t s) (hh : t.hold = .none) (ha : d.toNat % 64 = 0)
    (hl : d.toNat + 64 ≤ 0x60000)
    (hu : (answered s (sequencerWork k) (k / 64) (k % 64) rankElement).fupdDescriptor k d.toNat = u) (hn : u.asked = none) :
    execFupd d s = .next (settled (sequencerWork k) u) := by
  refine seqRun_wait h ?_
  have h1 := attempt_of s (sequencerWork k) (k / 64) (k % 64) rankElement (fun s => (s.fupdDescriptor k d.toNat, ())) (by rw [hu]; exact hn)
  have h2 : (d.toNat % 64 != 0 || decide (0x60000 < d.toNat + 64)) = false := by
    simp only [ha, Nat.not_lt.2 hl, bne_self_eq_false, decide_false, Bool.or_self]
  simp only [hh, h2, Bool.false_eq_true, if_false, State.fupdStep]
  rw [h1, hu]

end

/-- Settles O26: galloc by its five conditions, and one attempt of each other command. -/
theorem allocationsSemaphoresAndUpdates : Obligations.AllocationsSemaphoresAndUpdates := by
  refine ⟨fun k t s g offset bytes h => ?_, fun k t s sem n desc h => ?_⟩
  · have ht := tile_of_serves h
    intro meets mine bad
    have hbad : t.gallocBad g.toNat offset.toNat bytes.toNat = true ↔ bad := gallocBad_iff ..
    refine ⟨fun hb => ?_, fun hb => ?_, ?_⟩
    · exact (seqRun_done h (by rw [if_neg (hbad.not.2 hb), modTile_of ht]) : execGalloc g offset bytes s = _)
    · exact (seqRun_done h (if_pos (hbad.2 hb)) : execGalloc g offset bytes s = _)
    · exact (seqRun_done h (by rw [modTile_of ht]) : execGfree g s = _)
  · have ht := tile_of_serves h
    have hwait (a b : Nat) : s.seqWait k a b = (({ s with nextId := s.nextId + 1 } : State).setTile k { t with hold := .swait a b s.nextId }).sendEngineSem
        (k / 64) (k % 64) a s.nextId (.semw a b) := by
      simp only [State.seqWait, State.newId]
      rw [modTile_of (t := t) (s := { s with nextId := s.nextId + 1 }) ht]
    intro sent asks read u
    refine ⟨?_, fun hh => ?_, fun hh => ?_, fun a b c hh hc => ?_, fun hh ha hl hn hp hb => ?_, fun hh ha hl hn hp hb => ?_, fun hh ha => ?_⟩
    · exact (seqRun_done h rfl : execSsig sem n s = _)
    · exact (seqRun_done h (by simp only [hh, modTile_of ht]; rfl) : execSwait sem n s = _)
    · exact (seqRun_wait h (by simp only [hh, hwait]; rfl) : execSwait sem n s = _)
    · obtain ⟨-, -, hr, -⟩ := h
      change execSwaitRetry k s = _
      simp only [execSwaitRetry, ht, hh, hr, hc, decide_true, Bool.and_self, if_true, hwait]
      rfl
    · exact fupd_attempts h hh ha hl (fupdDescriptor_accepts hp hb) hn
    · exact fupd_attempts h hh ha hl (fupdDescriptor_refuses hp hb) (by rw [seqEnd_asked, seqFault_asked]; exact hn)
    · refine (seqRun_done h ?_ : execFupd desc s = _)
      simp only [hh]
      rw [if_pos (by simpa using ha)]

end Sys2Proof.SequencerCommands

/-! PROOFS that sequencer commands, streams, engine ports and fused updates keep the two invariants (10 R201-R212, 21 R351). -/

namespace Sys2Proof.Kept
open Sys2Proof Sys2Proof.Machine Sys2Proof.Safety Sys2Proof.Laws Sys2Proof.ElementBeats

variable {v : Kind}

theorem holds_ite_iff {c : Prop} [Decidable c] {s t u : State} (ht : v.Holds t ↔ v.Holds s) (hu : v.Holds u ↔ v.Holds s) :
    v.Holds (if c then t else u) ↔ v.Holds s := by
  split
  · exact ht
  · exact hu

/-! ## Ends of an attempt -/

@[simp] theorem nextIndex_scratch (t : Tile) : t.nextIndex.scratch = t.scratch := by
  unfold Tile.nextIndex
  dsimp only
  split <;> rfl

theorem goesOn_scratch (t : Tile) (b : Bool) : (if b then t else t.nextIndex).scratch = t.scratch := by
  split
  · rfl
  · exact nextIndex_scratch t

section
variable (s : State)

@[simp] theorem holds_seqFault (k c a : Nat) : v.Holds (s.seqFault k c a) ↔ v.Holds s := by simp [State.seqFault]

@[simp] theorem holds_dropOwner (o : Option (Nat × Nat)) : v.Holds (s.dropOwner o) ↔ v.Holds s := by
  unfold State.dropOwner
  split <;> simp

@[simp] theorem holds_seqEnd (k : Nat) (j : Option Nat) (b : Bool) : v.Holds (s.seqEnd k j b) ↔ v.Holds s := by
  unfold State.seqEnd
  dsimp only
  split
  · refine (holds_modTile _ _ _ (goesOn_scratch _ _)).trans ?_
    split <;> simp
  · cases j with
    | some n => simp
    | none => exact (holds_modTile _ _ _ (goesOn_scratch _ _)).trans (by simp)

@[simp] theorem holds_modStream (k st : Nat) (f : Stream → Stream) : v.Holds (s.modStream k st f) ↔ v.Holds s := by
  simp [State.modStream]

end

section
variable {s : State}

/-- A command keeps the invariants where its attempt does. -/
theorem holds_seqRun {body : State → Nat → Tile → SeqResult} (h : v.Holds s) (hb : ∀ k t, v.Holds (body s k t).s) : v.Answers (seqRun body s) := by
  unfold seqRun
  split
  · next k _ =>
    split
    · trivial
    · next t _ =>
      have h1 := hb k t
      dsimp only
      split
      · split <;> simpa using h1
      · exact h
  · trivial

theorem holds_static {body : State → Nat → Tile → SeqResult} (h : v.Holds s) (hb : ∀ k t, v.Holds (body s k t).s) :
    v.Answers (seqRun (staticOnly body) s) := by
  refine holds_seqRun h fun k t => ?_
  unfold staticOnly
  split
  · simpa using h
  · exact hb k t

theorem holds_startRun (h : v.Holds s) (w : Bool) (st : Nat) (b : Word) (n : Nat) (x : Int) (k : Nat) (t : Tile) :
    v.Holds (startRun w st b n x s k t).s := by
  unfold startRun
  dsimp only
  split
  · exact h
  · split <;> simpa using h

theorem holds_attachBody (h : v.Holds s) (w : Bool) (st : Nat) (x : StreamUser) (k : Nat) (t : Tile) : v.Holds (attachBody w st x s k t).s := by
  unfold attachBody
  dsimp only
  generalize (if w = true then (t.stream st).feederFree else (t.stream st).consumerFree) = c
  cases c <;> simpa using h

/-! ## Streams (10 R203-R205) -/

@[simp] theorem holds_endJob (s : State) (k st : Nat) (j : StreamJob) : v.Holds (s.endJob k st j) ↔ v.Holds s := by
  unfold State.endJob
  dsimp only
  split <;> simp

@[simp] theorem holds_endRun (s : State) (k st : Nat) : v.Holds (s.endRun k st) ↔ v.Holds s := by
  unfold State.endRun
  dsimp only
  split <;> split <;> simp

@[simp] theorem holds_lineRead (s : State) (k : Nat) (g : Tab DWord) (w : Word) : v.Holds (s.lineRead k g w).1 ↔ v.Holds s := by
  unfold State.lineRead
  split
  · rfl
  · simp

@[simp] theorem holds_lineWrite (s : State) (k : Nat) (g : Tab DWord) (w : Word) (x : Nat) (p : Bool) :
    v.Holds (s.lineWrite k g w x p).1 ↔ v.Holds s := by
  unfold State.lineWrite
  split
  · rfl
  · simp

@[simp] theorem holds_readAhead (s : State) (k st j : Nat) (r : StreamRun) : v.Holds (s.readAhead k st j r) ↔ v.Holds s := by
  unfold State.readAhead
  dsimp only
  split
  · split
    all_goals
      rename_i e
      have h1 := (holds_iff_of_eq e (holds_lineRead (v := v) ..)).trans (by
        split
        · split
          · exact Iff.rfl
          · exact holds_modTile s k _ rfl
        · exact Iff.rfl)
      split <;> simpa using h1
  · rfl

@[simp] theorem holds_lineFault (s : State) (k st c : Nat) (r : StreamRun) : v.Holds (s.lineFault k st c r) ↔ v.Holds s := by
  simp [State.lineFault]

@[simp] theorem holds_deliverMove (s : State) (k st : Nat) (r : StreamRun) (j : StreamJob) (b a l n : Nat) (q : List Token) :
    v.Holds (s.deliverMove k st r j b a l n q) ↔ v.Holds s := by
  unfold State.deliverMove
  dsimp only
  split
  · split
    · rfl
    · split <;> simp
  · split
    · split <;> simp
    · simp
    · rfl

@[simp] theorem holds_endTaken (s : State) (k st : Nat) : v.Holds (s.endTaken k st) ↔ v.Holds s := by
  unfold State.endTaken
  split
  · rfl
  · split <;> simp

@[simp] theorem holds_pushMove (s : State) (k st : Nat) (r : StreamRun) (j : StreamJob) (i n l f : Nat) :
    v.Holds (s.pushMove k st r j i n l f) ↔ v.Holds s := by
  unfold State.pushMove
  dsimp only
  split
  · rfl
  · split
    · split <;> (try split) <;> simp
    · simp
    · rfl

@[simp] theorem holds_feedLine (s : State) (k st x : Nat) (p : Bool) (r : StreamRun) : v.Holds (s.feedLine k st x p r) ↔ v.Holds s := by
  unfold State.feedLine
  dsimp only
  split
  · next e => simp [holds_iff_of_eq e (holds_lineWrite ..)]
  · next e => simp [holds_iff_of_eq e (holds_lineWrite ..)]

@[simp] theorem holds_copyMove (s : State) (k a b : Nat) (r : StreamRun) : v.Holds (s.copyMove k a b r) ↔ v.Holds s := by
  unfold State.copyMove
  dsimp only
  split
  · split
    · split <;> simp
    · rfl
  · rfl

@[simp] theorem holds_acceptMove (s : State) (k st : Nat) (r : StreamRun) (j : StreamJob) (b : Nat) (l : List Word) :
    v.Holds (s.acceptMove k st r j b l) ↔ v.Holds s := by
  unfold State.acceptMove
  split <;> simp

@[simp] theorem holds_countMove (t s : State) (k st : Nat) : v.Holds (t.countMove s k st) ↔ v.Holds t := by
  unfold State.countMove
  split <;> simp

@[simp] theorem holds_moveLine (s : State) (k st : Nat) (r : StreamRun) (j : StreamJob) : v.Holds (s.moveLine k st r j) ↔ v.Holds s := by
  unfold State.moveLine
  split
  · simp
  · simp
  · simp
  · simp
  · split
    · split <;> simp
    · rfl

theorem holds_streamStep {body : State → State} (h : v.Holds s) (hb : ∀ u, v.Holds (body u) ↔ v.Holds u) (k st x r : Nat) :
    v.Answers (streamStep k st x r body s) := by
  have h1 := holds_attempt (v := v) h (k := x) (b := k / 64) (n := k % 64) (r := r) (body := fun s => (body s, ())) fun a =>
    (hb _).2 (by simpa using h)
  unfold streamStep
  split
  · split <;> (rename_i e; simpa using holds_of_eq e h1)
  · exact h

theorem holds_streamLineAccess (h : v.Holds s) (k st n : Nat) : v.Answers (execStreamLineAccess k st n s) := by
  unfold execStreamLineAccess
  dsimp only
  split
  · exact h
  · split
    · exact holds_streamStep h (fun u => holds_readAhead ..) ..
    · split
      · exact h
      · exact holds_streamStep h (fun u => holds_moveLine ..) ..

theorem answers_runComplete (k st : Nat) : v.Answers (execRunComplete k st s) ↔ v.Holds s := by
  unfold execRunComplete
  dsimp only
  split
  · rfl
  · split <;> split <;> simp

@[simp] theorem holds_sendPrefetch (s : State) (k st : Nat) (x : Home) (c : Checked) : v.Holds (s.sendPrefetch k st x c) ↔ v.Holds s := by
  simp [State.sendPrefetch]

theorem holds_runAheadPrefetch (h : v.Holds s) (k st : Nat) : v.Answers (execRunAheadPrefetch k st s) := by
  unfold execRunAheadPrefetch
  dsimp only
  split
  · exact h
  · split
    · exact h
    · split
      · simpa using h
      · split
        · exact h
        · split
          · simpa using h
          · split
            all_goals (rename_i e; have h1 := holds_of_eq e (holds_prefetchTarget (by simpa using h) ..))
            · simpa using h1
            · split <;> simpa using h1

/-! ## Engine ports (06 R391, 10 R212, 13 R243) -/

@[simp] theorem holds_sinkToken (s : State) (b p : Nat) (t : Token) : v.Holds (s.sinkToken b p t) ↔ v.Holds s := by
  unfold State.sinkToken
  split <;> simp

@[simp] theorem holds_pairMove (s : State) (k : Nat) (b : Binding) : v.Holds (s.pairMove k b) ↔ v.Holds s := by
  unfold State.pairMove
  dsimp only
  split
  · rfl
  · split
    · rfl
    · split
      · rfl
      · split <;> simp

@[simp] theorem holds_acceptTake (s : State) (k i : Nat) (b : Binding) : v.Holds (s.acceptTake k i b) ↔ v.Holds s := by
  unfold State.acceptTake
  dsimp only
  split
  · split
    · split <;> simp
    · rfl
  · rfl

@[simp] theorem holds_commandTake (s : State) (k : Nat) (b : Binding) : v.Holds (s.commandTake k b) ↔ v.Holds s := by
  unfold State.commandTake
  dsimp only
  split
  · rfl
  · split
    · rfl
    · split <;> simp

theorem answers_enginePortTake (k i : Nat) : v.Answers (execEnginePortTake k i s) ↔ v.Holds s := by
  unfold execEnginePortTake
  split
  · rfl
  · split
    · split <;> simp
    · split <;> simp
    · split <;> simp
    · rfl

theorem answers_strmPairMove (k i : Nat) : v.Answers (execStrmPairMove k i s) ↔ v.Holds s := by
  unfold execStrmPairMove
  split
  · rfl
  · split <;> simp

/-! ## Barriers, signals, guards (10 R206, R207) -/

@[simp] theorem holds_barStreams (s : State) (k : Nat) (m : Byte) : v.Holds (s.barStreams k m) ↔ v.Holds s := by
  unfold State.barStreams
  generalize List.range 8 = l
  induction l generalizing s with
  | nil => rfl
  | cons n l ih =>
    rw [List.foldl_cons, ih]
    split <;> simp

@[simp] theorem holds_traceBar (s : State) (k n : Nat) (m : Byte) (l : Nat) : v.Holds (s.traceBar k n m l) ↔ v.Holds s := by
  simp [State.traceBar]

@[simp] theorem holds_seqWait (s : State) (k n m : Nat) : v.Holds (s.seqWait k n m) ↔ v.Holds s := by
  simp [State.seqWait, State.newId]

theorem answers_swaitRetry (k : Nat) : v.Answers (execSwaitRetry k s) ↔ v.Holds s := by
  unfold execSwaitRetry
  split
  · split <;> simp
  · rfl

/-! ## The fused update (10 R210, 21 R351) -/

theorem holds_fupdStep {body : State → State} (h : v.Holds s) (k : Nat) (hb : ∀ a, v.Holds (body { s with asking := a })) :
    v.Holds (s.fupdStep k body) := holds_attempt h hb

@[simp] theorem holds_fupdDescriptor (s : State) (k d : Nat) : v.Holds (s.fupdDescriptor k d) ↔ v.Holds s := by
  unfold State.fupdDescriptor
  dsimp only
  split
  · simp
  · split <;> simp

@[simp] theorem holds_endFupd (s : State) (k : Nat) (u : FusedUpdate) (n : Nat) : v.Holds (s.endFupd k u n) ↔ v.Holds s := by
  simp [State.endFupd]

@[simp] theorem holds_nextBlock (s : State) (k : Nat) (u : FusedUpdate) : v.Holds (s.nextBlock k u) ↔ v.Holds s := by
  unfold State.nextBlock
  dsimp only
  split <;> simp

theorem holds_placeBlock (h : v.Holds s) (k : Nat) (w : Word) (p b : Bool) : v.Holds (s.placeBlock k w p b).1 := by
  unfold State.placeBlock
  split
  · exact h
  · split
    · exact h
    · split
      · exact h
      · dsimp only
        split
        all_goals (rename_i e; have h1 := holds_of_eq e (holds_resolve h ..))
        · exact h1
        · split
          · split <;> (rename_i e'; exact holds_of_eq e' (holds_resolve h1 ..))
          · exact h1

@[simp] theorem holds_readBlock (k : Nat) (w : Word) (x : Bool × Nat) (m : Nat) : ∀ (s : State) (n : Nat),
    v.Holds (s.readBlock k w x n m).1 ↔ v.Holds s := by
  induction m with
  | zero => exact fun _ _ => Iff.rfl
  | succ m ih =>
    intro s n
    unfold State.readBlock
    dsimp only
    split
    · simp
    · split
      · simp
      · split <;> (rename_i e; exact (holds_iff_of_eq e (ih ..)).trans (holds_access ..))

@[simp] theorem holds_writeGranules (k : Nat) (w : Word) (x : Bool × Nat) (m : Nat) : ∀ (s : State) (a n : Nat),
    v.Holds (s.writeGranules k w x a n m).1 ↔ v.Holds s := by
  induction m with
  | zero => exact fun _ _ _ => Iff.rfl
  | succ m ih =>
    intro s a n
    unfold State.writeGranules
    dsimp only
    split <;> simp [ih]

@[simp] theorem holds_fupdFault (s : State) (k : Nat) (u : FusedUpdate) (c a : Nat) : v.Holds (s.fupdFault k u c a) ↔ v.Holds s := by
  simp [State.fupdFault]

theorem holds_placeArrays (k : Nat) (u : FusedUpdate) (l : List Nat) : ∀ {s : State}, v.Holds s → v.Holds (s.placeArrays k u l).1 := by
  induction l with
  | nil => exact fun h => h
  | cons n l ih =>
    intro s h
    unfold State.placeArrays
    split
    all_goals (rename_i e; have h1 := holds_of_eq e (holds_placeBlock h ..))
    · exact h1
    · have h2 := ih h1
      split <;> (rename_i e'; exact holds_of_eq e' h2)

theorem holds_readArrays (k : Nat) (u : FusedUpdate) (l : List (Nat × Bool × Nat)) : ∀ {s : State},
    v.Holds s → v.Holds (s.readArrays k u l).1 := by
  induction l with
  | nil => exact fun h => h
  | cons n l ih =>
    intro s h
    unfold State.readArrays
    split
    all_goals (rename_i e; have h1 := holds_of_eq e ((holds_readBlock ..).2 h))
    · exact h1
    · have h2 := ih h1
      split <;> (rename_i e'; exact holds_of_eq e' h2)

theorem holds_stageBlock (h : v.Holds s) (k : Nat) (u : FusedUpdate) : v.Holds (s.stageBlock k u) := by
  unfold State.stageBlock
  split <;> (rename_i e; simpa using holds_of_eq e (holds_readArrays _ _ _ h))

theorem holds_headBlock (h : v.Holds s) (k : Nat) (u : FusedUpdate) : v.Holds (s.headBlock k u) := by
  unfold State.headBlock
  dsimp only
  split
  all_goals (rename_i e; have h1 := holds_of_eq e (holds_placeBlock h ..))
  · simpa using h1
  · split
    all_goals (rename_i e'; have h2 := holds_of_eq e' ((holds_readBlock ..).2 h1))
    · simpa using h2
    · split
      · simpa using h2
      · split
        · simpa using h2
        · split <;> (rename_i e''; simpa using holds_of_eq e'' (holds_placeArrays _ _ _ h2))

theorem holds_fupdReadPhase (h : v.Holds s) (k : Nat) : v.Answers (execFupdReadPhase k s) := by
  unfold execFupdReadPhase
  split
  · split
    · exact h
    · refine holds_fupdStep h _ fun a => ?_
      have h1 : v.Holds { s with asking := a } := by simpa using h
      split
      · exact holds_headBlock h1 ..
      · exact holds_stageBlock h1 ..
  · exact h

@[simp] theorem holds_commitBlock (s : State) (k : Nat) (u : FusedUpdate) (w m x : List Word) : v.Holds (s.commitBlock k u w m x) ↔ v.Holds s := by
  unfold State.commitBlock
  extract_lets body go
  have hgo (s : State) (c n i m x : Nat) : v.Holds (go s c n i m x).1 ↔ v.Holds s := by
    simp only [go]
    split <;> simp
  split
  next e1 =>
    have h1 := holds_iff_of_eq e1 (hgo ..)
    split
    next e2 =>
      have h2 := (holds_iff_of_eq e2 (by split; exacts [hgo .., Iff.rfl])).trans h1
      split
      next e3 =>
        have h3 := (holds_iff_of_eq e3 (hgo ..)).trans h2
        split
        next e4 =>
          have h4 := (holds_iff_of_eq e4 (hgo ..)).trans h3
          exact holds_ite_iff ((holds_fupdFault ..).trans h4) ((holds_nextBlock ..).trans h4)

theorem holds_fupdCommit (h : v.Holds s) (k : Nat) : v.Answers (execFupdCommit k s) := by
  unfold execFupdCommit
  split
  · split
    · exact h
    · split
      · exact holds_fupdStep h _ fun a => by simpa using h
      · exact h
  · exact h

/-! ## The commands -/

theorem holds_loop (h : v.Holds s) (n : BitVec 1) (c : BitVec 16) (b : BitVec 8) : v.Answers (execLoop n c b s) := by
  refine holds_static h fun k t => ?_
  dsimp only
  split
  · exact h
  · split <;> simpa using h

theorem holds_swait (h : v.Holds s) (m : BitVec 10) (n : BitVec 16) : v.Answers (execSwait m n s) := by
  refine holds_seqRun h fun k t => ?_
  split <;> simpa using h

theorem holds_fupd (h : v.Holds s) (d : BitVec 19) : v.Answers (execFupd d s) := by
  refine holds_seqRun h fun k t => ?_
  split
  · split
    · simpa using h
    · exact holds_fupdStep h _ fun a => by simpa using h
  · exact h

theorem holds_notify (h : v.Holds s) (m : Byte) (l : BitVec 7) : v.Answers (execNotify m l s) := by
  refine holds_seqRun h fun k t => ?_
  split
  · simpa using h
  · split <;> simpa using h

theorem holds_sbar (h : v.Holds s) (m : Byte) : v.Answers (execSbar m s) := by
  refine holds_seqRun h fun k t => ?_
  split
  · simpa using h
  · rw [holds_barStreams]
    split <;> simpa using h

theorem holds_qwait (h : v.Holds s) : v.Answers (execQwait s) := by
  refine holds_static h fun k t => ?_
  split <;> simpa using h

theorem holds_deliverCmd (h : v.Holds s) (st : BitVec 3) (p : BitVec 4) (r : BitVec 12) (l : BitVec 3) : v.Answers (execDeliver st p r l s) := by
  refine holds_seqRun h fun k t => ?_
  split
  · exact holds_attachBody h ..
  · simpa using h

theorem holds_push (h : v.Holds s) (i : BitVec 2) (r st : BitVec 3) (n : BitVec 12) : v.Answers (execPush i r st n s) := by
  refine holds_seqRun h fun k t => ?_
  dsimp only
  split
  · exact holds_attachBody h ..
  · simpa using h

theorem holds_acceptCmd (h : v.Holds s) (st : BitVec 3) (p : BitVec 4) : v.Answers (execAccept st p s) := by
  refine holds_seqRun h fun k t => ?_
  split
  · exact holds_attachBody h ..
  · simpa using h

theorem holds_spcopy (h : v.Holds s) (a b : BitVec 3) : v.Answers (execSpcopy a b s) := by
  refine holds_seqRun h fun k t => ?_
  split <;> simpa using h

theorem holds_galloc (h : v.Holds s) (g : BitVec 6) (o b : BitVec 19) : v.Answers (execGalloc g o b s) := by
  refine holds_seqRun h fun k t => ?_
  split <;> simpa using h

theorem holds_streamRd (h : v.Holds s) (st : BitVec 3) (b : Word) (c d : BitVec 12) : v.Answers (execStreamRd st b c d s) :=
  holds_seqRun h fun _ _ => holds_startRun h ..
theorem holds_streamWr (h : v.Holds s) (st : BitVec 3) (b : Word) (c d : BitVec 12) : v.Answers (execStreamWr st b c d s) :=
  holds_seqRun h fun _ _ => holds_startRun h ..
theorem holds_snextRd (h : v.Holds s) (st : BitVec 3) (c d : BitVec 12) : v.Answers (execSnextRd st c d s) :=
  holds_seqRun h fun _ _ => holds_startRun h ..
theorem holds_snextWr (h : v.Holds s) (st : BitVec 3) (c d : BitVec 12) : v.Answers (execSnextWr st c d s) :=
  holds_seqRun h fun _ _ => holds_startRun h ..
theorem holds_sadd (h : v.Holds s) (st : BitVec 3) (d : Word) : v.Answers (execSadd st d s) :=
  holds_seqRun h fun _ _ => by simpa using h
theorem holds_halt (h : v.Holds s) : v.Answers (execHalt s) := holds_static h fun _ _ => by simpa using h
theorem holds_ssig (h : v.Holds s) (m : BitVec 10) (n : BitVec 16) : v.Answers (execSsig m n s) :=
  holds_seqRun h fun _ _ => by simpa using h
theorem holds_gfree (h : v.Holds s) (g : BitVec 6) : v.Answers (execGfree g s) := holds_seqRun h fun _ _ => by simpa using h
theorem holds_lpset (h : v.Holds s) (n : BitVec 1) (r : BitVec 2) (x : BitVec 16) : v.Answers (execLpset n r x s) :=
  holds_static h fun _ _ => by simpa using h
theorem holds_segw (h : v.Holds s) (n : BitVec 4) (b : BitVec 1) (x : Word) : v.Answers (execSegw n b x s) :=
  holds_seqRun h fun _ _ => by simpa using h

end

end Sys2Proof.Kept

/-! PROOFS of the statements on control tokens (12 R228-R236): for each token, what it applies where its check passes and its accesses
have been answered. -/

namespace Sys2Proof.ControlTokens
open Sys2Proof Sys2Proof.Machine Sys2Proof.Safety Sys2Proof.Laws

/-- A read that meets no poison, as its three answers. -/
theorem eq_of_clean {x : State × Nat × Bool} (h : x.2.2 = false) : x = (x.1, x.2.1, false) := by
  rw [← h]

theorem sendHome_asked (s : State) (k : Nat) (l : List HomeReq) : (s.sendHome k l).asked = s.asked := by
  unfold State.sendHome
  split
  · rfl
  · dsimp only
    split <;> rfl

theorem size_of_holds {x : Island} {m : BitVec 3} (h : Holds x m) : (x.ring m.toNat).bound = true ∧ (x.ring m.toNat).count ≠ 0 := h

section
variable {i : Nat} {x : Island} {c : EngineCmd} {rest : List EngineCmd} {s : State} {oa : BitVec 16}

theorem oaBad_iff (oa n : Nat) : oaBad oa n = false ↔ oaOff oa + n ≤ 0x60000 := by
  simp [oaBad]

/-! ## Accumulators (12 R228-R231) -/

section
variable {acc : BitVec 2} {accum sat : BitVec 1} {ra rb k : BitVec 3} {fa fb f : BitVec 4} {m : BitVec 7} {n : BitVec 8}

/-- An entry of an MMA from the two head tiles. -/
abbrev entryOf (x : Island) (acc : BitVec 2) (accum : BitVec 1) (k : BitVec 3) (fa fb : BitVec 4) (m : BitVec 7) (n : BitVec 8)
    (va vb r q : Nat) : Word × Flags :=
  mmaEntry (fun j => (tileValue va (m.toNat + 1) (32 * (k.toNat + 1)) fa.toNat r j,
      tileValue vb (n.toNat + 1) (32 * (k.toNat + 1)) fb.toNat q j))
    (if accum = 1 then some (tget (x.accOf acc.toNat) (256 * r + q) 0) else none) (k.toNat + 1) 0

theorem mma_applies {s1 s2 : State} {va vb : Nat} (h : Takes i x c rest s) (hne : ra ≠ rb) (hra : Holds x ra) (hrb : Holds x rb)
    (hfa : fa.toNat < 11) (hfb : fb.toNat < 11) (hr : 32 * (k.toNat + 1) % 128 = 0 ∨ (fa.toNat < 8 ∧ fb.toNat < 8))
    (hba : tileBytes (m.toNat + 1) (32 * (k.toNat + 1)) fa.toNat ≤ (x.ring ra.toNat).size)
    (hbb : tileBytes (n.toNat + 1) (32 * (k.toNat + 1)) fb.toNat ≤ (x.ring rb.toNat).size)
    (h1 : (tokenState s i [ra.toNat, rb.toNat]).ringRead i ra.toNat (tileBytes (m.toNat + 1) (32 * (k.toNat + 1)) fa.toNat) = (s1, va, false))
    (h2 : s1.ringRead i rb.toNat (tileBytes (n.toNat + 1) (32 * (k.toNat + 1)) fb.toNat) = (s2, vb, false)) (ha : s2.asked = none) :
    exec (.mma acc accum ra rb fa fb m n k) s =
      let region := fillRegion (entryOf x acc accum k fa fb m n va vb) (n.toNat + 1) (x.accOf acc.toNat) ((m.toNat + 1) * (n.toNat + 1))
      .next (applied i c rest [ra.toNat, rb.toNat] (settled (islandWork i)
        (((s2.setAcc i acc.toNat region.1).islandFlags i region.2).lose i acc.toNat))) := by
  change execMma acc accum ra rb fa fb m n k s = _
  have hne' : (ra == rb) = false := by simpa using hne
  unfold execMma
  simp only [hne', Bool.false_eq_true, if_false, Bool.false_or]
  refine tokenRun_applied h (by simpa using ⟨hra, hrb⟩) ?_ ?_ ha
  · rw [if_neg (by simp; omega), if_neg (by simp; omega), if_neg (by simp; omega)]
  · simp only [h1, h2, Bool.or_self, Bool.false_eq_true, if_false, beq_iff_eq]

theorem accw_applies (h : Takes i x c rest s) (hf : f.toNat ≤ 11) (hb : tileBlock f.toNat ≠ 0 → (n.toNat + 1) % tileBlock f.toNat = 0)
    (hs : sat = 1 → f = 2 ∨ f = 3) (ho : oaOff oa.toNat + tileBytes (m.toNat + 1) (n.toNat + 1) f.toNat ≤ 0x60000)
    (ha : ((tokenState s i []).areaWrite (oaTile i oa.toNat) (tileBytes (m.toNat + 1) (n.toNat + 1) f.toNat + 1) (oaOff oa.toNat)
      (accImage (x.accOf acc.toNat) f.toNat (m.toNat + 1) (n.toNat + 1) (sat == 1)).1
      (tileBytes (m.toNat + 1) (n.toNat + 1) f.toNat)).asked = none) :
    exec (.accw acc f sat oa m n) s =
      let image := accImage (x.accOf acc.toNat) f.toNat (m.toNat + 1) (n.toNat + 1) (sat == 1)
      let size := tileBytes (m.toNat + 1) (n.toNat + 1) f.toNat
      .next (applied i c rest [] (settled (islandWork i)
        (((tokenState s i []).areaWrite (oaTile i oa.toNat) (size + 1) (oaOff oa.toNat) image.1 size).islandFlags i image.2))) := by
  have h1 : (decide (11 < f.toNat) || (tileBlock f.toNat != 0 && (n.toNat + 1) % tileBlock f.toNat != 0)) = false := by
    simpa using ⟨hf, hb⟩
  have h2 : (sat == 1 && f.toNat != 2 && f.toNat != 3) = false := by
    by_cases hsat : sat = 1
    · obtain rfl | rfl := hs hsat
      · simp
      · simp
    · rw [beq_eq_false_iff_ne.2 hsat]
      rfl
  change execAccw acc f sat oa m n s = _
  unfold execAccw
  refine tokenRun_applied h (by simp) ?_ rfl ?_
  · simp only [h1, h2, (oaBad_iff _ _).2 ho, Bool.false_eq_true, if_false]
  · exact ha

theorem accl_applies {s1 : State} {v : Nat} (h : Takes i x c rest s) (ho : oaOff oa.toNat + 4 * (m.toNat + 1) * (n.toNat + 1) ≤ 0x60000)
    (h1 : (tokenState s i []).areaRead (oaTile i oa.toNat) (4 * (m.toNat + 1) * (n.toNat + 1) + 1) (oaOff oa.toNat)
      (4 * (m.toNat + 1) * (n.toNat + 1)) = (s1, v, false)) (ha : s1.asked = none) :
    exec (.accl acc oa m n) s = .next (applied i c rest [] (settled (islandWork i) ((s1.setAcc i acc.toNat
      (fillRegion (fun r q => (BitVec.ofNat 32 (bits v (32 * (r * (n.toNat + 1) + q)) 32), 0)) (n.toNat + 1)
        (x.accOf acc.toNat) ((m.toNat + 1) * (n.toNat + 1))).1).lose i acc.toNat))) := by
  change execAccl acc oa m n s = _
  unfold execAccl
  refine tokenRun_applied h (by simp) ?_ ?_ ?_
  · rw [if_neg (by simp [(oaBad_iff _ _).2 ho])]
  · simp only [h1, Bool.false_eq_true, if_false]
  · exact ha

end

section
variable {kind : BitVec 2} {count : BitVec 16} {sem : BitVec 10} {ra : BitVec 3} {t : State}

theorem msig_replies (h : Takes i x c rest s) (hk : kind = 0) (hr : x.rpe = true) (ht : (tokenState s i []).islandReply i x.istat = some t)
    (ha : t.asked = none) : exec (.msig kind count sem) s = .next (applied i c rest [] (settled (islandWork i) t)) := by
  subst hk
  refine (tokenRun_applied h (by simp) ?_ ?_ ha : execMsig 0 count sem s = _)
  · simp [hr]
  · simp only [ht]
    rfl

theorem msig_sends (h : Takes i x c rest s) (hk : kind = 1) (hr : (routeOf s (i / 4) (sem.toNat % 128)).isSome = true) :
    exec (.msig kind count sem) s = .next (applied i c rest [] (settled (islandWork i)
      ((tokenState s i []).modBh (i / 4) fun y => { y with shuttles := y.shuttles ++
        [{ classL := true, source := 0x50000 + i, label := sem.toNat % 128, w0 := x.istat, w1 := BitVec.ofNat 32 (i % 4) }] }))) := by
  subst hk
  refine (tokenRun_applied h (by simp) ?_ rfl rfl : execMsig 1 count sem s = _)
  obtain ⟨r, hr⟩ := Option.isSome_iff_exists.1 hr
  simp [hr]

theorem msig_signals (h : Takes i x c rest s) (hk : kind = 2) : exec (.msig kind count sem) s = .next (applied i c rest []
    (settled (islandWork i) ((tokenState s i []).engineSignal (i / 4) (32 + i % 4) sem.toNat count.toNat))) := by
  subst hk
  exact (tokenRun_applied h (by simp) rfl rfl (sendHome_asked ..) : execMsig 2 count sem s = _)

theorem rpop_applies (h : Takes i x c rest s) (hr : Holds x ra) :
    exec (.rpop ra) s = .next (applied i c rest [ra.toNat] (settled (islandWork i) (tokenState s i [ra.toNat]))) :=
  (tokenRun_applied h (by simpa using hr) rfl rfl rfl : execRpop ra s = _)

end

end

/-! ## Reflectors (12 R232-R236) -/

section
variable {i : Nat} {x : Island} {c : EngineCmd} {rest : List EngineCmd} {s s1 : State} {q tr : BitVec 1} {mode var : BitVec 2}
  {n cnt p : BitVec 7} {oa : BitVec 16} {ring : BitVec 3} {v : Nat}

theorem qinit_applies (h : Takes i x c rest s) (hm : mode.toNat < 3) (hz : mode = 0 → oa = 0 ∧ var = 0 ∧ cnt = 0) :
    exec (.qinit q mode n oa var cnt) s = .next (applied i c rest [] (settled (islandWork i) (((tokenState s i []).setQa i q.toNat
      { init := true, n := n.toNat + 1, mode := mode.toNat, oa := oa.toNat, var := var.toNat, c := cnt.toNat + 1 }).lose i
        (4 + q.toNat)))) := by
  have h2 : (mode.toNat == 0 && (oa != 0 || var != 0 || cnt != 0)) = false := by
    by_cases h0 : mode = 0
    · obtain ⟨rfl, rfl, rfl⟩ := hz h0
      simp
    · have h3 : (mode.toNat == 0) = false := beq_eq_false_iff_ne.2 fun hn => h0 (BitVec.eq_of_toNat_eq hn)
      rw [h3, Bool.false_and]
  refine (tokenRun_applied h (by simp) ?_ rfl rfl : execQinit q mode n oa var cnt s = _)
  rw [if_neg (by simp; omega), if_neg (Bool.eq_false_iff.1 h2)]

/-- What a QADD leaves once its reflector has been appended. -/
abbrev appendedTo (s1 : State) (i : Nat) (q : BitVec 1) (p : BitVec 7) (r y : Reflector) (v : Nat) : State :=
  let z := y.append p.toNat ((wordsOf v (r.n + 1)).headD 0) ((wordsOf v (r.n + 1)).drop 1)
  ((s1.setQa i q.toNat z.1).islandFlags i z.2).lose i (4 + q.toNat)

section
variable (h : Takes i x c rest s) (hi : (x.qaOf q.toNat).init = true) (hr : Holds x ring)
  (hs : 4 * ((x.qaOf q.toNat).n + 1) ≤ (x.ring ring.toNat).size) (hp : p.toNat < (x.qaOf q.toNat).n)
  (h1 : (tokenState s i [ring.toNat]).ringRead i ring.toNat (4 * ((x.qaOf q.toNat).n + 1)) = (s1, v, false))
include h hi hr hs hp h1

theorem qadd_appends (hk : (x.qaOf q.toNat).k ≠ 64) (ha : s1.asked = none) : exec (.qadd q ring p) s = .next (applied i c rest [ring.toNat]
    (settled (islandWork i) (appendedTo s1 i q p (x.qaOf q.toNat) (x.qaOf q.toNat) v))) := by
  have hk' : ((x.qaOf q.toNat).k == 64) = false := by simpa using hk
  change execQadd q ring p s = _
  unfold execQadd
  refine tokenRun_applied h (by simpa using hr) ?_ ?_ ha
  · simp only [hi, hk', Bool.not_true, Bool.false_and, Bool.false_eq_true, if_false]
    rw [if_neg (Nat.not_lt.2 hs), if_neg (Nat.not_le.2 hp)]
  · simp only [h1, hk', Bool.false_eq_true, if_false]

theorem qadd_overflows {s2 : State} {y : Reflector} (hk : (x.qaOf q.toNat).k = 64)
    (hm1 : (x.qaOf q.toNat).mode = 1 → oaOff (x.qaOf q.toNat).oa + 4 * (x.qaOf q.toNat).n * (x.qaOf q.toNat).c ≤ 0x60000)
    (hm2 : (x.qaOf q.toNat).mode = 2 → (x.qaOf q.toNat).spills ≠ 255
      ∧ oaOff (x.qaOf q.toNat).oa + ((x.qaOf q.toNat).spills + 1) * (16512 + 256 * (x.qaOf q.toNat).n) ≤ 0x60000)
    (h2 : s1.reflectorOverflow i (x.qaOf q.toNat) = (s2, .ok y)) (ha : s2.asked = none) : exec (.qadd q ring p) s =
      .next (applied i c rest [ring.toNat] (settled (islandWork i) (appendedTo s2 i q p (x.qaOf q.toNat) y v))) := by
  change execQadd q ring p s = _
  unfold execQadd
  refine tokenRun_applied h (by simpa using hr) ?_ ?_ ha
  · simp only [hi, hk, Bool.not_true, beq_self_eq_true, Bool.true_and, Bool.false_eq_true, if_false]
    rw [if_neg (Nat.not_lt.2 hs), if_neg (Nat.not_le.2 hp), if_neg, if_neg]
    · simpa [oaBad] using hm2
    · simpa [oaBad] using hm1
  · simp only [h1, hk, h2, beq_self_eq_true, Bool.false_eq_true, if_false, if_true]

end

theorem reflectorApply_applies {right : Bool} (h : Takes i x c rest s) (hi : (x.qaOf q.toNat).init = true) (hr : Holds x ring)
    (hs : 4 * (x.qaOf q.toNat).n * (cnt.toNat + 1) ≤ (x.ring ring.toNat).size)
    (ho : oaOff oa.toNat + 4 * (x.qaOf q.toNat).n * (cnt.toNat + 1) ≤ 0x60000)
    (h1 : (tokenState s i [ring.toNat]).ringRead i ring.toNat (4 * (x.qaOf q.toNat).n * (cnt.toNat + 1)) = (s1, v, false))
    {out : List Word × Flags} (h2 : (x.qaOf q.toNat).apply right (tr == 1) (wordsOf v ((x.qaOf q.toNat).n * (cnt.toNat + 1))) (cnt.toNat + 1) = out)
    (ha : (s1.areaWrite (oaTile i oa.toNat) (4 * (x.qaOf q.toNat).n * (cnt.toNat + 1) + 1) (oaOff oa.toNat) (natOfWords out.1)
      (4 * (x.qaOf q.toNat).n * (cnt.toNat + 1))).asked = none) :
    reflectorApply right q tr ring oa cnt s = .next (applied i c rest [ring.toNat] (settled (islandWork i)
      ((s1.areaWrite (oaTile i oa.toNat) (4 * (x.qaOf q.toNat).n * (cnt.toNat + 1) + 1) (oaOff oa.toNat) (natOfWords out.1)
        (4 * (x.qaOf q.toNat).n * (cnt.toNat + 1))).islandFlags i out.2))) := by
  unfold reflectorApply
  refine tokenRun_applied h (by simpa using hr) ?_ ?_ ?_
  · simp only [hi, Bool.not_true, Bool.false_eq_true, if_false, (oaBad_iff _ _).2 ho]
    rw [if_neg (Nat.not_lt.2 hs)]
  · simp only [h1, h2, Bool.false_eq_true, if_false]
  · exact ha

theorem qcnt_applies {t : State} (h : Takes i x c rest s) (hr : x.rpe = true) (ht : (tokenState s i []).islandReply i (BitVec.ofNat 32
      (if (x.qaOf q.toNat).init = true then (x.qaOf q.toNat).v.length + (x.qaOf q.toNat).spills * 256
        + ((x.qaOf q.toNat).n - 1) % 128 * 65536 + 2 ^ 23 else 0)) = some t) (ha : t.asked = none) :
    exec (.qcnt q) s = .next (applied i c rest [] (settled (islandWork i) t)) := by
  change execQcnt q s = _
  unfold execQcnt
  refine tokenRun_applied h (by simp) (by rw [if_pos hr]) ?_ ha
  simp only [Reflector.k, ht]

theorem qspl_applies (h : Takes i x c rest s) (hi : (x.qaOf q.toNat).init = true)
    (ho : oaOff oa.toNat + imageBytes (x.qaOf q.toNat).n (x.qaOf q.toNat).k ≤ 0x60000)
    (ha : ((tokenState s i []).areaWrite (oaTile i oa.toNat) (imageBytes (x.qaOf q.toNat).n (x.qaOf q.toNat).k + 1) (oaOff oa.toNat)
      (x.qaOf q.toNat).image (imageBytes (x.qaOf q.toNat).n (x.qaOf q.toNat).k)).asked = none) :
    exec (.qspl q oa) s = .next (applied i c rest [] (settled (islandWork i) ((tokenState s i []).areaWrite (oaTile i oa.toNat)
      (imageBytes (x.qaOf q.toNat).n (x.qaOf q.toNat).k + 1) (oaOff oa.toNat) (x.qaOf q.toNat).image
      (imageBytes (x.qaOf q.toNat).n (x.qaOf q.toNat).k)))) := by
  change execQspl q oa s = _
  unfold execQspl
  refine tokenRun_applied h (by simp) ?_ rfl ha
  simp only [hi, Bool.not_true, Bool.false_eq_true, if_false, (oaBad_iff _ _).2 ho]

/-- The header of a spill image and its pivots fit the accumulator. -/
structure ImageFits (r : Reflector) (hd piv : Nat) : Prop where
  rows : bits hd 0 7 + 1 = r.n
  count : bits hd 8 7 ≤ 64
  bit7 : bits hd 7 1 = 0
  rest : bits hd 15 497 = 0
  pivots : ∀ j < bits hd 8 7, bits piv (8 * j) 8 < r.n

theorem bit_of_bits {w n : Nat} (h : bits w n 1 = 0) : bit w n = false := by
  have h1 : w / 2 ^ n % 2 = 0 := h
  simp [bit, h1]

theorem ImageFits.check {r : Reflector} {hd piv : Nat} (h : ImageFits r hd piv) :
    (bits hd 0 7 + 1 != r.n || decide (64 < bits hd 8 7) || bit hd 7 || bits hd 15 497 != 0
      || (List.range (bits hd 8 7)).any fun j => decide (r.n ≤ bits piv (8 * j) 8)) = false := by
  obtain ⟨h1, h2, h3, h4, h5⟩ := h
  have h6 : ((List.range (bits hd 8 7)).any fun j => decide (r.n ≤ bits piv (8 * j) 8)) = false := by
    simpa [List.any_eq_false] using h5
  simp [h1, bit_of_bits h3, h4, h6, Nat.not_lt.2 h2]

theorem qldv_applies {s2 : State} {hv body : Nat} (h : Takes i x c rest s) (hi : (x.qaOf q.toNat).init = true) (ho : oaOff oa.toNat + 128 ≤ 0x60000)
    (h1 : (tokenState s i []).areaRead (oaTile i oa.toNat) 129 (oaOff oa.toNat) 128 = (s1, hv, false))
    (hf : ImageFits (x.qaOf q.toNat) (bits hv 0 512) (bits hv 512 512)) {size : Nat}
    (hz : size = 4 * (x.qaOf q.toNat).n * bits (bits hv 0 512) 8 7 + 4 * bits (bits hv 0 512) 8 7 * bits (bits hv 0 512) 8 7)
    (ho' : oaOff oa.toNat + (128 + size) ≤ 0x60000)
    (h2 : s1.areaRead (oaTile i oa.toNat) (size + 1) (oaOff oa.toNat + 128) size = (s2, body, false)) (ha : s2.asked = none) :
    exec (.qldv q oa) s = .next (applied i c rest [] (settled (islandWork i) ((s2.setQa i q.toNat
      ((x.qaOf q.toNat).load (bits (bits hv 0 512) 8 7) (bits hv 512 512) body)).lose i (4 + q.toNat)))) := by
  change execQldv q oa s = _
  unfold execQldv
  refine tokenRun_applied h (by simp) ?_ ?_ ha
  · simp only [hi, Bool.not_true, Bool.false_eq_true, if_false, (oaBad_iff _ _).2 ho]
  · have h3 : oaBad oa.toNat (128 + 4 * (x.qaOf q.toNat).n * bits (bits hv 0 512) 8 7
        + 4 * bits (bits hv 0 512) 8 7 * bits (bits hv 0 512) 8 7) = false := (oaBad_iff _ _).2 (by omega)
    subst hz
    simp only [h1, hf.check, h3, h2, Bool.false_eq_true, if_false]

end

/-- Settles O27: the lemma of each token. -/
theorem accumulatorTokens : Obligations.AccumulatorTokens := by
  intro i x c rest s acc kind accum sat ra rb k fa fb f m n oa count sem h rows cols red bytesA bytesB u done a b entry region image size
    written values shuttle
  refine ⟨fun hne hra hrb hfa hfb hr hba hbb ha h1 h2 => ?_, fun hf hb hs ho ha => ?_, fun ho ha hp => ?_, fun hk hr t ht ha => ?_,
    fun hk hr => ?_, fun hk => ?_, fun hr => ?_⟩
  · exact mma_applies h hne hra hrb hfa hfb hr hba hbb (eq_of_clean (x := a) h1) (eq_of_clean (x := b) h2) ha
  · exact accw_applies h hf hb hs ho ha
  · exact accl_applies h ho (eq_of_clean (x := values) hp) ha
  · exact msig_replies h hk hr ht ha
  · exact msig_sends h hk hr
  · exact msig_signals h hk
  · exact rpop_applies h hr

/-- Settles O28: the lemma of each token. -/
theorem reflectorTokens : Obligations.ReflectorTokens := by
  intro i x c rest s q tr mode var n cnt p oa ring h r lost count u done col ws appended emptied tile out written spilt head hd piv k body
  refine ⟨fun hm hz => ?_, fun hi hr hs hp ha hc hk => ?_, fun hi hr hs hp ha hc hk hm1 hm2 y hy => ?_, fun hi hr hs ho hc => ⟨fun ha => ?_, fun ha => ?_⟩,
    fun hr t ht ha => ?_, fun hi ho ha => ?_, fun hi ho ha hc h1 h2 h3 h4 h5 ho' hb => ?_⟩
  · exact qinit_applies h hm hz
  · exact qadd_appends h hi hr hs hp (eq_of_clean (x := col) hc) hk ha
  · exact qadd_overflows h hi hr hs hp (eq_of_clean (x := col) hc) hk hm1 hm2 (show emptied = (emptied.1, .ok y) by rw [← hy]) ha
  · exact (reflectorApply_applies h hi hr hs ho (eq_of_clean (x := tile) hc) (out := out false) rfl ha : execQapl q tr ring oa cnt s = _)
  · exact (reflectorApply_applies h hi hr hs ho (eq_of_clean (x := tile) hc) (out := out true) rfl ha : execQapr q tr ring oa cnt s = _)
  · exact qcnt_applies h hr ht ha
  · exact qspl_applies h hi ho ha
  · exact qldv_applies h hi ho (eq_of_clean (x := head) hc) ⟨h1, h2, h3, h4, h5⟩ (size := 4 * r.n * k + 4 * k * k) rfl (by omega)
      (eq_of_clean (x := body) hb) ha

end Sys2Proof.ControlTokens

/-! PROOFS that the beats of the seed, packed, conversion and binary64 forms, and the control tokens, complete (08 R153-R165, 12 R228-R236). -/

namespace Sys2Proof.Beats
open Sys2Proof Sys2Proof.Machine Sys2Proof.Safety Sys2Proof.Laws Sys2Proof.Arithmetic Sys2Proof.ControlTokens

/-! ## What the conversion forms write (08 R155-R158) -/

/-- Each conversion form writes the result of its function. -/
theorem conversionBeats (t : Trig) (d a b : Operand) :
    WritesRounded (.cvtF32S32 t d a) t d (fun r m x => intToF fmt32 m x (r.val 0).toInt)
    ∧ WritesRounded (.cvtF32N32 t d a) t d (fun r m x => intToF fmt32 m x (r.val 0).toNat)
    ∧ WritesRounded (.cvtS32F32 t d a) t d (fun r m x => fToInt fmt32 m x (-2147483648) 2147483647 (r.val 0).toNat)
    ∧ WritesRounded (.cvtN32F32 t d a) t d (fun r m x => fToInt fmt32 m x 0 4294967295 (r.val 0).toNat)
    ∧ WritesRounded (.cvtS8F32 t d a) t d (fun r m x => fToInt fmt32 m x (-128) 127 (r.val 0).toNat)
    ∧ WritesLanes (.cvtH16F32 t d a b) t d (fun k r m x => fconv fmt32 r.e.half m x (r.val k).toNat)
    ∧ WritesResult (.cvtlF32H16 t d a) t d (fun r => fconv r.e.half fmt32 .rne 0 (lane (r.val 0) 0))
    ∧ WritesResult (.cvthF32H16 t d a) t d (fun r => fconv r.e.half fmt32 .rne 0 (lane (r.val 0) 1))
    ∧ WritesResult (.cvtMx8e4F32 t d a b) t d (fun r => encodeElem .mx8e4 (r.val 0).toNat (r.val 1).toNat)
    ∧ WritesResult (.cvtMx8e5F32 t d a b) t d (fun r => encodeElem .mx8e5 (r.val 0).toNat (r.val 1).toNat)
    ∧ WritesResult (.cvtWf8F32 t d a b) t d (fun r => encodeElem .wf8 (r.val 0).toNat (r.val 1).toNat)
    ∧ WritesResult (.cvtWf5F32 t d a b) t d (fun r => encodeElem .wf5 (r.val 0).toNat (r.val 1).toNat)
    ∧ WritesResult (.cvtWf3F32 t d a b) t d (fun r => encodeElem .wf3 (r.val 0).toNat (r.val 1).toNat)
    ∧ WritesResult (.cvtF32Mx8e4 t d a b) t d (fun r => decodeElem .mx8e4 r.e.record.mode (r.val 0).toNat (r.val 1).toNat)
    ∧ WritesResult (.cvtF32Mx8e5 t d a b) t d (fun r => decodeElem .mx8e5 r.e.record.mode (r.val 0).toNat (r.val 1).toNat)
    ∧ WritesResult (.cvtF32Wf8 t d a b) t d (fun r => decodeElem .wf8 r.e.record.mode (r.val 0).toNat (r.val 1).toNat)
    ∧ WritesResult (.cvtF32Wf5 t d a b) t d (fun r => decodeElem .wf5 r.e.record.mode (r.val 0).toNat (r.val 1).toNat)
    ∧ WritesResult (.cvtF32Wf3 t d a b) t d (fun r => decodeElem .wf3 r.e.record.mode (r.val 0).toNat (r.val 1).toNat) := by
  refine ⟨?fromS32, ?fromN32, ?toS32, ?toN32, ?toS8, ?toH16, ?fromLow, ?fromHigh, ?toMx8e4, ?toMx8e5, ?toWf8, ?toWf5, ?toWf3, ?fromMx8e4,
    ?fromMx8e5, ?fromWf8, ?fromWf5, ?fromWf3⟩
  case fromS32 => exact writesRounded_of (fun _ => rfl) fun _ _ _ => rfl
  case fromN32 => exact writesRounded_of (fun _ => rfl) fun _ _ _ => rfl
  case toS32 => exact writesRounded_of (fun _ => rfl) fun _ _ _ => rfl
  case toN32 => exact writesRounded_of (fun _ => rfl) fun _ _ _ => rfl
  case toS8 => exact writesRounded_of (fun _ => rfl) fun _ _ _ => rfl
  case toH16 => exact writesLanes_of (fun _ => rfl) fun m x k r => by rw [stepped_half]; rfl
  all_goals exact writesResult_of fun _ => rfl

/-! ## Beats that complete -/

/-- Every beat that may run writes a word to its destination, raises flags, and ends. -/
def CompletesWord (i : Instr) (t : Trig) (d : Operand) : Prop := ∀ (x : Beat) (s : State), x.Ready i t s →
  ∃ e v f u, e ∈ [x.reads.e, stepped x.reads.e, stepped (stepped x.reads.e)] ∧ exec i s = .next (x.ends s (x.put s e d v f u))

/-- The same with a pair. -/
def CompletesPair (i : Instr) (t : Trig) (d : Operand) : Prop := ∀ (x : Beat) (s : State), x.Ready i t s →
  ∃ e v f u, e ∈ [x.reads.e, stepped x.reads.e] ∧ exec i s = .next (x.ends s (x.putPair s e d v f u))

section
variable {i : Instr} {t : Trig} {d : Operand}

theorem WritesResult.completes {f : Reads → FRes} (h : WritesResult i t d f) : CompletesWord i t d :=
  fun x s hx => ⟨_, _, _, _, by simp, h x s hx⟩

theorem WritesRounded.completes {f : Reads → Rounding} (h : WritesRounded i t d f) : CompletesWord i t d :=
  fun x s hx => ⟨_, _, _, _, by simp, h x s hx⟩

theorem WritesLanes.completes {f : Nat → Reads → Rounding} (h : WritesLanes i t d f) : CompletesWord i t d :=
  fun x s hx => ⟨_, _, _, _, by simp, h x s hx⟩

theorem WritesPair.completes {f : Reads → FRes} (h : WritesPair i t d f) : CompletesPair i t d :=
  fun x s hx => ⟨_, _, _, _, by simp, h x s hx⟩

theorem WritesRoundedPair.completes {f : Reads → Rounding} (h : WritesRoundedPair i t d f) : CompletesPair i t d :=
  fun x s hx => ⟨_, _, _, _, by simp, h x s hx⟩

end

section
variable (t : Trig) (d a b : Operand)

theorem seeds_complete :
    ∀ i ∈ [Instr.frsqsF32 t d a, .frcpsF32 t d a, .fex2sF32 t d a, .flg2sF32 t d a], CompletesWord i t d := by
  simp only [List.forall_mem_cons]
  exact (seedAndPackedHalfForms.1 t d a).imp WritesResult.completes fun h => h.imp WritesResult.completes fun h =>
    h.imp WritesResult.completes fun h => ⟨WritesResult.completes h, List.forall_mem_nil _⟩

theorem halves_complete :
    ∀ i ∈ [Instr.faddH16 t d a b, .fsubH16 t d a b, .fmulH16 t d a b, .fmacH16 t d a b, .fminH16 t d a b, .fmaxH16 t d a b,
      .fdotH16 t d a b, .fdmacH16 t d a b], CompletesWord i t d := by
  simp only [List.forall_mem_cons]
  exact (seedAndPackedHalfForms.2 t d a b).imp WritesLanes.completes fun h => h.imp WritesLanes.completes fun h =>
    h.imp WritesLanes.completes fun h => h.imp WritesLanes.completes fun h => h.imp WritesResult.completes fun h =>
    h.imp WritesResult.completes fun h => h.imp WritesRounded.completes fun h => ⟨WritesRounded.completes h, List.forall_mem_nil _⟩

theorem conversions_complete :
    ∀ i ∈ [Instr.cvtF32S32 t d a, .cvtF32N32 t d a, .cvtS32F32 t d a, .cvtN32F32 t d a, .cvtS8F32 t d a, .cvtH16F32 t d a b,
      .cvtlF32H16 t d a, .cvthF32H16 t d a, .cvtMx8e4F32 t d a b, .cvtMx8e5F32 t d a b, .cvtWf8F32 t d a b, .cvtWf5F32 t d a b,
      .cvtWf3F32 t d a b, .cvtF32Mx8e4 t d a b, .cvtF32Mx8e5 t d a b, .cvtF32Wf8 t d a b, .cvtF32Wf5 t d a b, .cvtF32Wf3 t d a b],
      CompletesWord i t d := by
  simp only [List.forall_mem_cons]
  exact (conversionBeats t d a b).imp WritesRounded.completes fun h => h.imp WritesRounded.completes fun h =>
    h.imp WritesRounded.completes fun h => h.imp WritesRounded.completes fun h => h.imp WritesRounded.completes fun h =>
    h.imp WritesLanes.completes fun h => h.imp WritesResult.completes fun h => h.imp WritesResult.completes fun h =>
    h.imp WritesResult.completes fun h => h.imp WritesResult.completes fun h => h.imp WritesResult.completes fun h =>
    h.imp WritesResult.completes fun h => h.imp WritesResult.completes fun h => h.imp WritesResult.completes fun h =>
    h.imp WritesResult.completes fun h => h.imp WritesResult.completes fun h => h.imp WritesResult.completes fun h =>
    ⟨WritesResult.completes h, List.forall_mem_nil _⟩

/-- The forms on pairs, and the two that write a word. -/
theorem doubles_complete :
    (∀ i ∈ [Instr.faddF64 t d a b, .fsubF64 t d a b, .fmulF64 t d a b, .fmacF64 t d a b, .fdivF64 t d a b, .fsqrtF64 t d a,
      .fminF64 t d a b, .fmaxF64 t d a b, .fabsF64 t d a, .fnegF64 t d a, .cvtF64F32 t d a, .cvtF64S32 t d a], CompletesPair i t d)
    ∧ ∀ i ∈ [Instr.cvtF32F64 t d a, .cvtS32F64 t d a], CompletesWord i t d := by
  simp only [List.forall_mem_cons, and_assoc, List.not_mem_nil, false_implies, implies_true, and_true]
  exact (binary64Forms t d a b).imp WritesRoundedPair.completes fun h => h.imp WritesRoundedPair.completes fun h =>
    h.imp WritesRoundedPair.completes fun h => h.imp WritesRoundedPair.completes fun h =>
    h.imp WritesRoundedPair.completes fun h => h.imp WritesRoundedPair.completes fun h => h.imp WritesPair.completes fun h =>
    h.imp WritesPair.completes fun h => h.imp WritesPair.completes fun h => h.imp WritesPair.completes fun h =>
    h.imp WritesPair.completes fun h => h.imp WritesPair.completes fun h => h.imp WritesRounded.completes fun h =>
    WritesRounded.completes h

end

/-- Settles O29: the forms by what they write (O11, O12, O13), the tokens by what they apply (O27, O28). -/
theorem formsThatComplete : Obligations.FormsThatComplete := by
  refine ⟨fun t d a b x s => ?_, fun i x c rest s acc kind mode var accum sat q tr ra rb k fa fb f m p cnt n oa count sem h => ?_⟩
  · have words := List.forall_mem_append.2 ⟨List.forall_mem_append.2 ⟨List.forall_mem_append.2 ⟨seeds_complete t d a, halves_complete t d a b⟩,
      conversions_complete t d a b⟩, (doubles_complete t d a b).2⟩
    exact ⟨fun i hi hx => words i hi x s hx, fun i hi hx => (doubles_complete t d a b).1 i hi x s hx⟩
  · intro completes u rows cols red ta tb image size values r w col tile out head hd piv hh body
    refine ⟨fun hne hra hrb hfa hfb hr hba hbb ha h1 h2 => ?_, fun hf hb hs ho ha => ?_, fun ho ha hp => ?_, ?_, fun hr => ?_, fun hm hz => ?_,
      fun hi hr hs hp ha hc hk => ?_, fun hi hr hs ho hc ha => ?_, fun hi hr hs ho hc ha => ?_, fun hr ht => ?_, fun hi ho ha => ?_,
      fun hi ho hc h1 h2 h3 h4 h5 ho' ha hb => ?_⟩
    · exact ⟨_, mma_applies h hne hra hrb hfa hfb hr hba hbb (eq_of_clean (x := ta) h1) (eq_of_clean (x := tb) h2) ha⟩
    · exact ⟨_, accw_applies h hf hb hs ho ha⟩
    · exact ⟨_, accl_applies h ho (eq_of_clean (x := values) hp) ha⟩
    · rintro (⟨hk, hr, t, ht, ha⟩ | ⟨hk, hr⟩ | hk)
      · exact ⟨_, msig_replies h hk hr ht ha⟩
      · exact ⟨_, msig_sends h hk hr⟩
      · exact ⟨_, msig_signals h hk⟩
    · exact ⟨_, rpop_applies h hr⟩
    · exact ⟨_, qinit_applies h hm hz⟩
    · exact ⟨_, qadd_appends h hi hr hs hp (eq_of_clean (x := col) hc) hk ha⟩
    · exact ⟨_, (reflectorApply_applies h hi hr hs ho (eq_of_clean (x := tile) hc) (out := out false) rfl ha : execQapl q tr ra oa cnt s = _)⟩
    · exact ⟨_, (reflectorApply_applies h hi hr hs ho (eq_of_clean (x := tile) hc) (out := out true) rfl ha : execQapr q tr ra oa cnt s = _)⟩
    · obtain ⟨t, ht, ha⟩ := ht
      exact ⟨_, qcnt_applies h hr ht ha⟩
    · exact ⟨_, qspl_applies h hi ho ha⟩
    · exact ⟨_, qldv_applies h hi ho (eq_of_clean (x := head) hc) ⟨h1, h2, h3, h4, h5⟩ (size := body) rfl ho'
        (eq_of_clean (x := head.1.areaRead (oaTile i oa.toNat) (body + 1) (oaOff oa.toNat + 128) body) hb) ha⟩

end Sys2Proof.Beats

/-! PROOFS of the statement on streamers and matrix islands (10 R213-R215, 12 R220, R237-R242): an attempt is `tried`, so each step is
its guard and its body. -/

namespace Sys2Proof.EngineSteps
open Sys2Proof Sys2Proof.Machine Sys2Proof.Safety Sys2Proof.Laws

/-! ## Attempts -/

section
variable {α : Type} (s : State) (key bh engine rank : Nat)

theorem attempt_asking {body : State → State × α} {a : Access} (h : (body (answered s key bh engine rank)).1.asked = some a) :
    s.attempt key bh engine rank body =
      (({ s with nextId := s.nextId + 1 } : State).progress key ((tget? s.works key).getD (s.newWork bh engine rank)) a, none) := by
  simp only [answered] at h
  simp only [State.attempt, h]

/-- An attempt, followed by what its effect leads to. -/
theorem tried_of_attempt (body : State → State × α) (done : α → State → State) :
    (match s.attempt key bh engine rank body with
      | (t, none) => t
      | (t, some x) => done x t)
    = tried s key bh engine rank (body (answered s key bh engine rank)).1 (done (body (answered s key bh engine rank)).2) := by
  cases h : (body (answered s key bh engine rank)).1.asked with
  | none => simp only [attempt_of s key bh engine rank body h, tried, h]
  | some a => simp only [attempt_asking s key bh engine rank h, tried, h]

theorem attempt_fst (body : State → State × α) :
    (s.attempt key bh engine rank body).1 = tried s key bh engine rank (body (answered s key bh engine rank)).1 id := by
  rw [← tried_of_attempt s key bh engine rank body fun _ => id]
  rcases s.attempt key bh engine rank body with ⟨t, _ | x⟩ <;> rfl

end

/-! ## Streamers (10 R213-R215) -/

/-- A step of a running command of its kind, with more steps to come. -/
theorem runCommand_steps {s : State} {k n kind : Nat} {body : State → Nat → StreamerRun → State × Option (Nat × Nat)}
    {steps : StreamerRun → Nat} {r : StreamerRun} (hr : (s.streamer k).running[n]? = some r) (hd : drainRuns s (k / 2) = true)
    (he : r.ended = false) (hk : r.kind = kind) (hn : r.next < steps r) :
    let t := body (answered s (streamerWork k r.id) (k / 2) (36 + k % 2) rankElement) k r
    runCommand kind body steps k n s = .next (tried s (streamerWork k r.id) (k / 2) (36 + k % 2) rankElement t.1 fun u =>
      (u.countIssue (streamerEngine k)).runStep k n r t.2 (steps r)) := by
  intro t
  rw [← tried_of_attempt s (streamerWork k r.id) (k / 2) (36 + k % 2) rankElement (fun s => body s k r) fun x u =>
    (u.countIssue (streamerEngine k)).runStep k n r x (steps r)]
  simp only [runCommand, hr, hd, he, hk, Nat.not_le.mpr hn, State.streamerStep, Bool.not_true, Bool.or_self, bne_self_eq_false,
    Bool.false_eq_true, if_false]
  rcases s.attempt (streamerWork k r.id) (k / 2) (36 + k % 2) rankElement fun s => body s k r with ⟨u, _ | x⟩ <;> rfl

/-- A descriptor that reads whole and clean begins its command. -/
theorem startCommand_of_read {s s' : State} {k : Nat} {c : EngineCmd} {rest : List EngineCmd} {p : Piece}
    (h : s.readAt c.descAddr 0 64 = (s', .ok p)) (hp : p.marks = []) :
    let r : StreamerRun := StreamerRun.cleared { cmd := c, desc := wordsOf p.value 16, id := (s'.streamer k).freeId }
    s.startCommand k c rest = ((((s'.modStreamer k fun y => { y with queue := rest }).countIssue (streamerEngine k)).traceStream k 0 c 0).modStreamer
      k fun y => { y with running := y.running ++ [if r.bad then { r with ended := true, status := 0x05 } else r] }) := by
  intro r
  simp only [State.startCommand, h, hp]
  rfl

/-- A command whose STATUS is written ends with what DONE says. -/
theorem endCommand_of_write {s s' : State} {k n : Nat} {r : StreamerRun}
    (h : s.writeAt r.cmd.descAddr 0x3C 4 { value := r.status } = (s', none)) :
    let t := (((s'.modStreamer k fun y => { y with running := removeAt y.running n, retired := y.retired + 1 }).dropOwner
      (if r.cmd.id = 0 then none else some (r.cmd.elem, r.cmd.id))).traceStream k 1 r.cmd r.status).streamerDone k r
    s.endCommand k n r = if r.status = 0 ∨ r.status = 0x05 then t else t.streamerFault k r.status r.addr := by
  intro t
  simp only [State.endCommand, h, Bool.or_eq_true, beq_iff_eq]
  rfl

/-! ## Islands (12 R220, R237, R238) -/

/-- Settles O37: an attempt for each streamer step, and the branch that the conditions choose for each island step. -/
theorem streamerAndIslandSteps : Obligations.StreamerAndIslandSteps := by
  refine ⟨fun s k n => ⟨fun r => ⟨?copy, ?cred, ?gather, ?scatter, ?fill, ?xpose⟩, ?starts, ?ends⟩, fun s i => ⟨?takes, ?popsOne, ?popsNone, ?restarts⟩⟩
  case starts =>
    intro c rest hq hs hn
    refine ⟨?_, fun s' p h hp => startCommand_of_read h hp⟩
    change execStreamerCommandStart k s = _
    simp only [execStreamerCommandStart, hq, hs, Nat.not_le.mpr hn, State.streamerStep, Bool.true_or, Bool.not_true, Bool.false_or,
      decide_false, Bool.false_eq_true, if_false, attempt_fst]
  case ends =>
    intro r hr hd he
    refine ⟨?_, fun s' h => endCommand_of_write h⟩
    change execStreamerCommandEnd k n s = _
    simp only [execStreamerCommandEnd, hr, hd, he, State.streamerStep, Bool.not_true, Bool.or_self, Bool.false_eq_true, if_false, attempt_fst]
  case takes =>
    intro e hi lo id he hc hl hr hb hq hp
    change execControlTokenTake i s = _
    have hl : bit s.isl.toNat 2 = true := by rw [SequencerCommands.bit_eq_getLsbD]; exact hl
    simp only [execControlTokenTake, he, hc, hl, hr, hb, Nat.not_le.mpr hq, hp, Bool.not_true, Bool.or_self, decide_false, Bool.false_eq_true,
      if_false]
  case popsOne =>
    intro c m hx hd
    change execTokenRetire i s = _
    simp only [execTokenRetire, hx, hd, Bool.not_true, Bool.false_eq_true, if_false]
    rfl
  case popsNone =>
    intro c hx hd
    change execTokenRetire i s = _
    simp only [execTokenRetire, hx, hd, Bool.not_true, Bool.false_eq_true, if_false]
    rfl
  case restarts =>
    intro hx hr
    change execIslandRestart i s = _
    simp only [execIslandRestart, hx, hr, Bool.not_true, Bool.or_self, Bool.false_eq_true, if_false]
    split <;> rfl
  case copy => exact fun hr hd he hk hn => (runCommand_steps (steps := StreamerRun.chunks) hr hd he hk hn : execCopy k n s = _)
  case cred => exact fun hr hd he hk hn => (runCommand_steps (steps := StreamerRun.chunks) hr hd he hk hn : execCred k n s = _)
  case gather => exact fun hr hd he hk hn => (runCommand_steps (steps := fun r => r.word 5) hr hd he hk hn : execGather k n s = _)
  case scatter => exact fun hr hd he hk hn => (runCommand_steps (steps := fun r => r.word 5) hr hd he hk hn : execScatter k n s = _)
  case fill => exact fun hr hd he hk hn => (runCommand_steps (steps := StreamerRun.chunks) hr hd he hk hn : execFill k n s = _)
  case xpose => exact fun hr hd he hk hn => (runCommand_steps (steps := fun _ => 1) hr hd he hk hn : execXpose k n s = _)

end Sys2Proof.EngineSteps

/-! PROOFS that streamers, islands and the steps of elements keep the two invariants (10 R213-R215, 12 R220-R242). -/

namespace Sys2Proof.Kept
open Sys2Proof Sys2Proof.Machine Sys2Proof.Safety Sys2Proof.Laws Sys2Proof.ElementBeats

variable {v : Kind}

/-- A call that keeps an invariant, and what follows from what it gives. -/
theorem holds_trans {α : Type} {x : State × α} {s t u : State} {a : α} (hx : v.Holds x.1 ↔ v.Holds s) (e : x = (t, a))
    (hu : v.Holds u ↔ v.Holds t) : v.Holds u ↔ v.Holds s := hu.trans (holds_iff_of_eq e hx)

/-! ## Streamers (10 R213-R215, 12 R241, R242) -/

@[simp] theorem holds_sread (a : SAddr) (n f : Nat) : ∀ (s : State) (p : Nat), v.Holds (s.sread a n f p).1 ↔ v.Holds s := by
  induction f with
  | zero => exact fun _ _ => Iff.rfl
  | succ f ih =>
    intro s p
    unfold State.sread
    split
    · rfl
    · dsimp only
      split
      · rfl
      · next q _ =>
        split
        · simp
        · have h1 := ih (s.access q).1 (p + a.piece p n)
          split <;> (rename_i e; exact (holds_iff_of_eq e h1).trans (holds_access s q))

@[simp] theorem holds_swrite (a : SAddr) (n : Nat) (x : Piece) (f : Nat) : ∀ (s : State) (p : Nat), v.Holds (s.swrite a n x f p).1 ↔ v.Holds s := by
  induction f with
  | zero => exact fun _ _ => Iff.rfl
  | succ f ih =>
    intro s p
    unfold State.swrite
    split
    · rfl
    · dsimp only
      split
      · rfl
      · split
        · simp
        · rw [ih]
          simp

section
variable (s : State)

@[simp] theorem holds_readAt (a : SAddr) (o n : Nat) : v.Holds (s.readAt a o n).1 ↔ v.Holds s := holds_sread ..
@[simp] theorem holds_writeAt (a : SAddr) (o n : Nat) (p : Piece) : v.Holds (s.writeAt a o n p).1 ↔ v.Holds s := holds_swrite ..
@[simp] theorem holds_streamerFault (k c a : Nat) : v.Holds (s.streamerFault k c a) ↔ v.Holds s := holds_raiseEngine ..
@[simp] theorem holds_traceStream (k n : Nat) (c : EngineCmd) (x : Nat) : v.Holds (s.traceStream k n c x) ↔ v.Holds s := holds_trace ..
@[simp] theorem holds_setRun (k i : Nat) (r : StreamerRun) : v.Holds (s.setRun k i r) ↔ v.Holds s := holds_modStreamer ..

@[simp] theorem holds_runStep (k i : Nat) (r : StreamerRun) (f : Option (Nat × Nat)) (n : Nat) : v.Holds (s.runStep k i r f n) ↔ v.Holds s := by
  unfold State.runStep
  split <;> simp

@[simp] theorem holds_startCommand (k : Nat) (c : EngineCmd) (l : List EngineCmd) : v.Holds (s.startCommand k c l) ↔ v.Holds s := by
  unfold State.startCommand
  dsimp only
  have h := holds_readAt (v := v) s c.descAddr 0 64
  split
  · next e => exact holds_trans h e (by simp)
  · next e =>
    refine holds_trans h e ?_
    split <;> simp

@[simp] theorem holds_copyStep (k : Nat) (r : StreamerRun) : v.Holds (copyStep s k r).1 ↔ v.Holds s := by
  unfold copyStep
  have h := holds_readAt (v := v) s (r.src (k / 2)) (256 * r.next) r.chunkLen
  split <;> (rename_i e; exact holds_trans h e (by simp))

@[simp] theorem holds_credStep (k : Nat) (r : StreamerRun) : v.Holds (credStep s k r).1 ↔ v.Holds s := by
  unfold credStep
  dsimp only
  have h := holds_readAt (v := v) s (r.src (k / 2)) (256 * r.next) r.chunkLen
  split
  · next e => exact holds_trans h e Iff.rfl
  · next s' _ e =>
    refine holds_trans h e ?_
    have h := holds_readAt (v := v) s' (streamerAddr (k / 2) (r.dword 2)) (256 * r.next) r.chunkLen
    split
    · next e => exact holds_trans h e Iff.rfl
    · next e =>
      refine holds_trans h e ?_
      split <;> simp

@[simp] theorem holds_moveStep (b : Bool) (k : Nat) (r : StreamerRun) : v.Holds (moveStep b s k r).1 ↔ v.Holds s := by
  unfold moveStep
  dsimp only
  have h := holds_readAt (v := v) s (streamerAddr (k / 2) (r.dword 6)) (4 * r.next) 4
  split
  · next e => exact holds_trans h e Iff.rfl
  · next s' p e =>
    refine holds_trans h e ?_
    split
    · rfl
    · generalize (if b = true then (r.next * 2 ^ bits (r.word 8) 16 3, p.value * 2 ^ bits (r.word 8) 16 3)
        else (p.value * 2 ^ bits (r.word 8) 16 3, r.next * 2 ^ bits (r.word 8) 16 3)) = z
      have h := holds_readAt (v := v) s' (streamerAddr (k / 2) (r.dword 0)) z.1 (2 ^ bits (r.word 8) 16 3)
      split <;> (rename_i e; exact holds_trans h e (by simp))

@[simp] theorem holds_xposeRows (k : Nat) (r : StreamerRun) (w n : Nat) : ∀ (s : State) (m : Nat), v.Holds (s.xposeRows k r w n m).1 ↔ v.Holds s := by
  induction n with
  | zero => exact fun _ _ => Iff.rfl
  | succ n ih =>
    intro s m
    unfold State.xposeRows
    dsimp only
    split
    · next e => exact holds_trans (holds_readAt ..) e Iff.rfl
    · next s' p e =>
      refine holds_trans (holds_readAt ..) e ?_
      split
      · next e => exact holds_trans (holds_readAt ..) e Iff.rfl
      · next s'' q e =>
        refine holds_trans (holds_readAt ..) e ?_
        split
        · rfl
        · rfl
        · split <;> (rename_i e; exact holds_trans ((ih ..).trans (holds_modStreamer ..)) e Iff.rfl)

@[simp] theorem holds_xposeWrite (k : Nat) (r : StreamerRun) (l : List (Nat × Nat)) (m : Nat) : ∀ (s : State) (n : Nat),
    v.Holds (s.xposeWrite k r l m n).1 ↔ v.Holds s := by
  induction m with
  | zero => exact fun _ _ => Iff.rfl
  | succ m ih =>
    intro s n
    unfold State.xposeWrite
    dsimp only
    split
    · next e => exact holds_trans ((holds_writeAt ..).trans (holds_modStreamer ..)) e Iff.rfl
    · next e =>
      refine holds_trans ((holds_writeAt ..).trans (holds_modStreamer ..)) e ?_
      split
      · next e => exact holds_trans (holds_writeAt ..) e Iff.rfl
      · next e => exact holds_trans (holds_writeAt ..) e ((ih ..).trans (holds_modStreamer ..))

@[simp] theorem holds_xposeStep (k : Nat) (r : StreamerRun) : v.Holds (xposeStep s k r).1 ↔ v.Holds s := by
  unfold xposeStep
  dsimp only
  split <;> (rename_i e; exact holds_trans (holds_xposeRows ..) e (by simp))

@[simp] theorem holds_streamerDone (k : Nat) (r : StreamerRun) : v.Holds (s.streamerDone k r) ↔ v.Holds s := by
  unfold State.streamerDone
  dsimp only
  split
  · rfl
  · split <;> simp

@[simp] theorem holds_endCommand (k i : Nat) (r : StreamerRun) : v.Holds (s.endCommand k i r) ↔ v.Holds s := by
  unfold State.endCommand
  dsimp only
  split
  · next e => exact holds_trans (holds_writeAt ..) e (by simp)
  · next e =>
    refine holds_trans (holds_writeAt ..) e ?_
    split <;> simp

end

section
variable {s : State}

theorem holds_streamerStep {α : Type} {body : State → State × α} (h : v.Holds s) (hb : ∀ u, v.Holds (body u).1 ↔ v.Holds u) (k n : Nat) :
    v.Holds (s.streamerStep k n body).1 := holds_attempt h fun a => (hb _).2 (by simpa using h)

theorem holds_streamerCommandStart (h : v.Holds s) (k : Nat) : v.Answers (execStreamerCommandStart k s) := by
  unfold execStreamerCommandStart
  dsimp only
  split
  · exact h
  · split
    · exact h
    · exact holds_streamerStep h (fun u => holds_startCommand ..) ..

theorem holds_streamerCommandEnd (h : v.Holds s) (k n : Nat) : v.Answers (execStreamerCommandEnd k n s) := by
  unfold execStreamerCommandEnd
  split
  · exact h
  · split
    · exact h
    · exact holds_streamerStep h (fun u => holds_endCommand ..) ..

theorem holds_runCommand {body : State → Nat → StreamerRun → State × Option (Nat × Nat)} (h : v.Holds s)
    (hb : ∀ u k r, v.Holds (body u k r).1 ↔ v.Holds u) (kind : Nat) (steps : StreamerRun → Nat) (k i : Nat) :
    v.Answers (runCommand kind body steps k i s) := by
  unfold runCommand
  split
  · exact h
  · next r _ =>
    split
    · exact h
    · split
      · simpa using h
      · have h1 := holds_streamerStep h (fun u => hb u k r) k r.id
        split
        · next e => exact holds_of_eq e h1
        · next s' _ e =>
          have h2 : v.Holds s' := holds_of_eq e h1
          simpa using h2

end

/-! ## Islands (12 R220-R238) -/

@[simp] theorem holds_areaRead (k f : Nat) : ∀ (s : State) (o n : Nat), v.Holds (s.areaRead k f o n).1 ↔ v.Holds s := by
  induction f with
  | zero => exact fun _ _ _ => Iff.rfl
  | succ f ih =>
    intro s o n
    unfold State.areaRead
    split
    · rfl
    · exact (ih ..).trans (holds_access ..)

@[simp] theorem holds_areaWrite (k f : Nat) : ∀ (s : State) (o x n : Nat), v.Holds (s.areaWrite k f o x n) ↔ v.Holds s := by
  induction f with
  | zero => exact fun _ _ _ _ => Iff.rfl
  | succ f ih =>
    intro s o x n
    unfold State.areaWrite
    split
    · rfl
    · exact (ih ..).trans (holds_access ..)

section
variable (s : State)

@[simp] theorem holds_ringRead (k m n : Nat) : v.Holds (s.ringRead k m n).1 ↔ v.Holds s := holds_areaRead ..
@[simp] theorem holds_islandFault (k c d : Nat) : v.Holds (s.islandFault k c d) ↔ v.Holds s := holds_raiseEngine ..
@[simp] theorem holds_dropToken (c : EngineCmd) : v.Holds (s.dropToken c) ↔ v.Holds s := holds_dropOwner ..
@[simp] theorem holds_discardToken (k : Nat) (c : EngineCmd) : v.Holds (s.discardToken k c) ↔ v.Holds s := by simp [State.discardToken]
@[simp] theorem holds_badToken (k : Nat) (c : EngineCmd) (n : Nat) : v.Holds (s.badToken k c n) ↔ v.Holds s := by simp [State.badToken]
@[simp] theorem holds_islandFlags (k : Nat) (f : Flags) : v.Holds (s.islandFlags k f) ↔ v.Holds s := holds_modIsland ..
@[simp] theorem holds_lose (k n : Nat) : v.Holds (s.lose k n) ↔ v.Holds s := holds_modIsland ..
@[simp] theorem holds_setAcc (k a : Nat) (t : Tab Word) : v.Holds (s.setAcc k a t) ↔ v.Holds s := holds_modIsland ..
@[simp] theorem holds_setQa (k q : Nat) (r : Reflector) : v.Holds (s.setQa k q r) ↔ v.Holds s := holds_modIsland ..

@[simp] theorem holds_tokenIllegal (k : Nat) : v.Holds (s.tokenIllegal k) ↔ v.Holds s := by
  unfold State.tokenIllegal
  split <;> simp

theorem holds_islandReply {t : State} {k : Nat} {w : Word} (h : s.islandReply k w = some t) : v.Holds t ↔ v.Holds s := by
  unfold State.islandReply at h
  dsimp only at h
  split at h
  · cases h
    simp
  · cases h

end

section
variable {s : State}

theorem holds_tokenRun {rings : List Nat} {check : State → Nat → Island → Nat} {body : State → Nat → Island → TokenResult} (h : v.Holds s)
    (hb : ∀ u k x, v.Holds (body u k x).s ↔ v.Holds u) : v.Answers (tokenRun rings check body s) := by
  unfold tokenRun
  split
  · next k _ =>
    split
    · trivial
    · next x _ =>
      split
      · exact h
      · split
        · exact h
        · split
          · simpa using h
          · split
            · split
              · exact h
              · have h1 := holds_attempt (v := v) h (k := islandWork k) (b := k / 4) (n := 32 + k % 4)
                  (r := if rings.isEmpty then rankElement else rankRing) (body := fun s => ((body s k x).s, (body s k x).stop))
                  fun a => (hb _ _ _).2 (by simpa using h)
                split
                · next e => exact holds_of_eq e h1
                · exact h
                · next s' _ e =>
                  have h2 : v.Holds s' := holds_of_eq e h1
                  simpa using h2
                · next s' _ e =>
                  have h2 : v.Holds s' := holds_of_eq e h1
                  simpa using h2
                · next s' e =>
                  have h2 : v.Holds s' := holds_of_eq e h1
                  simpa using h2
            · simpa using h
  · trivial

theorem holds_tokenRetire (h : v.Holds s) (k : Nat) : v.Answers (execTokenRetire k s) := by
  unfold execTokenRetire
  dsimp only
  split
  · exact h
  · split
    · exact h
    · simpa using h

theorem holds_controlTokenTake (h : v.Holds s) (k : Nat) : v.Answers (execControlTokenTake k s) := by
  unfold execControlTokenTake
  dsimp only
  split
  · exact h
  · split
    · exact h
    · split
      · exact h
      · simpa using h

theorem holds_islandRestart (h : v.Holds s) (k : Nat) : v.Answers (execIslandRestart k s) := by
  unfold execIslandRestart
  dsimp only
  split
  · exact h
  · split <;> simpa using h

/-! ### Tokens (12 R228-R236) -/

theorem holds_mma (h : v.Holds s) (a : BitVec 2) (c : BitVec 1) (p q : BitVec 3) (f g : BitVec 4) (m : BitVec 7) (n : BitVec 8) (k : BitVec 3) :
    v.Answers (execMma a c p q f g m n k s) := by
  unfold execMma
  refine holds_tokenRun h fun u i x => ?_
  dsimp only
  split <;> simp

theorem holds_accw (h : v.Holds s) (a : BitVec 2) (f : BitVec 4) (b : BitVec 1) (o : BitVec 16) (m : BitVec 7) (n : BitVec 8) :
    v.Answers (execAccw a f b o m n s) := by
  unfold execAccw
  refine holds_tokenRun h fun u i x => ?_
  simp

theorem holds_accl (h : v.Holds s) (a : BitVec 2) (o : BitVec 16) (m : BitVec 7) (n : BitVec 8) : v.Answers (execAccl a o m n s) := by
  unfold execAccl
  refine holds_tokenRun h fun u i x => ?_
  dsimp only
  split <;> simp

theorem holds_msig (h : v.Holds s) (a : BitVec 2) (n : BitVec 16) (m : BitVec 10) : v.Answers (execMsig a n m s) := by
  refine holds_tokenRun h fun u i x => ?_
  split
  · split
    · rfl
    · next e => exact holds_islandReply u e
  · simp
  · simp

theorem holds_rpop (h : v.Holds s) (r : BitVec 3) : v.Answers (execRpop r s) := holds_tokenRun h fun _ _ _ => Iff.rfl

theorem holds_qinit (h : v.Holds s) (q : BitVec 1) (m : BitVec 2) (n : BitVec 7) (o : BitVec 16) (x : BitVec 2) (c : BitVec 7) :
    v.Answers (execQinit q m n o x c s) := holds_tokenRun h fun u i x => by simp

@[simp] theorem holds_reflectorOverflow (s : State) (k : Nat) (r : Reflector) : v.Holds (s.reflectorOverflow k r).1 ↔ v.Holds s := by
  unfold State.reflectorOverflow
  dsimp only
  split
  · rfl
  · split <;> simp
  · simp

theorem holds_qadd (h : v.Holds s) (q : BitVec 1) (r : BitVec 3) (p : BitVec 7) : v.Answers (execQadd q r p s) := by
  refine holds_tokenRun h fun u i x => ?_
  dsimp only
  have h1 := holds_ringRead (v := v) u i r.toNat (4 * ((x.qaOf q.toNat).n + 1))
  split
  · exact h1
  · split
    · have h2 := holds_reflectorOverflow (v := v) (u.ringRead i r.toNat (4 * ((x.qaOf q.toNat).n + 1))).1 i (x.qaOf q.toNat)
      split <;> (rename_i e; exact (holds_trans h2 e (by simp)).trans h1)
    · simp

theorem holds_reflectorApply (h : v.Holds s) (b : Bool) (q t : BitVec 1) (r : BitVec 3) (o : BitVec 16) (c : BitVec 7) :
    v.Answers (reflectorApply b q t r o c s) := by
  unfold reflectorApply
  refine holds_tokenRun h fun u i x => ?_
  dsimp only
  split <;> simp

theorem holds_qcnt (h : v.Holds s) (q : BitVec 1) : v.Answers (execQcnt q s) := by
  refine holds_tokenRun h fun u i x => ?_
  dsimp only
  split
  · rfl
  · next e => exact holds_islandReply u e

theorem holds_qspl (h : v.Holds s) (q : BitVec 1) (o : BitVec 16) : v.Answers (execQspl q o s) := holds_tokenRun h fun u i x => by simp

theorem holds_qldv (h : v.Holds s) (q : BitVec 1) (o : BitVec 16) : v.Answers (execQldv q o s) := by
  refine holds_tokenRun h fun u i x => ?_
  dsimp only
  repeat' split
  all_goals simp

end

end Sys2Proof.Kept

/-! PROOFS of the statement on the ask hub (17 R299-R316). -/

namespace Sys2Proof.AskHub
open Sys2Proof Sys2Proof.Machine Sys2Proof.Safety Sys2Proof.Laws

theorem tget?_tmap {α : Type} (t : Tab α) (f : Nat → α → α) (k : Nat) : tget? (tmap t f) k = (tget? t k).map (f k) := by
  induction t with
  | nil => rfl
  | cons p t ih =>
    obtain ⟨n, x⟩ := p
    simp only [tmap, List.map_cons, tget?] at ih ⊢
    by_cases h : n = k
    · subst h
      simp
    · simpa [h] using ih

section
variable {s : State} {k n : Nat} (hr : hubRuns s k = true)
include hr

/-- An answer that waits at the hub, up to the entry that its number finds. -/
theorem answerAccept_of {elem id askid : Nat} {words : List Word} (hq : (s.hub k).queue = [.answer elem id askid words])
    (hm : hubMay s k 2 = true) (hs : s.sweepKind k ≠ some .endOfSlice) :
    let s' := ((s.modHub k fun h => { h with queue := [] }).hubStage k 2).modElem elem (·.dropPending id)
    let stray : Out := .next (s'.modHub k fun h => { h with stray := h.stray + 1 })
    (∀ e, tget? (s'.hub k).table askid = some e → exec (.answerAccept k) s =
      if e.evaluator = some elem then .next (s'.takeAnswer k askid e words) else stray)
    ∧ (tget? (s'.hub k).table askid = none → exec (.answerAccept k) s = stray) := by
  intro s' stray
  have hs : ((s.bh k).sweep.map Sweep.kind != some .endOfSlice) = true := by simpa [State.sweepKind] using hs
  have hw : answerWaits s k = true := by simp [answerWaits, hq, hm, hs, HubMsg.isAsk]
  have hi : (s.hub k).queue.findIdx? (fun m => !m.isAsk) = some 0 := by simp [hq, HubMsg.isAsk]
  have hg : (s.hub k).queue[0]? = some (.answer elem id askid words) := by simp [hq]
  have hd : (s.modHub k fun h => { h with queue := removeAt h.queue 0 }) = s.modHub k fun h => { h with queue := [] } := by
    simp [State.modHub, hq, removeAt]
  constructor
  · intro e he
    change execAnswerAccept k s = _
    simp only [execAnswerAccept, hr, hw, hi, hg, hd, Bool.not_true, Bool.or_self, Bool.false_eq_true, if_false, beq_iff_eq]
    rw [he]
  · intro he
    change execAnswerAccept k s = _
    simp only [execAnswerAccept, hr, hw, hi, hg, hd, Bool.not_true, Bool.or_self, Bool.false_eq_true, if_false, beq_iff_eq]
    rw [he]

/-- An entry with a deadline goes late from its cycle on. -/
theorem askDue_of {e : AskEntry} {x : Site} (he : tget? (s.hub k).table n = some e) (hx : (s.hub k).sites[e.site]? = some x) (hd : x.dl ≠ 0) :
    exec (.askDue k n) s = if e.cycle + 64 * x.dl < s.cycle ∨ e.cycle + 64 * x.dl = s.cycle ∧ hubMay s k 3 = true ∧ answerWaits s k = false
      then .next ((s.lateAsk k n false).modHub k fun h => if e.cycle + 64 * x.dl = s.cycle then { h with stage := 3, stageAt := s.cycle } else h)
      else .next s := by
  have hdue : (tget? (s.hub k).table n).bind (s.hub k).due? = some (e.cycle + 64 * x.dl) := by simp [he, Hub.due?, hx, hd]
  change execAskDue k n s = _
  simp only [execAskDue, hdue, hr, Bool.true_and, Bool.or_eq_true, decide_eq_true_eq, Bool.and_eq_true, beq_iff_eq, Bool.not_eq_true', and_assoc]

theorem conditioningToken_of {t : Token} {rest : List CondToken} {x : Site}
    (hc : (s.hub k).cond = { site := n, askid := none, token := some t } :: rest) (hx : (s.hub k).sites[n]? = some x) :
    let l : Link := { prod := 0, prodPort := 0, cons := x.cons, consPort := x.consPort, sparse := false }
    exec (.conditioningToken k n) s = if consumerRoom s k l = true
      then .next ((s.setHub k { s.hub k with cond := rest }).acceptToken k 0 l t) else .next s := by
  intro l
  have hi : (s.hub k).cond.findIdx? (·.site == n) = some 0 := by
    rw [hc, List.findIdx?_cons]
    simp
  change execConditioningToken k n s = _
  simp only [execConditioningToken, hi, hx, hr, Bool.true_and]
  simp only [hc, List.getD_cons_zero, removeAt, List.take_zero, List.drop_succ_cons, List.drop_zero, List.nil_append]
  rfl

theorem poolRefill_of (hm : hubMay s k 1 = true) (hd : s.refillsDue k ≠ 0) :
    exec (.poolRefill k) s = .next (s.modHub k fun h => { h.refill with stage := 1, stageAt := s.cycle }) := by
  change execPoolRefill k s = _
  simp only [execPoolRefill, hr, hm, Bool.true_and, bne_iff_ne, ne_eq, hd, not_false_eq_true, if_true]

/-- The one frame of the hub, whose class port has room. -/
theorem askFrameDelivery_of {t : Token} {rest : List Token} (hs : (s.bh k).sweep = none) (hf : (s.hub k).frames = [(n, t :: rest)])
    {e : AskEntry} {p : Nat × Nat} (he : tget? (s.hub k).table n = some e) (hp : (s.hub k).classPort e = some p)
    (hroom : consumerRoom s k { prod := 0, prodPort := 0, cons := p.1, consPort := p.2, sparse := false } = true) :
    exec (.askFrameDelivery k) s = .next ((s.setHub k
      (if rest.isEmpty then { s.hub k with frames := [], table := tset (s.hub k).table n { e with evaluator := some (elemKey k p.1) } }
       else { s.hub k with frames := [(n, rest)] })).acceptToken k 0
         { prod := 0, prodPort := 0, cons := p.1, consPort := p.2, sparse := false } t) := by
  have hn : s.nextFrame k [] (s.hub k).frames = some 0 := by simp [hf, State.nextFrame, he, hp, hroom]
  have hg : (s.hub k).frames[0]? = some (n, t :: rest) := by simp [hf]
  change execAskFrameDelivery k s = _
  simp only [execAskFrameDelivery, hr, hs, hn, hg, he, hp, Bool.not_true, Option.isSome_none, Bool.or_self, Bool.false_eq_true, if_false]
  simp only [hf, removeAt, List.take_zero, List.drop_succ_cons, List.drop_zero, List.nil_append, List.set_cons_zero]

end

/-- A pool with the size and the refill of a register word, its credit cut to the size. -/
def poolSized (p : AskPool) (w : Word) : AskPool :=
  { p with size := w.toNat % 512, refill := w.toNat / 65536 % 512, credit := min p.credit (w.toNat % 512) }

/-- A write at the index of a pool (17 R316). -/
theorem write_pool {h : Hub} {w : HubWrite} (h1 : 0x140 ≤ w.index) (h2 : w.index < 0x150) :
    h.write w = { h with pools := tset h.pools (w.index - 0x140) (poolSized (h.pool (w.index - 0x140)) w.value) } := by
  have h3 : (decide (0x120 ≤ w.index) && decide (w.index < 0x140)) = false := by simp; omega
  have h4 : (decide (0x140 ≤ w.index) && decide (w.index < 0x150)) = true := by simp; omega
  have h5 : bits w.value.toNat 0 9 = w.value.toNat % 512 := by simp [bits]
  have h6 : bits w.value.toNat 16 9 = w.value.toNat / 65536 % 512 := by simp [bits]
  simp only [Hub.write, h3, h4, h5, h6, Bool.false_eq_true, if_false, if_true, Hub.setPool, poolSized]

/-- Settles O39: each event of the hub by what its guard finds. -/
theorem hubSteps : Obligations.HubSteps := by
  intro s k n hr h
  refine ⟨?decides, ?decided, ?answers, ?tokens, ?due, ?early, ?refills, ?frames, ?writes⟩
  case decides =>
    intro elem id site words est exc f hq hm
    have hq' : (s.hub k).queue = [.ask elem id site words est exc f] := hq
    have hi : (s.hub k).queue.findIdx? HubMsg.isAsk = some 0 := by simp [hq', HubMsg.isAsk]
    have hg : (s.hub k).queue[0]? = some (.ask elem id site words est exc f) := by simp [hq']
    have hd : (s.modHub k fun h => { h with queue := removeAt h.queue 0 }) = s.modHub k fun h => { h with queue := [] } := by
      simp [State.modHub, hq', removeAt]
    change execAskDecide k s = _
    simp only [execAskDecide, hr, hm, hi, hg, hd, Bool.not_true, Bool.or_self, Bool.false_eq_true, if_false]
  case decided =>
    intro hm
    change execAskDecide k s = _
    simp only [execAskDecide, hm, Bool.not_false, Bool.or_true, if_true]
  case answers =>
    intro elem id askid words hq hm hs s'
    obtain ⟨hsome, hnone⟩ := answerAccept_of hr hq hm hs
    exact ⟨fun e he hv => (hsome e he).trans (if_pos hv), fun e he hv => (hsome e he).trans (if_neg hv), hnone⟩
  case tokens =>
    intro t rest x hc hx l
    have h1 := conditioningToken_of hr hc hx
    exact ⟨fun hl => h1.trans (if_pos hl), fun hl => h1.trans (if_neg (by simp [l] at hl ⊢; exact hl))⟩
  case due =>
    intro e x he hx hd
    have h1 := askDue_of hr he hx hd
    refine ⟨fun hc => ?_, fun hc hm hw => ?_, fun hc => ?_⟩
    · have hne : e.cycle + 64 * x.dl ≠ s.cycle := by omega
      rw [h1, if_pos (.inl hc)]
      simp only [hne, if_false]
      rfl
    · rw [h1, if_pos (.inr ⟨hc, hm, hw⟩)]
      simp only [hc, if_true]
    · rw [h1, if_neg (by omega)]
  case early =>
    intro hd
    have hz : s.refillsDue k = 0 := Nat.sub_eq_zero_of_le hd
    change execPoolRefill k s = _
    simp [execPoolRefill, hz]
  case refills =>
    intro hd hm
    refine ⟨_, poolRefill_of hr hm (Nat.sub_ne_zero_of_lt hd), by simp [Hub.refill, h], fun p x hx => ?_⟩
    simp [Hub.refill, tget?_tmap, show tget? (s.hub k).pools p = _ from hx]
  case frames =>
    intro f t rest hs hf e p he hp l hroom hrest
    rw [hrest]
    exact askFrameDelivery_of hr hs hf he hp hroom
  case writes =>
    intro w rest hw h1 h2
    change execHubRegisterWrite k s = _
    simp only [execHubRegisterWrite, show (s.hub k).writes = _ from hw, State.modHub, write_pool h1 h2]
    rfl

end Sys2Proof.AskHub

/-! PROOFS that the steps of elements in Dispatch and of the ask hub keep the two invariants (06 R93, R118, 14 R249, 17 R299-R316). -/

namespace Sys2Proof.Kept
open Sys2Proof Sys2Proof.Machine Sys2Proof.Safety Sys2Proof.Laws Sys2Proof.ElementBeats

variable {v : Kind}

section
variable (s : State)

@[simp] theorem holds_policyParity (b n : Nat) (l : List Nat) : v.Holds (s.policyParity b n l) ↔ v.Holds s := by
  unfold State.policyParity
  dsimp only
  split
  · rfl
  · split <;> simp

@[simp] theorem holds_lateAsk (b n : Nat) (o : Bool) : v.Holds (s.lateAsk b n o) ↔ v.Holds s := by
  unfold State.lateAsk
  split
  · rfl
  · split <;> simp

end

section
variable {s : State}

theorem holds_hubCatchUp (h : v.Holds s) (b n : Nat) : v.Holds (s.hubCatchUp b n) := by
  unfold State.hubCatchUp
  dsimp only
  refine holds_foldl _ (fun u p _ hu => ?_) (holds_foldl _ (fun u p _ hu => by simpa using hu) h)
  split
  · split <;> simpa using hu
  · exact hu

theorem holds_hubStage (h : v.Holds s) (b n : Nat) : v.Holds (s.hubStage b n) := (holds_modHub ..).2 (holds_hubCatchUp h ..)

theorem holds_hubSweepStart (h : v.Holds s) (b : Nat) : v.Holds (s.hubSweepStart b) :=
  holds_foldl _ (fun u p _ hu => by simpa using hu) (holds_hubStage h ..)

theorem holds_poolRefill (h : v.Holds s) (k : Nat) : v.Answers (execPoolRefill k s) := by
  unfold execPoolRefill
  split <;> simpa using h

theorem holds_askDue (h : v.Holds s) (k n : Nat) : v.Answers (execAskDue k n s) := by
  unfold execAskDue
  dsimp only
  split
  · exact h
  · split <;> simpa using h

theorem holds_conditioningToken (h : v.Holds s) (k n : Nat) : v.Answers (execConditioningToken k n s) := by
  unfold execConditioningToken
  dsimp only
  split
  · split
    · exact h
    · split <;> simpa using h
  · exact h

theorem holds_decideAsk (h : v.Holds s) (b e i n : Nat) (l : List Token) (w : Word) (x : Bool) (f : Word) :
    v.Holds (s.decideAsk b e i n l w x f) := by
  unfold State.decideAsk
  extract_lets sweeping t
  have ht : v.Holds t := by
    simp only [t]
    split <;> simpa using h
  dsimp only
  split
  · exact ht
  · simpa using ht

theorem holds_askDecide (h : v.Holds s) (k : Nat) : v.Answers (execAskDecide k s) := by
  unfold execAskDecide
  split
  · exact h
  · split
    · exact h
    · split
      · exact holds_decideAsk (holds_hubStage (by simpa using h) ..) ..
      · exact h

theorem holds_askFrameDelivery (h : v.Holds s) (k : Nat) : v.Answers (execAskFrameDelivery k s) := by
  unfold execAskFrameDelivery
  dsimp only
  repeat' split
  all_goals simpa using h

theorem holds_targetLog (h : v.Holds s) (b r : Nat) : v.Holds (s.targetLog b r) := by
  unfold State.targetLog
  dsimp only
  split
  · simpa using h
  · have h1 := holds_engineWrite h .none b (segVa ((s.hub b).tlbase + 64 * (s.hub b).tltail) 0) r 64 0 15 false
    split <;> simpa using h1

theorem holds_takeAnswer (h : v.Holds s) (b n : Nat) (e : AskEntry) (l : List Word) : v.Holds (s.takeAnswer b n e l) := by
  unfold State.takeAnswer
  extract_lets t
  have ht : v.Holds t := by
    simp only [t]
    split <;> simpa using h
  split
  · exact ht
  · dsimp only
    rw [holds_modHub, holds_trace]
    exact holds_targetLog (by simpa using ht) ..

theorem holds_answerAccept (h : v.Holds s) (k : Nat) : v.Answers (execAnswerAccept k s) := by
  unfold execAnswerAccept
  split
  · exact h
  · split
    · exact h
    · next i _ =>
      split
      · next elem id askid ws _ =>
        dsimp only
        have h1 : v.Holds ((((s.modHub k fun h => { h with queue := removeAt h.queue i }).hubStage k 2).modElem elem (·.dropPending id))) :=
          (holds_modElem ..).2 (holds_hubStage ((holds_modHub ..).2 h) ..)
        split
        · simpa using h1
        · split
          · exact holds_takeAnswer h1 ..
          · simpa using h1
      · exact h

theorem holds_hubRegisterWrite (h : v.Holds s) (k : Nat) : v.Answers (execHubRegisterWrite k s) := by
  unfold execHubRegisterWrite
  split
  · exact h
  · exact (holds_modHub ..).2 (holds_hubStage h ..)

/-! ## Elements -/

/-- Nothing but an instruction of elements runs in one. -/
theorem runElement_of_other (i : Instr) (s : State) : (formOf i).isSome = false → runElement i s = .next s := by
  cases i <;> first | exact fun h => Bool.noConfusion h | exact fun _ => rfl

theorem holds_runElement (i : Instr) (h : v.Holds s) : v.Answers (runElement i s) := by
  cases hi : (formOf i).isSome with
  | true =>
    rw [runElement_eq i s hi]
    exact holds_element hi h
  | false =>
    rw [runElement_of_other i s hi]
    exact h

theorem holds_vectorBeat (h : v.Holds s) (k : Nat) : v.Answers (execVectorBeat k s) := by
  unfold execVectorBeat
  split
  · exact h
  · split
    · exact h
    · exact holds_runElement _ (by simpa using h)

theorem answers_tokenDelivery (k n : Nat) : v.Answers (execTokenDelivery k n s) ↔ v.Holds s := holds_deliver ..

theorem answers_handOver (h : v.Holds s) (k : Nat) : v.Answers (execHandOver k s) := holds_handOver h k

end

end Sys2Proof.Kept

/-! PROOFS of the statements on queues, their commands and graph nodes (03 R32-R43, 02 R27-R29, 21 R354). -/

namespace Sys2Proof.QueueWork
open Sys2Proof Sys2Proof.Machine Sys2Proof.Safety Sys2Proof.Laws

/-! ## Queue commands (03 R37, R40) -/

/-- Settles O30: each command by what its counter, its label or its descriptor gives. -/
theorem queueCommands : Obligations.QueueCommands := by
  intro q a s wait done ctr label w0 w1 value address h fn counter set joined shuttle graph
  refine ⟨fun hr => ⟨fun hl => ?bound, fun hl => ?unbound⟩, ?sets, fun hc => ?takes, fun hc => ?underflows, fun g hg => ?starts, fun hg => ?rejected⟩
  case bound =>
    obtain ⟨r, hl⟩ := Option.isSome_iff_exists.1 hl
    change execTask wait done label w0 w1 s = _
    unfold execTask
    rw [commandRun_of _ h]
    simp only [show mayRun s (s.queue q).qmapTag a.target = true from hr, hl, Bool.not_true, Bool.false_eq_true, if_false, beq_iff_eq]
    rfl
  case unbound =>
    change execTask wait done label w0 w1 s = _
    unfold execTask
    rw [commandRun_of _ h]
    simp only [show mayRun s (s.queue q).qmapTag a.target = true from hr, hl, Bool.not_true, Bool.false_eq_true, if_false]
  case sets =>
    change execSetctr wait done ctr value s = _
    exact commandRun_of _ h
  case takes =>
    change execArriveCommand wait done ctr s = _
    unfold execArriveCommand
    rw [commandRun_of _ h]
    have ha : counter.arrive false = { counter with count := counter.count - 1 } := by simp [DepCounter.arrive, hc]
    simp only [State.arrive, State.modFn]
    rw [show tget (s.fn (s.queue q).qmapTag).counters ctr.toNat {} = counter from rfl, ha]
  case underflows =>
    change execArriveCommand wait done ctr s = _
    unfold execArriveCommand
    rw [commandRun_of _ h]
    have ha : counter.arrive false = { counter with underflow := true } := by simp [DepCounter.arrive, hc]
    simp only [State.arrive, State.modFn]
    rw [show tget (s.fn (s.queue q).qmapTag).counters ctr.toNat {} = counter from rfl, ha]
  case starts =>
    change execGraph wait done address s = _
    unfold execGraph
    rw [commandRun_of _ h]
    rw [show s.readGraph (s.queue q).qmapTag q address.toNat a.id = (graph.1, some g) from Prod.ext rfl hg]
  case rejected =>
    change execGraph wait done address s = _
    unfold execGraph
    rw [commandRun_of _ h]
    rw [show s.readGraph (s.queue q).qmapTag q address.toNat a.id = (graph.1, none) from Prod.ext rfl hg]

/-! ## Graph nodes (02 R27, R28) -/

/-- A comparison by the signed or unsigned values of its words (02 R26). -/
theorem nodeCompare_eq (cmp : Nat) (w v : BitVec 64) : nodeCompare cmp w v = match cmp with
    | 0 => decide (w = v) | 1 => decide (w ≠ v) | 2 => decide (w.toInt < v.toInt)
    | 3 => decide (v.toInt ≤ w.toInt) | 4 => decide (w.toNat < v.toNat) | _ => decide (v.toNat ≤ w.toNat) := by
  match cmp with
  | 0 => simp [nodeCompare, BEq.beq]
  | 1 => by_cases h : w = v <;> simp [nodeCompare, h]
  | 2 => rfl
  | 3 => simp [nodeCompare, BitVec.slt, ← decide_not]
  | 4 => rfl
  | _ + 5 => simp [nodeCompare, BitVec.ult, ← decide_not]

section
variable {q : Nat} {g : Graph} {kind : Nat} {s : State} {addr : BitVec 57} {choose : Graph → BitVec 64 → Graph × Nat} (h : AtNode q g kind s)
include h

/-- A node whose condition word is read goes on where its choice says. -/
theorem conditionRun_reads {w : Nat} (hr : (s.readWord q (va57 addr.toNat)).2 = .ok w) :
    conditionRun kind addr choose s = .next (((s.readWord q (va57 addr.toNat)).1.modGraph q fun _ => (choose g (.ofNat 64 w)).1).nodeDone q false
      (choose g (.ofNat 64 w)).2) := by
  refine (nodeRun_of _ h).trans ?_
  rw [show s.readWord q (va57 addr.toNat) = ((s.readWord q (va57 addr.toNat)).1, .ok w) from Prod.ext rfl hr]

theorem conditionRun_faults {c : Nat} (hr : (s.readWord q (va57 addr.toNat)).2 = .error c) :
    conditionRun kind addr choose s = .next ((s.readWord q (va57 addr.toNat)).1.graphFault q c (va57 addr.toNat)) := by
  refine (nodeRun_of _ h).trans ?_
  rw [show s.readWord q (va57 addr.toNat) = ((s.readWord q (va57 addr.toNat)).1, .error c) from Prod.ext rfl hr]

end

section
variable {q : Nat} {g : Graph} {s : State} {addr : BitVec 57}

/-- A LOOP node below its cap takes the successor of its comparison. -/
theorem loopNode_counts {cmp : BitVec 4} {cap : BitVec 8} {arrive a b : BitVec 16} {value mask : BitVec 64} (h : AtNode q g 2 s) {w : Nat}
    (hr : (s.readWord q (va57 addr.toNat)).2 = .ok w) :
    let iter := (if g.prev.any (insideBody g g.current a.toNat b.toNat) = true then tget g.loops g.current 0 else 0) + 1
    cap = 0 ∨ iter ≤ cap.toNat * 1024 → execLoopNode cmp cap arrive a b addr value mask s = .next
      (((s.readWord q (va57 addr.toNat)).1.modGraph q fun _ => { g with loops := tset g.loops g.current iter }).nodeDone q false
        (if nodeCompare cmp.toNat (BitVec.ofNat 64 w &&& mask) value then a.toNat else b.toNat)) := by
  intro iter hc
  have hcap : (cap != 0 && decide (cap.toNat * 1024 < iter)) = false := by
    rcases hc with rfl | hc
    · rfl
    · rw [decide_eq_false (Nat.not_lt.mpr hc), Bool.and_false]
  simp only [iter] at hcap
  unfold execLoopNode
  rw [conditionRun_reads h hr]
  simp only [hcap, Bool.false_eq_true, if_false]
  rfl

/-- A LOOP node above its cap gives up. -/
theorem loopNode_gives_up {cmp : BitVec 4} {cap : BitVec 8} {arrive a b : BitVec 16} {value mask : BitVec 64} (h : AtNode q g 2 s) {w : Nat}
    (hr : (s.readWord q (va57 addr.toNat)).2 = .ok w) :
    let iter := (if g.prev.any (insideBody g g.current a.toNat b.toNat) = true then tget g.loops g.current 0 else 0) + 1
    cap ≠ 0 → cap.toNat * 1024 < iter → execLoopNode cmp cap arrive a b addr value mask s = .next
      (((s.readWord q (va57 addr.toNat)).1.modGraph q fun _ =>
        { g with loops := tset g.loops g.current iter, exhausted := true }).nodeDone q false b.toNat) := by
  intro iter hc hi
  have hcap : (cap != 0 && decide (cap.toNat * 1024 < iter)) = true := by
    rw [decide_eq_true hi, Bool.and_true]
    exact bne_iff_ne.2 hc
  simp only [iter] at hcap
  unfold execLoopNode
  rw [conditionRun_reads h hr]
  simp only [hcap, if_true]
  rfl

/-- A SWITCH node takes the successor that a field of W numbers. -/
theorem switchNode_of {arrive b : BitVec 16} {shift : BitVec 6} {count : BitVec 8} {succs : BitVec 64} (h : AtNode q g 3 s) {w : Nat}
    (hr : (s.readWord q (va57 addr.toNat)).2 = .ok w) :
    let j := (w % 2 ^ 64 / 2 ^ shift.toNat) % 4
    execSwitchNode arrive b addr shift count succs s = .next (((s.readWord q (va57 addr.toNat)).1.modGraph q fun _ => g).nodeDone q false
      (if j < count.toNat then BitVec.ofNat 16 (succs.toNat / 2 ^ (16 * j)) else b).toNat) := by
  intro j
  have hj : (BitVec.ofNat 64 w).toNat / 2 ^ shift.toNat % 4 = j := by rw [BitVec.toNat_ofNat]
  have hn : (if j < count.toNat then BitVec.ofNat 16 (succs.toNat / 2 ^ (16 * j)) else b).toNat
      = if j < count.toNat then bits succs.toNat (16 * j) 16 else b.toNat := by
    split
    · rw [BitVec.toNat_ofNat]
      rfl
    · rfl
  unfold execSwitchNode
  rw [conditionRun_reads h hr, hn]
  dsimp only
  rw [hj]

/-- An END node outside a replay. -/
theorem endNode_of {arrive : BitVec 16} (h : AtNode q g 4 s) (hr : g.replays = []) :
    ((∀ e ∈ g.edges, e.last ≠ g.current) → exec (.endNode arrive) s = .next ((s.nodeArrives q g.current false).finishHead q 0))
    ∧ ∀ t, (s.nodeArrives q g.current false).sampleEdges q (s.fn (s.queue q).qmapTag).freemem.toNat
        (g.edges.filter fun e => e.last == g.current) = (t, none) → exec (.endNode arrive) s = .next (t.finishHead q 0) := by
  have hend (t : State) (ht : (s.nodeArrives q g.current false).sampleEdges q (s.fn (s.queue q).qmapTag).freemem.toNat
        (g.edges.filter fun e => e.last == g.current) = (t, none)) : exec (.endNode arrive) s = .next (t.finishHead q 0) := by
    change execEndNode arrive s = _
    unfold execEndNode
    rw [nodeRun_of _ h, hr]
    dsimp only
    rw [ht]
  refine ⟨fun he => hend _ ?_, hend⟩
  have hf : g.edges.filter (fun e => e.last == g.current) = [] := by
    rw [List.filter_eq_nil_iff]
    intro e hm
    simpa using he e hm
  rw [hf]
  rfl

section
variable {arrive a edge : BitVec 16} {image : BitVec 57} {block : BitVec 64} (h : AtNode q g 0 s)
include h

theorem loadNode_offers (ho : g.state = .honoured ∨ edge = 0xFFFF) :
    exec (.loadNode arrive a image block edge) s = .next (s.offerImage q (va57 image.toNat) block.toNat) := by
  have ho : (g.state == .honoured || edge == 0xFFFF) = true := by
    rcases ho with ho | ho
    · rw [ho]
      rfl
    · rw [ho, beq_self_eq_true, Bool.or_true]
  change execLoadNode arrive a image block edge s = _
  unfold execLoadNode
  rw [nodeRun_of _ h]
  simp only [ho, if_true]

/-- A LOAD node that names an edge: offered where its word reads 0, dropped where it does not. -/
theorem loadNode_of_edge (hs : g.state = .ready) (hn : edge ≠ 0xFFFF) {e : Edge} (he : g.edges[edge.toNat]? = some e) :
    (∀ s', s.readWord q e.word = (s', .ok 0) →
      exec (.loadNode arrive a image block edge) s = .next (s'.offerImage q (va57 image.toNat) block.toNat))
    ∧ (∀ s' w, s.readWord q e.word = (s', .ok (w + 1)) →
      exec (.loadNode arrive a image block edge) s = .next (s'.modGraph q fun g => { g with state := .dropped })) := by
  have ho : (g.state == .honoured || edge == 0xFFFF) = false := by
    rw [hs, Bool.or_eq_false_iff]
    exact ⟨rfl, beq_eq_false_iff_ne.2 hn⟩
  refine ⟨fun s' hr => ?_, fun s' w hr => ?_⟩ <;>
  · change execLoadNode arrive a image block edge s = _
    unfold execLoadNode
    rw [nodeRun_of _ h]
    simp only [ho, he, hr, Bool.false_eq_true, if_false]

end

end

/-- Settles O31: each kind of node by what it reads. -/
theorem graphNodes : Obligations.GraphNodes := by
  intro q g s cmp cap count arrive a b edge addr image value mask block succs shift r holds goes iter counted offered
  have hcmp (w : BitVec 64) : nodeCompare cmp.toNat (w &&& mask) value = holds (w &&& mask) := nodeCompare_eq ..
  have hpick (c : Bool) : (if c = true then a.toNat else b.toNat) = (if c = true then a else b).toNat := by cases c <;> rfl
  refine ⟨?cond, ?loop, ?switch, ?unread, ?ends, ?offers, ?named⟩
  case cond =>
    intro h w hw
    rw [← hcmp]
    refine (conditionRun_reads h hw : execCondNode cmp arrive a b addr value mask s = _).trans ?_
    dsimp only
    rw [hpick]
  case loop =>
    intro h w hw
    refine ⟨fun hc => ?_, fun hc hi => ?_⟩
    · rw [← hcmp]
      refine (loopNode_counts h hw hc : execLoopNode cmp cap arrive a b addr value mask s = _).trans ?_
      rw [hpick]
    · exact (loopNode_gives_up h hw hc hi : execLoopNode cmp cap arrive a b addr value mask s = _)
  case switch =>
    intro h w hw j
    exact (switchNode_of h hw : execSwitchNode arrive b addr shift count succs s = _)
  case unread =>
    intro code hc
    exact ⟨fun h => (conditionRun_faults h hc : execCondNode cmp arrive a b addr value mask s = _),
      fun h => (conditionRun_faults h hc : execLoopNode cmp cap arrive a b addr value mask s = _),
      fun h => (conditionRun_faults h hc : execSwitchNode arrive b addr shift count succs s = _)⟩
  case ends => exact fun h hr => endNode_of h hr
  case offers => exact fun h ho => loadNode_offers h ho
  case named => exact fun h hs hn e he => loadNode_of_edge h hs hn he

/-! ## Queues (03 R32-R43, 21 R354) -/

/-- Settles O40: each step by its guards. -/
theorem queueSteps : Obligations.QueueSteps := by
  intro s fn n q value hq h
  refine ⟨?rings, ?configures, ?dispatches, ?completes, ?unserved, ?journals, ?replays⟩
  case rings =>
    intro tail ht count rung s'
    have hmod : tail % 2 ^ 32 = tail := Nat.mod_eq_of_lt ht
    have hs : h.size = 2 ^ (h.log2 + 4) := rfl
    have hu : (s'.queue q).unread = (h.head != tail && !h.killBusy) := by simp [s', HwQueue.unread]
    have hrung : (if h.tail == tail then h.rungAt else s.spine) = rung := by simp only [beq_iff_eq, rung]
    have hexec : exec (.qdb fn n tail) s = if h.size < count then .next (s.queueError q)
        else if (s'.queue q).unread && !enqueueWaits s' fn n 0 rung then .next (s'.takeCommand fn q) else .next s' := by
      change execQdb fn n tail s = _
      simp only [execQdb, hq, hmod]
      rw [show s.queue q = h from rfl, hrung]
    rw [hs] at hexec
    refine ⟨fun hc hh hk hw => ?_, fun hc hw => ?_, fun hc => hexec.trans (if_pos hc)⟩
    · rw [hexec, if_neg (Nat.not_lt.mpr hc), hu, hk, hw, if_pos]
      simpa using hh
    · rw [hexec, if_neg (Nat.not_lt.mpr hc), hu, if_neg]
      rcases hw with hw | hw | hw <;> simp [hw]
  case configures =>
    intro log2 h'
    have hbit : bit value.toNat 31 = value.getLsbD 31 := SequencerCommands.bit_eq_getLsbD value 31
    have hexec : exec (.qcfgWrite fn n value) s = if (!value.getLsbD 31 || h.killBusy) = true then .next (s.setQueue q { h' with en := false })
        else if 13 ≤ h'.log2 then .next ((s.setQueue q h').queueError q) else .next (s.setQueue q { h' with en := true, err := false }) := by
      change execQcfgWrite fn n value s = _
      simp only [execQcfgWrite, hq, hbit]
      rfl
    have hgo (hv : value.getLsbD 31 = true) (hk : h.killBusy = false) : ¬(!value.getLsbD 31 || h.killBusy) = true := by
      rw [hv, hk]
      exact Bool.false_ne_true
    refine ⟨fun hc => ?_, fun hv hk hl => ?_, fun hv hk hl => ?_⟩
    · refine hexec.trans (if_pos ?_)
      rcases hc with hc | hc
      · rw [hc]
        rfl
      · rw [show h.killBusy = true from hc, Bool.or_true]
    · exact (hexec.trans (if_neg (hgo hv hk))).trans (if_neg (Nat.not_le.mpr (Nat.lt_succ_of_le hl)))
    · exact (hexec.trans (if_neg (hgo hv hk))).trans (if_pos hl)
  case dispatches =>
    intro bh g f hh hr ha
    change execCommandDispatch bh s = _
    simp only [execCommandDispatch, hh, hr, ha, Bool.not_true, Bool.false_eq_true, if_false]
  case completes =>
    intro a rest st ha hst
    change execCommandComplete q a.id s = _
    simp only [execCommandComplete, show (s.queue q).accepted = a :: rest from ha, List.find?_cons, beq_self_eq_true, hst]
  case unserved =>
    intro hm
    change execJournalWrite fn s = _
    simp only [execJournalWrite, hm, beq_self_eq_true, Bool.or_true, if_true]
  case journals =>
    intro r hj hm hr y
    have hg : (!(s.fn fn).jen || s.mgmt == 0) = false := by simpa [hj] using hm
    have hexec {b : Bool} (hb : y.2 = b) : s.writePhys ((s.fn fn).jbase + 32 * (r.seq % 2 ^ (s.fn fn).jlog2)) (r.bytes fn) = (y.1, b) :=
      Prod.ext rfl hb
    refine ⟨fun hy => ?_, fun hy => ?_⟩
    · change execJournalWrite fn s = _
      simp only [execJournalWrite, hg, hr, hexec hy, Bool.false_eq_true, if_false]
    · change execJournalWrite fn s = _
      simp only [execJournalWrite, hg, hr, hexec hy, Bool.false_eq_true, if_false]
  case replays =>
    intro g d e hg hs hr hl hd he r g'
    have hg : (s.queue q).graph = some g := hg
    change execRecomputeReplay q s = _
    simp only [execRecomputeReplay, hg, hs, hr, Nat.not_le.mpr hl, hd, he, State.modGraph, State.modQueue, bne_self_eq_false, Bool.not_true,
      Bool.or_self, Bool.false_eq_true, if_false, Option.map_some]
    rfl

end Sys2Proof.QueueWork

/-! PROOFS that launching and graphs keep the two invariants (03 R32-R43, 02 R25-R29). -/

namespace Sys2Proof.Kept
open Sys2Proof Sys2Proof.Machine Sys2Proof.Safety Sys2Proof.Laws Sys2Proof.ElementBeats

variable {v : Kind}

theorem answers_ite {c : Prop} [Decidable c] {a b : Out} (ha : v.Answers a) (hb : v.Answers b) : v.Answers (if c then a else b) := by
  split
  · exact ha
  · exact hb

section
variable (s : State)

@[simp] theorem holds_queueError (q : Nat) : v.Holds (s.queueError q) ↔ v.Holds s := by
  unfold State.queueError
  dsimp only
  split <;> simp

@[simp] theorem holds_modHead (q : Nat) (f : Accepted → Accepted) : v.Holds (s.modHead q f) ↔ v.Holds s := holds_modQueue ..
@[simp] theorem holds_finishHead (q c : Nat) : v.Holds (s.finishHead q c) ↔ v.Holds s := by simp [State.finishHead]
@[simp] theorem holds_modGraph (q : Nat) (f : Graph → Graph) : v.Holds (s.modGraph q f) ↔ v.Holds s := holds_modQueue ..
@[simp] theorem holds_graphFault (q c a : Nat) : v.Holds (s.graphFault q c a) ↔ v.Holds s := by simp [State.graphFault]
@[simp] theorem holds_pastFault (q c a : Nat) : v.Holds (s.pastFault q c a) ↔ v.Holds s := by simp [State.pastFault]

@[simp] theorem holds_nodeArrives (q i : Nat) (b : Bool) : v.Holds (s.nodeArrives q i b) ↔ v.Holds s := by
  unfold State.nodeArrives
  dsimp only
  split
  · rfl
  · split
    · rfl
    · split <;> simp

end

section
variable {s : State}

/-! ## Doorbells, the journal, arbitration (03 R32-R43) -/

theorem holds_refuseUnread (h : v.Holds s) (q e c : Nat) : v.Holds (s.refuseUnread q e c) := holds_writeBytes h ..

theorem holds_takeCommand (h : v.Holds s) (f q : Nat) : v.Holds (s.takeCommand f q) := by
  unfold State.takeCommand
  extract_lets x at_ t
  have h1 := holds_readBytes (v := v) (s := t) (by simpa [t] using h) (firstMember t f) f x.pasid at_ .read 64
  split
  · next s' _ e =>
    have h2 : v.Holds s' := holds_of_eq e h1
    dsimp only
    split
    · exact holds_refuseUnread h2 ..
    · exact h2
  · next s' b e =>
    have h2 : v.Holds s' := holds_of_eq e h1
    dsimp only
    have h3 := holds_writeStatus h2 q at_ (refusal s' f q (parseCommand b.bytes).1 (parseCommand b.bytes).2 false)
    split
    · simpa using h3
    · exact h3

theorem holds_qdb (h : v.Holds s) (f n x : Nat) : v.Answers (execQdb f n x s) := by
  unfold execQdb
  split
  · exact h
  · dsimp only
    exact answers_ite (by simpa using h) (answers_ite (holds_takeCommand (by simpa using h) ..) (by simpa using h))

theorem holds_qcfgWrite (h : v.Holds s) (f n : Nat) (w : Word) : v.Answers (execQcfgWrite f n w s) := by
  unfold execQcfgWrite
  split
  · exact h
  · dsimp only
    exact answers_ite (by simpa using h) (answers_ite (by simpa using h) (by simpa using h))

theorem holds_writePhysLines (n : Nat) : ∀ {s : State}, v.Holds s → ∀ a l, v.Holds (s.writePhysLines n a l).1 := by
  induction n with
  | zero => exact fun h _ _ => h
  | succ n ih =>
    intro s h a l
    unfold State.writePhysLines
    split
    · exact h
    · split
      · exact h
      · dsimp only
        split
        · exact ih (holds_homeWrite (by simpa using h) ..) ..
        · exact h

theorem holds_writePhys (h : v.Holds s) (a : Nat) (l : List Byte) : v.Holds (s.writePhys a l).1 := holds_writePhysLines _ h ..

theorem holds_journalWrite (h : v.Holds s) (f : Nat) : v.Answers (execJournalWrite f s) := by
  unfold execJournalWrite
  dsimp only
  split
  · exact h
  · split
    · exact h
    · next r _ =>
      have h1 := holds_writePhys h ((s.fn f).jbase + 32 * (r.seq % 2 ^ (s.fn f).jlog2)) (r.bytes f)
      split
      all_goals
        rename_i s' e
        have h2 : v.Holds s' := holds_of_eq e h1
        simpa using h2

theorem holds_commandDispatch (h : v.Holds s) (b : Nat) : v.Answers (execCommandDispatch b s) := by
  unfold execCommandDispatch
  split
  · exact h
  · split
    · exact h
    · split
      · exact h
      · simpa using h

theorem holds_commandComplete (h : v.Holds s) (q i : Nat) : v.Answers (execCommandComplete q i s) := by
  unfold execCommandComplete
  split
  · exact h
  · split
    · exact h
    · exact holds_completeCommand h ..

/-! ## Commands (03 R37, R40) -/

theorem holds_commandRun {body : State → Nat → Accepted → State} (h : v.Holds s) (hb : ∀ q a, v.Holds (body s q a)) :
    v.Answers (commandRun body s) := by
  unfold commandRun
  split
  · split
    · exact h
    · split
      · exact hb ..
      · exact h
  · trivial

theorem holds_task (h : v.Holds s) (w d : BitVec 16) (l : BitVec 7) (x y : Word) : v.Answers (execTask w d l x y s) := by
  refine holds_commandRun h fun q a => ?_
  dsimp only
  split
  · exact h
  · split <;> simpa using h

theorem holds_setctr (h : v.Holds s) (w d c : BitVec 16) (x : BitVec 24) : v.Answers (execSetctr w d c x s) :=
  holds_commandRun h fun q a => by simpa using h

theorem holds_arriveCommand (h : v.Holds s) (w d c : BitVec 16) : v.Answers (execArriveCommand w d c s) :=
  holds_commandRun h fun q a => by simpa using h

theorem holds_readGraph (h : v.Holds s) (f q a c : Nat) : v.Holds (s.readGraph f q a c).1 := by
  unfold State.readGraph
  extract_lets rd
  have hrd {t : State} (ht : v.Holds t) (a n : Nat) : v.Holds (rd t a n).1 := holds_readBytes ht ..
  have h1 := hrd h a 32
  split
  · next e => exact holds_of_eq e h1
  · next s1 hd e =>
    have h2 : v.Holds s1 := holds_of_eq e h1
    dsimp only
    split
    · exact h2
    · have h3 := hrd h2 (a + 32) (32 * fieldAt hd.bytes 0 2)
      split
      · next e => exact holds_of_eq e h3
      · next s2 bs e =>
        have h4 : v.Holds s2 := holds_of_eq e h3
        split
        · exact h4
        · have h5 := hrd h4 (fieldAt hd.bytes 8 8) (32 * fieldAt hd.bytes 6 2)
          split
          · next e => exact holds_of_eq e h5
          · next e => split <;> exact holds_of_eq e h5

theorem holds_graph (h : v.Holds s) (w d : BitVec 16) (a : BitVec 64) : v.Answers (execGraph w d a s) := by
  refine holds_commandRun h fun q c => ?_
  have h1 := holds_readGraph h (s.queue q).qmapTag q a.toNat c.id
  split
  · next e => exact (holds_finishHead ..).2 (holds_of_eq e h1)
  · next e => exact (holds_modQueue ..).2 (holds_of_eq e h1)

/-! ## The graph scheduler (02 R27-R29) -/

theorem holds_readWord (h : v.Holds s) (q a : Nat) : v.Holds (s.readWord q a).1 := by
  unfold State.readWord
  dsimp only
  have h1 := holds_readBytes h (firstMember s (s.queue q).qmapTag) (s.queue q).qmapTag (s.queue q).pasid a .read 8
  split
  · next e => exact holds_of_eq e h1
  · next e => split <;> exact holds_of_eq e h1

theorem holds_writeEdge (h : v.Holds s) (q : Nat) (e : Edge) (n : Nat) : v.Holds (s.writeEdge q e n).1 := holds_writeBytes h ..

theorem holds_endReplay (h : v.Holds s) (q : Nat) (g : Graph) (r : Replay) (l : List Replay) : v.Holds (s.endReplay q g r l) := by
  unfold State.endReplay
  extract_lets t
  have ht : v.Holds t := by simpa [t] using h
  split
  · exact ht
  · next x _ =>
    have h1 := holds_writeEdge ht q x 0
    split
    · next e => exact holds_of_eq e h1
    · next e => simpa using holds_of_eq e h1

theorem holds_sampleEdges (q n : Nat) (l : List Edge) : ∀ {s : State}, v.Holds s → v.Holds (s.sampleEdges q n l).1 := by
  induction l with
  | nil => exact fun h => h
  | cons x l ih =>
    intro s h
    unfold State.sampleEdges
    have h1 := holds_writeEdge h q x (if x.watermark ≤ n then 0 else 1)
    split
    · next e => exact ih (holds_of_eq e h1)
    · next e => exact holds_of_eq e h1

theorem holds_nodeDone (h : v.Holds s) (q : Nat) (b : Bool) (n : Nat) : v.Holds (s.nodeDone q b n) := by
  unfold State.nodeDone
  dsimp only
  split
  · exact h
  · next g _ =>
    have h1 : v.Holds (s.nodeArrives q g.current b) := by simpa using h
    split
    · split
      · exact holds_endReplay h1 ..
      · simpa using h1
    · have h2 := holds_sampleEdges q ((s.nodeArrives q g.current b).fn (s.queue q).qmapTag).freemem.toNat
        (g.edges.filter (·.last == g.current)) h1
      split <;> (rename_i e; simpa using holds_of_eq e h2)

theorem holds_nodeFails (h : v.Holds s) (q : Nat) : v.Holds (s.nodeFails q) := by
  unfold State.nodeFails
  split
  · exact h
  · split
    · exact h
    · dsimp only
      refine holds_ite (holds_ite (by simpa using h) (by simpa using h)) (holds_ite (by simpa using h)
        (holds_ite (holds_nodeDone (by simpa using h) ..) (holds_nodeDone h ..)))

theorem holds_nodeRun {kind : Nat} {body : State → Nat → Graph → State} (h : v.Holds s) (hb : ∀ q g, v.Holds (body s q g)) :
    v.Answers (nodeRun kind body s) := by
  unfold nodeRun
  split
  · split
    · exact h
    · split
      · exact hb ..
      · exact h
  · trivial

theorem holds_conditionRun (h : v.Holds s) (kind : Nat) (a : BitVec 57) (choose : Graph → BitVec 64 → Graph × Nat) :
    v.Answers (conditionRun kind a choose s) := by
  refine holds_nodeRun h fun q g => ?_
  have h1 := holds_readWord h q (va57 a.toNat)
  split
  · next e => simpa using holds_of_eq e h1
  · next e => exact holds_nodeDone (by simpa using holds_of_eq e h1) ..

theorem holds_condNode (h : v.Holds s) (c : BitVec 4) (r a b : BitVec 16) (x : BitVec 57) (y m : BitVec 64) :
    v.Answers (execCondNode c r a b x y m s) := holds_conditionRun h ..

theorem holds_loopNode (h : v.Holds s) (c : BitVec 4) (p : BitVec 8) (r a b : BitVec 16) (x : BitVec 57) (y m : BitVec 64) :
    v.Answers (execLoopNode c p r a b x y m s) := holds_conditionRun h ..

theorem holds_switchNode (h : v.Holds s) (r b : BitVec 16) (x : BitVec 57) (n : BitVec 6) (c : BitVec 8) (l : BitVec 64) :
    v.Answers (execSwitchNode r b x n c l s) := holds_conditionRun h ..

theorem holds_endNode (h : v.Holds s) (r : BitVec 16) : v.Answers (execEndNode r s) := by
  refine holds_nodeRun h fun q g => ?_
  split
  · exact holds_endReplay h ..
  · have h1 := holds_sampleEdges q (s.fn (s.queue q).qmapTag).freemem.toNat (g.edges.filter (·.last == g.current))
      ((holds_nodeArrives s q g.current false).2 h)
    split <;> (rename_i e; simpa using holds_of_eq e h1)

theorem holds_offerImage (h : v.Holds s) (q a n : Nat) : v.Holds (s.offerImage q a n) := by
  unfold State.offerImage
  extract_lets x rd
  have hrd {t : State} (ht : v.Holds t) (n : Nat) : v.Holds (rd t n).1 := holds_readBytes ht ..
  have h1 := hrd h 64
  split
  · next e => simpa using holds_of_eq e h1
  · next s' hd e =>
    have h2 : v.Holds s' := holds_of_eq e h1
    have h3 := hrd h2 (max 64 (fieldAt hd.bytes 8 4))
    split
    · next e => simpa using holds_of_eq e h3
    · next e =>
      exact holds_foldl _ (fun u b _ hu => by simpa using hu) (by simpa using holds_of_eq e h3)

theorem holds_loadNode (h : v.Holds s) (r a : BitVec 16) (i : BitVec 57) (b : BitVec 64) (e : BitVec 16) :
    v.Answers (execLoadNode r a i b e s) := by
  refine holds_nodeRun h fun q g => ?_
  dsimp only
  split
  · exact holds_offerImage h ..
  · split
    · exact holds_offerImage h ..
    · next x _ =>
      have h1 := holds_readWord h q x.word
      split
      · next e => simpa using holds_of_eq e h1
      · next e => exact holds_offerImage (holds_of_eq e h1) ..
      · next e => simpa using holds_of_eq e h1

theorem holds_recomputeReplay (h : v.Holds s) (q : Nat) : v.Answers (execRecomputeReplay q s) := by
  unfold execRecomputeReplay
  split
  · exact h
  · refine answers_ite h (answers_ite (by simpa using h) ?_)
    split
    · exact h
    · dsimp only
      split
      · exact h
      · simpa using h

end

end Sys2Proof.Kept

/-! PROOFS of the statement on the loader (02 R21-R24, 03 R41, 14 R261, 19 R338, 21 R346). -/

namespace Sys2Proof.LoaderWork
open Sys2Proof Sys2Proof.Machine Sys2Proof.Safety Sys2Proof.Laws

section
variable {s : State} {bh : Nat}

/-- A sweep in a column of its bulkhead: guard touches first, then the drain. -/
theorem sweepColumnPass_of {w : Sweep} (hg : gated s bh = false) (hw : (s.bh bh).sweep = some w) (hk : w.kind ≠ .kill) (hc : w.column ≤ 12) :
    let ts := (tilesOf bh w.column).filter fun t => (s.tile t).guardRec.isSome
    exec (.sweepColumnPass bh) s = if ts ≠ [] then .next (ts.foldl (fun s t => s.raiseGuard t) s)
      else if columnDrained s w.kind bh w.column = true then .next (s.passColumn w.kind bh w.column) else .next s := by
  intro ts
  have hstop : (w.kind == .kill || decide (12 < w.column) || gated s bh) = false := by
    rw [hg, beq_eq_false_iff_ne.2 hk, decide_eq_false (Nat.not_lt.mpr hc)]
    rfl
  have hts : (!(guardTouches s bh w.column).isEmpty) = decide (ts ≠ []) := by
    change (!ts.isEmpty) = _
    cases ts <;> rfl
  change execSweepColumnPass bh s = _
  simp only [execSweepColumnPass, hw, hstop, hts, decide_eq_true_eq, Bool.false_eq_true, if_false]
  rfl

/-- The elements that keep a load from retiring. -/
theorem retLeft_eq_zero_iff (s : State) (bh : Nat) :
    retLeft s bh = 0 ↔ ∀ p ∈ (s.elemsOf bh).filter fun p => p.2.active, p.2.retired = true ∨ p.2.killed = true := by
  simp only [retLeft, List.length_eq_zero_iff, List.filter_eq_nil_iff, List.mem_filter, Bool.and_eq_true, Bool.not_eq_true', not_and,
    Bool.not_eq_false, and_imp]
  refine forall_congr' fun p => forall_congr' fun _ => forall_congr' fun _ => ?_
  cases p.2.retired <;> simp

section
variable {y : Load} (hl : (s.bh bh).load = some y) (hd : drainRuns s bh = true) (hr : (s.bh bh).ret = false) (hs : (s.bh bh).sweep = none)
include hl hd hr hs

/-- A load whose elements still run. -/
theorem loadRetire_of_running (hz : (s.bh bh).retiring = 0) :
    let active := (s.elemsOf bh).filter fun p => p.2.active
    exec (.loadRetire bh) s = if active = [] ∨ retLeft s bh ≠ 0 then .next s
      else .next ((s.mapElems bh fun _ e => e.markHeld s.spine).modBh bh fun b => { b with retiring := 1 }) := by
  intro active
  change execLoadRetire bh s = _
  simp only [execLoadRetire, hl, hd, hr, hs, hz, Bool.not_true, Option.isSome_none, Bool.or_self, Bool.false_eq_true, if_false,
    beq_self_eq_true, if_true, Bool.or_eq_true, List.isEmpty_iff, bne_iff_ne, ne_eq, active]

/-- A retiring load that has drained. -/
theorem loadRetire_of_drained (hz : (s.bh bh).retiring ≠ 0) (hdr : loadDrained s bh = true) :
    exec (.loadRetire bh) s = .next ((s.modBh bh fun b => { b with ret := true, retKilled := retKilled s bh }).loadCompletes y) := by
  change execLoadRetire bh s = _
  simp only [execLoadRetire, hl, hd, hr, hs, hdr, beq_eq_false_iff_ne.2 hz, Bool.not_true, Option.isSome_none, Bool.or_self,
    Bool.false_eq_true, if_false, if_true]

end

end

/-- Settles O41: each step of the loader by its guards. -/
theorem loaderSteps : Obligations.LoaderSteps := by
  intro s bh l rest hg
  refine ⟨fun hl hv => ⟨fun hi => ?valid, fun r hi => ?rejected⟩, fun hl hv hr hs hm => ?begins, fun w hw hk hc => ?passes,
    fun hl hw hv hr => ?loads, fun y hl hd hr hs => ?retires⟩
  case valid =>
    change execImageValidation bh s = _
    simp only [execImageValidation, hl, hv, hg, hi, Bool.or_self, Bool.false_eq_true, if_false]
  case rejected =>
    change execImageValidation bh s = _
    simp only [execImageValidation, hl, hv, hg, hi, Bool.or_self, Bool.false_eq_true, if_false]
  case begins =>
    have hok : ((membersFor s (s.queue l.queue).qmapTag).all fun b => (headOf s b l.queue).any Loading.valid
        || (((s.bh b).loading.all fun y => y.queue != l.queue) && (s.bh b).load.any fun x => x.queue == l.queue && x.image == l.image)) = true := by
      rw [List.all_eq_true]
      intro b hb
      rw [hm b hb, Bool.true_or]
    change execReconfigurationSweep bh s = _
    simp only [execReconfigurationSweep, hl, hok, hv, hr, hs, Option.isNone_none, Bool.true_and]
    split <;> rfl
  case passes =>
    intro ts
    have h := sweepColumnPass_of hg hw hk hc
    refine ⟨fun ht => h.trans (if_pos ht), fun ht hd => ?_, fun ht hd => ?_⟩
    · exact (h.trans (if_neg (not_not.2 ht))).trans (if_pos hd)
    · exact (h.trans (if_neg (not_not.2 ht))).trans (if_neg (by rw [hd]; exact Bool.false_ne_true))
  case loads =>
    change execConfigurationLoad bh s = _
    simp only [execConfigurationLoad, hl, hw, hv, hr, Bool.true_and, beq_self_eq_true, if_true]
  case retires =>
    intro active
    refine ⟨fun hz ha hall => ?_, fun hz hex => ?_, fun hz hdr => ?_⟩
    · rw [loadRetire_of_running hl hd hr hs hz, if_neg]
      rw [not_or, not_not]
      exact ⟨ha, (retLeft_eq_zero_iff s bh).2 hall⟩
    · obtain ⟨p, hp, h1, h2⟩ := hex
      rw [loadRetire_of_running hl hd hr hs hz, if_pos]
      refine .inr fun h0 => ?_
      have := (retLeft_eq_zero_iff s bh).1 h0 p hp
      rw [h1, h2] at this
      simp at this
    · rw [loadRetire_of_drained hl hd hr hs hz hdr]
      have hk : retKilled s bh = ((s.bh bh).retKilled || active.any fun p => p.2.killed) := by
        rw [retKilled, List.any_filter]
      rw [hk]
      rfl

end Sys2Proof.LoaderWork

/-! PROOFS that the loader and the sweeps keep the two invariants (02 R21-R24, 14 R261, 19 R338, 21 R346). -/

namespace Sys2Proof.Kept
open Sys2Proof Sys2Proof.Machine Sys2Proof.Safety Sys2Proof.Laws Sys2Proof.ElementBeats

variable {v : Kind}

/-! ## Changes of many parts -/

/-- A change of each entry of a table that keeps what is asked of it. -/
theorem forall_tmap_iff {α : Type} {P : α → Prop} {f : Nat → α → α} (hf : ∀ k x, P (f k x) ↔ P x) (t : Tab α) :
    (∀ p ∈ tmap t f, P p.2) ↔ ∀ p ∈ t, P p.2 := by
  simp only [tmap, List.forall_mem_map, hf]

/-- A change of tiles that leaves their scratchpads. -/
theorem holds_mapTiles (s : State) (b : Nat) {f : Nat → Tile → Tile} (hf : ∀ k t, (f k t).scratch = t.scratch) :
    v.Holds (s.mapTiles b f) ↔ v.Holds s := by
  cases v with
  | memory =>
    have h := forall_tmap_iff (P := fun t : Tile => t.scratch.wf = true) (f := fun k t => if k / 64 == b then f k t else t)
      (fun k t => by
        split
        · rw [hf]
        · rfl) s.tiles
    change Canonical (s.mapTiles b f) ↔ Canonical s
    unfold Canonical State.mapTiles
    dsimp only
    rw [h]
  | setUp => rfl

/-- A change of slices that leaves their lines. -/
theorem holds_mapSlices (s : State) {f : Nat → Slice → Slice} (hf : ∀ k x, (f k x).cache = x.cache) :
    v.Holds { s with slices := tmap s.slices f } ↔ v.Holds s := by
  cases v with
  | memory =>
    have h := forall_tmap_iff (P := SliceWf) (f := f)
      (fun k x => by
        unfold SliceWf
        rw [hf]) s.slices
    change Canonical { s with slices := tmap s.slices f } ↔ Canonical s
    unfold Canonical
    dsimp only
    exact and_congr_right fun _ => and_congr_left fun _ => h
  | setUp => rfl

theorem holds_foldl_iff {α : Type} {f : State → α → State} (hf : ∀ u x, v.Holds (f u x) ↔ v.Holds u) (l : List α) :
    ∀ s : State, v.Holds (l.foldl f s) ↔ v.Holds s := by
  induction l with
  | nil => exact fun _ => Iff.rfl
  | cons x l ih => exact fun s => (ih _).trans (hf s x)

/-! ## Validation and the start of a sweep (02 R22-R24, 14 R261) -/

section
variable (s : State)

@[simp] theorem holds_dropImages (q : Nat) : v.Holds (s.dropImages q) ↔ v.Holds s := Kind.holds_congr
@[simp] theorem holds_traceSweep (b n : Nat) (k : SweepKind) (c : Nat) : v.Holds (s.traceSweep b n k c) ↔ v.Holds s := holds_trace ..

@[simp] theorem holds_endLaunches (b : Nat) (k : SweepKind) : v.Holds (s.endLaunches b k) ↔ v.Holds s := by
  unfold State.endLaunches
  dsimp only
  rw [holds_modBh]
  refine holds_foldl_iff (fun u x => ?_) _ s
  split <;> simp

end

section
variable {s : State}

theorem holds_imageValidation (h : v.Holds s) (b : Nat) : v.Answers (execImageValidation b s) := by
  unfold execImageValidation
  split
  · exact h
  · refine answers_ite h ?_
    split
    · simpa using h
    · dsimp only
      rw [answers_next, holds_finishHead, holds_dropImages]
      exact holds_foldl _ (fun u x _ hu => by simpa using hu) h

theorem holds_beginSweep (h : v.Holds s) (b : Nat) (k : SweepKind) : v.Holds (s.beginSweep b k) := by
  unfold State.beginSweep
  have h1 : v.Holds ((s.endLaunches b k).modBh b fun b => { b with sweep := some { kind := k, column := 0 } }) := by simpa using h
  dsimp only
  rw [holds_traceSweep]
  split
  · simpa using h1
  · exact holds_foldl _ (fun u n _ hu => by simpa using hu) (holds_hubSweepStart h1 b)
  · exact holds_hubSweepStart h1 b

theorem holds_reconfigurationSweep (h : v.Holds s) (b : Nat) : v.Answers (execReconfigurationSweep b s) := by
  unfold execReconfigurationSweep
  split
  · exact h
  · exact answers_ite (holds_beginSweep h ..) h

end

/-! ## What a sweep passes (14 R261, 19 R338) -/

section
variable (s : State)

@[simp] theorem holds_passElem (k : SweepKind) (n : Nat) : v.Holds (s.passElem k n) ↔ v.Holds s := by
  unfold State.passElem
  dsimp only
  split <;> simp

@[simp] theorem holds_passTile (k : Nat) : v.Holds (s.passTile k) ↔ v.Holds s := by simp [State.passTile]
@[simp] theorem holds_withdrawSwait (k : Nat) : v.Holds (s.withdrawSwait k) ↔ v.Holds s := holds_mapSlices s fun _ _ => rfl

@[simp] theorem holds_passColumn (k : SweepKind) (b c : Nat) : v.Holds (s.passColumn k b c) ↔ v.Holds s := by
  unfold State.passColumn
  extract_lets s1 s2 s3 s4 s5
  have h1 : v.Holds s1 ↔ v.Holds s := holds_foldl_iff (fun u x => holds_passElem u k x) _ s
  have h2 : v.Holds s2 ↔ v.Holds s := (holds_foldl_iff (fun u x => holds_passTile u x) _ s1).trans h1
  have h3 : v.Holds s3 ↔ v.Holds s := by
    simp only [s3]
    split
    · exact (holds_foldl_iff (fun u x => holds_withdrawSwait u x) _ s2).trans h2
    · exact h2
  have h4 : v.Holds s4 ↔ v.Holds s := by
    simp only [s4]
    split
    · refine (holds_foldl_iff (fun u x => ?_) _ _).trans ((holds_modHub ..).trans h3)
      simp
    · exact h3
  have h5 : v.Holds s5 ↔ v.Holds s := (holds_modBh ..).trans h4
  split
  · exact (holds_traceSweep ..).trans h5
  · exact (holds_traceSweep ..).trans h5

end

section
variable {s : State}

theorem holds_sweepColumnPass (h : v.Holds s) (b : Nat) : v.Answers (execSweepColumnPass b s) := by
  unfold execSweepColumnPass
  split
  · exact h
  · refine answers_ite h (answers_ite ?_ (answers_ite (by simpa using h) h))
    exact holds_foldl _ (fun u x _ hu => by simpa using hu) h

theorem holds_semwWithdraw (h : v.Holds s) (k i : Nat) : v.Answers (execSemwWithdraw k i s) := by
  unfold execSemwWithdraw
  split
  · exact h
  · split
    · refine answers_ite h (answers_ite (by simpa using h) ?_)
      simpa using h
    · exact h

end

/-! ## The load (02 R21, 03 R41) -/

@[simp] theorem scratch_kept (t : Tile) : t.kept.scratch = t.scratch := rfl

@[simp] theorem scratch_imageTile (im : Image) (b n : Nat) (t : Tile) : (im.tile b n t).scratch = t.scratch := by
  unfold Image.tile
  dsimp only
  repeat' split
  all_goals rfl

section
variable (s : State)

@[simp] theorem holds_clearLoad (b : Nat) : v.Holds (s.clearLoad b) ↔ v.Holds s := by
  unfold State.clearLoad
  dsimp only
  rw [holds_modBh]
  refine (holds_foldl_iff (fun u x => ?_) _ _).trans ((holds_foldl_iff (fun u x => ?_) _ _).trans ((holds_mapTiles _ _ (f := fun _ t => t.kept) fun _ _ => rfl).trans ?_))
  all_goals simp

@[simp] theorem holds_zeroCounters (b : Nat) : v.Holds (s.zeroCounters b) ↔ v.Holds s := Kind.holds_congr

@[simp] theorem holds_install (b q : Nat) (l : Loading) (im : Image) : v.Holds (s.install b q l im) ↔ v.Holds s := by
  unfold State.install
  dsimp only
  rw [holds_zeroCounters, holds_modHub]
  refine (holds_foldl_iff (fun u x => ?_) _ _).trans ((holds_foldl_iff (fun u x => ?_) _ _).trans ((holds_foldl_iff (fun u x => ?_) _ _).trans ?_))
  all_goals simp

end

section
variable {s : State}

theorem holds_configurationLoad (h : v.Holds s) (b : Nat) : v.Answers (execConfigurationLoad b s) := by
  unfold execConfigurationLoad
  split
  · exact answers_ite (by simpa using h) h
  · exact h

theorem holds_loadCompletes (h : v.Holds s) (l : Load) : v.Holds (s.loadCompletes l) := by
  unfold State.loadCompletes
  dsimp only
  split
  · exact h
  · exact holds_ite (holds_nodeDone h ..) h

theorem holds_loadRetire (h : v.Holds s) (b : Nat) : v.Answers (execLoadRetire b s) := by
  unfold execLoadRetire
  split
  · exact h
  · refine answers_ite h (answers_ite (answers_ite h (by simpa using h)) (answers_ite ?_ h))
    exact holds_loadCompletes (by simpa using h) _

end

end Sys2Proof.Kept

/-! PROOFS of the statement on fault walks and kills (19 R322-R337, 21 R350, R353). -/

namespace Sys2Proof.FaultWork
open Sys2Proof Sys2Proof.Machine Sys2Proof.Safety Sys2Proof.Laws

/-- What every step of a fold leaves is left by the fold. -/
theorem foldl_keeps {α β : Type} (g : State → β) {f : State → α → State} (hf : ∀ u x, g (f u x) = g u) (l : List α) :
    ∀ s : State, g (l.foldl f s) = g s := by
  induction l with
  | nil => exact fun _ => rfl
  | cons x l ih => exact fun s => (ih _).trans (hf s x)

/-! ## The log and the loss of a load -/

section
variable (s : State) (bh : Nat) (r : FaultRec) (l : Level) (a n : Nat)

/-- A trace event leaves the records that wait. -/
theorem trace_faults (kind sub unit : Nat) (x y : Word) : ((s.trace bh kind sub unit x y).bh bh).faults = (s.bh bh).faults := by
  rw [State.trace, modBh_bh]
  split <;> rfl

theorem logFault_faults : ((s.logFault bh r l a n).bh bh).faults = (s.bh bh).faults := by
  unfold State.logFault
  extract_lets b x s1 s2
  have h : (s2.bh bh).faults = (s.bh bh).faults := (trace_faults s1 bh ..).trans (by rw [setBh_bh])
  split
  · split <;> exact h
  · exact h

theorem logFault_elems : (s.logFault bh r l a n).elems = s.elems := by
  unfold State.logFault
  dsimp only
  split
  · split <;> rfl
  · rfl

theorem logFault_queues : (s.logFault bh r l a n).queues = s.queues := by
  unfold State.logFault
  dsimp only
  split
  · split <;> rfl
  · rfl

theorem logFault_queue (q : Nat) : (s.logFault bh r l a n).queue q = s.queue q := by rw [State.queue, logFault_queues, State.queue]

theorem clearLoad_elemsOf : (s.clearLoad bh).elemsOf bh = [] := by
  have h : (s.clearLoad bh).elems = s.elems.filter fun p => bhOf p.1 != bh := by
    unfold State.clearLoad
    dsimp only
    rw [show ∀ (u : State) f, (u.modBh bh f).elems = u.elems from fun _ _ => rfl, foldl_keeps State.elems, foldl_keeps State.elems]
    · rfl
    · exact fun _ _ => rfl
    · exact fun _ _ => rfl
  rw [State.elemsOf, h, List.filter_filter, List.filter_eq_nil_iff]
  intro p _
  simp

theorem clearLoad_bh : ((s.clearLoad bh).bh bh).load = none ∧ ((s.clearLoad bh).bh bh).sweep = none := by
  simp only [State.clearLoad, modBh_bh, and_self]

end

/-! ## The walk at an element (19 R324) -/

section
variable {s : State} {bh a : Nat} {r : FaultRec} {rest : List FaultRec} {e : Elem}

/-- A record that begins at its element is walked there. -/
theorem faultRecord_walks (hb : bh < 16) (hf : (s.bh bh).faults = r :: rest) (hl : r.logOnly = false) (hg : r.gone = false)
    (hu : r.unit = .elem a) (hs : r.start = .element) (he : s.elem? (elemKey bh a) = some e) (hk : e.killed = false)
    (hw : walkWaits s bh r.unit = false) :
    exec (.faultRecord bh) s = .next ((s.modBh bh fun b => { b with faults := rest }).walkElem bh r (elemKey bh a) e) := by
  have he' : (s.modBh bh fun b => { b with faults := rest }).elem? (elemKey bh a) = some e := he
  change execFaultRecord bh s = _
  simp only [execFaultRecord, hf, hw, hb, Bool.false_eq_true, if_false, if_true]
  simp only [State.walkFault, hl, hu, he', hg, hk, hs, Bool.or_self, Bool.false_eq_true, if_false]

/-- An element goes on, unless another fault of its own waits. -/
theorem resumeUnit_elem (u : FaultUnit) (hu : u = .elem a) (l : List FaultRec) (hf : (s.bh bh).faults = l) :
    s.resumeUnit bh u = s.modElem (elemKey bh a) fun e => { e with stopped := l.any fun x => x.unit == .elem a && !x.gone && !x.logOnly } := by
  rw [hu, State.resumeUnit]
  simp only [faultWaits, hf]

end

/-! ## Kill sweeps and queue-level kills (19 R325, R336, R337) -/

section
variable {s : State} {bh : Nat}

/-- A kill sweep in a column: it reaches it, waits for what it had sent, and passes it. -/
theorem killSweep_of {c : Nat} (hw : (s.bh bh).sweep = some { kind := .kill, column := c }) (hg : gated s bh = false) :
    exec (.killSweep bh) s =
      if ¬ ((∀ p ∈ s.columnElems bh c, p.2.swept = true) ∧ ∀ k ∈ tilesOf bh c, (s.tile k).drained = true) then .next (s.killColumn bh c)
      else if columnKilled s bh c = false then .next s
      else if c < 12 then .next ((s.modBh bh fun b => { b with sweep := some { kind := .kill, column := c + 1 } }).traceSweep bh 1 .kill c)
      else .next (s.endKillSweep bh) := by
  have hreach : ((s.columnElems bh c).any (fun p => !p.2.swept) || (tilesOf bh c).any (fun k => !(s.tile k).drained)) = true ↔
      ¬ ((∀ p ∈ s.columnElems bh c, p.2.swept = true) ∧ ∀ k ∈ tilesOf bh c, (s.tile k).drained = true) := by
    rw [Bool.or_eq_true, List.any_eq_true, List.any_eq_true, not_and_or]
    simp only [Bool.not_eq_true', not_forall, Bool.not_eq_true, exists_prop]
  change execKillSweep bh s = _
  simp only [execKillSweep, hw, hg, bne_self_eq_false, Bool.or_self, Bool.false_eq_true, if_false, hreach, Bool.not_eq_true']

/-- A bulkhead whose load is gone, after a change that leaves its load and its sweep. -/
theorem clearLoad_modBh (u : State) (bh : Nat) {f : Bulkhead → Bulkhead} (hl : ∀ b, (f b).load = b.load) (hs : ∀ b, (f b).sweep = b.sweep) :
    (((u.clearLoad bh).modBh bh f).bh bh).load = none ∧ (((u.clearLoad bh).modBh bh f).bh bh).sweep = none
      ∧ ((u.clearLoad bh).modBh bh f).elemsOf bh = [] := by
  refine ⟨?_, ?_, clearLoad_elemsOf u bh⟩
  · rw [modBh_bh, hl]
    exact (clearLoad_bh u bh).1
  · rw [modBh_bh, hs]
    exact (clearLoad_bh u bh).2

/-- The end of a kill sweep: the load is gone, and what waits for it is settled. -/
theorem endKillSweep_of {q : Nat} (hq : (s.bh bh).load.map Load.queue = some q) :
    ∃ t : State, s.endKillSweep bh = t.settle q ∧ (t.bh bh).load = none ∧ (t.bh bh).sweep = none ∧ t.elemsOf bh = [] := by
  unfold State.endKillSweep
  rw [hq]
  refine ⟨_, rfl, clearLoad_modBh _ bh (fun b => ?_) fun b => ?_⟩
  all_goals split <;> rfl

end

/-- Settles O42: the walk by the element's policy, a kill sweep by its column, a queue-level kill by its loads. -/
theorem faultSteps : Obligations.FaultSteps := by
  intro s bh r rest a e s' key
  refine ⟨fun hb hf hl hg hu hs he hk hw => ?walks, fun hw hf => ?waits, fun c hw hg => ?sweeps, fun q code hb hn hr => ?ends,
    fun q hb hr code => ?resident, fun fn n q hq => ?kills, fun fn n hn => ?none, fun q c l code ha hw hd hm => ?parent⟩
  case walks =>
    have hwalk := faultRecord_walks hb hf hl hg hu hs he hk hw
    refine ⟨fun hp => ?_, fun hp hn => ?_, fun hp => ?_⟩
    · rw [hwalk, State.walkElem, hp]
      have hrest : ((s'.logFault bh r .element actIgnore e.retries).bh bh).faults = rest := by rw [logFault_faults, modBh_bh]
      exact congrArg _ (resumeUnit_elem r.unit hu rest hrest)
    · have hmod : (s'.modElem key fun e => { e with retries := e.retries + 1 }) = s'.setElem key { e with retries := e.retries + 1 } :=
        RequestSteps.modElem_of_some he
      rw [hwalk, State.walkElem, hp]
      simp only [hn, if_true]
      rw [← hmod]
      rfl
    · rw [hwalk, State.walkElem, hp]
      rfl
  case waits =>
    change execFaultRecord bh s = _
    simp only [execFaultRecord, hf, hw, if_true]
  case sweeps =>
    intro reached
    have h := killSweep_of hw hg
    refine ⟨fun hr => h.trans (if_pos hr), fun hr hk => ?_, fun hr hk hc => ?_, fun q hr hk hc hq => ?_⟩
    · rw [h, if_neg (not_not.2 hr), if_pos hk]
    · rw [h, if_neg (not_not.2 hr), if_neg (ne_false_of_eq_true hk), if_pos hc]
    · obtain ⟨t, ht, hl, hs, hel⟩ := endKillSweep_of hq
      refine ⟨t, ?_, hl, hs, hel⟩
      rw [h, if_neg (not_not.2 hr), if_neg (ne_false_of_eq_true hk), if_neg (Nat.not_lt.mpr hc), ht]
  case ends =>
    have hgo : (!(s.queue q).killBusy || (s.queue q).killNext != code || !(residents s q).isEmpty) = false := by simp [hb, hn, hr]
    change ∃ t, execQueueLevelKill q code s = .next t ∧ _
    unfold execQueueLevelKill
    extract_lets h
    rw [if_neg (ne_true_of_eq_false hgo)]
    refine ⟨_, rfl, ?_⟩
    simp only [logFault_queue]
    exact ⟨congrArg HwQueue.killBusy (modQueue_queue ..), congrArg HwQueue.killCode (modQueue_queue ..),
      congrArg HwQueue.graph (modQueue_queue ..)⟩
  case resident =>
    have hgo : (!(s.queue q).killBusy || (s.queue q).killNext != code || !(residents s q).isEmpty) = true := by simp [hr]
    change execQueueLevelKill q code s = _
    simp only [execQueueLevelKill, hgo, if_true]
  case kills =>
    change execQkill fn n s = _
    simp only [execQkill, hq]
  case none =>
    have hq : queueBlock s fn n = none := if_neg (Nat.not_lt.mpr hn)
    change execQkill fn n s = _
    simp only [execQkill, hq]
  case parent =>
    have hw : (c.cmd.wait == 0xFFFF || c.dispatched) = false := by rw [hd, beq_eq_false_iff_ne.2 hw]; rfl
    change execParentKill q s = _
    simp only [execParentKill, ha, hw, hm, Bool.false_eq_true, if_false]

end Sys2Proof.FaultWork

/-! PROOFS that fault walks and kills keep the two invariants (19 R322-R337, 21 R349-R353). -/

namespace Sys2Proof.Kept
open Sys2Proof Sys2Proof.Machine Sys2Proof.Safety Sys2Proof.Laws Sys2Proof.ElementBeats

variable {v : Kind}

section
variable (s : State)

/-! ## The log, elements and tiles (19 R324, R325, R328) -/

@[simp] theorem holds_logFault (b : Nat) (r : FaultRec) (l : Level) (a n : Nat) : v.Holds (s.logFault b r l a n) ↔ v.Holds s := by
  unfold State.logFault
  dsimp only
  split
  · split <;> simp
  · simp

@[simp] theorem holds_dropRequests (k : Nat) : v.Holds (s.dropRequests k) ↔ v.Holds s := by simp [State.dropRequests]
@[simp] theorem holds_supersede (b : Nat) (f : FaultUnit → Bool) : v.Holds (s.supersede b f) ↔ v.Holds s := holds_modBh ..
@[simp] theorem holds_rerunElem (k : Nat) : v.Holds (s.rerunElem k) ↔ v.Holds s := by simp [State.rerunElem]
@[simp] theorem holds_killElem (k : Nat) : v.Holds (s.killElem k) ↔ v.Holds s := by simp [State.killElem]

@[simp] theorem holds_resumeUnit (b : Nat) (u : FaultUnit) : v.Holds (s.resumeUnit b u) ↔ v.Holds s := by
  unfold State.resumeUnit
  split <;> simp

@[simp] theorem holds_emptyQueue (k : Nat) : v.Holds (s.emptyQueue k) ↔ v.Holds s := by
  unfold State.emptyQueue
  rw [holds_withdrawSwait]
  exact (holds_foldl_iff (fun u x => holds_dropOwner u _) _ _).trans (holds_dropOwner ..)

@[simp] theorem holds_rerunTile (b : Nat) (u : FaultUnit) (t : TileRef) : v.Holds (s.rerunTile b u t) ↔ v.Holds s := by
  unfold State.rerunTile
  extract_lets me s1
  have h1 : v.Holds s1 ↔ v.Holds s := holds_foldl_iff (fun u x => by split <;> simp) _ s
  split
  · next k =>
    extract_lets s2
    have h2 : v.Holds s2 ↔ v.Holds s1 := by
      simp only [s2]
      split <;> simp
    rw [holds_supersede, holds_modTile _ _ _ rfl, h2, h1]
  · rw [holds_modBh, h1]
  · exact h1

@[simp] theorem holds_killTile (b : Nat) (t : TileRef) : v.Holds (s.killTile b t) ↔ v.Holds s := by
  unfold State.killTile
  extract_lets s1
  have h1 : v.Holds s1 ↔ v.Holds s := holds_foldl_iff (fun u x => holds_killElem ..) _ s
  split
  · next k =>
    extract_lets s2
    have h2 : v.Holds s2 ↔ v.Holds s1 := by
      simp only [s2]
      split <;> simp
    rw [holds_supersede, holds_modTile _ _ _ rfl, h2, h1]
  · rw [holds_modBh, h1]
  · exact h1

@[simp] theorem holds_killedNodeArrives (q : Nat) (m : Option Nat) : v.Holds (s.killedNodeArrives q m) ↔ v.Holds s := by
  unfold State.killedNodeArrives
  dsimp only
  split
  · rfl
  · split
    · rfl
    · split <;> simp

end

section
variable {s : State}

/-! ## Loads, graphs and queues (19 R336, R337) -/

theorem holds_sweepLoads (h : v.Holds s) (q : Nat) : v.Holds (s.sweepLoads q) :=
  holds_foldl _ (fun u b _ hu => holds_ite hu (holds_beginSweep hu ..)) h

theorem holds_settle (h : v.Holds s) (q : Nat) : v.Holds (s.settle q) := by
  unfold State.settle
  split
  · exact h
  · refine holds_ite h ?_
    split
    · exact h
    · dsimp only
      split
      · simpa using h
      · exact holds_nodeFails (by simpa using h) ..
      · simpa using h
      · simpa using h

theorem holds_endLoad (h : v.Holds s) (q : Nat) (e : KillEnd) : v.Holds (s.endLoad q e) :=
  holds_settle (holds_sweepLoads (by simpa using h) _) _

theorem holds_startKill (h : v.Holds s) (q c : Nat) (p : Bool) (r : Option (Nat × FaultRec)) : v.Holds (s.startKill q c p r) := by
  unfold State.startKill
  exact holds_ite h (holds_sweepLoads (by simpa using h) _)

/-- Contexts that leave take nothing that the invariants ask of the others. -/
theorem holds_dropContexts (h : v.Holds s) (p : Context → Bool) : v.Holds { s with contexts := s.contexts.filter p } := by
  refine h.of_canonical fun hc => ?_
  obtain ⟨hm, hs, ht, hx⟩ := hc
  exact ⟨hm, hs, ht, fun c hc => hx c (List.mem_of_mem_filter hc)⟩

theorem holds_queueLevelKill (h : v.Holds s) (q c : Nat) : v.Answers (execQueueLevelKill q c s) := by
  unfold execQueueLevelKill
  refine answers_ite h ?_
  extract_lets mark held s1 s2 s3 s4 s5 r
  have h1 : v.Holds s1 := holds_foldl _ (fun u x _ hu => holds_ite (by simpa using hu) hu) h
  have h3 : v.Holds s3 := (holds_killedNodeArrives ..).2 (holds_dropContexts h1 _)
  have h4 : v.Holds s4 := holds_foldl _ (fun u a _ hu => holds_completeCommand hu ..) h3
  have h5 : v.Holds s5 := (holds_modQueue ..).2 h4
  exact (holds_logFault ..).2 h5

theorem holds_qkill (h : v.Holds s) (f n : Nat) : v.Answers (execQkill f n s) := by
  unfold execQkill
  split
  · exact h
  · exact holds_startKill h ..

theorem holds_parentKill (h : v.Holds s) (q : Nat) : v.Answers (execParentKill q s) := by
  unfold execParentKill
  dsimp only
  split
  · exact h
  · refine answers_ite h ?_
    split
    · exact h
    · exact holds_startKill h ..

/-! ## The walk (19 R324) -/

theorem holds_walkGraph (h : v.Holds s) (b : Nat) (r : FaultRec) (q : Nat) (w : Bool) : v.Holds (s.walkGraph b r q w) := by
  unfold State.walkGraph
  split
  · simpa using h
  · refine holds_ite (holds_endLoad (by simpa using h) ..) ?_
    split
    · exact holds_ite (holds_endLoad (by simpa using h) ..) (by simpa using h)
    · exact holds_endLoad (by simpa using h) ..
    · exact holds_startKill (by simpa using h) ..

theorem holds_walkLoad (h : v.Holds s) (b : Nat) (r : FaultRec) : v.Holds (s.walkLoad b r) := by
  unfold State.walkLoad
  split
  · simpa using h
  · dsimp only
    split
    · simpa using h
    · exact holds_ite (holds_endLoad (by simpa using h) ..) (holds_walkGraph h ..)
    · exact holds_endLoad (by simpa using h) ..
    · exact holds_walkGraph (holds_sweepLoads h _) ..

theorem holds_walkTile (h : v.Holds s) (b : Nat) (r : FaultRec) : v.Holds (s.walkTile b r) := by
  unfold State.walkTile
  dsimp only
  split
  · exact holds_walkLoad h ..
  · split
    · simpa using h
    · exact holds_ite (by simpa using h) (holds_walkLoad h ..)
    · simpa using h
    · exact holds_walkLoad (by simpa using h) ..

theorem holds_walkElem (h : v.Holds s) (b : Nat) (r : FaultRec) (k : Nat) (e : Elem) : v.Holds (s.walkElem b r k e) := by
  unfold State.walkElem
  split
  · simpa using h
  · exact holds_ite (by simpa using h) (holds_walkTile h ..)
  · simpa using h
  · exact holds_walkTile (by simpa using h) ..

theorem holds_walkFault (h : v.Holds s) (b : Nat) (r : FaultRec) : v.Holds (s.walkFault b r) := by
  unfold State.walkFault
  refine holds_ite (by simpa using h) ?_
  split
  · exact holds_ite (by simpa using h) (holds_walkGraph h ..)
  · split
    · simpa using h
    · refine holds_ite (by simpa using h) ?_
      split
      · exact holds_walkElem h ..
      · exact holds_walkTile h ..
      · exact holds_walkLoad h ..
  · refine holds_ite (by simpa using h) ?_
    split
    · exact holds_walkTile h ..
    · exact holds_walkLoad h ..

theorem holds_faultRecord (h : v.Holds s) (b : Nat) : v.Answers (execFaultRecord b s) := by
  unfold execFaultRecord
  split
  · exact h
  · refine answers_ite h (answers_ite (holds_walkFault (by simpa using h) ..) ?_)
    simpa using h

end

/-! ## Kill sweeps (19 R325) -/

section
variable (s : State)

@[simp] theorem holds_withdrawAll (b : Nat) : v.Holds (s.withdrawAll b) ↔ v.Holds s := holds_mapSlices s fun _ _ => rfl

@[simp] theorem holds_killColumn (b c : Nat) : v.Holds (s.killColumn b c) ↔ v.Holds s := by
  unfold State.killColumn
  dsimp only
  refine (holds_foldl_iff (fun u x => ?_) _ _).trans ((holds_foldl_iff (fun u x => ?_) _ _).trans (holds_foldl_iff (fun u x => ?_) _ _))
  · rw [holds_modTile _ _ _ rfl]
    split <;> simp
  · simp
  · simp

end

section
variable {s : State}

theorem holds_endKillSweep (h : v.Holds s) (b : Nat) : v.Holds (s.endKillSweep b) := holds_settle (by simpa using h) _

theorem holds_killSweep (h : v.Holds s) (b : Nat) : v.Answers (execKillSweep b s) := by
  unfold execKillSweep
  split
  · exact h
  · exact answers_ite h (answers_ite (by simpa using h) (answers_ite h (answers_ite (by simpa using h) (holds_endKillSweep h b))))

end

end Sys2Proof.Kept

/-! PROOFS of the statement on pools (04 R50-R54, 19 R338-R343). -/

namespace Sys2Proof.PoolWork
open Sys2Proof Sys2Proof.Machine Sys2Proof.Safety Sys2Proof.Laws
open Sys2Proof.SequencerCommands (bit_eq_getLsbD)

section tick
variable {s : State} {p : Nat}

/-- The pool whose tick has come: the time of the next one is set and the tick is counted. -/
def ticked (s : State) (p : Nat) : State :=
  s.setPool p { s.pool p with nextTick := (s.pool p).nextTick + min 100000 (max 100 (s.pool p).tick) * 2700, ticks := (s.pool p).ticks + 1 }

theorem ticked_pool : (ticked s p).pool p =
    { s.pool p with nextTick := (s.pool p).nextTick + min 100000 (max 100 (s.pool p).tick) * 2700, ticks := (s.pool p).ticks + 1 } :=
  setPool_pool ..

theorem ticked_rotation : ((ticked s p).pool p).rotation = (s.pool p).rotation := by rw [ticked_pool]; rfl

/-- A pool that is disabled, or whose tick is not due, does nothing. -/
theorem tick_idle (h : (s.pool p).en = false ∨ s.cycle < (s.pool p).nextTick) : exec (.gangSwitchTick p) s = .next s := by
  change execGangSwitchTick p s = _
  unfold execGangSwitchTick
  rw [if_pos (by rcases h with h | h <;> simp [h])]

/-- A due tick of an enabled pool: within a change, without a current entry, or of the current slice. -/
theorem tick_due (he : (s.pool p).en = true) (hd : (s.pool p).nextTick ≤ s.cycle) :
    exec (.gangSwitchTick p) s = .next (
      if (s.pool p).switching.isSome then (ticked s p).joinReady p
      else match (s.pool p).current with
        | none => match nextEntry (ticked s p) p (s.pool p).rot 0 16 with
          | none => ticked s p
          | some j => (ticked s p).beginSwitch p j true
        | some c =>
          if 1 < (s.pool p).left then ((ticked s p).modPool p fun x => { x with left := x.left - 1 }).joinReady p
          else (ticked s p).endSlice p c) := by
  change execGangSwitchTick p s = _
  unfold execGangSwitchTick
  rw [if_neg (by simp [he, hd])]
  change (if (s.pool p).switching.isSome = true then Host.Outcome.next ((ticked s p).joinReady p)
    else match (s.pool p).current with
      | none => match nextEntry (ticked s p) p (s.pool p).rot 0 16 with
        | none => .next (ticked s p)
        | some j => .next ((ticked s p).beginSwitch p j true)
      | some c =>
        if 1 < (s.pool p).left then .next (((ticked s p).modPool p fun x => { x with left := x.left - 1 }).joinReady p)
        else .next ((ticked s p).endSlice p c)) = _
  by_cases hs : (s.pool p).switching.isSome = true
  · rw [if_pos hs, if_pos hs]
  · rw [if_neg hs, if_neg hs]
    cases (s.pool p).current with
    | none => cases nextEntry (ticked s p) p (s.pool p).rot 0 16 <;> rfl
    | some c => exact (apply_ite Host.Outcome.next ..).symm

/-- The end of a slice with an entry of another function. -/
theorem endSlice_changes {c j : Nat} (hn : nextEntry (ticked s p) p (s.pool p).rot (c + 1) 15 = some j)
    (hf : (rotEntry (s.pool p).rot j).2.1 ≠ (s.pool p).fn) : (ticked s p).endSlice p c = (ticked s p).beginSwitch p j false := by
  unfold State.endSlice
  simp [ticked_pool, hn, Option.filter, hf]

/-- The end of a slice with no other entry: a fresh slice. -/
theorem endSlice_stays {c : Nat} (hn : nextEntry (ticked s p) p (s.pool p).rot (c + 1) 15 = none)
    (hr : nextEntry (ticked s p) p (s.pool p).rotation (c + 1) 15 = none) :
    (ticked s p).endSlice p c = ((ticked s p).modPool p fun y =>
      { y with current := some c, left := (rotEntry (s.pool p).rotation c).2.2 }).joinReady p := by
  have hn' : nextEntry (ticked s p) p ((ticked s p).pool p).rot (c + 1) 15 = none := by rw [ticked_pool]; exact hn
  unfold State.endSlice
  simp only [hn', State.modPool, ticked_rotation, hr, Option.filter_none, Option.getD_none]

section due
variable (he : (s.pool p).en = true) (hd : (s.pool p).nextTick ≤ s.cycle)
include he hd

theorem tick_within_change (hs : (s.pool p).switching ≠ none) : exec (.gangSwitchTick p) s = .next ((ticked s p).joinReady p) := by
  rw [tick_due he hd, if_pos (Option.isSome_iff_ne_none.2 hs)]

theorem tick_first {j : Nat} (hs : (s.pool p).switching = none) (hc : (s.pool p).current = none)
    (hn : nextEntry (ticked s p) p (s.pool p).rot 0 16 = some j) :
    exec (.gangSwitchTick p) s = .next ((ticked s p).beginSwitch p j true) := by
  rw [tick_due he hd]
  simp only [hs, hc, hn, Option.isSome_none, Bool.false_eq_true, if_false]

variable {c : Nat} (hs : (s.pool p).switching = none) (hc : (s.pool p).current = some c)
include hs hc

theorem tick_within_slice (hl : 1 < (s.pool p).left) :
    exec (.gangSwitchTick p) s = .next (((ticked s p).modPool p fun x => { x with left := x.left - 1 }).joinReady p) := by
  rw [tick_due he hd]
  simp only [hs, hc, Option.isSome_none, Bool.false_eq_true, if_false, if_pos hl]

theorem tick_end_of_slice (hl : (s.pool p).left ≤ 1) : exec (.gangSwitchTick p) s = .next ((ticked s p).endSlice p c) := by
  rw [tick_due he hd]
  simp only [hs, hc, Option.isSome_none, Bool.false_eq_true, if_false, if_neg (Nat.not_lt.2 hl)]

end due

/-- A write of POOLCFG that does not enable the pool. -/
theorem poolEnable_stored {value : Word} (hp : p < 8) (h : (s.pool p).en = true ∨ value.getLsbD 31 = false) :
    exec (.poolEnable p value) s = .next (s.setPool p
      { s.pool p with en := value.getLsbD 31, ovn := bits value.toNat 27 4, tick := bits value.toNat 0 17 }) := by
  have hr : (value.getLsbD 31 && !(s.pool p).en) = false := by rcases h with h | h <;> rw [h] <;> simp
  change execPoolEnable p value s = _
  simp only [execPoolEnable, if_neg (Nat.not_le.2 hp), bit_eq_getLsbD, hr, Bool.false_and, Bool.false_eq_true, if_false]

end tick

section save
variable {s : State} {bh : Nat}

/-- What a failed part of a save leaves for quarantine. -/
def saveFailed (t : State) (bh code : Nat) : State :=
  t.modBh bh fun b => { b with saveFault := if code = 0x40 ∨ code = 0x42 then 1 else 2 }

theorem saveCause_eq (code : Nat) : saveCause code = if code = 0x40 ∨ code = 0x42 then 1 else 2 := by
  simp [saveCause]

/-- A part of an image: SAVEAREA invalid, written, or a fault on the way. -/
theorem savePart_eq (t : State) (fn off size : Nat) (done : Context → State → State) :
    t.savePart bh fn off size done =
      (let w := t.writeBytes bh fn (t.fn fn).savePasid (saveAddress t fn bh + off) (((t.context bh).sliceEnd.image.drop off).take size)
      if (t.fn fn).saveV then (if w.2 = 0 then done (t.context bh).sliceEnd w.1 else saveFailed w.1 bh w.2)
      else t.modBh bh fun b => { b with saveFault := 3 }) := by
  unfold State.savePart saveFailed
  cases hv : (t.fn fn).saveV with
  | false => rfl
  | true =>
    simp only [Bool.not_true, Bool.false_eq_true, if_false, if_true]
    split
    next u e => simp only [e, if_true]
    next u c hc e => simp only [e, if_neg hc, saveCause_eq]

theorem saveUnit_of_no_tile {n : Nat} (h : unitTile n = none) : s.saveUnit bh n =
    s.savePart bh ((holder s bh).getD 0) (unitPlace n).1 (unitPlace n).2 fun _ t => t.modBh bh fun b => { b with units := b.units ++ [n] } := by
  unfold State.saveUnit
  rw [h]

theorem saveUnit_of_tile {n t : Nat} (h : unitTile n = some t) : s.saveUnit bh n =
    if ∀ j < 48, bankFree s (64 * bh + t) (64 * j) = true then
      ((s.takeBanks (64 * bh + t)).meetTile (64 * bh + t)).savePart bh ((holder s bh).getD 0) (unitPlace n).1 (unitPlace n).2
        fun _ t => t.modBh bh fun b => { b with units := b.units ++ [n] }
    else s := by
  unfold State.saveUnit
  rw [h]
  simp only [List.all_eq_true, List.mem_range]

theorem contextSave_unit {n : Nat} (h0 : (s.bh bh).saveFault = 0) (hn : nextUnit s bh = some n) :
    exec (.contextSave bh) s = .next (s.saveUnit bh n) := by
  change execContextSave bh s = _
  unfold execContextSave
  rw [if_neg (by simp [h0]), hn]

theorem contextSave_end (h0 : (s.bh bh).saveFault = 0) (hn : nextUnit s bh = none) :
    exec (.contextSave bh) s = .next (if saving s bh = true then
      (s.meetSave bh).savePart bh ((holder s bh).getD 0) 0 0x1000000 fun c s' =>
        (s'.markGranules bh ((holder s bh).getD 0) (s'.fn ((holder s bh).getD 0)).savePasid
          (saveAddress s' ((holder s bh).getD 0) bh) c.marks).finishSave bh false
      else s) := by
  change execContextSave bh s = _
  unfold execContextSave
  rw [if_neg (by simp [h0]), hn]
  cases hs : saving s bh <;> simp

end save

section deadline
variable {s : State} {p : Nat} {w : Switch}

theorem saveDeadline_early (hw : (s.pool p).switching = some w) (h : s.cycle < w.since + 2 * max 1 (s.pool p).dl * 2700) :
    exec (.saveDeadline p) s = .next s := by
  change execSaveDeadline p s = _
  simp only [execSaveDeadline, hw]
  exact if_pos h

/-- The members whose die has not saved. -/
def lateMembers (s : State) (p : Nat) : List Nat :=
  (participants s p).filter fun b => (participants s p).any fun c => c / 4 == b / 4 && !(s.bh c).saved

/-- The queues of the late members. -/
def lateQueues (s : State) (p : Nat) : List Nat :=
  (lateMembers s p).flatMap fun b =>
    (if (s.bh b).saved then [] else ((s.bh b).load.map Load.queue).toList)
      ++ (s.contexts.filter fun c : Context => c.bulkhead == b && c.fn == (s.pool p).fn).filterMap fun c => c.body.load.map Load.queue

/-- A late member: marked, and swept by a kill. -/
def sweepLate (s : State) (b : Nat) : State :=
  let s := s.modBh b fun x => { x with late := true }
  if (s.bh b).saved || s.sweepKind b == some .kill then s else s.beginSweep b .kill

theorem saveDeadline_due (hw : (s.pool p).switching = some w) (h : w.since + 2 * max 1 (s.pool p).dl * 2700 ≤ s.cycle) :
    exec (.saveDeadline p) s =
      .next ((lateMembers s p).foldl sweepLate ((lateQueues s p).eraseDups.foldl (fun s q => s.startKill q 0x54) s)) := by
  change execSaveDeadline p s = _
  simp only [execSaveDeadline, hw]
  exact if_neg (Nat.not_lt.2 h)

theorem lateMembers_of_saved (h : ∀ c ∈ participants s p, (s.bh c).saved = true) : lateMembers s p = [] := by
  rw [lateMembers, List.filter_eq_nil_iff]
  intro b _
  rw [Bool.not_eq_true, List.any_eq_false]
  intro c hc
  simp [h c hc]

/-- A single member that has not saved: its queue is late. -/
theorem late_single {c : Nat} {l : Load} (hp : participants s p = [c]) (hs : (s.bh c).saved = false) (hl : (s.bh c).load = some l)
    (hc : s.contexts = []) : lateMembers s p = [c] ∧ lateQueues s p = [l.queue] := by
  have hm : lateMembers s p = [c] := by simp [lateMembers, hp, hs]
  exact ⟨hm, by simp [lateQueues, hm, hs, hl, hc]⟩

end deadline

section restore
variable {s : State} {bh : Nat} {w : Switch}

/-- The context that a member is restored from, if it is not late. -/
theorem contextRestore_of (hw : switchOf s bh = some w) (hs : (s.bh bh).saved = true) (hr : (s.bh bh).restored = false)
    (hg : gated s bh = false) :
    exec (.contextRestore bh) s = .next (
      let done (s : State) : State := s.modBh bh fun b => { b with restored := true, parked := true }
      match (s.blank bh).contexts.find? fun c : Context => c.fn == w.fn && c.bulkhead == bh && !c.quarantined && !(s.bh bh).late with
      | none => done (s.blank bh)
      | some c => done (match (s.blank bh).readBytes bh w.fn ((s.blank bh).fn w.fn).savePasid
          (saveAddress (s.blank bh) w.fn bh) .read 0x1000000 with
        | (t, .ok y) => if y.poison = true then t.refuseContext c else t.restoreContext (c.ofImage y.bytes)
        | (t, .error _) => t.refuseContext c)) := by
  change execContextRestore bh s = _
  simp only [execContextRestore, hw, hs, hr, hg, Bool.not_true, Bool.or_self, Bool.false_eq_true, if_false]
  cases (s.blank bh).contexts.find? fun c : Context => c.fn == w.fn && c.bulkhead == bh && !c.quarantined && !(s.bh bh).late with
  | none => rfl
  | some c =>
    rcases (s.blank bh).readBytes bh w.fn ((s.blank bh).fn w.fn).savePasid (saveAddress (s.blank bh) w.fn bh) .read 0x1000000
      with ⟨t, y | y⟩ <;> rfl

theorem restoreQuarantine_of {c : Context} (hc : s.contexts.find? (fun c : Context => c.bulkhead == bh && c.quarantined) = some c)
    (hq : (s.bh bh).qfull = true) :
    let w := if (s.fn c.fn).saveV then
      s.copyGranules bh c.fn (s.fn c.fn).savePasid 0x40000 (s.bh bh).qbufBase (saveAddress s c.fn bh) else (s, 0x40)
    exec (.restoreQuarantine bh) s = .next (if w.2 = 0 then
      State.modBh { w.1 with contexts := w.1.contexts.map fun d : Context =>
        if d.fn == c.fn && d.bulkhead == bh then { d with quarantined := false } else d } bh
          fun x => { x with qfull := false, qerr := false }
      else w.1.modBh bh fun x => { x with qerr := true }) := by
  intro w
  change execRestoreQuarantine bh s = _
  simp only [execRestoreQuarantine, hc, hq, Bool.not_true, Bool.false_eq_true, if_false]
  split
  next t e =>
    have e : w = (t, 0) := e
    rw [e]
    rfl
  next t k hk e =>
    have e : w = (t, k) := e
    rw [e, if_neg hk]

theorem restoreQuarantine_invalid {c : Context}
    (hc : s.contexts.find? (fun c : Context => c.bulkhead == bh && c.quarantined) = some c)
    (hq : (s.bh bh).qfull = true) (hv : (s.fn c.fn).saveV = false) :
    exec (.restoreQuarantine bh) s = .next (s.setBh bh { s.bh bh with qerr := true }) := by
  refine (restoreQuarantine_of hc hq).trans ?_
  simp only [hv, Bool.false_eq_true, if_false, OfNat.ofNat_ne_zero, State.modBh]

theorem restoreQuarantine_copied {c : Context}
    (hc : s.contexts.find? (fun c : Context => c.bulkhead == bh && c.quarantined) = some c)
    (hq : (s.bh bh).qfull = true) (hv : (s.fn c.fn).saveV = true) :
    let w := s.copyGranules bh c.fn (s.fn c.fn).savePasid 0x40000 (s.bh bh).qbufBase (saveAddress s c.fn bh)
    exec (.restoreQuarantine bh) s = .next (if w.2 = 0 then
      State.modBh { w.1 with contexts := w.1.contexts.map fun d : Context =>
        if d.fn == c.fn && d.bulkhead == bh then { d with quarantined := false } else d } bh
          fun x => { x with qfull := false, qerr := false }
      else w.1.modBh bh fun x => { x with qerr := true }) := by
  refine (restoreQuarantine_of hc hq).trans ?_
  simp only [hv, if_true]

/-- A change whose members are all loaded, with no packet of the outgoing function, starts. -/
theorem gangStart_of {p : Nat} (hw : (s.pool p).switching = some w) (hr : ∀ b ∈ participants s p, (s.bh b).restored = true)
    (hk : ∀ k ∈ s.packets, k.vc = (s.pool p).ovn → k.fn = (s.pool p).fn → (s.pool p).fn = w.fn) :
    exec (.gangStart p) s = .next
      (((participants s p).foldl (fun s b => s.modBh b fun y =>
        { y with saved := false, restored := false, parked := false, late := false }) s).setPool p
          { s.pool p with switching := none, current := some w.entry, fn := w.fn, left := w.slice }) := by
  change execGangStart p s = _
  have hall : ((participants s p).all (fun b => (s.bh b).restored)
      && s.packets.all (fun q => q.vc != (s.pool p).ovn || q.fn != (s.pool p).fn || (s.pool p).fn == w.fn)) = true := by
    rw [Bool.and_eq_true, List.all_eq_true, List.all_eq_true]
    refine ⟨hr, fun q hq => ?_⟩
    have := hk q hq
    simp only [Bool.or_eq_true, bne_iff_ne, beq_iff_eq]
    tauto
  simp only [execGangStart, hw, hall, if_true]

end restore

section quarantine
variable {s : State} {bh : Nat}

theorem saveQuarantine_refused (hs : saving s bh = true) (hf : (s.bh bh).saveFault ≠ 0) (h : (s.bh bh).qbufV = false ∨ (s.bh bh).qfull = true) :
    exec (.saveQuarantine bh) s = .next (s.killMember bh 0x55) := by
  change execSaveQuarantine bh s = _
  unfold execSaveQuarantine
  simp only
  rw [if_neg (by simp [hs, hf]), if_pos (by rcases h with h | h <;> simp [h])]

theorem saveQuarantine_written (hs : saving s bh = true) (hf : (s.bh bh).saveFault ≠ 0) (hv : (s.bh bh).qbufV = true)
    (hq : (s.bh bh).qfull = false) :
    let c := ((s.meetSave bh).context bh).sliceEnd
    let w := (s.meetSave bh).writePhys (s.bh bh).qbufBase c.image
    exec (.saveQuarantine bh) s = .next (if w.2 = true then
      (((w.1.markPhys (c.marks.map ((s.bh bh).qbufBase + ·))).modBh bh fun x =>
        { x with qfull := true, qcause := (s.bh bh).saveFault, qtag := (holder s bh).getD 0 }).raiseMsi 0 2).finishSave bh true
      else w.1.killMember bh 0x55) := by
  intro c w
  change execSaveQuarantine bh s = _
  unfold execSaveQuarantine
  simp only
  rw [if_neg (by simp [hs, hf]), if_neg (by simp [hv, hq])]
  split
  next t e =>
    have e : w = (t, false) := e
    rw [e]
    rfl
  next t e =>
    have e : w = (t, true) := e
    rw [e]
    rfl

theorem endOfSliceSweep_of (hw : switchOf s bh ≠ none) (hs : (s.bh bh).saved = false) (hn : (s.bh bh).sweep = none)
    (hg : gated s bh = false) :
    exec (.endOfSliceSweep bh) s = .next (if hubMay s bh 4 then s.beginSweep bh .endOfSlice else s) := by
  obtain ⟨w, hw⟩ := Option.ne_none_iff_exists'.1 hw
  change execEndOfSliceSweep bh s = _
  simp only [execEndOfSliceSweep, hw, hs, hn, hg, Option.isSome_none, Bool.or_self, Bool.false_or]
  cases hubMay s bh 4 <;> rfl

theorem discard_of {c : Context} {l : Load} (hc : s.contexts.find? (fun c : Context => c.bulkhead == bh && c.quarantined) = some c)
    (hl : c.body.load = some l) : exec (.discard bh) s = .next (s.startKill l.queue 0x07) := by
  change execDiscard bh s = _
  simp only [execDiscard, hc, hl]

end quarantine

/-- Settles O44: each step of a pool by its own conditions, the save through `savePart_eq`. -/
theorem poolSteps : Obligations.PoolSteps := by
  intro s p bh value hp x b y tick fn met c at_ failed unitSaved
  refine ⟨poolEnable_stored hp, tick_idle, tick_within_change, fun _ he hd => tick_within_slice he hd, fun k j he hd hs hc hl hn hf => ?_,
    fun k he hd hs hc hl hn hr => ?_, fun j he hd => tick_first he hd, endOfSliceSweep_of, fun hf => ?_, fun n h0 hn ht => ?_,
    fun n t h0 hn ht => ⟨fun hb => ?_, fun hb => ?_⟩, fun h0 hn hs => ?_, fun h0 hn hs => ?_, saveQuarantine_refused,
    saveQuarantine_written, fun w => saveDeadline_early, fun w hw hd ha => ?_, fun w d l hw hd hm hs hl hc => ?_,
    fun w hw hs hr hg h => ?_, fun w d hw hs hr hg hl hf => ?_, fun w => gangStart_of, fun d hd => ⟨restoreQuarantine_invalid hd, restoreQuarantine_copied hd,
      fun l => discard_of hd⟩⟩
  · exact (tick_end_of_slice he hd hs hc hl).trans (congrArg _ (endSlice_changes hn hf))
  · exact (tick_end_of_slice he hd hs hc hl).trans (congrArg _ (endSlice_stays hn hr))
  · change execContextSave bh s = _
    unfold execContextSave
    rw [if_pos (by simpa using hf)]
  · rw [contextSave_unit h0 hn, saveUnit_of_no_tile ht, savePart_eq]
    rfl
  · rw [contextSave_unit h0 hn, saveUnit_of_tile ht, if_pos hb, savePart_eq]
    rfl
  · obtain ⟨j, hj, hb⟩ := hb
    rw [contextSave_unit h0 hn, saveUnit_of_tile ht, if_neg fun h => by simp [h j hj] at hb]
  · rw [contextSave_end h0 hn, if_neg (by simp [hs])]
  · rw [contextSave_end h0 hn, if_pos hs, savePart_eq, Nat.add_zero]
    rfl
  · rw [saveDeadline_due hw hd, lateQueues, lateMembers_of_saved ha]
    rfl
  · obtain ⟨hlm, hlq⟩ := late_single hm hs hl hc
    rw [saveDeadline_due hw hd, hlm, hlq]
    rfl
  · rw [contextRestore_of hw hs hr hg]
    have hnone : (s.blank bh).contexts.find? (fun c : Context =>
        c.fn == w.fn && c.bulkhead == bh && !c.quarantined && !(s.bh bh).late) = none := by
      rw [List.find?_eq_none]
      intro d hd
      rcases h with h | h
      · have h : (s.bh bh).late = true := h
        simp [h]
      · have := h d hd
        simp only [Bool.and_eq_true, beq_iff_eq, Bool.not_eq_true', not_and, Bool.not_eq_false]
        intro ⟨⟨hf, hb⟩, hq⟩
        simp [this hf hb] at hq
    simp only [hnone]
  · have hl : (s.bh bh).late = false := hl
    rw [contextRestore_of hw hs hr hg]
    simp only [hl, Bool.not_false, Bool.and_true, hf] <;> rfl
end Sys2Proof.PoolWork

/-! PROOFS of the statement on partition registers and single-bulkhead resets (03 R44, 04 R47, R48, R65-R67, 24 R377). -/

namespace Sys2Proof.PlacingWork
open Sys2Proof Sys2Proof.Machine Sys2Proof.Safety Sys2Proof.Laws
open Sys2Proof.SequencerCommands (bit_eq_getLsbD)

/-! ## What a reset answers while the gate is closed: memory and the state of the reset stay -/

/-- Memory is as it was, and so is the reset state of a bulkhead. -/
structure AtRest (bh : Nat) (s t : State) : Prop where
  mem : t.mem = s.mem
  state : (t.bh bh).state = (s.bh bh).state

section
variable {bh : Nat} {s t u : State}

theorem AtRest.refl (s : State) : AtRest bh s s := ⟨rfl, rfl⟩

theorem AtRest.trans (h : AtRest bh s t) (g : AtRest bh t u) : AtRest bh s u := ⟨g.mem.trans h.mem, g.state.trans h.state⟩

/-- A step that leaves memory and every bulkhead. -/
theorem AtRest.of_eq (hm : t.mem = s.mem := by rfl) (hb : t.bhs = s.bhs := by rfl) : AtRest bh s t :=
  ⟨hm, by rw [State.bh, hb]; rfl⟩

theorem atRest_foldl {α : Type} {f : State → α → State} (l : List α) (hf : ∀ u, ∀ x ∈ l, AtRest bh s u → AtRest bh u (f u x)) :
    AtRest bh s (l.foldl f s) :=
  List.foldlRecOn (motive := AtRest bh s) _ _ (.refl s) fun u h x hx => h.trans (hf u x hx h)

theorem atRest_modBh (s : State) (k : Nat) (f : Bulkhead → Bulkhead) (hf : ∀ b, (f b).state = b.state := by intro b; rfl) : AtRest bh s (s.modBh k f) := by
  refine ⟨rfl, ?_⟩
  by_cases h : bh = k
  · rw [h, modBh_bh, hf]
  · rw [modBh_bh_ne s f h]

theorem atRest_modElem (s : State) (k : Nat) (f : Elem → Elem) : AtRest bh s (s.modElem k f) := by
  unfold State.modElem
  split <;> exact .of_eq

theorem atRest_postFault (s : State) (b : Nat) (r : FaultRec) : AtRest bh s (s.postFault b r) := by
  unfold State.postFault
  exact atRest_modBh ..

theorem atRest_raiseElem (s : State) (k n c : Nat) (m : Bool) (d a : Nat) : AtRest bh s (s.raiseElem k n c m d a) := by
  unfold State.raiseElem
  split
  · exact .refl s
  · split
    · exact .refl s
    · exact AtRest.trans (t := s.setElem k _) .of_eq (atRest_postFault ..)

theorem atRest_haltElem (s : State) (k c n : Nat) (d : Word) (w : Nat) : AtRest bh s (s.haltElem k c n d w) := by
  unfold State.haltElem
  exact (atRest_modElem s k _).trans ((atRest_modBh ..).trans (atRest_modBh _ _ _ (by intro b; dsimp only; split <;> rfl)))

theorem atRest_faultBeat (s : State) (key : Nat) (e : Elem) (n c : Nat) (m : Bool) (d a : Nat) :
    AtRest bh s (s.faultBeat key e n c m d a) := by
  have h : AtRest bh s ((s.setElem key e.nextIssue).raiseElem key n c m d a) :=
    AtRest.trans (t := s.setElem key e.nextIssue) .of_eq (atRest_raiseElem ..)
  unfold State.faultBeat
  dsimp only
  split
  · exact h.trans (atRest_haltElem ..)
  · exact h

theorem atRest_failRequest (s : State) (key id c d a : Nat) : AtRest bh s (s.failRequest key id c d a) := by
  unfold State.failRequest
  split
  · exact .refl s
  · split
    · exact .refl s
    · dsimp only
      split
      · exact .of_eq
      · split
        · exact atRest_faultBeat ..
        · exact AtRest.trans (t := s.setElem key _) .of_eq (atRest_raiseElem ..)
        · exact AtRest.trans (t := s.setElem key _) .of_eq (atRest_raiseElem ..)

theorem atRest_answerSource (s : State) (k : Nat) (src : Source) (id st v : Nat) (f : Flags) (a : Bool) (w : Word) :
    AtRest bh s (s.answerSource k src id st v f a w) := by
  unfold State.answerSource
  split
  · exact atRest_modBh ..
  · exact .refl s
  · exact .of_eq
  · exact .of_eq

theorem atRest_answerPiece (s : State) (k : Nat) (r : HomeReq) (st v : Nat) (p : Bool) : AtRest bh s (s.answerPiece k r st v p) := by
  unfold State.answerPiece
  split
  · exact atRest_modBh ..
  · exact .refl s

theorem atRest_retireRequest (s : State) (src : Source) (id : Nat) : AtRest bh s (s.retireRequest src id) := by
  unfold State.retireRequest
  split
  · exact atRest_modElem ..
  · exact .refl s

theorem atRest_acknowledge (s : State) (src : Source) (id : Nat) : AtRest bh s (s.acknowledge src id) := by
  unfold State.acknowledge
  split
  · split
    · exact .refl s
    · exact atRest_modElem ..
  · exact .refl s

theorem atRest_refuseReq (s : State) (k : Nat) (r : HomeReq) (c : Nat) : AtRest bh s (s.refuseReq k r c) := by
  unfold State.refuseReq
  split
  · exact atRest_answerPiece ..
  · split
    · exact atRest_failRequest ..
    · exact .refl s
    · exact atRest_retireRequest ..
    · exact .refl s
    · exact atRest_answerSource ..

/-- Behind a closed gate a request is refused, and a withdrawal only takes its wait away. -/
theorem atRest_applyReq {k : Nat} (hk : k / 8 = bh) (hs : (s.bh bh).state ≠ 6) (r : HomeReq) : AtRest bh s (s.applyReq k r) := by
  have hg : gated s (k / 8) = true := by simp [gated, hk, hs]
  unfold State.applyReq
  cases hw : r.op.isWithdrawal with
  | false =>
    rw [if_pos (by rw [hg]; rfl)]
    exact atRest_refuseReq ..
  | true =>
    obtain ⟨sem, ho⟩ : ∃ sem, r.op = .withdraw sem := by
      cases h : r.op with
      | withdraw sem => exact ⟨sem, rfl⟩
      | _ => rw [h] at hw; exact absurd hw Bool.false_ne_true
    rw [if_neg (by simp), ho, if_neg (by simp [HomeOp.isMem])]
    dsimp only
    split
    · exact .refl s
    · exact AtRest.trans (t := s.modSlice k _) .of_eq (atRest_acknowledge ..)

/-- What waits at the home slices of a gated bulkhead is answered without an access to memory. -/
theorem atRest_answerSlices (hs : (s.bh bh).state ≠ 6) : AtRest bh s (s.answerSlices bh) := by
  unfold State.answerSlices
  refine atRest_foldl _ fun u n hn hu => ?_
  have hk : (8 * bh + n) / 8 = bh := by have := List.mem_range.1 hn; omega
  have h0 : AtRest bh u (u.setSlice (8 * bh + n) { u.slice (8 * bh + n) with arrivals := [], waiters := [], launches := [] }) := .of_eq
  have h1 : AtRest bh u ((u.slice (8 * bh + n)).arrivals.foldl (fun s r => s.applyReq (8 * bh + n) r)
      (u.setSlice (8 * bh + n) { u.slice (8 * bh + n) with arrivals := [], waiters := [], launches := [] })) :=
    h0.trans (atRest_foldl _ fun w r _ hw => atRest_applyReq hk (by rw [hw.state, h0.state, hu.state]; exact hs) r)
  refine (h1.trans (atRest_foldl _ fun w r _ _ => atRest_answerSource ..)).trans (atRest_foldl _ fun w l _ _ => ?_)
  split <;> exact atRest_answerSource ..

theorem atRest_endLaunches (s : State) (b : Nat) (k : SweepKind) : AtRest bh s (s.endLaunches b k) := by
  unfold State.endLaunches
  refine AtRest.trans (atRest_foldl _ fun u x _ _ => ?_) (atRest_modBh ..)
  have he (l : Option (Nat × Nat)) (st c : Nat) : AtRest bh u (u.endLaunch l st c) := by
    unfold State.endLaunch
    split
    · exact .refl u
    · exact .of_eq
  split <;> exact he ..

/-- What still waits at a bulkhead whose core rail falls is answered. -/
def railAnswered (s : State) (bh : Nat) : State :=
  ((((s.endLaunches bh .kill).answerSlices bh).withdrawAll bh).dropWorks bh).dropCounters bh

theorem drops_mem (u : State) : (((u.withdrawAll bh).dropWorks bh).dropCounters bh).mem = u.mem := rfl

theorem railAnswered_mem (hs : (s.bh bh).state = 2) : (railAnswered s bh).mem = s.mem := by
  have h1 : AtRest bh s (s.endLaunches bh .kill) := atRest_endLaunches ..
  have h2 : AtRest bh s ((s.endLaunches bh .kill).answerSlices bh) :=
    h1.trans (atRest_answerSlices (by rw [h1.state, hs]; decide))
  rw [railAnswered, drops_mem]
  exact h2.mem

/-- The core of a bulkhead is lost. -/
def railLost (s : State) (bh : Nat) : State :=
  let s := s.dropUnsent (bhOf · == bh)
  let s := { s with elems := s.elems.filter fun p => bhOf p.1 != bh, tiles := s.tiles.filter fun p => p.1 / 64 != bh,
                    slices := s.slices.filter fun p => p.1 / 8 != bh, islands := s.islands.filter fun p => p.1 / 4 != bh,
                    streamers := s.streamers.filter fun p => p.1 / 2 != bh, hubs := tdel s.hubs bh }
  (s.modClock bh Bulkhead.coreLost).resetState bh 3

theorem railLost_state : ((railLost s bh).bh bh).state = 3 := by simp [railLost, State.resetState, State.modClock]

theorem railLost_mem : (railLost s bh).mem = s.mem := rfl

theorem railLost_elemsOf : (railLost s bh).elemsOf bh = [] := by
  change List.filter _ (List.filter _ _) = []
  rw [List.filter_filter, List.filter_eq_nil_iff]
  intro p _
  cases h : bhOf p.1 == bh <;> simp [bne, h]

/-- The loss of the core rail: no element is left, and the bonded DRAM keeps its contents. -/
theorem railOff_of (hs : (s.bh bh).state = 2) (hl : (s.bh bh).load = none) :
    exec (.railOff bh) s = .next ((railLost (railAnswered s bh) bh).settle 0) := by
  change execRailOff bh s = _
  unfold execRailOff
  rw [if_neg (by simp [hs]), hl]
  rfl

/-! ## The other steps -/

/-- BHCFG as staged: its upper half. -/
theorem upperHalf (v : Word) : BitVec.ofNat 32 (v.toNat / 2 ^ 16 * 2 ^ 16) = v &&& 0xFFFF0000 := by
  have hmask : ∀ i < 32, (0xFFFF0000 : Word).getLsbD i = decide (16 ≤ i) := by decide
  refine BitVec.eq_of_getLsbD_eq fun i hi => ?_
  rw [BitVec.getLsbD_and, hmask i hi, BitVec.getLsbD_ofNat, ← Nat.shiftRight_eq_div_pow, ← Nat.shiftLeft_eq, Nat.testBit_shiftLeft,
    Nat.testBit_shiftRight, decide_eq_true hi, Bool.true_and]
  by_cases h : 16 ≤ i
  · rw [decide_eq_true h, Bool.true_and, Bool.and_true, show 16 + (i - 16) = i by omega]
    rfl
  · rw [decide_eq_false h, Bool.false_and, Bool.and_false]

theorem qmapWrite_eq {q : Nat} (hq : q < 4096) (value : Word) : exec (.qmapWrite q value) s = .next (if (s.queue q).en = true then s
    else s.setQueue q { s.queue q with
      qmapV := value.getLsbD 31 && decide (bits value.toNat 24 7 ≤ 64), qmapTag := bits value.toNat 24 7,
      qmapLocal := bits value.toNat 0 12 }) := by
  change execQmapWrite q value s = _
  unfold execQmapWrite
  dsimp only
  rw [bit_eq_getLsbD, decide_eq_false (Nat.not_le.2 hq), Bool.or_false]
  exact (apply_ite Host.Outcome.next ..).symm

theorem railUp_of (h : (s.bh bh).state = 3) : exec (.railUp bh) s = .next (s.resetState bh 4) := by
  change execRailUp bh s = _
  unfold execRailUp
  rw [if_neg (by simp [h])]

theorem pllLock_of (h : (s.bh bh).state = 4) : exec (.pllLock bh) s = .next (State.resetState
    (State.setBh { s with zeroed := tset s.zeroed bh s.cycle } bh { s.bh bh with entering := (s.bh bh).staged, applied := false }) bh 5) := by
  change execPllLock bh s = _
  unfold execPllLock
  rw [if_neg (by simp [h])]
  rfl

theorem bhrst_eq (hb : bh < 16) (value : Word) :
    let s' := s.setBh bh { s.bh bh with flush := value.getLsbD 30, zero := value.getLsbD 29 }
    exec (.bhrst bh value) s = .next (if value.getLsbD 31 = true then s'.startReset bh else s') := by
  intro s'
  change execBhrst bh value s = _
  unfold execBhrst
  rw [if_neg (Nat.not_le.2 hb)]
  simp only [bit_eq_getLsbD]
  rfl

theorem startReset_of_not_ready (h : (s.bh bh).state ≠ 6) : s.startReset bh = s := by
  unfold State.startReset
  rw [if_pos (by simpa using h)]

/-- GATE: with FLUSH the dirty lines are written back first. -/
theorem gate_of (h : (s.bh bh).state = 1) :
    let f := (if (s.bh bh).flush = true then s.flushSlices bh else s).modBh bh fun b => { b with replies := [], portal := [] }
    exec (.gate bh) s = .next (if ((f.bh bh).flush && slicesDirty f bh) = true then f else f.resetState bh 2) := by
  intro f
  change execGate bh s = _
  unfold execGate
  rw [if_neg (by simp [h])]

/-- A byte of a memory with a range removed. -/
theorem get_filter (m : Mem) (p : Nat → Bool) (a : Nat) : Mem.get (m.filter fun c => p c.1) a = if p a = true then m.get a else 0 := by
  unfold Mem.get tget
  rw [tget?_filterKey]
  split <;> rfl

/-- The configuration in force after a release. -/
theorem applyCfg_mode (b : Bulkhead) (on : Nat → Bool) : (b.applyCfg on).mode =
    if bits b.entering.toNat 30 2 = 3 ∨ 64 < bits b.entering.toNat 16 7
        ∨ (bits b.entering.toNat 30 2 = 1 ∧ on (bits b.entering.toNat 23 4) = false) then 0
    else bits b.entering.toNat 30 2 := by
  unfold Bulkhead.applyCfg
  simp [or_assoc]

/-- The state with a BHCFG value applied, before the DRAM is written to 0. -/
def released (s : State) (bh : Nat) : State :=
  s.modBh bh fun b => { b.applyCfg fun n => (s.ovnOf n).on with released := s.cycle }

theorem released_bh : (released s bh).bh bh = { (s.bh bh).applyCfg fun n => (s.ovnOf n).on with released := s.cycle } := modBh_bh ..

/-- The state with the bonded DRAM and the scratchpads of a bulkhead written to 0. -/
def wiped (s : State) (bh : Nat) : State :=
  let lo := bh * 0x300000000
  let hi := lo + 0x300000000
  let s := { s with mem := s.mem.filter fun c => !(decide (lo ≤ c.1) && decide (c.1 < hi)),
                    poison := s.poison.filter fun g => !(decide (lo ≤ g * 64) && decide (g * 64 < hi)),
                    softC := s.softC.filter fun g => !(decide (lo ≤ g * 64) && decide (g * 64 < hi)),
                    softU := s.softU.filter fun g => !(decide (lo ≤ g * 64) && decide (g * 64 < hi)) }
  s.mapTiles bh fun _ t => { t with scratch := [], poison := [], softC := [], softU := [] }

theorem wiped_get (a : Nat) :
    (wiped s bh).mem.get a = if bh * 0x300000000 ≤ a ∧ a < (bh + 1) * 0x300000000 then 0 else s.mem.get a := by
  refine (get_filter s.mem (fun x => !(decide (bh * 0x300000000 ≤ x) && decide (x < bh * 0x300000000 + 0x300000000))) a).trans ?_
  rw [← Nat.succ_mul]
  by_cases h : bh * 0x300000000 ≤ a ∧ a < (bh + 1) * 0x300000000
  · rw [if_pos h, if_neg (by rw [← Bool.decide_and, decide_eq_true h]; decide)]
  · rw [if_neg h, if_pos (by rw [← Bool.decide_and, decide_eq_false h]; rfl)]

theorem release_of (h5 : (s.bh bh).state = 5) (ha : (s.bh bh).applied = false) :
    exec (.release bh) s = .next (if (s.bh bh).zero = true then wiped (released s bh) bh else released s bh) := by
  have hz : ((released s bh).bh bh).zero = (s.bh bh).zero := by rw [released_bh]; rfl
  change execRelease bh s = _
  unfold execRelease
  rw [if_neg (by simp [h5, ha])]
  change (if (!((released s bh).bh bh).zero) = true then Host.Outcome.next (released s bh) else .next (wiped (released s bh) bh)) = _
  rw [hz]
  cases (s.bh bh).zero <;> rfl

theorem ready_eq : exec (.ready bh) s =
    .next (if (s.bh bh).state = 5 ∧ (s.bh bh).applied = true ∧ s.mgmt.getLsbD (bh / 4) = true then s.resetState bh 6 else s) := by
  change execReady bh s = _
  unfold execReady
  rw [bit_eq_getLsbD]
  by_cases h : (s.bh bh).state = 5 ∧ (s.bh bh).applied = true ∧ s.mgmt.getLsbD (bh / 4) = true
  · obtain ⟨h5, ha, hm⟩ := h
    rw [if_neg (by rw [h5, ha, hm]; decide), if_pos ⟨h5, ha, hm⟩]
  · rw [if_neg h, if_pos]
    simp only [Bool.or_eq_true, bne_iff_ne, Bool.not_eq_true']
    simpa only [not_and_or, Bool.not_eq_true, or_assoc] using h

end

/-- Settles O43: each step by the state of its reset; what is answered behind the gate keeps memory. -/
theorem placementSteps : Obligations.PlacementSteps := by
  intro s bh q value hb hq b h v next
  refine ⟨fun he => ?_, fun he => ?_, ?_, ⟨fun h0 => ?_, fun h1 => ?_, fun h1 hs => ?_⟩, fun h1 hf => ?_, fun h1 hf => ?_,
    fun h2 hl => ⟨_, railOff_of h2 hl, railLost_state, railLost_elemsOf, railLost_mem.trans (railAnswered_mem h2)⟩, railUp_of, pllLock_of, fun h5 ha => ?_,
    fun h5 ha hm => ?_, fun hn => ?_⟩
  · exact (qmapWrite_eq hq value).trans (congrArg _ (if_neg (Bool.eq_false_iff.1 he)))
  · exact (qmapWrite_eq hq value).trans (congrArg _ (if_pos he))
  · change execBhcfgWrite bh value s = _
    unfold execBhcfgWrite
    rw [if_neg (Nat.not_le.2 hb), upperHalf]
    rfl
  · exact (bhrst_eq hb value).trans (by rw [h0]; rfl)
  · exact (bhrst_eq hb value).trans (by rw [if_pos h1])
  · refine (bhrst_eq hb value).trans ?_
    rw [if_pos h1, startReset_of_not_ready (by rw [setBh_bh]; exact hs)]
  · refine (gate_of h1).trans ?_
    have hf : (s.bh bh).flush = false := hf
    simp only [hf, modBh_bh, Bool.false_and, Bool.false_eq_true, if_false]
    rfl
  · have hgate := gate_of h1
    rw [if_pos hf] at hgate
    intro f hk
    exact ⟨fun hd => hgate.trans (congrArg _ (if_neg (by rw [hd]; simp))), fun hd => hgate.trans (congrArg _ (if_pos (by rw [hd, hk]; rfl)))⟩
  · refine ⟨_, release_of h5 ha, ?_⟩
    have hbh : ((if b.zero = true then wiped (released s bh) bh else released s bh).bh bh) =
        { b.applyCfg fun n => (s.ovnOf n).on with released := s.cycle } := by
      split <;> exact released_bh
    change _ = _ ∧ _
    rw [hbh]
    refine ⟨rfl, rfl, rfl, rfl, applyCfg_mode b fun n => (s.ovnOf n).on, fun hz => ?_, fun hz a => ?_⟩
    · rw [if_neg (by rw [hz]; decide)]
      rfl
    · rw [if_pos hz, wiped_get]
      rfl
  · exact ready_eq.trans (by rw [if_pos ⟨h5, ha, hm⟩]; rfl)
  · refine ready_eq.trans (congrArg _ (if_neg ?_))
    rintro ⟨h5, ha, hm⟩
    rcases hn with h | h | h
    · exact h h5
    · exact Bool.false_ne_true (h.symm.trans ha)
    · exact Bool.false_ne_true (h.symm.trans hm)

end Sys2Proof.PlacingWork

/-! PROOFS of the statement on home slices, remote atomics and the portal (15 R267-R289). -/

namespace Sys2Proof.HomeWork
open Sys2Proof Sys2Proof.Machine Sys2Proof.Safety Sys2Proof.Laws
open Sys2Proof.SequencerCommands (bit_eq_getLsbD)

/-! ## Arrival queues (14 R250) -/

theorem placesBehind_le (x : Nat × Nat) (l : List HomeReq) : placesBehind x l ≤ l.length := by
  induction l with
  | nil => exact Nat.le_refl 0
  | cons r l ih =>
    rw [placesBehind, List.length_cons]
    split <;> omega

/-- Behind those places stands no request of the source. -/
theorem placesBehind_drop (x : Nat × Nat) (l : List HomeReq) : ∀ q ∈ l.drop (placesBehind x l), q.src.line ≠ x := by
  induction l with
  | nil => intro q hq; simp at hq
  | cons r l ih =>
    rw [placesBehind]
    by_cases h : (placesBehind x l != 0 || r.src.line == x) = true
    · rw [if_pos h, List.drop_succ_cons]
      exact ih
    · rw [if_neg h]
      obtain ⟨h0, hr⟩ : placesBehind x l = 0 ∧ r.src.line ≠ x := by simpa using h
      rw [h0, List.drop_zero] at ih
      intro q hq
      rcases List.mem_cons.1 hq with rfl | hq
      · exact hr
      · exact ih q hq

section
variable {s : State} {k : Nat}

/-- Requests enter an arrival queue together, at one place behind those of their own source. -/
theorem sendHome_place (s : State) (j : Nat) (r : HomeReq) (rs : List HomeReq) :
    ∃ i ≤ (s.slice j).arrivals.length, ((s.sendHome j (r :: rs)).slice j).arrivals
        = (s.slice j).arrivals.take i ++ (r :: rs) ++ (s.slice j).arrivals.drop i
      ∧ (∀ q ∈ (s.slice j).arrivals.drop i, q.src.line ≠ r.src.line)
      ∧ ∀ m, m ≠ j → (s.sendHome j (r :: rs)).slice m = s.slice m := by
  have hle := placesBehind_le r.src.line (s.slice j).arrivals
  unfold State.sendHome
  dsimp only
  by_cases hl : placesBehind r.src.line (s.slice j).arrivals = (s.slice j).arrivals.length
  · rw [if_pos (by rw [hl]; exact beq_self_eq_true _)]
    refine ⟨(s.slice j).arrivals.length, Nat.le_refl _, ?_, by simp, fun m hm => modSlice_slice_ne s _ hm⟩
    rw [modSlice_slice, List.take_length, List.drop_length, List.append_nil]
  · rw [if_neg (by simpa using hl)]
    have hi := Nat.mod_lt s.takeFree.1.toNat
      (show 0 < (s.slice j).arrivals.length - placesBehind r.src.line (s.slice j).arrivals + 1 by omega)
    refine ⟨_, ?_, by rw [modSlice_slice]; rfl, fun q hq => ?_, fun m hm => modSlice_slice_ne _ _ hm⟩
    · omega
    · rw [← List.drop_drop] at hq
      exact placesBehind_drop _ _ q (List.mem_of_mem_drop hq)

/-! ## Semaphores (15 R285, R288) -/

/-- With nothing waiting, a grant does nothing. -/
theorem grant_of_no_waiters {sem : Nat} (h : (s.slice k).waiters = []) : s.grant k sem = s := by
  rw [State.grant, h, List.length_nil, State.grantWaiters, h]
  rfl

theorem answerSource_slices (s : State) (k : Nat) (src : Source) (id st v : Nat) (f : Flags) (a : Bool) (w : Word) :
    (s.answerSource k src id st v f a w).slices = s.slices := by
  unfold State.answerSource
  split <;> rfl

theorem slice_of_slices {t : State} (h : t.slices = s.slices) (j : Nat) : t.slice j = s.slice j := by
  rw [State.slice, h]
  rfl

theorem trace_slice (s : State) (b kind sub unit : Nat) (x y : Word) (j : Nat) : (s.trace b kind sub unit x y).slice j = s.slice j := rfl

theorem countIssue_slice (s : State) (e j : Nat) : (s.countIssue e).slice j = s.slice j := rfl

/-- The head of an arrival queue is applied. -/
theorem homeSliceApply_of {r : HomeReq} {rest : List HomeReq} (h : (s.slice k).arrivals = r :: rest) :
    exec (.homeSliceApply k) s =
      .next (((s.modSlice k fun x => { x with arrivals := rest }).countIssue (sliceEngine k)).applyReq k r) := by
  change execHomeSliceApply k s = _
  simp only [execHomeSliceApply, h]

/-- A signal with room in the count, and nothing waiting: the count rises. -/
theorem semSignal_room {sem c : Nat} (hc : tget (s.slice k).sems sem 0 + c ≤ 0xFFFFFF) (hw : (s.slice k).waiters = []) :
    (s.semSignal k sem c).2 = 0 ∧ tget ((s.semSignal k sem c).1.slice k).sems sem 0 = tget (s.slice k).sems sem 0 + c := by
  unfold State.semSignal
  dsimp only
  rw [if_neg (Nat.not_lt.2 hc)]
  refine ⟨rfl, ?_⟩
  dsimp only
  rw [grant_of_no_waiters (by rw [trace_slice, setSlice_slice]; exact hw), trace_slice, setSlice_slice, tget_tset]

/-- A signal that would pass the largest count leaves it. -/
theorem semSignal_full {sem c : Nat} (hc : 0xFFFFFF < tget (s.slice k).sems sem 0 + c) :
    (s.semSignal k sem c).1.slices = s.slices := by
  unfold State.semSignal
  dsimp only
  rw [if_pos hc]
  rfl

/-- What a signal leaves of the counts is what its slice leaves: the answer and the log touch none. -/
theorem applyReq_sems_slice {r : HomeReq} {sem c : Nat} (ho : r.op = .sems sem c) (hg : gated s (k / 8) = false) :
    ((s.applyReq k r).slice k).sems = ((s.semSignal k sem c).1.slice k).sems := by
  unfold State.applyReq
  simp only [ho, hg, HomeOp.isMem, Bool.false_and, Bool.false_eq_true, if_false]
  split
  · split
    · rfl
    · rw [State.launchLog, modSlice_slice]
  · rw [slice_of_slices (answerSource_slices ..)]

theorem semcntWrite_of {fn bh sem : Nat} {v : Word} (ho : owns s fn bh = true) (hg : gated s bh = false) :
    exec (.semcntWrite fn bh sem v) s = .next ((s.modSlice (8 * bh + sem / 128 % 8) fun x =>
      { x with sems := tset x.sems (sem % 1024) (v.toNat % 2 ^ 24) }).grant (8 * bh + sem / 128 % 8) (sem % 1024)) := by
  change execSemcntWrite fn bh sem v s = _
  unfold execSemcntWrite
  rw [if_pos (by rw [ho, hg]; rfl), show bits v.toNat 0 24 = v.toNat % 2 ^ 24 by simp [bits]]
  rfl

theorem semcntWrite_refused {fn bh sem : Nat} {v : Word} (h : owns s fn bh = false ∨ gated s bh = true) :
    exec (.semcntWrite fn bh sem v) s = .next s := by
  change execSemcntWrite fn bh sem v s = _
  unfold execSemcntWrite
  rw [if_neg (by rcases h with h | h <;> simp [h])]

/-! ## Launches, remote atomics and the portal -/

theorem launchEnd_of {n st cause : Nat} {l : Launch} (hl : tget? (s.slice k).launches n = some l) (hd : l.desc.getLsbD 31 = false)
    (he : l.ended = some (st, cause)) :
    let s' := s.modSlice k fun x => { x with launches := tdel x.launches n }
    exec (.continuationLaunchEnd k n) s = .next
      ((if cause = 0 then s' else s'.launchLog k l.word l.desc 0x03 cause (elemAddr l.src)).answerSource k
        l.src l.id st l.old 0 true l.word) := by
  intro s'
  change execContinuationLaunchEnd k n s = _
  simp only [execContinuationLaunchEnd, hl, bit_eq_getLsbD, hd, he, Bool.false_eq_true, if_false, beq_iff_eq]
  rfl

theorem remoteAtomic_held (h : gated s k = true ∨ walkerFree s k = false) : exec (.remoteAtomicApply k) s = .next s := by
  change execRemoteAtomicApply k s = _
  unfold execRemoteAtomicApply
  split
  · rfl
  · rw [if_pos (by rcases h with h | h <;> simp [h])]

/-- The oldest remote atomic is translated, and answered or sent to its home slice. -/
theorem remoteAtomic_of {a : RemoteAtomic} {rest : List RemoteAtomic} (ha : (s.bh k).atomics = a :: rest) (hg : gated s k = false)
    (hw : walkerFree s k = true) :
    exec (.remoteAtomicApply k) s = .next (match (s.modBh k fun b => { b with atomics := rest }).resolve .none k ((holder s k).getD 0)
        (loadPasid (s.modBh k fun b => { b with atomics := rest }) k) a.va .update with
      | (s', .status c) => s'.answerAtomic a c 0
      | (s', .home h via) => s'.sendHome (8 * h.bh + h.slice)
          [{ src := .remote a.elem a.peer a.ticket a.srcFn, id := 0, pa := h.pa, op := .amo a.op a.size a.v a.c, cls := a.cls,
             reads := a.reads, word := a.word, via := via, fn := (holder s k).getD 0 }]) := by
  change execRemoteAtomicApply k s = _
  simp only [execRemoteAtomicApply, ha, hg, hw, Bool.not_true, Bool.or_self, Bool.false_eq_true, if_false]
  rcases (s.modBh k fun b => { b with atomics := rest }).resolve .none k ((holder s k).getD 0)
    (loadPasid (s.modBh k fun b => { b with atomics := rest }) k) a.va .update with ⟨s', c | ⟨h, via⟩⟩ <;> rfl

theorem remoteCompletion_of {n st v : Nat} {r : RemoteRec} {s' : State} (hr : (s.fn k).remote[n]? = some r) (hp : r.reply = some (st, v))
    (hw : s.writeBytes (bhOf r.elem) k r.pasid (va57 ((s.fn k).rcqbase + 16 * (s.fn k).rcqtail)) (r.bytes st v) = (s', 0))
    (status old : Nat) : exec (.remoteCompletion k n status old) s = .next ((s'.modFn k fun f =>
      { f with remote := removeAt f.remote n, rcqtail := (f.rcqtail + 1) % 2 ^ f.rcqlog2, rcqunread := f.rcqunread + 1 }).modElem
        r.elem (·.dropPending r.id)) := by
  change execRemoteCompletion k n status old s = _
  simp only [execRemoteCompletion, hr, hp, Option.isNone_some, Bool.false_and, Bool.false_eq_true, if_false, Option.getD_some, hw]
  rfl

/-- The end of a portal request. -/
theorem portalReply_of {n status : Nat} {p : PortalReq} (hp : (s.bh k).portal[n]? = some p) (old : Nat) :
    s.portalReply k n status old = (s.modBh k fun b => { b with portal := removeAt b.portal n }).reply
      { elem := p.elem, id := p.id, status := status, value := if status = 0 then old % 2 ^ (8 * p.size) else 0, atomic := true } := by
  simp only [State.portalReply, hp, beq_iff_eq]

theorem portalTimeout_of {n : Nat} {p : PortalReq} (hp : (s.bh k).portal[n]? = some p) : exec (.portalTimeout k n) s =
    .next (if p.since + 135000000 ≤ s.cycle then s.portalReply k n 0x15 0 else s) := by
  change execPortalTimeout k n s = _
  simp only [execPortalTimeout, hp]
  exact (apply_ite Host.Outcome.next ..).symm

end

/-- Settles O38: requests of one source keep their order by `sendHome_place`; the other steps by what they find. -/
theorem homeSteps : Obligations.HomeSteps := by
  intro s k n
  refine ⟨fun r rest hr => ?_, fun l st cause => launchEnd_of, remoteAtomic_held, fun a rest s' c ha hg hw => ?_,
    fun r st v s' hr hp hw => remoteCompletion_of hr hp hw, fun p hp => ?_, fun fn bh sem v => semcntWrite_refused,
    fun fn bh sem v ho hg => ?_, sendHome_place s⟩
  · intro s'
    have hs : s'.slice k = { s.slice k with arrivals := rest } := by
      rw [countIssue_slice, modSlice_slice]
    refine ⟨homeSliceApply_of hr, fun sem c ho hg => ?_⟩
    have hg' : gated s' (k / 8) = false := hg
    refine ⟨fun hc hw => ⟨_, homeSliceApply_of hr, ?_⟩, fun hc => ⟨_, homeSliceApply_of hr, ?_⟩⟩
    · rw [applyReq_sems_slice ho hg']
      have h := (semSignal_room (s := s') (k := k) (sem := sem) (c := c) (by rw [hs]; exact hc) (by rw [hs]; exact hw)).2
      rwa [hs] at h
    · rw [applyReq_sems_slice ho hg', slice_of_slices (semSignal_full (s := s') (k := k) (by rw [hs]; exact hc)), hs]
  · intro out hres
    have h := remoteAtomic_of ha hg hw
    rw [hres] at h
    exact ⟨fun d via hc => by rw [hc] at h; exact h, fun code hc => by rw [hc] at h; exact h⟩
  · intro ended
    have hend (st old : Nat) : s.portalReply k n st old = ended st old := portalReply_of hp old
    refine ⟨fun old => ⟨congrArg _ (hend 0 old), congrArg _ (hend 0x15 old)⟩, fun h => ?_, fun h => ?_⟩
    · rw [portalTimeout_of hp, if_pos h, hend]
    · rw [portalTimeout_of hp, if_neg (Nat.not_le.2 h)]
  · intro j
    refine ⟨semcntWrite_of ho hg, fun hw => ⟨_, semcntWrite_of ho hg, ?_⟩⟩
    rw [grant_of_no_waiters (by rw [modSlice_slice]; exact hw), modSlice_slice, tget_tset]

end Sys2Proof.HomeWork

/-! PROOFS of the statement on shootdowns (14 R265, R266). -/

namespace Sys2Proof.ShootdownWork
open Sys2Proof Sys2Proof.Machine Sys2Proof.Safety Sys2Proof.Laws
open Sys2Proof.AskHub (tget?_tmap)

/-- The translation caches of the device, and nothing but the named entries gone from them. -/
def Removed (s t : State) (m : TlbEntry → Bool) : Prop :=
  (∀ k, (t.tile k).tlb = (s.tile k).tlb.filter fun e => !m e)
    ∧ (∀ k, (t.streamer k).tlb = (s.streamer k).tlb.filter fun e => !m e)
    ∧ ∀ k, (t.bh k).tlb2 = (s.bh k).tlb2.filter fun e => !m e

/-- A field of a table every entry of which is changed, where the default entry's field does not change. -/
theorem tget_tmap {α β : Type} (t : Tab α) (f : α → α) (d : α) (g : α → β) (h : β → β) (hf : ∀ x, g (f x) = h (g x)) (hd : h (g d) = g d)
    (k : Nat) : g (tget (tmap t fun _ => f) k d) = h (g (tget t k d)) := by
  unfold tget
  rw [tget?_tmap]
  cases tget? t k with
  | none => exact hd.symm
  | some x => exact hf x

section
variable {s : State} {fn : Nat} {m : TlbEntry → Bool}

theorem removed_removeEntries (s : State) (m : TlbEntry → Bool) : Removed s (s.removeEntries m) m :=
  ⟨tget_tmap s.tiles (fun t => { t with tlb := t.tlb.filter fun e => !m e }) {} Tile.tlb (List.filter fun e => !m e) (fun _ => rfl) rfl,
    tget_tmap s.streamers (fun t => { t with tlb := t.tlb.filter fun e => !m e }) {} Streamer.tlb (List.filter fun e => !m e)
      (fun _ => rfl) rfl,
    tget_tmap s.bhs (fun b => { b with tlb2 := b.tlb2.filter fun e => !m e }) {} Bulkhead.tlb2 (List.filter fun e => !m e)
      (fun _ => rfl) rfl⟩

/-- A GO while BUSY does nothing. -/
theorem shoot_busy {ctl : Word → Word} {beyond wb : Bool} (h : (s.fn fn).sdbusy = true) : s.shoot fn ctl beyond wb m = s := if_pos h

/-- A GO within the table: BUSY, and the named translations are gone. -/
theorem shoot_within {ctl : Word → Word} {wb : Bool} (h : (s.fn fn).sdbusy = false) :
    ((s.shoot fn ctl false wb m).fn fn).sdbusy = true ∧ Removed s (s.shoot fn ctl false wb m) m := by
  unfold State.shoot
  rw [if_neg (by rw [h]; decide)]
  dsimp only
  rw [if_neg (by decide)]
  exact ⟨by rw [modFn_fn], removed_removeEntries (s.modFn fn fun f => { f with sdctl := ctl f.sdctl }) m⟩

/-- A GO beyond the table: ERR, and no cache is touched. -/
theorem shoot_beyond {ctl : Word → Word} {wb : Bool} (h : (s.fn fn).sdbusy = false) :
    ((s.shoot fn ctl true wb m).fn fn).sderr = true ∧ (s.shoot fn ctl true wb m).tiles = s.tiles := by
  unfold State.shoot
  rw [if_neg (by rw [h]; decide)]
  dsimp only
  rw [if_pos rfl]
  exact ⟨by rw [modFn_fn], rfl⟩

theorem shoot2_of {ctl : Word → Word} {wb : Bool} {region : Option (Nat × Nat)} (h : s.s2busy = false) :
    (s.shoot2 ctl wb region m).s2busy = true ∧ Removed s (s.shoot2 ctl wb region m) m := by
  unfold State.shoot2
  rw [if_neg (by rw [h]; decide)]
  exact ⟨rfl, removed_removeEntries s m⟩

/-- No range: nothing is written back, nothing evicted. -/
theorem evictAll_nil (s : State) : s.evictAll [] = some s := by
  have h : linesIn s [] = [] := by simp [linesIn]
  unfold State.evictAll
  rw [h]
  rfl

theorem complete_held (h : fn ≠ 65) (hw : (s.fn fn).sdwait.any (accessLeft s) = true) : exec (.shootdownComplete fn) s = .next s := by
  change execShootdownComplete fn s = _
  unfold execShootdownComplete
  dsimp only
  rw [if_neg (by simpa using h), hw, Bool.or_true, if_pos rfl]

theorem complete_of (h : fn ≠ 65) (hb : (s.fn fn).sdbusy = true) (hw : (s.fn fn).sdwait.any (accessLeft s) = false)
    (hl : (s.fn fn).sdlines = []) :
    exec (.shootdownComplete fn) s = .next (s.setFn fn { s.fn fn with sdbusy := false, sdwait := [], sdlines := [] }) := by
  change execShootdownComplete fn s = _
  unfold execShootdownComplete
  dsimp only
  rw [if_neg (by simpa using h), hb, hw, if_neg (by decide), hl, evictAll_nil]
  rfl

theorem complete2_of (hb : s.s2busy = true) (hw : s.s2wait.any (accessLeft s) = false) (hl : s.s2lines = []) :
    exec (.shootdownComplete 65) s = .next { s with s2busy := false, s2wait := [], s2lines := [] } := by
  change execShootdownComplete 65 s = _
  unfold execShootdownComplete
  rw [if_pos (by decide), hb, hw, if_neg (by decide), hl, evictAll_nil]

end

/-- Settles O46: every shootdown removes by its own test, `removed_removeEntries`. -/
theorem shootdowns : Obligations.Shootdowns := by
  intro s fn pasid size tag wb only page
  refine ⟨fun hb hp => ?_, fun hb hp => ?_, fun hb => ⟨_, rfl, shoot_within hb⟩, fun hb => ?_,
    fun h2 => ⟨⟨_, rfl, shoot2_of h2⟩, ⟨_, rfl, shoot2_of h2⟩, ⟨_, rfl, shoot2_of h2⟩⟩,
    fun hn hb => ⟨complete_held hn, complete_of hn hb⟩, complete2_of⟩
  · have hin : pasidOver s fn pasid = false := decide_eq_false (Nat.not_le.2 hp)
    constructor
    · refine ⟨_, rfl, ?_⟩
      rw [hin]
      exact shoot_within hb
    · refine ⟨_, rfl, ?_⟩
      rw [hin]
      exact shoot_within hb
  · refine ⟨_, rfl, ?_⟩
    rw [show pasidOver s fn pasid = true from decide_eq_true hp]
    exact shoot_beyond hb
  · exact ⟨congrArg _ (shoot_busy hb), congrArg _ (shoot_busy hb), congrArg _ (shoot_busy hb)⟩

end Sys2Proof.ShootdownWork

/-! PROOFS of the statement on stored bytes (09 R183, 14 R248): it fails in a state whose slice holds more lines of a set than the set
has ways, which nothing in the statement excludes. -/

namespace Sys2Proof.OverfullSet
open Sys2Proof Sys2Proof.Machine Sys2Proof.Safety Sys2Proof.Laws

/-- Seventeen lines of set 0, the line of address 0 among them. -/
def lines : List CacheLine :=
  (List.range 17).map fun i => { line := 2048 * i, data := [], dirty := false, cls := 0, reads := 15, cxl := false }

/-- A write of one byte, 1, to address 0. -/
def byteWrite : HomeReq := { src := .elem 0, id := 0, pa := 0, op := .write 1 1, cls := 0, reads := 15, word := 0 }

/-- The write stands at the head of the arrival queue of slice 0, whose bulkhead's gate is open. -/
def overfull : State :=
  { State.reset with slices := [(0, { arrivals := [byteWrite], cache := lines })], bhs := [(0, { mode := 1 })] }

/-- The device memory of an outcome. -/
def memoryAfter : Out → Mem
  | .next t => t.mem
  | _ => []

/-- The written line finds no way beside the sixteen others of its set, and goes to memory. -/
theorem memory_written : memoryAfter (exec (.homeSliceApply 0) overfull) = [(0, 1)] := rfl

/-- Refutes O54: a hit in a set of more lines than ways writes the line to memory, which the statement says is unchanged. -/
theorem not_storedBytes : ¬ Obligations.StoredBytes := by
  unfold Obligations.StoredBytes
  intro h
  obtain ⟨t, ht, hmem, -⟩ := (h overfull 0).2 byteWrite [] 1 1 rfl rfl rfl rfl (by decide) rfl (.inl rfl)
  have hkept : memoryAfter (exec (.homeSliceApply 0) overfull) = overfull.mem := by rw [ht]; exact hmem
  rw [memory_written] at hkept
  exact absurd hkept (by decide)

end Sys2Proof.OverfullSet

/-! PROOFS of the statement on the step: the instruction that each kind of turn runs (06 R91, 10 R201, 12 R220, 03 R37). -/

namespace Sys2Proof.StepTurns
open Sys2Proof Sys2Proof.Machine Sys2Proof.Safety Sys2Proof.Laws
open Sys2Proof.FaultWork (foldl_keeps)

/-- A step runs the turn at the head of the agenda. -/
theorem step_of {s : State} {turn : Turn} {rest : List Turn} (h : s.agenda = turn :: rest) :
    step s = runTurn turn { s with agenda := rest } := by
  unfold step State.nextTurn
  rw [h]

section
variable {u : State} {k : Nat} {i : Instr}

/-- The instruction of a slot, with its literal. -/
theorem instrAt_of {p : Page} {n : Nat} (hk : p.kind n = 1)
    (hi : decodeWord (p.slot n) (if n < 31 ∧ p.kind (n + 1) = 2 then p.slot (n + 1) else 0) = .ok i) :
    p.instrAt n = some (i, p.slot n, if n < 31 ∧ p.kind (n + 1) = 2 then p.slot (n + 1) else 0) := by
  unfold Page.instrAt
  rw [if_neg (by simp [hk])]
  simp only [Bool.and_eq_true, decide_eq_true_eq, beq_iff_eq, hi]

theorem elemTurn_fires {key n beat : Nat} {e : Elem} (he : u.elem? key = some e) (hc : clockRuns u (bhOf key) = true)
    (hi : e.issue = none) (hf : fires u key e = some (n, beat)) (hb : breaksAt u key e n = false)
    (hm : (u.elemCount key).counted u.cycle = false) {w l : Word} (hx : e.page.instrAt n = some (i, w, l)) :
    elemTurn key u = exec i { u with focus := .elem key n w l } := by
  simp [elemTurn, he, hc, hm, hf, hi, hb, hx]

/-- A sequencer that serves its queue takes the oldest command first. -/
def takeQueued (k : Nat) (s : State) : State :=
  match (s.tile k).current, (s.tile k).cmdq with
  | none, c :: rest => if (s.tile k).serving then s.setTile k { s.tile k with current := some c, cmdq := rest } else s
  | _, _ => s

/-- An attempt of the command that a sequencer executes. -/
def attempt (k : Nat) (s : State) : Out :=
  match (s.tile k).command with
  | none => .next s
  | some c =>
    match decodeSeq c with
    | none => .next (s.seqIllegal k)
    | some i => exec i { s with focus := .sequencer k }

theorem takeQueued_eq_self (h : (u.tile k).current ≠ none ∨ (u.tile k).serving = false) : takeQueued k u = u := by
  unfold takeQueued
  split
  next hn _ => rw [if_neg (by simp [h.resolve_left (absurd hn)])]
  · rfl

theorem takeQueued_serving {c : EngineCmd} {more : List EngineCmd} (hn : (u.tile k).current = none)
    (hs : (u.tile k).serving = true) (hq : (u.tile k).cmdq = c :: more) :
    takeQueued k u = u.setTile k { u.tile k with current := some c, cmdq := more } := by
  unfold takeQueued
  split
  next d more' _ hq' =>
    obtain ⟨rfl, rfl⟩ := List.cons.inj (hq.symm.trans hq')
    exact if_pos hs
  next h => exact absurd hq (h c more hn)

theorem attempt_of {c : DWord} (hc : (u.tile k).command = some c) (hd : decodeSeq c = some i) :
    attempt k u = exec i { u with focus := .sequencer k } := by
  unfold attempt
  rw [hc]
  dsimp only
  rw [hd]

/-- A sequencer that runs and whose time has come makes one attempt. -/
theorem sequencerTurn_runs (hc : clockRuns u (k / 64) = true) (ht : throttled u (k / 64) = false) (hr : tileRuns u k = true)
    (ha : (u.tile k).seqAt ≤ u.cycle) : sequencerTurn k u = attempt k (takeQueued k u) := by
  have hstop : (!clockRuns u (k / 64) || throttled u (k / 64) || !tileRuns u k || decide (u.cycle < (u.tile k).seqAt)) = false := by
    rw [hc, ht, hr, decide_eq_false (Nat.not_lt.2 ha)]
    rfl
  unfold sequencerTurn
  rw [hstop]
  rfl

theorem islandTurn_of {c : EngineCmd} {more : List EngineCmd} (hc : clockRuns u (k / 4) = true) (ht : throttled u (k / 4) = false)
    (hq : (u.island k).queue = c :: more) (hd : decodeToken c.hi c.lo = some i) :
    islandTurn k u = exec i { u with focus := .island k } := by
  simp [islandTurn, hc, ht, hq, hd]

/-- A queue whose spine is frozen, or whose engines find no walker, does nothing. -/
theorem queueTurn_held (h : u.spineFrozen = true ∨ queueWalks u k = true) : queueTurn k u = .next u := by
  unfold queueTurn
  rw [if_pos (by rcases h with h | h <;> simp [h])]

/-- A queue that runs: its doorbell's commands first, then its graph's node or its head command. -/
theorem queueTurn_of (hf : u.spineFrozen = false) (hw : queueWalks u k = false) : queueTurn k u =
    if (u.queue k).unread = true ∧ (u.queue k).takenAt ≠ some u.spine then
      execQdb (u.queue k).qmapTag (u.queue k).qmapLocal (u.queue k).tail u
    else match (u.queue k).graph with
      | some g => match g.nodes[g.current]? with
        | none => .next u
        | some n => exec n.instr { u with focus := .queue k }
      | none => match (u.queue k).accepted with
        | [] => .next u
        | a :: _ => exec a.cmd.instr { u with focus := .queue k } := by
  unfold queueTurn
  rw [hf, hw, if_neg (by decide)]
  simp only [Bool.and_eq_true, bne_iff_ne] <;> rfl

/-! ## Cycles that pass -/

theorem modElem_cycle (s : State) (k : Nat) (f : Elem → Elem) : (s.modElem k f).cycle = s.cycle := by
  unfold State.modElem
  split <;> rfl

theorem haltWatched_cycle (s : State) : s.haltWatched.cycle = s.cycle := by
  refine foldl_keeps State.cycle (fun v p => ?_) _ s
  split
  · rfl
  · exact (modElem_cycle ..).trans (modElem_cycle ..)

theorem passEngine_cycle (s : State) (bh upTo n : Nat) : (s.passEngine bh upTo n).cycle = s.cycle := by
  unfold State.passEngine
  split
  · dsimp only
    split
    · rfl
    · split <;> rfl
  · rfl

theorem passElement_cycle (s : State) (upTo key : Nat) : (s.passElement upTo key).cycle = s.cycle := rfl

theorem passBulkhead_cycle (s : State) (upTo bh : Nat) : (s.passBulkhead upTo bh).cycle = s.cycle := by
  unfold State.passBulkhead
  split
  · rfl
  · exact (foldl_keeps State.cycle (fun _ _ => passElement_cycle ..) _ _).trans (foldl_keeps State.cycle (fun _ _ => passEngine_cycle ..) _ _)

theorem passCycles_cycle (s : State) (n : Nat) : (s.passCycles n).cycle = s.cycle + n := by
  unfold State.passCycles
  split
  next h => rw [beq_iff_eq.1 h, Nat.add_zero]
  · exact congrArg (· + n) ((foldl_keeps State.cycle (fun _ _ => passBulkhead_cycle ..) _ _).trans (haltWatched_cycle s))

end

/-- Settles O52: the turn at the head of the agenda, by its kind. -/
theorem stepRunsDecoded : Obligations.StepRunsDecoded := by
  intro s turn rest hs u
  have hstep : step s = runTurn turn u := step_of hs
  refine ⟨fun key e n beat ht he hc hi hf hb hm => ?_, fun k c i ht hc hh hr ha hn hcmd hd => ?_,
    fun k c more i ht hc hh hr ha hn hv hq hd => ?_, fun k c more i ht hc hh hq hd => ?_, fun q ht h => ?_, fun q ht hf hw => ?_,
    fun i ht hi hm => ?_, fun n ht => ?_⟩
  · intro lit i hk hd
    rw [hstep, ht]
    exact elemTurn_fires he hc hi hf hb hm (instrAt_of hk hd)
  · rw [hstep, ht]
    exact (sequencerTurn_runs hc hh hr ha).trans (by rw [takeQueued_eq_self hn, attempt_of hcmd hd])
  · rw [hstep, ht]
    refine (sequencerTurn_runs hc hh hr ha).trans ?_
    rw [takeQueued_serving hn hv hq]
    exact attempt_of (by rw [setTile_tile]; rfl) hd
  · rw [hstep, ht]
    exact islandTurn_of hc hh hq hd
  · rw [hstep, ht]
    exact queueTurn_held h
  · rw [hstep, ht]
    have hturn : runTurn (.queue q) u = _ := queueTurn_of hf hw
    refine ⟨fun h1 h2 => hturn.trans (if_pos ⟨h1, h2⟩), fun hno => ⟨fun g n hg hn => ?_, fun a more hg ha => ?_⟩⟩
    all_goals
      rw [hturn, if_neg (by rintro ⟨h1, h2⟩; rcases hno with h | h; exacts [Bool.false_ne_true (h.symm.trans h1), h2 h])]
      simp only [*]
  · rw [hstep, ht]
    exact if_pos (by rw [hi, hm]; rfl)
  · rw [hstep, ht]
    exact ⟨rfl, passCycles_cycle u n⟩

end Sys2Proof.StepTurns

/-! PROOFS about the codes of the number formats (07 R120, R121): what a code decodes to, and that magnitude codes are in the order of
their magnitudes; then the statement on compares (06 R103). -/

namespace Sys2Proof.Codes
open Sys2Proof Sys2Proof.Machine Sys2Proof.Safety Sys2Proof.Laws Sys2Proof.Arithmetic

/-! ## Magnitude codes -/

/-- The magnitude of a code without its sign, in units of the smallest subnormal. -/
def magUnits (f : Fmt) (m : Nat) : Nat :=
  if m / 2 ^ f.frac = 0 then m % 2 ^ f.frac else (2 ^ f.frac + m % 2 ^ f.frac) * 2 ^ (m / 2 ^ f.frac - 1)

/-- The step from a magnitude code to the next one. -/
def ulp (f : Fmt) (m : Nat) : Nat := 2 ^ (m / 2 ^ f.frac - 1)

section
variable {f : Fmt}

theorem ulp_pos (m : Nat) : 0 < ulp f m := Nat.two_pow_pos _

@[simp] theorem magUnits_zero : magUnits f 0 = 0 := by simp [magUnits]

theorem magUnits_succ (m : Nat) : magUnits f (m + 1) = magUnits f m + ulp f m := by
  have hB : 0 < 2 ^ f.frac := Nat.two_pow_pos _
  have hr := Nat.mod_lt m hB
  have hm := Nat.div_add_mod m (2 ^ f.frac)
  unfold magUnits ulp
  by_cases hc : m % 2 ^ f.frac + 1 < 2 ^ f.frac
  · have hsucc : m + 1 = 2 ^ f.frac * (m / 2 ^ f.frac) + (m % 2 ^ f.frac + 1) := by omega
    have hd : (m + 1) / 2 ^ f.frac = m / 2 ^ f.frac := by rw [hsucc, Nat.mul_add_div hB, Nat.div_eq_of_lt hc, Nat.add_zero]
    have he : (m + 1) % 2 ^ f.frac = m % 2 ^ f.frac + 1 := by rw [hsucc, Nat.mul_add_mod, Nat.mod_eq_of_lt hc]
    rw [hd, he]
    split
    next h => rw [h, Nat.zero_sub, pow_zero]
    · rw [← Nat.add_assoc, Nat.succ_mul]
  · have hlast : m % 2 ^ f.frac + 1 = 2 ^ f.frac := by omega
    have hsucc : m + 1 = 2 ^ f.frac * (m / 2 ^ f.frac + 1) := by rw [Nat.mul_succ]; omega
    have hd : (m + 1) / 2 ^ f.frac = m / 2 ^ f.frac + 1 := by rw [hsucc, Nat.mul_div_cancel_left _ hB]
    have he : (m + 1) % 2 ^ f.frac = 0 := by rw [hsucc, Nat.mul_mod_right]
    rw [hd, he, if_neg (Nat.succ_ne_zero _), Nat.add_zero, Nat.add_sub_cancel]
    split
    next h => rw [h, pow_zero, Nat.mul_one, hlast]
    next h =>
      obtain ⟨e, he'⟩ := Nat.exists_eq_succ_of_ne_zero h
      rw [he', Nat.succ_sub_one, pow_succ, ← Nat.succ_mul]
      have : (2 ^ f.frac + m % 2 ^ f.frac).succ = 2 ^ f.frac * 2 := by omega
      rw [this]
      ring

theorem magUnits_strictMono : StrictMono (magUnits f) :=
  strictMono_nat_of_lt_succ fun m => by rw [magUnits_succ]; exact Nat.lt_add_of_pos_right (ulp_pos m)

@[simp] theorem magUnits_lt_iff {m n : Nat} : magUnits f m < magUnits f n ↔ m < n := magUnits_strictMono.lt_iff_lt

@[simp] theorem magUnits_le_iff {m n : Nat} : magUnits f m ≤ magUnits f n ↔ m ≤ n := magUnits_strictMono.le_iff_le

@[simp] theorem magUnits_inj {m n : Nat} : magUnits f m = magUnits f n ↔ m = n := magUnits_strictMono.injective.eq_iff

theorem magUnits_eq_zero {m : Nat} : magUnits f m = 0 ↔ m = 0 :=
  ⟨fun h => magUnits_inj.1 (h.trans magUnits_zero.symm), fun h => by rw [h, magUnits_zero]⟩

theorem magUnits_pos {m : Nat} : 0 < magUnits f m ↔ 0 < m := by
  simp only [Nat.pos_iff_ne_zero, ne_eq, magUnits_eq_zero]

/-! ## The units of a code -/

theorem units_eq (c : Nat) : units f c = if negCode f c = true then -(magUnits f (c % f.signBit) : Int) else magUnits f (c % f.signBit) := by
  unfold units negCode magUnits
  simp only [beq_iff_eq]
  split <;> split <;> simp_all

theorem units_of_lt {m : Nat} (h : m < f.signBit) : units f m = magUnits f m := by
  have hn : negCode f m = false := by simp [negCode, Nat.div_eq_of_lt h]
  rw [units_eq, hn, Nat.mod_eq_of_lt h]
  rfl

/-! ## What a code decodes to -/

/-- A format with fraction and exponent bits. -/
structure Proper (f : Fmt) : Prop where
  frac : 1 ≤ f.frac
  ebits : 1 ≤ f.ebits

theorem Proper.of_ieee (h : ieeeFormat f) : Proper f := by
  rcases h with rfl | rfl | rfl | rfl <;> exact ⟨by decide, by decide⟩

theorem signBit_pos : 0 < f.signBit := Nat.two_pow_pos _

theorem signBit_eq : f.signBit = 2 ^ f.ebits * 2 ^ f.frac := by rw [Fmt.signBit, pow_add, Nat.mul_comm]

theorem infMag_add : f.infMag + 2 ^ f.frac = f.signBit := by
  rw [signBit_eq, Fmt.infMag, ← Nat.succ_mul, Nat.succ_eq_add_one, Nat.sub_add_cancel Nat.one_le_two_pow]

theorem infMag_lt : f.infMag < f.signBit := by
  rw [← infMag_add]
  exact Nat.lt_add_of_pos_right (Nat.two_pow_pos _)

theorem mag_lt (c : Nat) : c % f.signBit < f.signBit := Nat.mod_lt _ signBit_pos

/-- The exponent field is full from infinity on. -/
theorem expField_full {m : Nat} (h : m < f.signBit) : m / 2 ^ f.frac = 2 ^ f.ebits - 1 ↔ f.infMag ≤ m := by
  have hB : 0 < 2 ^ f.frac := Nat.two_pow_pos _
  have hlt : m / 2 ^ f.frac < 2 ^ f.ebits := by
    rw [Nat.div_lt_iff_lt_mul hB, ← signBit_eq]
    exact h
  rw [Fmt.infMag, ← Nat.le_div_iff_mul_le hB]
  omega

/-- The significand and the exponent of a finite magnitude code. -/
def sig (f : Fmt) (m : Nat) : Nat := if m / 2 ^ f.frac = 0 then m % 2 ^ f.frac else 2 ^ f.frac + m % 2 ^ f.frac
def sigExp (f : Fmt) (m : Nat) : Int := ((m / 2 ^ f.frac - 1 : Nat) : Int) + (1 - f.bias - f.frac)

theorem magUnits_eq_sig (m : Nat) : magUnits f m = sig f m * 2 ^ (m / 2 ^ f.frac - 1) := by
  unfold magUnits sig
  split
  next h => rw [h, Nat.zero_sub, pow_zero, Nat.mul_one]
  · rfl

theorem sig_eq_zero {m : Nat} : sig f m = 0 ↔ m = 0 := by
  rw [← magUnits_eq_zero (f := f) (m := m), magUnits_eq_sig, Nat.mul_eq_zero, or_iff_left (Nat.two_pow_pos _).ne']

theorem decode_nan {c : Nat} (h : nanCode f c = true) :
    f.decode c = .nan (negCode f c) (c % f.signBit % 2 ^ f.frac / 2 ^ (f.frac - 1) == 0) (c % f.signBit % 2 ^ f.frac) f.frac := by
  have h : f.infMag < c % f.signBit := by simpa [nanCode] using h
  have hfull := (expField_full (mag_lt c)).2 h.le
  have hm : c % f.signBit % 2 ^ f.frac ≠ 0 := by
    have := Nat.div_add_mod (c % f.signBit) (2 ^ f.frac)
    rw [hfull, Nat.mul_comm, ← Fmt.infMag] at this
    omega
  unfold Fmt.decode
  simp only [hfull, beq_self_eq_true, if_true]
  rw [if_neg (by simpa using hm)]
  rfl

theorem decode_inf {c : Nat} (h : infCode f c = true) : f.decode c = .inf (negCode f c) := by
  have h : c % f.signBit = f.infMag := by simpa [infCode] using h
  have hfull := (expField_full (mag_lt c)).2 h.ge
  have hm : c % f.signBit % 2 ^ f.frac = 0 := by rw [h, Fmt.infMag, Nat.mul_mod_left]
  unfold Fmt.decode
  simp only [hfull, beq_self_eq_true, if_true, hm]
  rfl

theorem decode_fin {c : Nat} (h : finiteCode f c = true) :
    f.decode c = .fin (negCode f c) (sig f (c % f.signBit)) (sigExp f (c % f.signBit)) := by
  have h : c % f.signBit < f.infMag := by simpa [finiteCode] using h
  have hnot := mt (expField_full (mag_lt c)).1 (Nat.not_le.2 h)
  unfold Fmt.decode sig sigExp
  rw [if_neg (by simpa using hnot)]
  simp only [beq_iff_eq]
  split
  next h0 => simp only [h0, Nat.zero_sub, Nat.cast_zero, zero_add]; rfl
  next h0 =>
    have hexp (x y z : Int) : x - 1 + (1 - y - z) = x - y - z := by ring
    rw [Nat.cast_sub (Nat.one_le_iff_ne_zero.2 h0), Nat.cast_one, hexp]
    rfl

/-- A code is a NaN, infinite or finite. -/
theorem code_cases (f : Fmt) (c : Nat) : nanCode f c = true ∨ infCode f c = true ∨ finiteCode f c = true := by
  simp only [nanCode, infCode, finiteCode, decide_eq_true_eq, beq_iff_eq]
  omega

theorem infCode_of_nan {c : Nat} (h : nanCode f c = true) : infCode f c = false := by
  simp only [nanCode, infCode, decide_eq_true_eq, beq_eq_false_iff_ne] at *
  omega

theorem finiteCode_of_nan {c : Nat} (h : nanCode f c = true) : finiteCode f c = false := by
  simp only [nanCode, finiteCode, decide_eq_true_eq, decide_eq_false_iff_not] at *
  omega

theorem nanCode_of_inf {c : Nat} (h : infCode f c = true) : nanCode f c = false := by
  simp only [nanCode, infCode, decide_eq_false_iff_not, beq_iff_eq] at *
  omega

theorem finiteCode_of_inf {c : Nat} (h : infCode f c = true) : finiteCode f c = false := by
  simp only [infCode, finiteCode, decide_eq_false_iff_not, beq_iff_eq] at *
  omega

theorem nanCode_of_finite {c : Nat} (h : finiteCode f c = true) : nanCode f c = false := by
  simp only [nanCode, finiteCode, decide_eq_true_eq, decide_eq_false_iff_not] at *
  omega

theorem infCode_of_finite {c : Nat} (h : finiteCode f c = true) : infCode f c = false := by
  simp only [infCode, finiteCode, decide_eq_true_eq, beq_eq_false_iff_ne] at *
  omega

theorem finiteCode_of_zero (hf : Proper f) {c : Nat} (h : zeroCode f c = true) : finiteCode f c = true := by
  have h : c % f.signBit = 0 := by simpa [zeroCode] using h
  have : 0 < f.infMag := Nat.mul_pos (by have := Nat.pow_le_pow_right (n := 2) (by decide) hf.ebits; omega) (Nat.two_pow_pos _)
  simpa [finiteCode, h] using this

theorem decode_isNaN (c : Nat) : (f.decode c).isNaN = nanCode f c := by
  rcases code_cases f c with h | h | h
  · rw [decode_nan h, h]; rfl
  · rw [decode_inf h, nanCode_of_inf h]; rfl
  · rw [decode_fin h, nanCode_of_finite h]; rfl

theorem decode_isInf (c : Nat) : (f.decode c).isInf = infCode f c := by
  rcases code_cases f c with h | h | h
  · rw [decode_nan h, infCode_of_nan h]; rfl
  · rw [decode_inf h, h]; rfl
  · rw [decode_fin h, infCode_of_finite h]; rfl

theorem decode_neg (c : Nat) : (f.decode c).neg = negCode f c := by
  rcases code_cases f c with h | h | h
  · rw [decode_nan h]; rfl
  · rw [decode_inf h]; rfl
  · rw [decode_fin h]; rfl

theorem decode_isZero (hf : Proper f) (c : Nat) : (f.decode c).isZero = zeroCode f c := by
  have hz : nanCode f c = true ∨ infCode f c = true → zeroCode f c = false := by
    intro h
    by_contra hc
    have := finiteCode_of_zero hf (by simpa using hc)
    rcases h with h | h
    · rw [finiteCode_of_nan h] at this; cases this
    · rw [finiteCode_of_inf h] at this; cases this
  rcases code_cases f c with h | h | h
  · rw [decode_nan h, hz (.inl h)]; rfl
  · rw [decode_inf h, hz (.inr h)]; rfl
  · rw [decode_fin h, Bool.eq_iff_iff, FVal.isZero, beq_iff_eq, sig_eq_zero, zeroCode, beq_iff_eq]

/-- The quiet bit of a NaN's fraction is that of its code. -/
theorem decode_isSignalling (hf : Proper f) (c : Nat) : (f.decode c).isSignalling = signallingCode f c := by
  unfold signallingCode
  rcases code_cases f c with h | h | h
  · have hdiv : c % f.signBit % 2 ^ f.frac / 2 ^ (f.frac - 1) = c % f.signBit / 2 ^ (f.frac - 1) % 2 := by
      rw [← Nat.sub_add_cancel hf.frac, Nat.add_sub_cancel, pow_succ, Nat.mod_mul_right_div_self]
    rw [decode_nan h, h, ← hdiv]
    rfl
  · rw [decode_inf h, nanCode_of_inf h]; rfl
  · rw [decode_fin h, nanCode_of_finite h]; rfl

/-! ## Compares (06 R103) -/

theorem key_eq (c : Nat) : f.key c = if negCode f c = true then -((c % f.signBit : Nat) : Int) - 1 else (c % f.signBit : Nat) := rfl

/-- Codes that are no NaN are in the order of their values, the two zeros apart. -/
theorem key_eq_iff (a b : Nat) : ((zeroCode f a && zeroCode f b) || f.key a == f.key b) = (units f a == units f b) := by
  have ha := magUnits_eq_zero (f := f) (m := a % f.signBit)
  have hb := magUnits_eq_zero (f := f) (m := b % f.signBit)
  have hab := magUnits_inj (f := f) (m := a % f.signBit) (n := b % f.signBit)
  rw [units_eq, units_eq, key_eq, key_eq, Bool.eq_iff_iff]
  simp only [Bool.or_eq_true, Bool.and_eq_true, beq_iff_eq, zeroCode]
  split <;> split <;> omega

theorem key_lt_iff (a b : Nat) : (!(zeroCode f a && zeroCode f b) && decide (f.key a < f.key b)) = decide (units f a < units f b) := by
  have ha := magUnits_eq_zero (f := f) (m := a % f.signBit)
  have hb := magUnits_eq_zero (f := f) (m := b % f.signBit)
  have hab := magUnits_lt_iff (f := f) (m := a % f.signBit) (n := b % f.signBit)
  have hba := magUnits_lt_iff (f := f) (m := b % f.signBit) (n := a % f.signBit)
  rw [units_eq, units_eq, key_eq, key_eq, Bool.eq_iff_iff]
  simp only [Bool.and_eq_true, Bool.not_eq_true', Bool.and_eq_false_iff, decide_eq_true_eq, beq_eq_false_iff_ne, zeroCode]
  split <;> split <;> omega

/-- What a comparison gives where neither is a NaN. -/
def ordering : Cmp → Int → Int → Bool
  | .eq => fun u v => u == v
  | .ne => fun u v => u != v
  | .lt => fun u v => decide (u < v)
  | .le => fun u v => decide (u ≤ v)
  | .un => fun _ _ => false

/-- What it gives where one is, and whether a quiet NaN raises NV. -/
def onNaN : Cmp → Bool
  | .ne => true
  | .un => true
  | _ => false
def quietRaises : Cmp → Bool
  | .lt => true
  | .le => true
  | _ => false

theorem compared_eq (hf : Proper f) (c : Cmp) (a b : Nat) :
    compared (fcmp f c a b) = resultOf (comparison f a b (onNaN c) (ordering c) (quietRaises c)) := by
  have heq := key_eq_iff (f := f) a b
  have hlt := key_lt_iff (f := f) a b
  have hle : (decide (units f a < units f b) || units f a == units f b) = decide (units f a ≤ units f b) := by
    rw [Bool.eq_iff_iff, Bool.or_eq_true, decide_eq_true_eq, beq_iff_eq, decide_eq_true_eq, le_iff_lt_or_eq]
  unfold fcmp comparison compared
  simp only [decode_isNaN, decode_isSignalling hf, decode_isZero hf, heq]
  cases hn : nanCode f a || nanCode f b with
  | true =>
    cases c <;> simp [onNaN, quietRaises, resultOf, b2n, flagIf]
  | false =>
    have hs : signallingCode f a = false ∧ signallingCode f b = false := by
      rw [Bool.or_eq_false_iff] at hn
      simp [signallingCode, hn.1, hn.2]
    simp only [Bool.not_false, Bool.true_and, hlt, hle, hs.1, hs.2]
    have hb (b : Bool) : ({ bits := b2n b, flags := 0 } : FRes) = resultOf (if b = true then 1 else 0, 0) := by cases b <;> rfl
    cases c <;> exact hb _

end

theorem proper32 : Proper fmt32 := .of_ieee (.inr (.inl rfl))
theorem proper64 : Proper fmt64 := .of_ieee (.inl rfl)

section
variable {i : Instr} {t : Trig} {d : Operand}

theorem writes_compared {c : Cmp}
    (hexec : ∀ s, exec i s = runBeat i t (writeBody d fun _ r => compared (fcmp fmt32 c (r.val 0).toNat (r.val 1).toNat)) s) :
    Writes i t d fun x => comparison fmt32 (x 0).toNat (x 1).toNat (onNaN c) (ordering c) (quietRaises c) :=
  writes_of_result hexec fun _ => compared_eq proper32 c _ _

theorem writes_comparedPair {c : Cmp}
    (hexec : ∀ s, exec i s = runBeat i t (writeBody d fun _ r => compared (fcmp fmt64 c (r.pair 0) (r.pair 1))) s) :
    WritesFromPairs i t d fun x => comparison fmt64 (x 0) (x 1) (onNaN c) (ordering c) (quietRaises c) := by
  intro x s h
  rw [hexec, runBeat_write h, compared_eq proper64]
  simp [resultOf]

end

/-- Settles O7: every compare is `compared_eq` of its condition. -/
theorem floatCompares : Obligations.FloatCompares := fun _ _ _ _ =>
  ⟨writes_compared (c := .eq) fun _ => rfl, writes_compared (c := .ne) fun _ => rfl, writes_compared (c := .lt) fun _ => rfl,
    writes_compared (c := .le) fun _ => rfl, writes_compared (c := .un) fun _ => rfl, writes_comparedPair (c := .eq) fun _ => rfl,
    writes_comparedPair (c := .lt) fun _ => rfl, writes_comparedPair (c := .le) fun _ => rfl,
    writes_comparedPair (c := .un) fun _ => rfl⟩

end Sys2Proof.Codes

/-! PROOFS that resets, pools, networks, keys and windows keep the two invariants (04 R44-R68, 19 R338-R343). -/

namespace Sys2Proof.Kept
open Sys2Proof Sys2Proof.Machine Sys2Proof.Safety Sys2Proof.Laws Sys2Proof.ElementBeats
open Sys2Proof.PlacingWork (railAnswered railLost)

variable {v : Kind} {s : State}

/-! ## Single-bulkhead reset (04 R65-R67) -/

theorem holds_qmapWrite (h : v.Holds s) (q : Nat) (w : Word) : v.Answers (execQmapWrite q w s) := by
  unfold execQmapWrite
  exact answers_ite h (by simpa using h)

theorem holds_bhcfgWrite (h : v.Holds s) (b : Nat) (w : Word) : v.Answers (execBhcfgWrite b w s) := by
  unfold execBhcfgWrite
  exact answers_ite h (by simpa using h)

@[simp] theorem holds_resetWindows (s : State) (b : Nat) : v.Holds (s.resetWindows b) ↔ v.Holds s := by
  unfold State.resetWindows
  dsimp only
  rw [holds_modBh]
  refine (holds_foldl_iff (fun u x => ?_) _ _).trans Kind.holds_congr
  split <;> simp

theorem holds_answerSlices (h : v.Holds s) (b : Nat) : v.Holds (s.answerSlices b) := by
  unfold State.answerSlices
  refine holds_foldl _ (fun u n _ hu => ?_) h
  have h1 : v.Holds (u.setSlice (8 * b + n) { u.slice (8 * b + n) with arrivals := [], waiters := [], launches := [] }) :=
    (holds_setSlice_iff _ _ _ (by rfl)).2 hu
  refine (holds_foldl_iff (fun t x => ?_) _ _).2 ((holds_foldl_iff (fun t x => by simp) _ _).2 (holds_foldl _ (fun t r _ ht => holds_applyReq ht _ r) h1))
  split <;> simp

theorem holds_startReset (h : v.Holds s) (b : Nat) : v.Holds (s.startReset b) := by
  unfold State.startReset
  split
  · exact h
  · refine holds_foldl _ (fun u q _ hu => holds_startKill hu ..) ?_
    refine (holds_foldl_iff (fun u a => by simp) _ _).2 ?_
    rw [holds_modBh]
    refine holds_answerSlices ?_ b
    rw [holds_resetWindows, holds_modBh]
    exact h

theorem holds_bhrst (h : v.Holds s) (b : Nat) (w : Word) : v.Answers (execBhrst b w s) := by
  unfold execBhrst
  refine answers_ite h ?_
  rw [answers_next]
  have h1 : v.Holds (s.modBh b fun b => { b with flush := bit w.toNat 30, zero := bit w.toNat 29 }) := by simpa using h
  exact holds_ite (holds_startReset h1 b) h1

@[simp] theorem holds_modClock (s : State) (b : Nat) (f : Bulkhead → Bulkhead) : v.Holds (s.modClock b f) ↔ v.Holds s := holds_modBh ..
@[simp] theorem holds_resetState (s : State) (b n : Nat) : v.Holds (s.resetState b n) ↔ v.Holds s := holds_modClock ..

theorem holds_flushSlices (h : v.Holds s) (b : Nat) : v.Holds (s.flushSlices b) := by
  unfold State.flushSlices
  refine holds_foldl _ (fun u n _ hu => ?_) h
  have hline : ∀ l ∈ (u.slice (8 * b + n)).cache, v.Line l := fun l hl => hu.sliceLine hl
  exact holds_foldl _ (fun t l hl ht => holds_ite (holds_cleanLine ht _ (hline l hl)) ht) hu

theorem holds_gateStep (h : v.Holds s) (b : Nat) : v.Answers (execGate b s) := by
  unfold execGate
  refine answers_ite h ?_
  rw [answers_next]
  have h1 : v.Holds ((if (s.bh b).flush then s.flushSlices b else s).modBh b fun b => { b with replies := [], portal := [] }) := by
    rw [holds_modBh]
    exact holds_ite (holds_flushSlices h b) h
  exact holds_ite h1 (by simpa using h1)

/-- The loss of tiles and slices. -/
theorem holds_dropParts (h : v.Holds s) (p : Nat × Tile → Bool) (q : Nat × Slice → Bool) :
    v.Holds { s with tiles := s.tiles.filter p, slices := s.slices.filter q } := by
  refine h.of_canonical fun ⟨hm, hs, ht, hc⟩ => ?_
  exact ⟨hm, fun x hx => hs x (List.mem_filter.1 hx).1, fun x hx => ht x (List.mem_filter.1 hx).1, hc⟩

@[simp] theorem holds_dropCounters (s : State) (b : Nat) : v.Holds (s.dropCounters b) ↔ v.Holds s := Kind.holds_congr

theorem holds_railAnswered (h : v.Holds s) (b : Nat) : v.Holds (railAnswered s b) := by
  unfold railAnswered
  rw [holds_dropCounters, holds_dropWorks, holds_withdrawAll]
  exact holds_answerSlices (by simpa using h) b

theorem holds_railLost (h : v.Holds s) (b : Nat) : v.Holds (railLost s b) := by
  unfold railLost
  dsimp only
  rw [holds_resetState, holds_modClock]
  exact (holds_dropParts ((holds_dropUnsent s (bhOf · == b)).2 h) _ _).of_eq

theorem holds_railOff (h : v.Holds s) (b : Nat) : v.Answers (execRailOff b s) := by
  unfold execRailOff
  exact answers_ite h (holds_settle (holds_railLost (holds_railAnswered h b) b) _)

theorem holds_railUp (h : v.Holds s) (b : Nat) : v.Answers (execRailUp b s) := by
  unfold execRailUp
  exact answers_ite h (by simpa using h)

theorem holds_pllLock (h : v.Holds s) (b : Nat) : v.Answers (execPllLock b s) := by
  unfold execPllLock
  exact answers_ite h (by simpa using h)

/-- Tiles changed to ones with a scratchpad in canonical form. -/
theorem holds_mapTiles_wf (h : v.Holds s) (b : Nat) {f : Nat → Tile → Tile} (hf : ∀ k t, (f k t).scratch.wf = true) :
    v.Holds (s.mapTiles b f) := by
  cases v with
  | memory => exact canonical_mapTiles h b f fun k t _ => hf k t
  | setUp => exact h

theorem holds_release (h : v.Holds s) (b : Nat) : v.Answers (execRelease b s) := by
  unfold execRelease
  refine answers_ite h ?_
  have h1 : v.Holds (s.modBh b fun b => { b.applyCfg fun n => (s.ovnOf n).on with released := s.cycle }) := by simpa using h
  refine answers_ite h1 ?_
  rw [answers_next]
  refine holds_mapTiles_wf ?_ b fun _ _ => rfl
  refine h1.of_canonical fun ⟨hm, hs, ht, hc⟩ => ?_
  exact ⟨Mem_wf_filter hm _, hs, ht, hc⟩

theorem holds_ready (h : v.Holds s) (b : Nat) : v.Answers (execReady b s) := by
  unfold execReady
  exact answers_ite h (by simpa using h)

/-! ## Pools (04 R50-R54) -/

theorem holds_blank (h : v.Holds s) (b : Nat) : v.Holds (s.blank b) := by
  unfold State.blank
  dsimp only
  rw [holds_modBh, holds_setHub]
  refine (holds_foldl_iff (fun u n => holds_modSlice _ _ _ rfl) _ _).2 (holds_mapTiles_wf ?_ b fun _ _ => rfl)
  simpa using h

theorem holds_beginSwitch (h : v.Holds s) (p j : Nat) (f : Bool) : v.Holds (s.beginSwitch p j f) := by
  unfold State.beginSwitch
  dsimp only
  rw [holds_modPool]
  exact (holds_foldl_iff (fun u b => by simp) _ _).2 h

theorem holds_joinReady (h : v.Holds s) (p : Nat) : v.Holds (s.joinReady p) := by
  unfold State.joinReady
  exact holds_foldl _ (fun u b _ hu => holds_ite hu (by simpa using holds_blank hu b)) h

theorem holds_poolEnable (h : v.Holds s) (p : Nat) (w : Word) : v.Answers (execPoolEnable p w s) := by
  unfold execPoolEnable
  refine answers_ite h ?_
  extract_lets x a y rises t
  have ht : v.Holds t := by simpa [t] using h
  refine answers_ite ?_ ht
  split
  · exact ht
  · exact holds_beginSwitch ht ..

theorem holds_endSlice (h : v.Holds s) (p c : Nat) : v.Holds (s.endSlice p c) := by
  unfold State.endSlice
  dsimp only
  split
  · exact holds_beginSwitch h ..
  · exact holds_joinReady (by simpa using h) _

theorem holds_gangSwitchTick (h : v.Holds s) (p : Nat) : v.Answers (execGangSwitchTick p s) := by
  unfold execGangSwitchTick
  refine answers_ite h ?_
  extract_lets t
  have ht : v.Holds t := by simpa [t] using h
  refine answers_ite (holds_joinReady ht p) ?_
  split
  · split
    · exact ht
    · exact holds_beginSwitch ht ..
  · exact answers_ite (holds_joinReady (by simpa using ht) p) (holds_endSlice ht ..)

theorem holds_endOfSliceSweep (h : v.Holds s) (b : Nat) : v.Answers (execEndOfSliceSweep b s) := by
  unfold execEndOfSliceSweep
  split
  · exact h
  · exact answers_ite h (holds_beginSweep h ..)

/-! ## Saved contexts (19 R339-R343) -/

/-- What an invariant asks of a saved context. -/
def Kind.Saved : Kind → Context → Prop
  | .memory, c => ∀ p ∈ c.tiles, p.2.scratch.wf = true
  | .setUp, _ => True

theorem Kind.Holds.saved (h : v.Holds s) {c : Context} (hc : c ∈ s.contexts) : v.Saved c := by
  cases v with
  | memory => exact h.2.2.2 c hc
  | setUp => trivial

theorem Kind.Holds.context (h : v.Holds s) (b : Nat) : v.Saved (s.context b).sliceEnd := by
  cases v with
  | memory => exact fun p hp => h.2.2.1 p (List.mem_filter.1 hp).1
  | setUp => trivial

theorem Kind.Saved.ofImage {c : Context} (h : v.Saved c) (l : List Byte) : v.Saved (c.ofImage l) := by
  cases v with
  | memory => exact canonical_ofImage h l
  | setUp => trivial

theorem Kind.Saved.quarantined {c : Context} (h : v.Saved c) (q : Bool) : v.Saved { c with quarantined := q } := by
  cases v with
  | memory => exact h
  | setUp => trivial

theorem holds_contexts (h : v.Holds s) {l : List Context} (hl : ∀ c ∈ l, v.Saved c) : v.Holds { s with contexts := l } := by
  cases v with
  | memory => exact ⟨h.1, h.2.1, h.2.2.1, hl⟩
  | setUp => exact h

theorem holds_meetTile (h : v.Holds s) (k : Nat) : v.Holds (s.meetTile k) :=
  h.of_bytes (fun h => canonical_meetScratch h ..) (setUp_meetScratch ..)

theorem holds_meetSave (h : v.Holds s) (b : Nat) : v.Holds (s.meetSave b) :=
  holds_foldl _ (fun _ _ _ hu => holds_meetTile hu _) h

theorem holds_finishSave (h : v.Holds s) (b : Nat) (q : Bool) : v.Holds (s.finishSave b q) := by
  unfold State.finishSave
  dsimp only
  rw [holds_modBh]
  refine holds_blank ?_ b
  have h1 := (holds_foldl_iff (v := v) (f := fun (s : State) n => (s.island (4 * b + n)).queue.foldl (fun s c => s.dropToken c) s)
    (fun u n => holds_foldl_iff (fun t c => by simp) _ _) (List.range 4) s).2 h
  refine holds_contexts h1 fun c hc => ?_
  rcases List.mem_append.1 hc with hc | hc
  · exact h1.saved (List.mem_filter.1 hc).1
  · rw [List.mem_singleton.1 hc]
    exact (h1.context b).quarantined q

theorem holds_savePart (h : v.Holds s) (b f o n : Nat) {g : Context → State → State} (hg : ∀ c t, v.Holds t → v.Holds (g c t)) :
    v.Holds (s.savePart b f o n g) := by
  unfold State.savePart
  dsimp only
  refine holds_ite (by simpa using h) ?_
  have h1 := holds_writeBytes h b f (s.fn f).savePasid (saveAddress s f b + o) (((s.context b).sliceEnd.image.drop o).take n)
  split
  next t e => exact hg _ t (holds_of_eq e h1)
  next t c hc e => simpa using holds_of_eq e h1

theorem holds_saveUnit (h : v.Holds s) (b n : Nat) : v.Holds (s.saveUnit b n) := by
  unfold State.saveUnit
  dsimp only
  split
  · exact holds_savePart h _ _ _ _ fun c t ht => by simpa using ht
  · exact holds_ite (holds_savePart (holds_meetTile (by simpa using h) _) _ _ _ _ fun c t ht => by simpa using ht) h

theorem holds_contextSave (h : v.Holds s) (b : Nat) : v.Answers (execContextSave b s) := by
  unfold execContextSave
  refine answers_ite h ?_
  split
  · exact holds_saveUnit h ..
  · refine answers_ite h ?_
    exact holds_savePart (holds_meetSave h b) _ _ _ _ fun c t ht => holds_finishSave (holds_markGranules ht ..) ..

theorem holds_killMember (h : v.Holds s) (b c : Nat) : v.Holds (s.killMember b c) := by
  unfold State.killMember
  split
  · simpa using holds_blank h b
  · exact holds_startKill h ..

theorem holds_markPhys (h : v.Holds s) (l : List Nat) : v.Holds (s.markPhys l) := by
  unfold State.markPhys
  refine holds_foldl _ (fun u a _ hu => ?_) h
  split
  · exact hu
  · exact holds_markHome hu _

theorem holds_saveQuarantine (h : v.Holds s) (b : Nat) : v.Answers (execSaveQuarantine b s) := by
  unfold execSaveQuarantine
  refine answers_ite h (answers_ite (holds_killMember h ..) ?_)
  have h1 := holds_writePhys (holds_meetSave h b) (s.bh b).qbufBase ((s.meetSave b).context b).sliceEnd.image
  dsimp only
  split
  next t e => exact holds_killMember (holds_of_eq e h1) ..
  next t e => exact holds_finishSave (by simpa using holds_markPhys (holds_of_eq e h1) _) ..

theorem holds_saveDeadline (h : v.Holds s) (p : Nat) : v.Answers (execSaveDeadline p s) := by
  unfold execSaveDeadline
  dsimp only
  split
  · exact h
  · refine answers_ite h ?_
    rw [answers_next]
    refine holds_foldl _ (fun u b _ hu => ?_) (holds_foldl _ (fun u q _ hu => holds_startKill hu ..) h)
    have hu : v.Holds (u.modBh b fun x => { x with late := true }) := by simpa using hu
    exact holds_ite hu (holds_beginSweep hu ..)

theorem holds_restoreContext (h : v.Holds s) {c : Context} (hc : v.Saved c) : v.Holds (s.restoreContext c) := by
  unfold State.restoreContext
  dsimp only
  rw [holds_modBh, holds_setHub]
  refine (holds_foldl_iff (fun u p => holds_modSlice _ _ _ rfl) _ _).2 ((holds_foldl_iff (fun u p => holds_modSlice _ _ _ rfl) _ _).2
    ((holds_foldl_iff (fun u p => holds_modSlice _ _ _ rfl) _ _).2 ((holds_foldl_iff (fun u p => by simp) _ _).2
      ((holds_foldl_iff (fun u p => by simp) _ _).2 (holds_foldl _ (fun u p hp hu => ?_) ((holds_foldl_iff (fun u p => by simp) _ _).2 ?_))))))
  · cases v with
    | memory => exact canonical_setTile hu p.1 (hc p hp)
    | setUp => exact hu
  · exact holds_dropContexts h _

theorem holds_refuseContext (h : v.Holds s) (c : Context) : v.Holds (s.refuseContext c) := by
  unfold State.refuseContext
  split
  · exact holds_startKill h ..
  · exact holds_dropContexts h _

theorem holds_contextRestore (h : v.Holds s) (b : Nat) : v.Answers (execContextRestore b s) := by
  unfold execContextRestore
  split
  next => exact h
  next w hw =>
    refine answers_ite h ?_
    have hb := holds_blank h b
    dsimp only
    split
    next => simpa using hb
    next c hc =>
      have hs : v.Saved c := hb.saved (List.mem_of_find?_eq_some hc)
      have h1 := holds_readBytes hb b w.fn ((s.blank b).fn w.fn).savePasid (saveAddress (s.blank b) w.fn b) .read 0x1000000
      split
      next t y e =>
        have ht := holds_of_eq e h1
        rw [answers_next, holds_modBh]
        exact holds_ite (holds_refuseContext ht c) (holds_restoreContext ht (hs.ofImage _))
      next t y e => simpa using holds_refuseContext (holds_of_eq e h1) c

theorem holds_gangStart (h : v.Holds s) (p : Nat) : v.Answers (execGangStart p s) := by
  unfold execGangStart
  dsimp only
  split
  · exact h
  · refine answers_ite ?_ h
    rw [answers_next, holds_setPool]
    exact (holds_foldl_iff (fun u b => by simp) _ _).2 h

theorem holds_copyGranules (b f p n : Nat) : ∀ {s : State}, v.Holds s → ∀ x y, v.Holds (s.copyGranules b f p n x y).1 := by
  induction n with
  | zero => exact fun h _ _ => h
  | succ n ih =>
    intro s h x y
    unfold State.copyGranules
    split
    next => exact h
    next d hd =>
      split
      · exact h
      · split
        · exact h
        · have hr : v.Holds ((s.countIssue (sliceEngine d.key)).homeRead d 64 0 15).s := holds_homeRead (by simpa using h) ..
          have h1 := holds_resolve hr .none b f p y .write
          dsimp only
          split
          next t c e => exact holds_of_eq e h1
          next t g via e =>
            have ht := holds_of_eq e h1
            split
            · exact ht
            · exact ih (holds_homeWrite (by simpa using ht) ..) _ _

theorem holds_restoreQuarantine (h : v.Holds s) (b : Nat) : v.Answers (execRestoreQuarantine b s) := by
  unfold execRestoreQuarantine
  dsimp only
  split
  next => exact h
  next c hc =>
    refine answers_ite h ?_
    have h1 : v.Holds (if (s.fn c.fn).saveV then
        s.copyGranules b c.fn (s.fn c.fn).savePasid 0x40000 (s.bh b).qbufBase (saveAddress s c.fn b) else (s, 0x40)).1 := by
      split
      · exact holds_copyGranules _ _ _ _ h _ _
      · exact h
    split
    next t e =>
      have ht := holds_of_eq e h1
      rw [answers_next, holds_modBh]
      refine holds_contexts ht fun d hd => ?_
      obtain ⟨d', hd', rfl⟩ := List.mem_map.1 hd
      split
      · exact (ht.saved hd').quarantined false
      · exact ht.saved hd'
    next t e => simpa using holds_of_eq e h1

theorem holds_discard (h : v.Holds s) (b : Nat) : v.Answers (execDiscard b s) := by
  unfold execDiscard
  split
  · exact h
  · split
    · exact holds_startKill h ..
    · rw [answers_next, holds_modBh]
      exact holds_dropContexts h _

/-! ## Owned virtual networks (04 R55, R56) -/

/-- A network in force has 8 to 256 slots. -/
def OvnOk (x : Ovn) : Prop := x.on = true → 8 ≤ x.slots ∧ x.slots ≤ 256

theorem holds_setOvn (h : v.Holds s) (n : Nat) {x : Ovn} (hx : OvnOk (s.ovnOf n) → OvnOk x) : v.Holds (s.setOvn n x) := by
  refine h.of_both (fun hm => hm) fun ⟨hc, hg, ho, hs⟩ => ⟨hc, hg, ?_, hs⟩
  exact forall_tset (P := fun p : Nat × Ovn => OvnOk p.2) ho
    (hx (tget_prop (P := OvnOk) ho (fun hon => absurd hon (by decide)) n))

theorem holds_ovnEnable (h : v.Holds s) (n : Nat) (w : Word) : v.Answers (execOvnEnable n w s) := by
  unfold execOvnEnable
  refine answers_ite h ?_
  extract_lets x u y
  have hon : y.on = x.on := by
    simp only [y]
    split <;> rfl
  split
  next hc =>
    refine holds_setOvn h n fun hx => ?_
    cases hxo : x.on with
    | true =>
      have hslots : y.slots = x.slots := by simp only [y, hxo, if_true]
      intro _
      rw [hslots]
      exact hx hxo
    | false => exact fun hy => absurd (hon.symm.trans hy) (by rw [hxo]; decide)
  next hc =>
    have hxo : x.on = false := by
      rw [Bool.or_eq_true, not_or] at hc
      simpa using hc.1
    split
    next => exact holds_setOvn h n fun _ hy => absurd (hon.symm.trans hy) (by rw [hxo]; decide)
    next hs =>
      rw [Bool.or_eq_true, decide_eq_true_eq, decide_eq_true_eq, not_or, Nat.not_lt, Nat.not_lt] at hs
      exact holds_setOvn h n fun _ _ => hs

theorem holds_ovnRelease (h : v.Holds s) (n : Nat) : v.Answers (execOvnRelease n s) := by
  unfold execOvnRelease
  exact answers_ite (holds_setOvn h n fun _ hy => absurd hy Bool.false_ne_true) h

/-! ## Partition keys (04 R58-R60) -/

theorem holds_packetArrives {t : State} (h : v.Holds s) (ht : v.Holds t) (p : Packet) : v.Holds (s.packetArrives t p) := by
  unfold State.packetArrives
  dsimp only
  have hanswer (u : State) (c : Nat) : v.Holds (p.atomic.elim u fun a => u.answerAtomic a c 0) ↔ v.Holds u := by
    cases p.atomic <;> simp
  refine holds_ite ((hanswer ..).2 ht) (holds_ite ?_ ((hanswer ..).2 (by simpa using ht)))
  split
  · exact ht
  · exact holds_ite h (by simpa using ht)

theorem holds_spinePacketArrival (h : v.Holds s) (p : Arrival) : v.Answers (execSpinePacketArrival p s) := by
  unfold execSpinePacketArrival
  split
  · exact holds_packetArrives h h _
  · split
    · exact holds_packetArrives h (by simpa using h) _
    · exact h

theorem holds_dropcntClear (h : v.Holds s) (d : Nat) (w : Word) : v.Answers (execDropcntClear d w s) := by
  unfold execDropcntClear
  exact answers_ite (by simpa using h) h

/-! ## Windows (04 R62, R63) -/

@[simp] theorem holds_modWindow (s : State) (b w : Nat) (f : Window → Window) : v.Holds (s.modWindow b w f) ↔ v.Holds s := holds_modBh ..

@[simp] theorem holds_checkPair (s : State) (a b c d l : Nat) : v.Holds (s.checkPair a b c d l) ↔ v.Holds s := by
  unfold State.checkPair
  dsimp only
  repeat' split
  all_goals simp

@[simp] theorem holds_closePeer (s : State) (p : Option (Nat × Nat)) (i : Bool) : v.Holds (s.closePeer p i) ↔ v.Holds s := by
  unfold State.closePeer
  dsimp only
  split <;> simp

theorem holds_windowGrantWrite (h : v.Holds s) (f b w : Nat) (i : Bool) (x : BitVec 128) : v.Answers (execWindowGrantWrite f b w i x s) := by
  unfold execWindowGrantWrite
  refine answers_ite h ?_
  extract_lets a old oldReg peer put otherOpen s1 s2 w2 last imp s3 ps s4
  have hput (st : Nat) (u : State) : v.Holds (put st u) ↔ v.Holds u := holds_modWindow ..
  have h1 : v.Holds s1 := holds_ite (by simpa using h) h
  have h2 : v.Holds s2 := by simpa [s2, hput] using h1
  refine answers_ite (by simpa [hput] using h) (answers_ite (by simpa [hput] using h) (answers_ite ?_ ?_))
  · rw [answers_next, holds_checkPair]
    exact holds_ite (by simpa using h2) h2
  · rw [answers_next]
    refine (holds_foldl_iff (fun u p => by simp) _ _).2 (holds_ite ?_ h2)
    exact (holds_foldl_iff (fun u p => by simp) _ _).2 h2

theorem holds_windowCloseComplete (h : v.Holds s) (b w : Nat) : v.Answers (execWindowCloseComplete b w s) := by
  unfold execWindowCloseComplete
  dsimp only
  repeat' split
  all_goals simpa using h

end Sys2Proof.Kept

/-! PROOFS that remote atomics, shootdowns, the debug block, the links, the boot, the host's registers and passing cycles keep the two
invariants (09 R190, 14 R265, R266, 15 R280-R283, 23 R357-R365, 24 R366-R379). -/

namespace Sys2Proof.Kept
open Sys2Proof Sys2Proof.Machine Sys2Proof.Safety Sys2Proof.Laws Sys2Proof.ElementBeats

variable {v : Kind} {s : State}

/-! ## Remote atomics and the portal (15 R280-R283) -/

theorem holds_remoteAtomicApply (h : v.Holds s) (b : Nat) : v.Answers (execRemoteAtomicApply b s) := by
  unfold execRemoteAtomicApply
  split
  · exact h
  next a rest _ =>
    refine answers_ite h ?_
    have h1 := holds_resolve ((holds_modBh s b fun b => { b with atomics := rest }).2 h) .none b ((holder s b).getD 0)
      (loadPasid (s.modBh b fun b => { b with atomics := rest }) b) a.va .update
    dsimp only
    split
    next t c e => simpa using holds_of_eq e h1
    next t x via e => simpa using holds_of_eq e h1

theorem holds_remoteCompletion (h : v.Holds s) (f i c o : Nat) : v.Answers (execRemoteCompletion f i c o s) := by
  unfold execRemoteCompletion
  dsimp only
  split
  · exact h
  next r _ =>
    refine answers_ite h ?_
    rw [answers_next, holds_modElem, holds_modFn]
    exact holds_writeBytes h ..

@[simp] theorem holds_portalReply (s : State) (b i c o : Nat) : v.Holds (s.portalReply b i c o) ↔ v.Holds s := by
  unfold State.portalReply
  split <;> simp

theorem holds_portalTimeout (h : v.Holds s) (b i : Nat) : v.Answers (execPortalTimeout b i s) := by
  unfold execPortalTimeout
  split
  · exact h
  · exact answers_ite (by simpa using h) h

/-! ## Shootdowns (14 R265, R266) -/

@[simp] theorem holds_removeEntries (s : State) (m : TlbEntry → Bool) : v.Holds (s.removeEntries m) ↔ v.Holds s := by
  have h1 : v.Holds (s.removeEntries m) ↔
      v.Holds { s with tiles := tmap s.tiles fun _ t => { t with tlb := t.tlb.filter fun e => !m e } } := Kind.holds_congr
  refine h1.trans ?_
  cases v with
  | memory =>
    exact and_congr Iff.rfl (and_congr Iff.rfl (and_congr (forall_tmap_iff (P := fun t : Tile => t.scratch.wf = true)
      (f := fun _ t => { t with tlb := t.tlb.filter fun e => !m e }) (fun _ _ => Iff.rfl) _) Iff.rfl))
  | setUp => exact Iff.rfl

@[simp] theorem holds_shoot (s : State) (f : Nat) (c : Word → Word) (b w : Bool) (m : TlbEntry → Bool) :
    v.Holds (s.shoot f c b w m) ↔ v.Holds s := by
  unfold State.shoot
  dsimp only
  split
  · rfl
  · split <;> simp

@[simp] theorem holds_shoot2 (s : State) (c : Word → Word) (w : Bool) (r : Option (Nat × Nat)) (m : TlbEntry → Bool) :
    v.Holds (s.shoot2 c w r m) ↔ v.Holds s := by
  unfold State.shoot2
  dsimp only
  split
  · rfl
  · simp

theorem holds_evict (h : v.Holds s) (k : Nat) {l : CacheLine} (hl : v.Line l) : v.Holds (s.evict k l) := by
  have h1 : v.Holds (if l.dirty then s.writeBack l else s) := holds_ite (holds_writeBack h hl) h
  exact holds_dropLines h1 k _

theorem line_of_linesIn (h : v.Holds s) {l : List (Nat × Nat)} {p : Nat × CacheLine} (hp : p ∈ linesIn s l) : v.Line p.2 := by
  obtain ⟨q, hq, hp⟩ := List.mem_flatMap.1 hp
  obtain ⟨x, hx, rfl⟩ := List.mem_map.1 hp
  exact h.line hq (List.mem_filter.1 hx).1

theorem holds_evictAll (h : v.Holds s) {l : List (Nat × Nat)} {t : State} (e : s.evictAll l = some t) : v.Holds t := by
  unfold State.evictAll at e
  dsimp only at e
  split at e
  · cases e
  · cases e
    exact holds_foldl _ (fun u p hp hu => holds_evict hu _ (line_of_linesIn h hp)) h

theorem holds_shootdownComplete (h : v.Holds s) (f : Nat) : v.Answers (execShootdownComplete f s) := by
  unfold execShootdownComplete
  refine answers_ite (answers_ite h ?_) (answers_ite h ?_)
  · split
    · exact h
    next t e => simpa using holds_evictAll h e
  · split
    · exact h
    next t e => simpa using holds_evictAll h e

/-! ## The debug block (09 R191, 19 R329, 23 R357-R365, 24 R375) -/

@[simp] theorem holds_modCounters (s : State) (b e : Nat) (f : Counters → Counters) : v.Holds (s.modCounters b e f) ↔ v.Holds s := by
  unfold State.modCounters
  dsimp only
  split
  · rfl
  · split
    · exact (holds_foldl_iff (fun u k => by simp) _ _).trans (by simp)
    · simp

@[simp] theorem holds_modDebug (s : State) (b : Nat) (f : Debug → Debug) : v.Holds (s.modDebug b f) ↔ v.Holds s := holds_modBh ..

theorem holds_counterClear (h : v.Holds s) (f b e : Nat) (w : Word) : v.Answers (execCounterClear f b e w s) :=
  answers_ite (by simpa using h) h

theorem holds_sinklogClear (h : v.Holds s) (f b : Nat) (w : Word) : v.Answers (execSinklogClear f b w s) :=
  answers_ite (by simpa using h) h

theorem holds_haltlogClear (h : v.Holds s) (f b : Nat) (w : Word) : v.Answers (execHaltlogClear f b w s) :=
  answers_ite (by simpa using h) h

theorem holds_debugRelease (h : v.Holds s) (f b e : Nat) : v.Answers (execDebugRelease f b e s) :=
  answers_ite (by simpa using h) h

theorem holds_debugStep (h : v.Holds s) (f b e : Nat) : v.Answers (execDebugStep f b e s) :=
  answers_ite (by simpa using h) h

theorem holds_debugReleaseAll (h : v.Holds s) (f b : Nat) : v.Answers (execDebugReleaseAll f b s) :=
  answers_ite (by simpa using h) h

theorem holds_slotBreakpointHalt (h : v.Holds s) (k : Nat) : v.Answers (execSlotBreakpointHalt k s) := by
  unfold execSlotBreakpointHalt
  split
  · exact h
  · split
    · exact answers_ite (by simpa using h) h
    · exact h

theorem holds_sample (h : v.Holds s) (b : Nat) : v.Answers (execSample b s) := by
  unfold execSample
  dsimp only
  refine answers_ite h ?_
  have h1 : v.Holds (s.modDebug b fun d => { d with smpat := d.smpat + d.period }) := by simpa using h
  split
  · exact h1
  next key e _ =>
    refine answers_ite (by simpa using h1) ?_
    split
    · exact (holds_modDebug ..).2 (holds_engineWrite ((holds_modDebug ..).2 h1) ..)
    · exact (holds_modDebug ..).2 ((holds_modDebug ..).2 (holds_engineWrite ((holds_modDebug ..).2 h1) ..))

theorem holds_traceRecord (h : v.Holds s) (b : Nat) : v.Answers (execTraceRecord b s) := by
  unfold execTraceRecord
  dsimp only
  split
  · exact h
  · exact answers_ite h (by simpa using h)

theorem holds_freeze (h : v.Holds s) (w : Word) : v.Answers (execFreeze w s) := by
  unfold execFreeze
  dsimp only
  refine answers_ite (by simpa using h) ?_
  rw [answers_next, holds_update]
  refine (holds_foldl_iff (fun u n => ?_) _ _).2 (by simpa using h)
  split <;> simp

theorem holds_thermalEvaluation (h : v.Holds s) (b : Nat) (t : Byte) : v.Answers (execThermalEvaluation b t s) := by
  unfold execThermalEvaluation
  dsimp only
  refine answers_ite h ?_
  have hmessage {u : State} (p : Bool) (hu : v.Holds u) : v.Holds (if p then u.raiseMsi 0 3 else u) := holds_ite (by simpa using hu) hu
  have hset {x : Bulkhead} : v.Holds (s.setBh b x) := by simpa using h
  exact hmessage _ (hmessage _ (hmessage _ (holds_ite (holds_startReset hset b) hset)))

/-! ## Links and spine errors (04 R68, 24 R368, R369) -/

@[simp] theorem holds_loses (s : State) (f p : Option Nat) : v.Holds (s.loses f p).2 ↔ v.Holds s := by
  unfold State.loses
  split
  · rfl
  · exact holds_takeFree s

theorem holds_of_loses {t : State} {f p : Option Nat} {b : Bool} (e : s.loses f p = (b, t)) : v.Holds t ↔ v.Holds s := by
  rw [← holds_loses s f p, e]

@[simp] theorem holds_loseRemote (s : State) (f : Option Nat) (n : Nat) (r : RemoteRec) : v.Holds (s.loseRemote f n r) ↔ v.Holds s := by
  unfold State.loseRemote
  split
  · rfl
  · split
    next e => exact (holds_remoteReply ..).trans (holds_of_loses e)
    next e => exact holds_of_loses e

@[simp] theorem holds_losePortal (f : Option Nat) (b n : Nat) : ∀ s : State, v.Holds (s.losePortal f b n) ↔ v.Holds s := by
  induction n with
  | zero => exact fun _ => Iff.rfl
  | succ n ih =>
    intro s
    unfold State.losePortal
    split
    · exact ih s
    · split
      next e => exact (ih _).trans ((holds_portalReply ..).trans (holds_of_loses e))
      next e => exact (ih _).trans (holds_of_loses e)

@[simp] theorem holds_loseRead (s : State) (f : Option Nat) (k : Nat) (w : Work) : v.Holds (s.loseRead f k w) ↔ v.Holds s := by
  unfold State.loseRead
  split
  · rfl
  · split
    next e => exact (holds_setWork ..).trans (holds_of_loses e)
    next e => exact holds_of_loses e

@[simp] theorem holds_loseSent (s : State) (f : Option Nat) : v.Holds (s.loseSent f) ↔ v.Holds s := by
  unfold State.loseSent
  exact (holds_foldl_iff (fun u p => holds_loseRead ..) _ _).trans ((holds_foldl_iff (fun u b => holds_losePortal ..) _ _).trans
    (holds_foldl_iff (fun u p => holds_foldl_iff (fun x r => holds_loseRemote ..) _ _) _ _))

@[simp] theorem holds_losePackets (n : Nat) : ∀ s : State, v.Holds (s.losePackets n) ↔ v.Holds s := by
  induction n with
  | zero => exact fun _ => Iff.rfl
  | succ n ih =>
    intro s
    unfold State.losePackets
    split
    · exact ih s
    next p _ =>
      split
      next t e =>
        refine (ih _).trans (Iff.trans ?_ (holds_of_loses e))
        cases p.atomic <;> simp
      next e => exact (ih _).trans (holds_of_loses e)

@[simp] theorem holds_loseRequests (s : State) (k : Nat) : v.Holds (s.loseRequests k) ↔ v.Holds s := by
  refine holds_foldl_iff (fun u r => ?_) _ _
  split
  · rfl
  · split
    next t e => exact (holds_refuseReq ..).trans ((holds_modSlice _ _ _ (by rfl)).trans (holds_of_loses e))
    next e => exact holds_of_loses e

/-- The replies of a bulkhead, of which a lost one answers LINK_FAULT: the list and the state in which the rest has been looked at. -/
theorem holds_lostReplies (dest : Nat) (s : State) (l : List Reply) :
    v.Holds (l.foldr (fun r (p : List Reply × State) =>
      if r.point.all (fun k => k / 8 == dest) then (r :: p.1, p.2)
      else match p.2.loses none none with
        | (true, s) => ({ r with status := 0x0F, value := 0 } :: p.1, s)
        | (false, s) => (r :: p.1, s)) ([], s)).2 ↔ v.Holds s := by
  induction l with
  | nil => rfl
  | cons r rs ih =>
    rw [List.foldr_cons]
    split
    · exact ih
    · split
      next t e => exact (holds_of_loses e).trans ih
      next t e => exact (holds_of_loses e).trans ih

@[simp] theorem holds_loseReplies (s : State) (dest : Nat) : v.Holds (s.loseReplies dest) ↔ v.Holds s := by
  unfold State.loseReplies
  exact (holds_modBh ..).trans (holds_lostReplies dest s _)

theorem holds_ualinkPortFail (h : v.Holds s) (p : Nat) : v.Answers (execUalinkPortFail p s) := by
  unfold execUalinkPortFail
  rw [answers_next, holds_loseSent]
  simpa using h

theorem holds_spineUncorrectableError (h : v.Holds s) (b : Nat) : v.Answers (execSpineUncorrectableError b s) := by
  unfold execSpineUncorrectableError
  dsimp only
  rw [answers_next, holds_loseSent]
  refine (holds_foldl_iff (fun u n => holds_loseReplies u n) _ _).2 ((holds_foldl_iff (fun u n => holds_loseRequests u n) _ _).2 ?_)
  rw [holds_losePackets]
  simpa using h

end Sys2Proof.Kept

/-! PROOFS that the boot, the responder, the host's registers and cycles that pass keep the two invariants (00 R5, R8, 09 R190, 24 R366,
R377, R379). -/

namespace Sys2Proof.Kept
open Sys2Proof Sys2Proof.Machine Sys2Proof.Safety Sys2Proof.Laws Sys2Proof.ElementBeats

variable {v : Kind} {s : State}

/-! ## Boot and responder (24 R377, R379) -/

theorem holds_reset (v : Kind) : v.Holds State.reset := by
  cases v with
  | memory => exact Memory.resetState.2.1
  | setUp => exact Memory.resetState.2.2

theorem holds_packageReset (s : State) : v.Holds s.packageReset := by
  unfold State.packageReset
  exact (holds_reset v).of_eq

theorem holds_powerOnBoot (h : v.Holds s) (a : Bool) (b : BitVec 4) : v.Answers (execPowerOnBoot a b s) := by
  unfold execPowerOnBoot
  dsimp only
  have h1 : v.Holds (if s.doe then s.packageReset else s) := holds_ite (holds_packageReset s) h
  generalize (if s.doe then s.packageReset else s) = u at h1 ⊢
  have h2 : v.Holds u.takeFree.2 := (holds_takeFree u).2 h1
  refine answers_ite ?_ ?_
  · rw [answers_next]
    refine (holds_foldl_iff (fun x p => by simp) _ _).2 (h2.of_both (fun hm => hm) fun ⟨hc, hg, ho, _⟩ => ⟨hc, hg, ho, fun hs => ?_⟩)
    exact absurd hs (by simp)
  · rw [answers_next]
    refine (holds_foldl_iff (fun x n => by simp) _ _).2 (h2.of_both (fun hm => hm) fun ⟨hc, hg, ho, _⟩ => ⟨hc, hg, ho, fun _ => rfl⟩)

theorem holds_respond (h : v.Holds s) (c : Nat) (r f : List Byte) : v.Answers (s.respond c r f) :=
  answers_ite (by simpa using h) h

/-! ## Register writes (00 R8, 24 R366) -/

theorem holds_writeSdctl (h : v.Holds s) (f : Nat) (w : Word) : v.Answers (writeSdctl f w s) := by
  unfold writeSdctl
  dsimp only
  refine answers_ite (by simpa using h) ?_
  split
  · simpa [execShootdownPage] using h
  · simpa [execShootdownPasid] using h
  · simpa [execShootdownFunction] using h
  · simpa using h

theorem holds_writeS2sdctl (h : v.Holds s) (w : Word) : v.Answers (writeS2sdctl w s) := by
  unfold writeS2sdctl
  dsimp only
  refine answers_ite (by simpa using h) ?_
  split
  · simpa [execS2ShootdownPage] using h
  · simpa [execS2ShootdownTag] using h
  · simpa [execS2ShootdownRegion] using h
  · simpa using h

theorem holds_writeQueueReg (h : v.Holds s) (f n o : Nat) (w : BitVec 64) : v.Answers (writeQueueReg f n o w s) := by
  unfold writeQueueReg
  split
  · exact h
  · exact answers_ite (by simpa using h) (answers_ite (holds_qcfgWrite h ..) (answers_ite (holds_qdb h ..)
      (answers_ite (answers_ite (holds_qkill h ..) h) (answers_ite (by simpa using h) h))))

theorem holds_writeHubReg (h : v.Holds s) (b o : Nat) (w : BitVec 64) : v.Answers (writeHubReg b o w s) := by
  have hub (f : Hub → Hub) : v.Answers (.next (s.modHub b f)) := by simpa using h
  unfold writeHubReg
  exact answers_ite (hub _) (answers_ite (hub _) (answers_ite (hub _) (answers_ite (hub _) (answers_ite (hub _) h))))

theorem holds_writeDebugReg (h : v.Holds s) (f b o : Nat) (w : BitVec 64) : v.Answers (writeDebugReg f b o w s) := by
  have debug (g : Debug → Debug) : v.Answers (.next (s.modDebug b g)) := by simpa using h
  have tile (k : Nat) (g : Tile → Tile) (hg : ∀ t, (g t).scratch = t.scratch) : v.Answers (.next (s.modTile k g)) :=
    (holds_modTile _ _ _ (hg _)).2 h
  unfold writeDebugReg
  exact answers_ite (answers_ite (debug _) h)
    (answers_ite (answers_ite h (answers_ite (holds_debugReleaseAll h ..) (answers_ite (holds_debugStep h ..) (holds_debugRelease h ..))))
    (answers_ite (holds_haltlogClear h ..)
    (answers_ite (answers_ite (tile _ _ fun _ => rfl) (answers_ite (tile _ _ fun _ => rfl) (answers_ite (tile _ _ fun _ => rfl) h)))
    (answers_ite (debug _) (answers_ite (debug _) (answers_ite (debug _) (answers_ite (debug _) h)))))))

@[simp] theorem holds_writeIslandReg (s : State) (b i n : Nat) : v.Holds (writeIslandReg b i n s) ↔ v.Holds s := by
  unfold writeIslandReg
  dsimp only
  split <;> simp

theorem holds_writeBulkheadReg (h : v.Holds s) (f o : Nat) (w : BitVec 64) : v.Answers (writeBulkheadReg f o w s) := by
  unfold writeBulkheadReg
  dsimp only
  exact answers_ite h (answers_ite (answers_ite (holds_counterClear h ..) h) (answers_ite (answers_ite (by simpa using h) h)
    (answers_ite (answers_ite (holds_semcntWrite h ..) h) (answers_ite (answers_ite ((holds_modSlice _ _ _ (by rfl)).2 h) h)
    (answers_ite (holds_writeHubReg h ..) (answers_ite (answers_ite (holds_sinklogClear h ..) h)
    (answers_ite (holds_writeDebugReg h ..) h)))))))

theorem holds_writeBar0 (h : v.Holds s) (f o : Nat) (w : BitVec 64) : v.Answers (writeBar0 f o w s) := by
  have fn (g : Function → Function) : v.Answers (.next (s.modFn f g)) := by simpa using h
  unfold writeBar0
  exact answers_ite (holds_writeQueueReg h ..) (answers_ite (holds_writeBulkheadReg h ..)
    (answers_ite (holds_windowGrantWrite h ..) (answers_ite (fn _) (answers_ite (fn _) (answers_ite (fn _)
    (answers_ite (holds_writeSdctl h ..) (answers_ite (fn _) (answers_ite (fn _) (answers_ite (fn _) (answers_ite (fn _)
    (answers_ite (fn _) (answers_ite (fn _) h))))))))))))

theorem holds_writeFncfg (h : v.Holds s) (t o n : Nat) : v.Answers (writeFncfg t o n s) := by
  have fn (g : Function → Function) : v.Answers (.next (s.modFn t g)) := by simpa using h
  unfold writeFncfg
  exact answers_ite (fn _) (answers_ite (fn _) (answers_ite (fn _) (answers_ite (fn _) h)))

theorem holds_writePartition (h : v.Holds s) (o : Nat) (w : BitVec 64) : v.Answers (writePartition o w s) := by
  unfold writePartition
  dsimp only
  exact answers_ite (answers_ite (holds_bhcfgWrite h ..) (answers_ite (holds_bhrst h ..) h))
    (answers_ite (answers_ite (by simpa using h) h)
    (answers_ite (answers_ite (holds_poolEnable h ..) (answers_ite (by simpa using h) (answers_ite (by simpa using h) h)))
    (answers_ite h (answers_ite (answers_ite (holds_ovnEnable h ..) h) (answers_ite (holds_dropcntClear h ..) h)))))

theorem holds_writeDeviceReg (h : v.Holds s) (o : Nat) (w : BitVec 64) : v.Answers (writeDeviceReg o w s) := by
  unfold writeDeviceReg
  dsimp only
  exact answers_ite (by simpa using h) (answers_ite (by simpa using h) (answers_ite (by simpa using h) h))

theorem holds_writeQuarantine (h : v.Holds s) (b o n : Nat) : v.Answers (writeQuarantine b o n s) := by
  unfold writeQuarantine
  exact answers_ite (by simpa using h)
    (answers_ite (answers_ite (holds_restoreQuarantine h b) (answers_ite (holds_discard h b) h)) h)

theorem bits_lt (v lo n : Nat) : bits v lo n < 2 ^ n := Nat.mod_lt _ (Nat.two_pow_pos n)

/-- A gazetteer entry takes a device of 7 bits and a bulkhead of 4 (04 R61). -/
theorem holds_setGazette (h : v.Holds s) (n : Nat) {g : Gazette} (hd : g.device < 128) (hb : g.bh < 16) :
    v.Holds { s with gazetteer := tset s.gazetteer n g } :=
  h.of_both (fun hm => hm) fun ⟨hc, hg, ho, hs⟩ => ⟨hc, forall_tset hg ⟨hd, hb⟩, ho, hs⟩

/-- An entry of the CXL map keeps its reserved field at 0 (09 R176). -/
theorem holds_setCxlmap (h : v.Holds s) (n : Nat) {w : Word} (hw : bits w.toNat 4 26 = 0) :
    v.Holds { s with cxlmap := tset s.cxlmap n w } :=
  h.of_both (fun hm => hm) fun ⟨hc, hg, ho, hs⟩ => ⟨forall_tset hc hw, hg, ho, hs⟩

theorem cxlWord_reserved {a b : Nat} (hb : b < 16) : bits (BitVec.ofNat 32 (a * 2 ^ 30 + b)).toNat 4 26 = 0 := by
  rw [BitVec.toNat_ofNat, bits]
  omega

theorem holds_writeBar2 (h : v.Holds s) (o : Nat) (w : BitVec 64) : v.Answers (writeBar2 o w s) := by
  have gazette (n d b : Nat) (x : Bool) (k : BitVec 16) (hd : d < 128) (hb : b < 16) :
      v.Answers (.next { s with gazetteer := tset s.gazetteer n { valid := x, device := d, bh := b, key := k } }) :=
    holds_setGazette h n hd hb
  unfold writeBar2
  dsimp only
  exact answers_ite (holds_writePartition h ..) (answers_ite (answers_ite (by simpa using h) h)
    (answers_ite (answers_ite (gazette _ _ _ _ _ (bits_lt ..) (bits_lt ..)) h) (answers_ite (answers_ite (by simpa using h) h)
    (answers_ite (by simpa using h) (answers_ite (holds_writeS2sdctl h _)
    (answers_ite (answers_ite h (holds_setCxlmap h _ (cxlWord_reserved (bits_lt ..))))
    (answers_ite (holds_writeQuarantine h ..) (answers_ite (holds_freeze h _) (answers_ite (holds_writeDeviceReg h ..)
    (answers_ite (answers_ite (holds_qmapWrite h ..) h) (answers_ite (holds_writeFncfg h ..) h)))))))))))

theorem holds_writeRegister (h : v.Holds s) (f b o : Nat) (w : BitVec 64) : v.Answers (writeRegister f b o w s) :=
  answers_ite (holds_writeBar0 h ..) (answers_ite (holds_writeBar2 h ..) h)

theorem holds_registerWrite (h : v.Holds s) (f b o : Nat) (x : Bool) (w : BitVec 64) : v.Answers (execRegisterWrite f b o x w s) :=
  answers_ite h (answers_ite (holds_writeRegister h ..) (answers_ite (holds_writeRegister h ..)
    (answers_ite (holds_writeRegister h ..) (holds_writeRegister h ..))))

/-! ## Cycles that pass (00 R5, 09 R190) -/

@[simp] theorem holds_passEngine (s : State) (b u n : Nat) : v.Holds (s.passEngine b u n) ↔ v.Holds s := by
  unfold State.passEngine
  dsimp only
  split
  · split
    · simp
    · split <;> simp
  · simp

@[simp] theorem holds_passElement (s : State) (u k : Nat) : v.Holds (s.passElement u k) ↔ v.Holds s := holds_modElemCount ..

@[simp] theorem holds_passBulkhead (s : State) (u b : Nat) : v.Holds (s.passBulkhead u b) ↔ v.Holds s := by
  unfold State.passBulkhead
  dsimp only
  split
  · rfl
  · exact (holds_foldl_iff (fun x k => holds_passElement ..) _ _).trans (holds_foldl_iff (fun x k => holds_passEngine ..) _ _)

@[simp] theorem holds_haltWatched (s : State) : v.Holds s.haltWatched ↔ v.Holds s := by
  refine holds_foldl_iff (fun u p => ?_) _ _
  split <;> simp

@[simp] theorem holds_passCycles (s : State) (n : Nat) : v.Holds (s.passCycles n) ↔ v.Holds s := by
  unfold State.passCycles
  dsimp only
  split
  · rfl
  · rw [holds_update]
    exact (holds_foldl_iff (fun x b => holds_passBulkhead ..) _ _).trans (holds_haltWatched s)

end Sys2Proof.Kept

/-! PROOFS that every meaning, every turn and every step keeps the two invariants. -/

namespace Sys2Proof.Kept
open Sys2Proof Sys2Proof.Machine Sys2Proof.Safety Sys2Proof.Laws Sys2Proof.ElementBeats

variable {v : Kind} {s : State}

/-! ## The rows that are one of a family -/

theorem holds_copy (h : v.Holds s) (k n : Nat) : v.Answers (execCopy k n s) := holds_runCommand h (fun u => holds_copyStep u) ..
theorem holds_cred (h : v.Holds s) (k n : Nat) : v.Answers (execCred k n s) := holds_runCommand h (fun u => holds_credStep u) ..
theorem holds_gather (h : v.Holds s) (k n : Nat) : v.Answers (execGather k n s) := holds_runCommand h (fun u => holds_moveStep u _) ..
theorem holds_scatter (h : v.Holds s) (k n : Nat) : v.Answers (execScatter k n s) := holds_runCommand h (fun u => holds_moveStep u _) ..
theorem holds_fill (h : v.Holds s) (k n : Nat) : v.Answers (execFill k n s) := holds_runCommand h (fun u k r => by simp) ..
theorem holds_xpose (h : v.Holds s) (k n : Nat) : v.Answers (execXpose k n s) := holds_runCommand h (fun u => holds_xposeStep u) ..

theorem holds_qapl (h : v.Holds s) (q t : BitVec 1) (r : BitVec 3) (o : BitVec 16) (c : BitVec 7) : v.Answers (execQapl q t r o c s) :=
  holds_reflectorApply h ..
theorem holds_qapr (h : v.Holds s) (q t : BitVec 1) (r : BitVec 3) (o : BitVec 16) (c : BitVec 7) : v.Answers (execQapr q t r o c s) :=
  holds_reflectorApply h ..

theorem holds_portalCompletion (h : v.Holds s) (b i : Nat) (ok : Bool) (o : Nat) : v.Answers (execPortalCompletion b i ok o s) :=
  (holds_portalReply ..).2 h

theorem holds_shootdownPage (h : v.Holds s) (f p n : Nat) (w : Bool) : v.Answers (execShootdownPage f p n w s) := (holds_shoot ..).2 h
theorem holds_shootdownPasid (h : v.Holds s) (f p : Nat) : v.Answers (execShootdownPasid f p s) := (holds_shoot ..).2 h
theorem holds_shootdownFunction (h : v.Holds s) (f : Nat) : v.Answers (execShootdownFunction f s) := (holds_shoot ..).2 h
theorem holds_s2ShootdownPage (h : v.Holds s) (t n : Nat) (w : Bool) : v.Answers (execS2ShootdownPage t n w s) := (holds_shoot2 ..).2 h
theorem holds_s2ShootdownTag (h : v.Holds s) (t : Nat) : v.Answers (execS2ShootdownTag t s) := (holds_shoot2 ..).2 h
theorem holds_s2ShootdownRegion (h : v.Holds s) (w : Bool) : v.Answers (execS2ShootdownRegion w s) := (holds_shoot2 ..).2 h

theorem holds_msixUnmask (h : v.Holds s) (f n : Nat) : v.Answers (execMsixUnmask f n s) := (holds_modFn ..).2 h
theorem holds_cxlLinkDown (h : v.Holds s) (p : Nat) : v.Answers (execCxlLinkDown p s) := h.of_eq
theorem holds_cxlLinkUp (h : v.Holds s) (p : Nat) : v.Answers (execCxlLinkUp p s) := h.of_eq
theorem holds_ualinkPortReady (h : v.Holds s) (p : Nat) : v.Answers (execUalinkPortReady p s) := h.of_eq

theorem holds_getVersion (h : v.Holds s) (r : List Byte) : v.Answers (execGetVersion r s) := holds_respond h ..
theorem holds_getCapabilities (h : v.Holds s) (r : List Byte) : v.Answers (execGetCapabilities r s) := holds_respond h ..
theorem holds_negotiateAlgorithms (h : v.Holds s) (r : List Byte) : v.Answers (execNegotiateAlgorithms r s) := holds_respond h ..
theorem holds_getDigests (h : v.Holds s) (r : List Byte) : v.Answers (execGetDigests r s) := holds_respond h ..
theorem holds_getCertificate (h : v.Holds s) (r : List Byte) : v.Answers (execGetCertificate r s) := holds_respond h ..
theorem holds_challenge (h : v.Holds s) (r : List Byte) : v.Answers (execChallenge r s) := holds_respond h ..
theorem holds_getMeasurements (h : v.Holds s) (r : List Byte) : v.Answers (execGetMeasurements r s) := holds_respond h ..

/-! ## Meanings -/

/-- A command, a token, a node or a step of a part keeps the invariants: each by its lemma. -/
theorem holds_part (i : Instr) (hi : (formOf i).isSome = false) (h : v.Holds s) : v.Answers (exec i s) := by
  cases i
  case vectorBeat => exact holds_vectorBeat h ..
  case tokenDelivery => exact (answers_tokenDelivery ..).2 h
  case sendQueueDrain => exact (answers_sendQueueDrain ..).2 h
  case shuttleArrival => exact (answers_shuttleArrival ..).2 h
  case handOver => exact answers_handOver h ..
  case performRequest => exact holds_performRequest h ..
  case storeBufferDrain => exact holds_storeBufferDrain h ..
  case homeSliceApply => exact holds_homeSliceApply h ..
  case replyReturn => exact (answers_replyReturn ..).2 h
  case pageWalk => exact holds_pageWalk h ..
  case runAheadPrefetch => exact holds_runAheadPrefetch h ..
  case fenceComplete => exact holds_fenceComplete h ..
  case fencehReply => exact (answers_fencehReply ..).2 h
  case pageFetchInstall => exact holds_pageFetchInstall h ..
  case elementRetire => exact (answers_elementRetire ..).2 h
  case halt => exact holds_halt h ..
  case streamRd => exact holds_streamRd h ..
  case streamWr => exact holds_streamWr h ..
  case snextRd => exact holds_snextRd h ..
  case snextWr => exact holds_snextWr h ..
  case sadd => exact holds_sadd h ..
  case deliver => exact holds_deliverCmd h ..
  case push => exact holds_push h ..
  case accept => exact holds_acceptCmd h ..
  case spcopy => exact holds_spcopy h ..
  case galloc => exact holds_galloc h ..
  case gfree => exact holds_gfree h ..
  case sbar => exact holds_sbar h ..
  case loop => exact holds_loop h ..
  case lpset => exact holds_lpset h ..
  case segw => exact holds_segw h ..
  case qwait => exact holds_qwait h ..
  case fupd => exact holds_fupd h ..
  case fupdReadPhase => exact holds_fupdReadPhase h ..
  case fupdCommit => exact holds_fupdCommit h ..
  case notify => exact holds_notify h ..
  case ssig => exact holds_ssig h ..
  case swait => exact holds_swait h ..
  case swaitRetry => exact (answers_swaitRetry ..).2 h
  case streamLineAccess => exact holds_streamLineAccess h ..
  case runComplete => exact (answers_runComplete ..).2 h
  case enginePortTake => exact (answers_enginePortTake ..).2 h
  case strmPairMove => exact (answers_strmPairMove ..).2 h
  case streamerCommandStart => exact holds_streamerCommandStart h ..
  case copy => exact holds_copy h ..
  case cred => exact holds_cred h ..
  case gather => exact holds_gather h ..
  case scatter => exact holds_scatter h ..
  case fill => exact holds_fill h ..
  case xpose => exact holds_xpose h ..
  case streamerCommandEnd => exact holds_streamerCommandEnd h ..
  case controlTokenTake => exact holds_controlTokenTake h ..
  case mma => exact holds_mma h ..
  case accw => exact holds_accw h ..
  case accl => exact holds_accl h ..
  case msig => exact holds_msig h ..
  case rpop => exact holds_rpop h ..
  case qinit => exact holds_qinit h ..
  case qadd => exact holds_qadd h ..
  case qapl => exact holds_qapl h ..
  case qapr => exact holds_qapr h ..
  case qcnt => exact holds_qcnt h ..
  case qspl => exact holds_qspl h ..
  case qldv => exact holds_qldv h ..
  case tokenRetire => exact holds_tokenRetire h ..
  case islandRestart => exact holds_islandRestart h ..
  case continuationLaunchEnd => exact holds_continuationLaunchEnd h ..
  case semwWithdraw => exact holds_semwWithdraw h ..
  case remoteAtomicApply => exact holds_remoteAtomicApply h ..
  case remoteCompletion => exact holds_remoteCompletion h ..
  case portalCompletion => exact holds_portalCompletion h ..
  case portalTimeout => exact holds_portalTimeout h ..
  case askDecide => exact holds_askDecide h ..
  case askFrameDelivery => exact holds_askFrameDelivery h ..
  case answerAccept => exact holds_answerAccept h ..
  case askDue => exact holds_askDue h ..
  case poolRefill => exact holds_poolRefill h ..
  case conditioningToken => exact holds_conditioningToken h ..
  case hubRegisterWrite => exact holds_hubRegisterWrite h ..
  case qdb => exact holds_qdb h ..
  case qcfgWrite => exact holds_qcfgWrite h ..
  case journalWrite => exact holds_journalWrite h ..
  case commandDispatch => exact holds_commandDispatch h ..
  case graph w d _ => exact holds_graph h w d _
  case task w d l x y => exact holds_task h w d l x y
  case setctr w d c x => exact holds_setctr h w d c x
  case arriveCommand w d c => exact holds_arriveCommand h w d c
  case commandComplete => exact holds_commandComplete h ..
  case loadNode r a i b e => exact holds_loadNode h r a i b e
  case condNode c r a b x y m => exact holds_condNode h c r a b x y m
  case loopNode c p r a b x y m => exact holds_loopNode h c p r a b x y m
  case switchNode r b x n c l => exact holds_switchNode h r b x n c l
  case endNode r => exact holds_endNode h r
  case recomputeReplay => exact holds_recomputeReplay h ..
  case imageValidation => exact holds_imageValidation h ..
  case reconfigurationSweep => exact holds_reconfigurationSweep h ..
  case sweepColumnPass => exact holds_sweepColumnPass h ..
  case configurationLoad => exact holds_configurationLoad h ..
  case loadRetire => exact holds_loadRetire h ..
  case faultRecord => exact holds_faultRecord h ..
  case killSweep => exact holds_killSweep h ..
  case queueLevelKill => exact holds_queueLevelKill h ..
  case qkill => exact holds_qkill h ..
  case parentKill => exact holds_parentKill h ..
  case qmapWrite => exact holds_qmapWrite h ..
  case bhcfgWrite => exact holds_bhcfgWrite h ..
  case bhrst => exact holds_bhrst h ..
  case gate => exact holds_gateStep h ..
  case railOff => exact holds_railOff h ..
  case railUp => exact holds_railUp h ..
  case pllLock => exact holds_pllLock h ..
  case release => exact holds_release h ..
  case ready => exact holds_ready h ..
  case poolEnable => exact holds_poolEnable h ..
  case gangSwitchTick => exact holds_gangSwitchTick h ..
  case endOfSliceSweep => exact holds_endOfSliceSweep h ..
  case contextSave => exact holds_contextSave h ..
  case contextRestore => exact holds_contextRestore h ..
  case saveQuarantine => exact holds_saveQuarantine h ..
  case saveDeadline => exact holds_saveDeadline h ..
  case gangStart => exact holds_gangStart h ..
  case restoreQuarantine => exact holds_restoreQuarantine h ..
  case discard => exact holds_discard h ..
  case ovnEnable => exact holds_ovnEnable h ..
  case ovnRelease => exact holds_ovnRelease h ..
  case spinePacketArrival => exact holds_spinePacketArrival h ..
  case dropcntClear => exact holds_dropcntClear h ..
  case windowGrantWrite => exact holds_windowGrantWrite h ..
  case windowCloseComplete => exact holds_windowCloseComplete h ..
  case shootdownPage => exact holds_shootdownPage h ..
  case shootdownPasid => exact holds_shootdownPasid h ..
  case shootdownFunction => exact holds_shootdownFunction h ..
  case s2ShootdownPage => exact holds_s2ShootdownPage h ..
  case s2ShootdownTag => exact holds_s2ShootdownTag h ..
  case s2ShootdownRegion => exact holds_s2ShootdownRegion h ..
  case shootdownComplete => exact holds_shootdownComplete h ..
  case counterClear => exact holds_counterClear h ..
  case semcntWrite => exact holds_semcntWrite h ..
  case sinklogClear => exact holds_sinklogClear h ..
  case haltlogClear => exact holds_haltlogClear h ..
  case debugRelease => exact holds_debugRelease h ..
  case debugStep => exact holds_debugStep h ..
  case debugReleaseAll => exact holds_debugReleaseAll h ..
  case slotBreakpointHalt => exact holds_slotBreakpointHalt h ..
  case sample => exact holds_sample h ..
  case traceRecord => exact holds_traceRecord h ..
  case freeze => exact holds_freeze h ..
  case thermalEvaluation => exact holds_thermalEvaluation h ..
  case msixUnmask => exact holds_msixUnmask h ..
  case cxlLinkDown => exact holds_cxlLinkDown h ..
  case cxlLinkUp => exact holds_cxlLinkUp h ..
  case ualinkPortFail => exact holds_ualinkPortFail h ..
  case powerOnBoot => exact holds_powerOnBoot h ..
  case getVersion => exact holds_getVersion h ..
  case getCapabilities => exact holds_getCapabilities h ..
  case negotiateAlgorithms => exact holds_negotiateAlgorithms h ..
  case getDigests => exact holds_getDigests h ..
  case getCertificate => exact holds_getCertificate h ..
  case challenge => exact holds_challenge h ..
  case getMeasurements => exact holds_getMeasurements h ..
  case registerWrite => exact holds_registerWrite h ..
  case ualinkPortReady => exact holds_ualinkPortReady h ..
  case spineUncorrectableError => exact holds_spineUncorrectableError h ..
  all_goals exact Bool.noConfusion hi

theorem holds_exec (i : Instr) (h : v.Holds s) : v.Answers (exec i s) := by
  cases hi : (formOf i).isSome with
  | true => exact holds_element hi h
  | false => exact holds_part i hi h

/-! ## Turns -/

theorem holds_elemTurn (h : v.Holds s) (k : Nat) : v.Answers (elemTurn k s) := by
  unfold elemTurn
  split
  · exact h
  · refine answers_ite h ?_
    split
    · exact h
    · refine answers_ite (holds_exec _ h) (answers_ite (holds_exec _ h) ?_)
      split
      · exact h
      · exact holds_exec _ h.of_eq

theorem holds_attemptCommand (h : v.Holds s) (k : Nat) : v.Answers (StepTurns.attempt k s) := by
  unfold StepTurns.attempt
  split
  · exact h
  · split
    · simpa [State.seqIllegal] using h
    · exact holds_exec _ h.of_eq

theorem holds_takeQueued (h : v.Holds s) (k : Nat) : v.Holds (StepTurns.takeQueued k s) := by
  unfold StepTurns.takeQueued
  split
  · exact holds_ite ((holds_setTile_iff s k _ (by rfl)).2 h) h
  · exact h

theorem holds_sequencerTurn (h : v.Holds s) (k : Nat) : v.Answers (sequencerTurn k s) :=
  answers_ite h (holds_attemptCommand (holds_takeQueued h k) k)

theorem holds_islandTurn (h : v.Holds s) (k : Nat) : v.Answers (islandTurn k s) := by
  unfold islandTurn
  refine answers_ite h ?_
  split
  · exact h
  · split
    · exact holds_ite (by simpa using h) h
    · exact holds_exec _ h.of_eq

theorem holds_queueTurn (h : v.Holds s) (q : Nat) : v.Answers (queueTurn q s) := by
  unfold queueTurn
  dsimp only
  refine answers_ite h (answers_ite (holds_qdb h ..) ?_)
  split
  · split
    · exact h
    · exact holds_exec _ h.of_eq
  · split
    · exact h
    · exact holds_exec _ h.of_eq

theorem holds_runTurn (h : v.Holds s) (t : Turn) : v.Answers (runTurn t s) := by
  cases t with
  | cycles n => exact (holds_passCycles s n).2 h
  | elem k => exact holds_elemTurn h k
  | sequencer k => exact holds_sequencerTurn h k
  | island k => exact holds_islandTurn h k
  | queue q => exact holds_queueTurn h q
  | event i => exact answers_ite (holds_exec i h.of_eq) h

theorem holds_nextTurn (h : v.Holds s) : v.Holds s.nextTurn.2 := by
  unfold State.nextTurn
  cases s.agenda <;> exact h.of_eq

/-! ## Steps -/

theorem holds_step (h : v.Holds s) : v.Answers (step s) := holds_runTurn (holds_nextTurn h) _

/-- What a step leaves, where it goes on. -/
theorem Kind.Holds.stepped {t : State} (h : v.Holds s) (e : step s = .next t) : v.Holds t := by
  have h1 := holds_step h
  rwa [e] at h1

/-- Settles O59: the meanings of all rows keep the bytes of memory, of cached lines, of scratchpads and of saved contexts in canonical
form, and a turn runs one of them. -/
theorem memoryKept : Obligations.MemoryKept := fun _ _ h e => Kind.Holds.stepped (v := .memory) h e

/-- Settles O60: only writes of the CXL map, the gazetteer and a network, and the boot, change what it speaks of. -/
theorem setUpKept : Obligations.SetUpKept := fun _ _ h e => Kind.Holds.stepped (v := .setUp) h e

end Sys2Proof.Kept

/-! PROOFS about rounding, first part (07 R127, R128): the model's integer rounding of a number num * 2^exp, and of one a little above it,
is a function of the exact number alone. -/

namespace Sys2Proof.Rounding
open Sys2Proof Sys2Proof.Machine Sys2Proof.Safety Sys2Proof.Codes

section
variable {K : Type} [Field K] [LinearOrder K]

/-! ## To an integer -/

/-- Whether a rounding goes up from the integer k to k + 1, for a number that lies d above k (07 R127, R128). -/
def roundsUp (mode : RMode) (r : Nat) (neg : Bool) (k : Nat) [FloorRing K] (d : K) : Bool :=
  match mode with
  | .rne => decide (1 / 2 < d) || decide (d = 1 / 2) && decide (k % 2 = 1)
  | .rtz => false
  | .rdn => neg && decide (d ≠ 0)
  | .rup => !neg && decide (d ≠ 0)
  | .sr => decide (d ≠ 0) && decide ((r : ℤ) ≤ ⌊d * 2 ^ 32⌋)

variable [IsStrictOrderedRing K] [FloorRing K]

/-- The part of a number above its floor. -/
def above (x : K) : K := x - ⌊x⌋₊

/-- The integer that a magnitude rounds to, and whether it differs. -/
def nearby (mode : RMode) (r : Nat) (neg : Bool) (x : K) : Nat × Bool :=
  (if roundsUp mode r neg ⌊x⌋₊ (above x) then ⌊x⌋₊ + 1 else ⌊x⌋₊, decide (above x ≠ 0))

theorem above_nonneg {x : K} (h : 0 ≤ x) : 0 ≤ above x := sub_nonneg.2 (Nat.floor_le h)

theorem above_lt_one (x : K) : above x < 1 := by
  have := Nat.lt_floor_add_one x
  unfold above
  linarith

theorem roundsUp_zero (mode : RMode) (r : Nat) (neg : Bool) (k : Nat) : roundsUp mode r neg k (0 : K) = false := by
  cases mode <;> simp [roundsUp]

theorem nearby_natCast (mode : RMode) (r : Nat) (neg : Bool) (n : Nat) : nearby mode r neg (n : K) = (n, false) := by
  simp [nearby, above, roundsUp_zero]

/-- The floor of a quotient does not see a part below 1 of its dividend. -/
theorem floor_div_of_part {δ : K} (h0 : 0 ≤ δ) (h1 : δ < 1) (n c : Nat) : ⌊((n : K) + δ) / c⌋₊ = n / c := by
  rw [Nat.floor_div_natCast, add_comm, Nat.floor_add_natCast h0, Nat.floor_eq_zero.2 h1, zero_add]

/-! ## The model's integer rounding -/

/-- num * 2^exp, and δ * 2^exp more. -/
structure Part (δ : K) (sticky : Bool) : Prop where
  nonneg : 0 ≤ δ
  lt_one : δ < 1
  sticky : sticky = decide (δ ≠ 0)

omit [FloorRing K] in
theorem Part.zero : Part (0 : K) false := ⟨le_rfl, one_pos, by simp⟩

omit [IsStrictOrderedRing K] [FloorRing K] in
theorem Part.of_pos {δ : K} (h0 : 0 < δ) (h1 : δ < 1) : Part δ true := ⟨h0.le, h1, by simpa using h0.ne'⟩

section
variable {δ : K} {sticky : Bool} {num sh : Nat}

theorem floor_shifted (h : Part δ sticky) : ⌊((num : K) + δ) / 2 ^ sh⌋₊ = num / 2 ^ sh := by
  have := floor_div_of_part h.nonneg h.lt_one num (2 ^ sh)
  rwa [Nat.cast_pow, Nat.cast_ofNat] at this

theorem above_shifted (h : Part δ sticky) : above (((num : K) + δ) / 2 ^ sh) = (((num % 2 ^ sh : Nat) : K) + δ) / 2 ^ sh := by
  have hdiv : (num : K) = 2 ^ sh * ((num / 2 ^ sh : Nat) : K) + ((num % 2 ^ sh : Nat) : K) := by
    exact_mod_cast (Nat.div_add_mod num (2 ^ sh)).symm
  have hpos : (2 : K) ^ sh ≠ 0 := pow_ne_zero _ two_ne_zero
  rw [above, floor_shifted h, eq_div_iff hpos, sub_mul, div_mul_cancel₀ _ hpos]
  linarith

theorem above_shifted_eq_zero (h : Part δ sticky) : above (((num : K) + δ) / 2 ^ sh) ≠ 0 ↔ (sticky || num % 2 ^ sh != 0) = true := by
  have hr : (0 : K) ≤ ((num % 2 ^ sh : Nat) : K) := Nat.cast_nonneg _
  rw [above_shifted h, Ne, div_eq_zero_iff, or_iff_left (pow_ne_zero _ two_ne_zero), add_eq_zero_iff_of_nonneg hr h.nonneg, h.sticky]
  simp only [Nat.cast_eq_zero, Bool.or_eq_true, decide_eq_true_eq, bne_iff_ne]
  tauto

/-- To the nearest: the rest and its part are compared with half of an even power. -/
theorem half_lt_shifted (h : Part δ sticky) {rest : Nat} (hsh : 0 < sh) :
    1 / 2 < ((rest : K) + δ) / 2 ^ sh ↔ 2 ^ sh < 2 * rest ∨ 2 * rest = 2 ^ sh ∧ sticky = true := by
  obtain ⟨k, rfl⟩ := Nat.exists_eq_succ_of_ne_zero hsh.ne'
  have hpos : (0 : K) < 2 ^ (k + 1) := pow_pos two_pos _
  rw [lt_div_iff₀ hpos, h.sticky, decide_eq_true_eq, pow_succ, pow_succ, Nat.mul_comm, Nat.mul_lt_mul_left two_pos,
    Nat.mul_right_inj two_ne_zero, ← mul_assoc, mul_right_comm, one_div, inv_mul_cancel₀ two_ne_zero, one_mul]
  have h0 := h.nonneg
  have h1 := h.lt_one
  constructor
  · intro hlt
    rcases lt_trichotomy (2 ^ k) rest with hc | hc | hc
    · exact .inl hc
    · refine .inr ⟨hc.symm, fun hz => ?_⟩
      rw [hz, add_zero, ← hc] at hlt
      simp at hlt
    · have : ((rest : K) + 1) ≤ 2 ^ k := by exact_mod_cast hc
      linarith
  · rintro (hc | ⟨rfl, hz⟩)
    · have : ((2 : K) ^ k) < rest := by exact_mod_cast hc
      linarith
    · have : 0 < δ := lt_of_le_of_ne h0 (Ne.symm hz)
      push_cast
      linarith

theorem half_eq_shifted (h : Part δ sticky) {rest : Nat} (hsh : 0 < sh) :
    ((rest : K) + δ) / 2 ^ sh = 1 / 2 ↔ 2 * rest = 2 ^ sh ∧ sticky = false := by
  obtain ⟨k, rfl⟩ := Nat.exists_eq_succ_of_ne_zero hsh.ne'
  have hpos : (0 : K) < 2 ^ (k + 1) := pow_pos two_pos _
  rw [div_eq_iff hpos.ne', h.sticky, decide_eq_false_iff_not, not_not, pow_succ, pow_succ, Nat.mul_comm, Nat.mul_left_inj two_ne_zero,
    one_div, mul_comm ((2 : K) ^ k), ← mul_assoc, inv_mul_cancel₀ two_ne_zero, one_mul]
  have h0 := h.nonneg
  have h1 := h.lt_one
  constructor
  · intro heq
    rcases lt_trichotomy (2 ^ k) rest with hc | hc | hc
    · have : ((2 : K) ^ k) < rest := by exact_mod_cast hc
      linarith
    · refine ⟨hc.symm, ?_⟩
      have : ((2 : K) ^ k) = rest := by exact_mod_cast hc
      linarith
    · have : ((rest : K) + 1) ≤ 2 ^ k := by exact_mod_cast hc
      linarith
  · rintro ⟨rfl, hz⟩
    rw [hz, add_zero]
    push_cast
    rfl

/-- By the generator: 32 bits of the rest decide, which the part does not reach where the shift is at least 32. -/
theorem floor_scaled_shifted (h : Part δ sticky) {rest : Nat} (hs : sticky = true → 32 ≤ sh) :
    ⌊((rest : K) + δ) / 2 ^ sh * 2 ^ 32⌋ = ((rest * 2 ^ 32 / 2 ^ sh : Nat) : ℤ) := by
  have hnonneg : 0 ≤ ((rest : K) + δ) / 2 ^ sh * 2 ^ 32 :=
    mul_nonneg (div_nonneg (add_nonneg (Nat.cast_nonneg _) h.nonneg) (pow_nonneg two_pos.le _)) (pow_nonneg two_pos.le _)
  rw [← Int.natCast_floor_eq_floor hnonneg]
  congr 1
  cases hsticky : sticky with
  | false =>
    have hz : δ = 0 := by simpa [hsticky] using h.sticky
    have := floor_div_of_part (K := K) le_rfl one_pos (rest * 2 ^ 32) (2 ^ sh)
    rw [hz, div_mul_eq_mul_div, ← this]
    push_cast
    ring_nf
  | true =>
    obtain ⟨k, rfl⟩ := Nat.exists_eq_add_of_le (hs hsticky)
    have := floor_div_of_part h.nonneg h.lt_one rest (2 ^ k)
    rw [Nat.cast_pow, Nat.cast_ofNat] at this
    have hnat : rest * 2 ^ 32 / 2 ^ (32 + k) = rest / 2 ^ k := by
      rw [Nat.pow_add, Nat.mul_comm rest, Nat.mul_div_mul_left _ _ (Nat.two_pow_pos 32)]
    rw [hnat, ← this, pow_add, ← div_div, div_right_comm, div_mul_cancel₀ _ (pow_ne_zero _ two_ne_zero)]

/-- What the model says of a rounding down to 2^sh is what the exact number says. -/
theorem roundsUp_shifted (h : Part δ sticky) (hsh : 0 < sh) (hs : sticky = true → 32 ≤ sh) (mode : RMode) (r : Nat) (neg : Bool) :
    roundsUp mode r neg (num / 2 ^ sh) (above (((num : K) + δ) / 2 ^ sh))
      = ((sticky || num % 2 ^ sh != 0) && match mode with
        | .rne => decide (2 * (num % 2 ^ sh) > 2 ^ sh) || (2 * (num % 2 ^ sh) == 2 ^ sh && (sticky || num / 2 ^ sh % 2 == 1))
        | .rtz => false
        | .rdn => neg
        | .rup => !neg
        | .sr => decide (r ≤ num % 2 ^ sh * 2 ^ 32 / 2 ^ sh)) := by
  have hne := above_shifted_eq_zero (num := num) (sh := sh) h
  cases mode with
  | rtz => simp [roundsUp]
  | rdn => simp only [roundsUp, hne, Bool.decide_eq_true, Bool.and_comm]
  | rup => simp only [roundsUp, hne, Bool.decide_eq_true, Bool.and_comm]
  | sr =>
    simp only [roundsUp, hne, Bool.decide_eq_true]
    rw [above_shifted h, floor_scaled_shifted h hs]
    simp only [Nat.cast_le]
  | rne =>
    have hpos : 0 < 2 ^ sh := Nat.two_pow_pos sh
    simp only [roundsUp]
    rw [above_shifted h, Bool.eq_iff_iff]
    simp only [half_lt_shifted h hsh, half_eq_shifted h hsh, Bool.or_eq_true, Bool.and_eq_true, decide_eq_true_eq, beq_iff_eq, bne_iff_ne]
    cases sticky
    · simp only [Bool.false_eq_true, and_false, or_false, and_true, false_or]
      omega
    · simp only [and_true, Bool.true_eq_false, and_false, false_and, or_false, true_or, true_and]

end

/-- The model's rounding of num * 2^exp, and a part more, to a multiple of 2^u. -/
theorem quantize_eq {δ : K} {sticky : Bool} (h : Part δ sticky) (mode : RMode) (r : Nat) (neg : Bool) (num : Nat) {exp u : Int}
    (hs : sticky = true → exp + 32 ≤ u) :
    quantize mode r neg num exp sticky u = nearby mode r neg (((num : K) + δ) * 2 ^ (exp - u)) := by
  unfold quantize
  by_cases hc : exp ≥ u
  · rw [if_pos hc]
    have hsticky : sticky = false := by
      cases sticky with
      | false => rfl
      | true => have := hs rfl; omega
    have hz : δ = 0 := by simpa [hsticky] using h.sticky
    have hx : ((num : K) + δ) * 2 ^ (exp - u) = ((num * 2 ^ (exp - u).toNat : Nat) : K) := by
      rw [hz, add_zero, ← Int.toNat_of_nonneg (sub_nonneg.2 hc), zpow_natCast, Int.toNat_natCast]
      push_cast
      rfl
    rw [hx, nearby_natCast, hsticky]
  · rw [if_neg hc]
    obtain ⟨sh, hsh⟩ : ∃ sh : Nat, u - exp = sh := ⟨(u - exp).toNat, by omega⟩
    have hpos : 0 < sh := by omega
    have h32 : sticky = true → 32 ≤ sh := fun hst => by have := hs hst; omega
    have hx : ((num : K) + δ) * 2 ^ (exp - u) = ((num : K) + δ) / 2 ^ sh := by
      rw [show exp - u = -(sh : ℤ) by omega, zpow_neg, zpow_natCast, div_eq_mul_inv]
    rw [hx, nearby, floor_shifted h, roundsUp_shifted h hpos h32, hsh, Int.toNat_natCast]
    simp only [above_shifted_eq_zero h, Bool.decide_eq_true] <;> rfl

end

end Sys2Proof.Rounding

/-! PROOFS about rounding, second part (07 R127, R128, R131): the model's rounding into the codes of a format is a function of the exact
magnitude in units of the smallest subnormal, and gives what `Rounds` says. -/

namespace Sys2Proof.Rounding
open Sys2Proof Sys2Proof.Machine Sys2Proof.Safety Sys2Proof.Codes

section
variable {K : Type} [Field K] [LinearOrder K] [IsStrictOrderedRing K] [FloorRing K] {f : Fmt} {mode : RMode} {r : Nat} {neg : Bool}

/-! ## Into the codes of a format -/

/-- log2 of the distance of the codes around a magnitude. -/
def grid (f : Fmt) (w : K) : Nat := (Int.log 2 w - f.frac).toNat

/-- The magnitude in multiples of that distance. -/
def steps (f : Fmt) (w : K) : K := w / 2 ^ grid f w

/-- A magnitude, in units of the smallest subnormal, rounded into the codes of a format whose exponent has no upper end. -/
def roundedMag (f : Fmt) (mode : RMode) (r : Nat) (neg : Bool) (w : K) : Rounded :=
  { mag := (nearby mode r neg (steps f w)).1 + grid f w * 2 ^ f.frac
    inexact := (nearby mode r neg (steps f w)).2
    tiny := decide (Int.log 2 w + 1 < f.frac)
      || (decide (Int.log 2 w < f.frac) && decide ((nearby mode r neg (w * 2 ^ (f.frac - Int.log 2 w))).1 < 2 ^ (f.frac + 1))) }

theorem log_eq {w : K} {e : ℤ} (h1 : 2 ^ e ≤ w) (h2 : w < 2 ^ (e + 1)) : Int.log 2 w = e := by
  have hw : 0 < w := (zpow_pos two_pos e).trans_le h1
  have h3 := (Int.zpow_le_iff_le_log (b := 2) one_lt_two hw).1 (by exact_mod_cast h1)
  have h4 := (Int.lt_zpow_iff_log_lt (b := 2) one_lt_two hw).1 (by exact_mod_cast h2)
  omega

theorem zpow_log_le {w : K} (hw : 0 < w) : 2 ^ Int.log 2 w ≤ w := by
  exact_mod_cast Int.zpow_log_le_self (b := 2) one_lt_two hw

theorem lt_zpow_log (w : K) : w < 2 ^ (Int.log 2 w + 1) := by
  exact_mod_cast Int.lt_zpow_succ_log_self (b := 2) one_lt_two w

/-- A number num * 2^exp and a part more lies in the binade of num. -/
theorem log_part {δ : K} {sticky : Bool} (h : Part δ sticky) {num : Nat} (hn : num ≠ 0) (exp : ℤ) :
    Int.log 2 (((num : K) + δ) * 2 ^ exp) = Nat.log2 num + exp := by
  have h1 : ((2 ^ Nat.log2 num : Nat) : K) ≤ num := by exact_mod_cast Nat.log2_self_le hn
  have h2 : (num : K) + 1 ≤ ((2 ^ (Nat.log2 num + 1) : Nat) : K) := by exact_mod_cast Nat.lt_log2_self
  have hδ0 := h.nonneg
  have hδ1 := h.lt_one
  have hpos : (0 : K) < 2 ^ exp := zpow_pos two_pos _
  push_cast at h1 h2
  refine log_eq ?_ ?_
  · rw [zpow_add₀ two_ne_zero, zpow_natCast]
    exact mul_le_mul_of_nonneg_right (by linarith) hpos.le
  · rw [add_right_comm, zpow_add₀ two_ne_zero (_ + 1 : ℤ)]
    exact mul_lt_mul_of_pos_right (by exact_mod_cast (by linarith : (num : K) + δ < 2 ^ (Nat.log2 num + 1))) hpos

/-- The model rounds num * 2^exp, and a part more, as its exact magnitude is rounded. -/
theorem roundMag_eq {δ : K} {sticky : Bool} (h : Part δ sticky) {num : Nat} (hn : num ≠ 0) {exp : Int}
    (hs : sticky = true → f.frac + 32 ≤ Nat.log2 num) :
    roundMag f mode r neg num exp sticky = roundedMag f mode r neg (((num : K) + δ) * 2 ^ (exp + f.bias + f.frac - 1)) := by
  have hlog := log_part h hn (exp + f.bias + f.frac - 1)
  have hsteps : steps f (((num : K) + δ) * 2 ^ (exp + f.bias + f.frac - 1))
      = ((num : K) + δ) * 2 ^ (exp - ((if Nat.log2 num + exp < 1 - (f.bias : Int) then 1 - (f.bias : Int) else Nat.log2 num + exp) - f.frac)) := by
    rw [steps, grid, hlog, ← zpow_natCast, mul_div_assoc, ← zpow_sub₀ two_ne_zero]
    congr 2
    split <;> omega
  have hgrid : grid f (((num : K) + δ) * 2 ^ (exp + f.bias + f.frac - 1))
      = ((if Nat.log2 num + exp < 1 - (f.bias : Int) then 1 - (f.bias : Int) else Nat.log2 num + exp) - (1 - (f.bias : Int))).toNat := by
    rw [grid, hlog]
    split <;> omega
  have hq := quantize_eq h mode r neg num (exp := exp)
    (u := (if Nat.log2 num + exp < 1 - (f.bias : Int) then 1 - (f.bias : Int) else Nat.log2 num + exp) - f.frac)
    (fun hst => by have := hs hst; split <;> omega)
  have ht := quantize_eq h mode r neg num (exp := exp) (u := Nat.log2 num + exp - f.frac) (fun hst => by have := hs hst; omega)
  have hx : ((num : K) + δ) * 2 ^ (exp + f.bias + f.frac - 1) * 2 ^ ((f.frac : ℤ) - (Nat.log2 num + (exp + f.bias + f.frac - 1)))
      = ((num : K) + δ) * 2 ^ (exp - (Nat.log2 num + exp - f.frac)) := by
    rw [mul_assoc, ← zpow_add₀ two_ne_zero]
    congr 2
    omega
  unfold roundMag roundedMag roundsTiny
  rw [if_neg (by simpa using hn), hsteps, hgrid, hlog, hx]
  dsimp only
  rw [hq, ht]
  have hlt : (Nat.log2 num + exp + 1 < 1 - (f.bias : Int)) ↔ ((Nat.log2 num : Int) + (exp + f.bias + f.frac - 1) + 1 < f.frac) := by omega
  have hle : (Nat.log2 num + exp < 1 - (f.bias : Int)) ↔ ((Nat.log2 num : Int) + (exp + f.bias + f.frac - 1) < f.frac) := by omega
  simp only [hlt, hle]

/-! ## The codes around a magnitude -/

/-- The greatest code whose magnitude is at most a given one. -/
def lower (f : Fmt) (w : K) : Nat := ⌊steps f w⌋₊ + grid f w * 2 ^ f.frac

/-- The rounding goes up from it. -/
def goesUp (f : Fmt) (mode : RMode) (r : Nat) (neg : Bool) (w : K) : Bool := roundsUp mode r neg ⌊steps f w⌋₊ (above (steps f w))

omit [IsStrictOrderedRing K] in
theorem roundedMag_mag (w : K) : (roundedMag f mode r neg w).mag = if goesUp f mode r neg w then lower f w + 1 else lower f w := by
  unfold roundedMag nearby goesUp lower
  dsimp only
  split <;> omega

omit [IsStrictOrderedRing K] in
theorem roundedMag_inexact (w : K) : (roundedMag f mode r neg w).inexact = decide (above (steps f w) ≠ 0) := rfl

/-- A code by its multiple of a power of two. -/
theorem magUnits_grid {q g : Nat} (hq : q ≤ 2 ^ (f.frac + 1)) (hg : g = 0 ∨ 2 ^ f.frac ≤ q) : magUnits f (q + g * 2 ^ f.frac) = q * 2 ^ g := by
  have hB : 0 < 2 ^ f.frac := Nat.two_pow_pos _
  unfold magUnits
  rw [Nat.add_mul_div_right _ _ hB, Nat.add_mul_mod_self_right]
  rw [pow_succ] at hq
  rcases Nat.lt_or_ge q (2 ^ f.frac) with hlt | hge
  · have hg : g = 0 := hg.resolve_right (Nat.not_le.2 hlt)
    rw [Nat.div_eq_of_lt hlt, hg, if_pos rfl, Nat.mod_eq_of_lt hlt, pow_zero, Nat.mul_one]
  · rcases Nat.lt_or_ge q (2 ^ f.frac * 2) with hlt2 | hge2
    · obtain ⟨c, rfl⟩ := Nat.exists_eq_add_of_le hge
      have hc : c < 2 ^ f.frac := by omega
      rw [Nat.add_div_left _ hB, Nat.div_eq_of_lt hc, Nat.add_mod_left, Nat.mod_eq_of_lt hc, if_neg (by omega), Nat.zero_add,
        Nat.add_sub_cancel_left]
    · have hq : q = 2 ^ f.frac * 2 := le_antisymm hq hge2
      rw [hq, Nat.mul_div_cancel_left _ hB, Nat.mul_mod_right, if_neg (by omega), Nat.add_zero, show 2 + g - 1 = g + 1 by omega, pow_succ]
      ring

theorem steps_nonneg {w : K} (hw : 0 < w) : 0 ≤ steps f w := (div_pos hw (pow_pos two_pos _)).le

theorem steps_lt (w : K) : steps f w < 2 ^ (f.frac + 1) := by
  rw [steps, div_lt_iff₀ (pow_pos two_pos _)]
  refine (lt_zpow_log w).trans_le ?_
  rw [← pow_add, ← zpow_natCast]
  refine zpow_le_zpow_right₀ one_le_two ?_
  have := Int.self_le_toNat (Int.log 2 w - f.frac)
  unfold grid
  push_cast
  omega

theorem grid_eq_zero_or {w : K} (hw : 0 < w) : grid f w = 0 ∨ 2 ^ f.frac ≤ ⌊steps f w⌋₊ := by
  by_cases hg : Int.log 2 w - f.frac ≤ 0
  · exact .inl (Int.toNat_eq_zero.2 hg)
  · refine .inr (Nat.le_floor ?_)
    rw [steps, le_div_iff₀ (pow_pos two_pos _)]
    refine le_trans (le_of_eq ?_) (zpow_log_le hw)
    push_cast
    rw [← pow_add, ← zpow_natCast, grid]
    congr 1
    push_cast
    omega

theorem floor_steps_lt {w : K} (hw : 0 < w) : ⌊steps f w⌋₊ < 2 ^ (f.frac + 1) := by
  rw [Nat.floor_lt (steps_nonneg hw)]
  exact_mod_cast steps_lt w

theorem magUnits_lower {w : K} (hw : 0 < w) : magUnits f (lower f w) = ⌊steps f w⌋₊ * 2 ^ grid f w :=
  magUnits_grid (floor_steps_lt hw).le (grid_eq_zero_or hw)

theorem magUnits_lower_succ {w : K} (hw : 0 < w) : magUnits f (lower f w + 1) = (⌊steps f w⌋₊ + 1) * 2 ^ grid f w := by
  rw [lower, Nat.add_right_comm]
  exact magUnits_grid (floor_steps_lt hw) ((grid_eq_zero_or hw).imp_right fun h => h.trans (Nat.le_succ _))

/-- A magnitude is its lower code and a part of the step to the next one. -/
theorem sub_lower {w : K} (hw : 0 < w) : w - magUnits f (lower f w) = above (steps f w) * 2 ^ grid f w := by
  rw [magUnits_lower hw, above, steps]
  push_cast
  rw [sub_mul, div_mul_cancel₀ _ (pow_ne_zero _ two_ne_zero)]

theorem step_lower {w : K} (hw : 0 < w) : (magUnits f (lower f w + 1) : K) - magUnits f (lower f w) = 2 ^ grid f w := by
  rw [magUnits_lower hw, magUnits_lower_succ hw]
  push_cast
  ring

theorem lower_le {w : K} (hw : 0 < w) : (magUnits f (lower f w) : K) ≤ w := by
  have := mul_nonneg (above_nonneg (steps_nonneg (f := f) hw)) (pow_nonneg two_pos.le (grid f w))
  rw [← sub_lower hw] at this
  linarith

theorem lt_lower_succ {w : K} (hw : 0 < w) : w < magUnits f (lower f w + 1) := by
  have := mul_lt_mul_of_pos_right (above_lt_one (steps f w)) (pow_pos two_pos (grid f w))
  rw [← sub_lower hw, one_mul, ← step_lower hw] at this
  linarith

theorem lower_lt_iff {w : K} (hw : 0 < w) (m : Nat) : lower f w < m ↔ w < magUnits f m := by
  constructor
  · intro h
    exact (lt_lower_succ hw).trans_le (by exact_mod_cast magUnits_le_iff.2 h)
  · intro h
    have := (lower_le (f := f) hw).trans_lt h
    exact magUnits_lt_iff.1 (by exact_mod_cast this)

theorem le_lower_iff {w : K} (hw : 0 < w) (m : Nat) : m ≤ lower f w ↔ (magUnits f m : K) ≤ w := by
  rw [← not_lt, ← not_lt, lower_lt_iff hw]

/-- A magnitude that is one of a code is its lower code's, and is not rounded. -/
theorem above_eq_zero_iff {w : K} (hw : 0 < w) : above (steps f w) = 0 ↔ (magUnits f (lower f w) : K) = w := by
  have h : above (steps f w) = 0 ↔ w - magUnits f (lower f w) = 0 := by
    rw [sub_lower hw, mul_eq_zero, or_iff_left (pow_ne_zero _ two_ne_zero)]
  rw [h, sub_eq_zero, eq_comm]

/-! ## Where a rounding goes -/

theorem goesUp_of_exact {w : K} (h : above (steps f w) = 0) : goesUp f mode r neg w = false := by
  rw [goesUp, h]
  exact roundsUp_zero ..

omit [IsStrictOrderedRing K] in
theorem goesUp_rtz (w : K) : goesUp f .rtz r neg w = false := rfl

omit [IsStrictOrderedRing K] in
theorem goesUp_rdn {w : K} (h : above (steps f w) ≠ 0) : goesUp f .rdn r neg w = neg := by simp [goesUp, roundsUp, h]

omit [IsStrictOrderedRing K] in
theorem goesUp_rup {w : K} (h : above (steps f w) ≠ 0) : goesUp f .rup r neg w = !neg := by simp [goesUp, roundsUp, h]

theorem goesUp_sr {w : K} (hw : 0 < w) (h : above (steps f w) ≠ 0) :
    goesUp f .sr r neg w = decide ((r : ℤ) ≤ ⌊(w - magUnits f (lower f w)) / ((magUnits f (lower f w + 1) : K) - magUnits f (lower f w)) * 2 ^ 32⌋) := by
  rw [sub_lower hw, step_lower hw, mul_div_cancel_right₀ _ (pow_ne_zero _ two_ne_zero)]
  simp [goesUp, roundsUp, h]

/-- Half of the step, by the distances to the two codes. -/
theorem half_lt_above {w : K} (hw : 0 < w) :
    1 / 2 < above (steps f w) ↔ (magUnits f (lower f w + 1) : K) - w < w - magUnits f (lower f w) := by
  have h1 := sub_lower (f := f) hw
  have h2 := step_lower (f := f) hw
  have hpos : (0 : K) < 2 ^ grid f w := pow_pos two_pos _
  rw [← mul_lt_mul_iff_left₀ hpos, ← h1]
  constructor <;> intro h <;> linarith

theorem half_eq_above {w : K} (hw : 0 < w) :
    above (steps f w) = 1 / 2 ↔ w - magUnits f (lower f w) = (magUnits f (lower f w + 1) : K) - w := by
  have h1 := sub_lower (f := f) hw
  have h2 := step_lower (f := f) hw
  have hpos : (2 : K) ^ grid f w ≠ 0 := pow_ne_zero _ two_ne_zero
  rw [← mul_left_inj' hpos, ← h1]
  constructor <;> intro h <;> linarith

theorem above_lt_half {w : K} (hw : 0 < w) :
    above (steps f w) < 1 / 2 ↔ w - magUnits f (lower f w) < (magUnits f (lower f w + 1) : K) - w := by
  have h1 := sub_lower (f := f) hw
  have h2 := step_lower (f := f) hw
  have hpos : (0 : K) < 2 ^ grid f w := pow_pos two_pos _
  rw [← mul_lt_mul_iff_left₀ hpos, ← h1]
  constructor <;> intro h <;> linarith

omit [IsStrictOrderedRing K] in
theorem goesUp_rne {w : K} : goesUp f .rne r neg w
    = (decide (1 / 2 < above (steps f w)) || decide (above (steps f w) = 1 / 2) && decide (⌊steps f w⌋₊ % 2 = 1)) := rfl

omit [IsStrictOrderedRing K] in
/-- The last bit of the lower code is that of its multiple. -/
theorem lower_parity (hf : Proper f) (w : K) : lower f w % 2 = ⌊steps f w⌋₊ % 2 := by
  obtain ⟨k, hk⟩ := Nat.exists_eq_add_of_le hf.frac
  have : grid f w * 2 ^ f.frac % 2 = 0 := by rw [hk, pow_add, pow_one, Nat.mul_left_comm, Nat.mul_mod_right]
  unfold lower
  omega

/-! ## Tiny magnitudes (07 R131; log 7) -/

theorem tiny_of_lt {w : K} (hw : 0 < w) (h : 2 * w < 2 ^ f.frac) : (roundedMag f mode r neg w).tiny = true := by
  have h1 : (2 : K) ^ (Int.log 2 w + 1) < 2 ^ (f.frac : ℤ) := by
    rw [zpow_add_one₀ two_ne_zero, zpow_natCast]
    have := zpow_log_le hw
    linarith
  have h2 := (zpow_lt_zpow_iff_right₀ (a := (2 : K)) one_lt_two).1 h1
  simp [roundedMag, h2]

theorem not_tiny_of_le {w : K} (h : 2 ^ f.frac ≤ w) : (roundedMag f mode r neg w).tiny = false := by
  have hw : 0 < w := (pow_pos two_pos _).trans_le h
  have h1 := (Int.zpow_le_iff_le_log (R := K) (b := 2) (x := f.frac) one_lt_two hw).1 (by exact_mod_cast h)
  have h2 : ¬ (Int.log 2 w + 1 < f.frac) := by omega
  have h3 : ¬ (Int.log 2 w < f.frac) := by omega
  simp [roundedMag, h2, h3]

end

end Sys2Proof.Rounding

/-! PROOFS about rounding, third part (07 R127, R128, R131): the code and the flags of a rounded magnitude are those of `Rounds`. -/

namespace Sys2Proof.Rounding
open Sys2Proof Sys2Proof.Machine Sys2Proof.Safety Sys2Proof.Codes

/-! ## Codes of a sign and a magnitude -/

section
variable {f : Fmt} {neg : Bool} {m : Nat}

theorem codeOf_div (h : m < f.signBit) : codeOf f neg m / f.signBit = if neg then 1 else 0 := by
  unfold codeOf
  cases neg
  · rw [if_neg Bool.false_ne_true, if_neg Bool.false_ne_true, Nat.zero_add, Nat.div_eq_of_lt h]
  · rw [if_pos rfl, if_pos rfl, Nat.add_div_left _ signBit_pos, Nat.div_eq_of_lt h]

theorem codeOf_mod (h : m < f.signBit) : codeOf f neg m % f.signBit = m := by
  unfold codeOf
  cases neg
  · rw [if_neg Bool.false_ne_true, Nat.zero_add, Nat.mod_eq_of_lt h]
  · rw [if_pos rfl, Nat.add_mod_left, Nat.mod_eq_of_lt h]

theorem negCode_codeOf (h : m < f.signBit) : negCode f (codeOf f neg m) = neg := by
  rw [negCode, codeOf_div h]
  cases neg <;> rfl

theorem infMag_pos (hf : Proper f) : 0 < f.infMag :=
  Nat.mul_pos (by have := Nat.pow_le_pow_right (n := 2) (by decide) hf.ebits; omega) (Nat.two_pow_pos _)

theorem two_pow_frac_lt (hf : Proper f) : 2 ^ f.frac < f.signBit := by
  rw [signBit_eq]
  exact lt_mul_of_one_lt_left (Nat.two_pow_pos _) (Nat.one_lt_two_pow (Nat.one_le_iff_ne_zero.1 hf.ebits))

theorem magUnits_two_pow_frac : magUnits f (2 ^ f.frac) = 2 ^ f.frac := by
  have := magUnits_grid (f := f) (q := 2 ^ f.frac) (g := 0) (Nat.pow_le_pow_right (by decide) (Nat.le_succ _)) (.inl rfl)
  rwa [Nat.zero_mul, Nat.add_zero, pow_zero, Nat.mul_one] at this

theorem cast_units_of_lt {K : Type} [Field K] (h : m < f.signBit) : (units f m : K) = magUnits f m := by
  rw [units_of_lt h, Int.cast_natCast]

end

/-! ## The end of a rounding -/

/-- An overflow gives the largest finite magnitude, not infinity (07 R127). -/
def toLargest (mode : RMode) (neg : Bool) : Bool :=
  match mode with
  | .rtz => true
  | .rdn => !neg
  | .rup => neg
  | _ => false

theorem toLargest_iff (mode : RMode) (neg : Bool) :
    toLargest mode neg = true ↔ mode = .rtz ∨ (mode = .rdn ∧ neg = false) ∨ (mode = .rup ∧ neg = true) := by
  cases mode <;> cases neg <;> decide

/-- The result that the model makes of a rounded magnitude. -/
def finish (f : Fmt) (mode : RMode) (neg : Bool) (x : Rounded) : FRes :=
  if x.mag ≥ f.infMag then
    { bits := codeOf f neg (if toLargest mode neg then f.infMag - 1 else f.infMag), flags := flagOF ||| flagNX }
  else
    { bits := codeOf f neg x.mag, flags := flagIf x.inexact flagNX ||| flagIf (x.inexact && x.tiny) flagUF,
      ufZero := x.inexact && x.tiny && x.mag == 0 }

theorem round_eq_finish (f : Fmt) (mode : RMode) (r : Nat) (neg : Bool) (num : Nat) (exp : Int) (sticky : Bool) :
    f.round mode r neg num exp sticky = finish f mode neg (roundMag f mode r neg num exp sticky) := by
  unfold Fmt.round finish codeOf
  cases mode <;> rfl

section
variable {K : Type} [Field K] [LinearOrder K] [IsStrictOrderedRing K] [FloorRing K] {f : Fmt} {mode : RMode} {r : Nat} {neg : Bool}

/-- An exact magnitude rounded into a format. -/
def roundedTo (f : Fmt) (mode : RMode) (r : Nat) (neg : Bool) (w : K) : FRes := finish f mode neg (roundedMag f mode r neg w)

/-- The model's rounding of num * 2^exp, and of a part more, is that of its exact magnitude. -/
theorem round_part {δ : K} {sticky : Bool} (h : Part δ sticky) {num : Nat} (hn : num ≠ 0) {exp : Int}
    (hs : sticky = true → f.frac + 32 ≤ Nat.log2 num) :
    f.round mode r neg num exp sticky = roundedTo f mode r neg (((num : K) + δ) * 2 ^ (exp + f.bias + f.frac - 1)) := by
  rw [round_eq_finish, roundMag_eq h hn hs]
  rfl

theorem round_eq {num : Nat} (hn : num ≠ 0) (exp : Int) :
    f.round mode r neg num exp false = roundedTo f mode r neg ((num : K) * 2 ^ (exp + f.bias + f.frac - 1)) := by
  rw [round_part (K := K) Part.zero hn (fun h => absurd h Bool.false_ne_true), add_zero]

omit [IsStrictOrderedRing K] in
/-- A rounding that goes up is none that overflows to the largest magnitude. -/
theorem toLargest_of_goesUp {w : K} (h : goesUp f mode r neg w = true) : toLargest mode neg = false := by
  cases mode with
  | rne => rfl
  | sr => rfl
  | rtz => cases h
  | rdn =>
    have : neg = true := by simp only [goesUp, roundsUp, Bool.and_eq_true] at h; exact h.1
    rw [this]
    rfl
  | rup =>
    have : (!neg) = true := by simp only [goesUp, roundsUp, Bool.and_eq_true] at h; exact h.1
    simpa [toLargest] using this

section
variable {w : K} (hw : 0 < w)
include hw

omit [IsStrictOrderedRing K] hw in
theorem mag_le_succ : lower f w ≤ (roundedMag f mode r neg w).mag ∧ (roundedMag f mode r neg w).mag ≤ lower f w + 1 := by
  rw [roundedMag_mag]
  split <;> omega

omit [IsStrictOrderedRing K] hw in
/-- Below 2^emax the rounded magnitude is what the code holds. -/
theorem finish_bits_of_lt (h : lower f w < f.infMag) : (roundedTo f mode r neg w).bits = codeOf f neg (roundedMag f mode r neg w).mag := by
  unfold roundedTo finish
  split
  next hge =>
    have hle := (mag_le_succ (mode := mode) (r := r) (neg := neg) (f := f) (w := w)).2
    have hup : goesUp f mode r neg w = true := by
      by_contra hc
      rw [roundedMag_mag, if_neg hc] at hge
      omega
    have hmag : (roundedMag f mode r neg w).mag = f.infMag := by omega
    rw [toLargest_of_goesUp hup, hmag]
    rfl
  · rfl

omit [IsStrictOrderedRing K] hw in
theorem mag_lt_signBit (h : lower f w < f.infMag) : (roundedMag f mode r neg w).mag < f.signBit := by
  have h1 := (mag_le_succ (mode := mode) (r := r) (neg := neg) (f := f) (w := w)).2
  have h2 := infMag_lt (f := f)
  omega

omit [IsStrictOrderedRing K] hw in
/-- At 2^emax and above it overflows. -/
theorem roundedTo_of_ge (h : f.infMag ≤ lower f w) : roundedTo f mode r neg w
    = { bits := codeOf f neg (if toLargest mode neg then f.infMag - 1 else f.infMag), flags := flagOF ||| flagNX } := by
  have := (mag_le_succ (mode := mode) (r := r) (neg := neg) (f := f) (w := w)).1
  unfold roundedTo finish
  rw [if_pos (by omega)]

/-- A magnitude that is one of a code. -/
theorem roundedTo_exact (h : lower f w < f.infMag) (he : (magUnits f (lower f w) : K) = w) :
    roundedTo f mode r neg w = .exact (codeOf f neg (lower f w)) := by
  have ha := (above_eq_zero_iff hw).2 he
  have hmag : (roundedMag f mode r neg w).mag = lower f w := by rw [roundedMag_mag, goesUp_of_exact ha, if_neg Bool.false_ne_true]
  have hin : (roundedMag f mode r neg w).inexact = false := by simp [roundedMag_inexact, ha]
  unfold roundedTo finish
  rw [if_neg (by omega), hin, hmag]
  simp [FRes.exact, flagIf]

theorem inexact_of_lt (hf : Proper f) {x : Rounded} (hx : x = roundedMag f mode r neg w) :
    Inexact f w (flagNX ||| flagIf x.tiny flagUF) := by
  have hu : (units f (2 ^ f.frac) : K) = 2 ^ f.frac := by
    rw [cast_units_of_lt (two_pow_frac_lt hf), magUnits_two_pow_frac]
    push_cast
    rfl
  unfold Inexact
  rw [hu]
  refine ⟨?_, fun h => ?_, fun h => ?_⟩
  · cases x.tiny
    · exact .inl rfl
    · exact .inr rfl
  · rw [hx, not_tiny_of_le h]
    rfl
  · rw [hx, tiny_of_lt hw h]
    rfl

/-- A rounded zero is tiny. -/
theorem tiny_of_mag_eq_zero (hf : Proper f) (h : (roundedMag f mode r neg w).mag = 0) : (roundedMag f mode r neg w).tiny = true := by
  have h1 := (mag_le_succ (mode := mode) (r := r) (neg := neg) (f := f) (w := w)).1
  have hlt : w < magUnits f 1 := (lower_lt_iff hw 1).1 (by omega)
  have hone : magUnits f 1 = 1 := by
    have := magUnits_succ (f := f) 0
    rwa [magUnits_zero, ulp, Nat.zero_div, Nat.zero_sub, pow_zero, Nat.zero_add] at this
  rw [hone, Nat.cast_one] at hlt
  refine tiny_of_lt hw ?_
  calc 2 * w < 2 ^ 1 := by linarith
    _ ≤ 2 ^ f.frac := pow_le_pow_right₀ one_le_two hf.frac

theorem finish_inexact (hf : Proper f) (he : (magUnits f (lower f w) : K) ≠ w) {m : Nat} (hm : m = (roundedMag f mode r neg w).mag) :
    (roundedTo f mode r neg w).ufZero = decide (m = 0) ∧ (m = f.infMag → (roundedTo f mode r neg w).flags = flagOF ||| flagNX)
      ∧ (m < f.infMag → Inexact f w (roundedTo f mode r neg w).flags) := by
  have hin : (roundedMag f mode r neg w).inexact = true := by
    rw [roundedMag_inexact, decide_eq_true_eq]
    exact mt (above_eq_zero_iff hw).1 he
  have hpos := infMag_pos hf
  unfold roundedTo finish
  rw [← hm, hin]
  split
  next hge => exact ⟨by symm; simp only [decide_eq_false_iff_not]; omega, fun _ => rfl, fun h => absurd h (Nat.not_lt.2 hge)⟩
  next hlt =>
    refine ⟨?_, fun h => absurd h.ge hlt, fun _ => inexact_of_lt hw hf rfl⟩
    dsimp only
    rw [Bool.true_and, Bool.eq_iff_iff, Bool.and_eq_true, beq_iff_eq, decide_eq_true_eq, and_iff_right_iff_imp]
    exact fun h => tiny_of_mag_eq_zero hw hf (hm ▸ h)

/-- To the nearest, the even one of two that are equally near. -/
theorem mag_rne (hf : Proper f) {m : Nat} (hm : m = (roundedMag f .rne r neg w).mag) :
    (w - magUnits f (lower f w) < (magUnits f (lower f w + 1) : K) - w → m = lower f w)
      ∧ ((magUnits f (lower f w + 1) : K) - w < w - magUnits f (lower f w) → m = lower f w + 1)
      ∧ (w - magUnits f (lower f w) = (magUnits f (lower f w + 1) : K) - w → m % 2 = 0) := by
  have hpar := lower_parity hf w
  rw [roundedMag_mag, goesUp_rne] at hm
  rw [← above_lt_half hw, ← half_lt_above hw, ← half_eq_above hw]
  refine ⟨fun h => ?_, fun h => ?_, fun h => ?_⟩
  · rw [hm, decide_eq_false h.not_gt, decide_eq_false h.ne]
    rfl
  · rw [hm, decide_eq_true h]
    rfl
  · rw [hm, h, ← hpar]
    by_cases hodd : lower f w % 2 = 1
    · rw [if_pos (by simp [hodd])]
      omega
    · rw [if_neg (by simp [hodd])]
      omega

end

/-- What rounding an exact magnitude gives. -/
theorem rounds_roundedTo (hf : Proper f) {w : K} (hw : 0 < w) : Rounds f mode r neg w (roundedTo f mode r neg w) := by
  have hinf : (units f f.infMag : K) = magUnits f f.infMag := cast_units_of_lt infMag_lt
  unfold Rounds
  dsimp only
  by_cases hlt : lower f w < f.infMag
  · have hu (c : Nat) (hc : c ≤ lower f w + 1) : (units f c : K) = magUnits f c :=
      cast_units_of_lt (by have := infMag_lt (f := f); omega)
    have hbits := finish_bits_of_lt (mode := mode) (r := r) (neg := neg) hlt
    have hsb := mag_lt_signBit (mode := mode) (r := r) (neg := neg) hlt
    have hcases : (roundedMag f mode r neg w).mag = lower f w ∨ (roundedMag f mode r neg w).mag = lower f w + 1 := by
      have := mag_le_succ (mode := mode) (r := r) (neg := neg) (f := f) (w := w)
      omega
    rw [hbits, codeOf_div hsb, codeOf_mod hsb, hinf]
    refine ⟨rfl, fun _ => ⟨lower f w, ?_⟩, fun hge => absurd ((le_lower_iff hw _).2 hge) (Nat.not_le.2 hlt)⟩
    simp only [hu _ (Nat.le_succ _), hu _ le_rfl]
    refine ⟨lower_le hw, lt_lower_succ hw, fun he => ?_, fun hne => ?_⟩
    · have hex := roundedTo_exact (mode := mode) (r := r) (neg := neg) hw hlt he
      have := congrArg FRes.bits hex
      rw [hbits] at this
      rw [hex]
      exact ⟨Nat.add_left_cancel this, rfl, rfl⟩
    · have ha : above (steps f w) ≠ 0 := mt (above_eq_zero_iff hw).1 hne.ne
      obtain ⟨huf, hof, hie⟩ := finish_inexact (mode := mode) (r := r) (neg := neg) hw hf hne.ne rfl
      refine ⟨hcases, huf, hof, fun h => hie (by omega), ?_, ?_, ?_, ?_, ?_⟩
      · rintro rfl
        exact mag_rne hw hf rfl
      · rintro rfl
        rw [roundedMag_mag, goesUp_rtz, if_neg Bool.false_ne_true]
      · rintro rfl
        rw [roundedMag_mag, goesUp_rdn ha]
      · rintro rfl
        rw [roundedMag_mag, goesUp_rup ha]
        cases neg <;> rfl
      · rintro rfl
        rw [roundedMag_mag, goesUp_sr hw ha]
        simp only [decide_eq_true_eq]
  · have hge := Nat.not_lt.1 hlt
    have hsb : (if toLargest mode neg then f.infMag - 1 else f.infMag) < f.signBit := by
      have := infMag_lt (f := f)
      split <;> omega
    rw [roundedTo_of_ge hge, hinf]
    refine ⟨codeOf_div hsb, fun h => absurd h (not_lt.2 ((le_lower_iff hw _).1 hge)), fun _ => ⟨rfl, rfl, ?_⟩⟩
    rw [codeOf_mod hsb]
    simp only [toLargest_iff]

/-- What the model's rounding of num * 2^exp gives. -/
theorem rounds_round (hf : Proper f) {num : Nat} (hn : num ≠ 0) (exp : Int) :
    Rounds f mode r neg ((num : K) * 2 ^ (exp + f.bias + f.frac - 1)) (f.round mode r neg num exp false) := by
  rw [round_eq (K := K) hn]
  exact rounds_roundedTo hf (mul_pos (by exact_mod_cast Nat.pos_of_ne_zero hn) (zpow_pos two_pos _))

end

end Sys2Proof.Rounding

/-! PROOFS about the values of codes (07 R121) and of the model's roundings of exact numbers (07 R127, R128, R130). -/

namespace Sys2Proof.Rounding
open Sys2Proof Sys2Proof.Machine Sys2Proof.Safety Sys2Proof.Codes

section
variable {f : Fmt} {mode : RMode} {r : Nat} {neg : Bool}

/-! ## The value of a code -/

/-- The number of a sign and a magnitude. -/
def signed (neg : Bool) (m : ℚ) : ℚ := if neg then -m else m

theorem abs_signed {m : ℚ} (h : 0 ≤ m) : |signed neg m| = m := by
  cases neg
  · exact abs_of_nonneg h
  · exact (abs_neg m).trans (abs_of_nonneg h)

theorem signed_eq_zero {m : ℚ} : signed neg m = 0 ↔ m = 0 := by
  cases neg
  · exact Iff.rfl
  · exact neg_eq_zero

theorem signed_neg_iff {m : ℚ} (h : 0 < m) : signed neg m < 0 ↔ neg = true := by
  cases neg
  · exact iff_of_false (not_lt.2 h.le) Bool.false_ne_true
  · exact iff_of_true (neg_lt_zero.2 h) rfl

theorem neg_eq_decide {m : ℚ} (h : 0 < m) : neg = decide (signed neg m < 0) := by
  rw [Bool.eq_iff_iff, decide_eq_true_eq, signed_neg_iff h]

theorem signed_mul (a b : Bool) (x y : ℚ) : signed a x * signed b y = signed (a != b) (x * y) := by
  cases a <;> cases b <;> simp [signed]

/-- The magnitude of a code. -/
def codeMag (f : Fmt) (c : Nat) : ℚ := magUnits f (c % f.signBit) * (2 : ℚ) ^ (1 - (f.bias : ℤ) - f.frac)

theorem codeMag_nonneg (c : Nat) : 0 ≤ codeMag f c := mul_nonneg (Nat.cast_nonneg _) (zpow_nonneg two_pos.le _)

theorem codeValue_eq (c : Nat) : codeValue f c = signed (negCode f c) (codeMag f c) := by
  rw [codeValue, units_eq, codeMag, signed]
  split
  · push_cast
    rw [neg_mul]
  · push_cast
    rfl

theorem abs_codeValue (c : Nat) : |codeValue f c| = codeMag f c := by rw [codeValue_eq, abs_signed (codeMag_nonneg c)]

theorem codeMag_eq_zero {c : Nat} : codeMag f c = 0 ↔ zeroCode f c = true := by
  rw [codeMag, mul_eq_zero, or_iff_left (zpow_ne_zero _ two_ne_zero), Nat.cast_eq_zero, magUnits_eq_zero, zeroCode, beq_iff_eq]

theorem codeMag_pos {c : Nat} (h : zeroCode f c = false) : 0 < codeMag f c :=
  lt_of_le_of_ne (codeMag_nonneg c) fun hz => by rw [codeMag_eq_zero.1 hz.symm] at h; cases h

theorem codeValue_eq_zero {c : Nat} : codeValue f c = 0 ↔ zeroCode f c = true := by rw [codeValue_eq, signed_eq_zero, codeMag_eq_zero]

theorem negCode_eq_decide {c : Nat} (h : zeroCode f c = false) : negCode f c = decide (codeValue f c < 0) := by
  rw [codeValue_eq]
  exact neg_eq_decide (codeMag_pos h)

/-- The magnitude of a finite code is what it decodes to. -/
theorem codeMag_eq_sig (c : Nat) : codeMag f c = (sig f (c % f.signBit) : ℚ) * 2 ^ sigExp f (c % f.signBit) := by
  rw [codeMag, magUnits_eq_sig, sigExp, zpow_add₀ two_ne_zero, zpow_natCast]
  push_cast
  rw [mul_assoc, sub_sub]

theorem sig_ne_zero {c : Nat} (h : zeroCode f c = false) : sig f (c % f.signBit) ≠ 0 := by
  rw [ne_eq, sig_eq_zero]
  simpa [zeroCode] using h

theorem sig_beq_zero (c : Nat) : (sig f (c % f.signBit) == 0) = zeroCode f c := by
  rw [Bool.eq_iff_iff, beq_iff_eq, sig_eq_zero, zeroCode, beq_iff_eq]

/-- In units of the smallest subnormal. -/
theorem codeMag_units (hf : Proper f) (c : Nat) : codeMag f c * 2 ^ (f.bias + f.frac - 1) = magUnits f (c % f.signBit) := by
  have h := hf.frac
  have h1 : (1 - (f.bias : ℤ) - f.frac) + ((f.bias + f.frac - 1 : Nat) : ℤ) = 0 := by omega
  rw [codeMag, mul_assoc, ← zpow_natCast, ← zpow_add₀ two_ne_zero, h1, zpow_zero, mul_one]

/-! ## Roundings of exact numbers -/

/-- An exact number rounded into a format. -/
def roundNumber (f : Fmt) (mode : RMode) (r : Nat) (x : ℚ) : FRes := roundedTo f mode r (decide (x < 0)) (|x| * 2 ^ (f.bias + f.frac - 1))

theorem scaled_pos {x : ℚ} (hx : x ≠ 0) (n : Nat) : 0 < |x| * 2 ^ n := mul_pos (abs_pos.2 hx) (pow_pos two_pos _)

theorem roundsTo_roundNumber (hf : Proper f) {x : ℚ} (hx : x ≠ 0) : RoundsTo f mode r x (roundNumber f mode r x) :=
  rounds_roundedTo hf (scaled_pos hx _)

theorem round_eq_roundNumber (hf : Proper f) {x : ℚ} (hx : x ≠ 0) {num : Nat} {exp : Int} (hneg : neg = decide (x < 0))
    (h : |x| = (num : ℚ) * 2 ^ exp) : f.round mode r neg num exp false = roundNumber f mode r x := by
  have hn : num ≠ 0 := by
    rintro rfl
    rw [Nat.cast_zero, zero_mul, abs_eq_zero] at h
    exact hx h
  have hfrac := hf.frac
  rw [round_eq (K := ℚ) hn, roundNumber, h, hneg, mul_assoc, ← zpow_natCast, ← zpow_add₀ two_ne_zero]
  congr 3
  omega

/-- The model's rounding of an exact number. -/
theorem roundsTo_round (hf : Proper f) {x : ℚ} (hx : x ≠ 0) {num : Nat} {exp : Int} (hneg : neg = decide (x < 0))
    (h : |x| = (num : ℚ) * 2 ^ exp) : RoundsTo f mode r x (f.round mode r neg num exp false) := by
  rw [round_eq_roundNumber hf hx hneg h]
  exact roundsTo_roundNumber hf hx

theorem signed_ne_zero {num : Nat} (hn : num ≠ 0) (neg : Bool) (exp : Int) : signed neg ((num : ℚ) * 2 ^ exp) ≠ 0 := by
  rw [ne_eq, signed_eq_zero, mul_eq_zero, or_iff_left (zpow_ne_zero _ two_ne_zero)]
  exact_mod_cast hn

/-- The model's rounding of a sign and num * 2^exp. -/
theorem roundsTo_signed (hf : Proper f) {num : Nat} (hn : num ≠ 0) (neg : Bool) (exp : Int) :
    RoundsTo f mode r (signed neg ((num : ℚ) * 2 ^ exp)) (f.round mode r neg num exp false) := by
  have hpos : (0 : ℚ) < (num : ℚ) * 2 ^ exp := mul_pos (by exact_mod_cast Nat.pos_of_ne_zero hn) (zpow_pos two_pos _)
  exact roundsTo_round hf (signed_ne_zero hn neg exp) (neg_eq_decide hpos) (abs_signed hpos.le)

/-- The model's rounding of the value of a finite code. -/
theorem roundsTo_code {src : Fmt} (hf : Proper f) {c : Nat} (hz : zeroCode src c = false) :
    RoundsTo f mode r (codeValue src c) (f.round mode r (negCode src c) (sig src (c % src.signBit)) (sigExp src (c % src.signBit)) false) :=
  roundsTo_round hf (fun h => by rw [codeValue_eq_zero.1 h] at hz; cases hz) (negCode_eq_decide hz)
    (by rw [abs_codeValue, codeMag_eq_sig])

/-! ## To integers -/

/-- Whether `integral` goes up from the floor of the magnitude. -/
def integralUp (mode : RMode) (r : Nat) (x : ℚ) : Bool :=
  match mode with
  | .rne => decide (1 / 2 < |x| - ⌊|x|⌋) || decide (|x| - ⌊|x|⌋ = 1 / 2) && decide (⌊|x|⌋ % 2 = 1)
  | .rtz => false
  | .rdn => decide (x < 0) && decide (|x| - ⌊|x|⌋ ≠ 0)
  | .rup => decide (0 < x) && decide (|x| - ⌊|x|⌋ ≠ 0)
  | .sr => decide (|x| - ⌊|x|⌋ ≠ 0) && decide ((r : ℤ) ≤ ⌊(|x| - ⌊|x|⌋) * 2 ^ 32⌋)

theorem integral_def (x : ℚ) : integral mode r x
    = if x < 0 then -(if integralUp mode r x then ⌊|x|⌋ + 1 else ⌊|x|⌋) else if integralUp mode r x then ⌊|x|⌋ + 1 else ⌊|x|⌋ := by
  cases mode <;> rfl

/-- The integer of 07 R127 and R128 is the magnitude's, with the sign. -/
theorem integral_eq {x : ℚ} (hneg : x ≠ 0 → neg = decide (x < 0)) :
    integral mode r x = if x < 0 then -((nearby mode r neg |x|).1 : ℤ) else ((nearby mode r neg |x|).1 : ℤ) := by
  have hk : ((⌊|x|⌋₊ : Nat) : ℤ) = ⌊|x|⌋ := Int.natCast_floor_eq_floor (abs_nonneg x)
  have hkq : ((⌊|x|⌋₊ : Nat) : ℚ) = (⌊|x|⌋ : ℤ) := by rw [← hk, Int.cast_natCast]
  have hmod : decide (⌊|x|⌋ % 2 = 1) = decide (⌊|x|⌋₊ % 2 = 1) := by rw [← hk]; exact decide_eq_decide.2 (by omega)
  have hup : integralUp mode r x = roundsUp mode r neg ⌊|x|⌋₊ (above |x|) := by
    by_cases hx : x = 0
    · have : above |x| = 0 := by simp [above, hx]
      rw [this, roundsUp_zero]
      cases mode <;> simp [integralUp, hx]
    · have hpos : decide (0 < x) = !decide (x < 0) := by
        rw [Bool.eq_iff_iff]
        simp only [decide_eq_true_eq, Bool.not_eq_true', decide_eq_false_iff_not, not_lt]
        exact ⟨le_of_lt, fun h => lt_of_le_of_ne h (Ne.symm hx)⟩
      rw [hneg hx]
      cases mode <;> simp only [integralUp, roundsUp, above, hkq, hmod, hpos]
  rw [integral_def, hup]
  unfold nearby
  dsimp only
  split <;> simp [hk]

theorem integral_exact_iff {x : ℚ} (hneg : x ≠ 0 → neg = decide (x < 0)) :
    (integral mode r x : ℚ) = x ↔ (nearby mode r neg |x|).2 = false := by
  have hiff : ((nearby mode r neg |x|).1 : ℚ) = |x| ↔ (nearby mode r neg |x|).2 = false := by
    unfold nearby
    rw [decide_eq_false_iff_not, not_not]
    constructor
    · intro h
      have hint : |x| = (((if roundsUp mode r neg ⌊|x|⌋₊ (above |x|) then ⌊|x|⌋₊ + 1 else ⌊|x|⌋₊ : Nat)) : ℚ) := h.symm
      rw [hint, above, Nat.floor_natCast, sub_self]
    · intro h
      dsimp only
      rw [h, roundsUp_zero, if_neg Bool.false_ne_true]
      unfold above at h
      linarith
  rw [← hiff, integral_eq hneg]
  split
  next hlt =>
    rw [abs_of_neg hlt]
    push_cast
    exact ⟨fun h => by linarith, fun h => by linarith⟩
  next hge =>
    rw [abs_of_nonneg (not_lt.1 hge)]
    push_cast
    rfl

/-- The model's rounding of a finite code to an integer. -/
theorem quantize_code (c : Nat) :
    quantize mode r (negCode f c) (sig f (c % f.signBit)) (sigExp f (c % f.signBit)) false 0 = nearby mode r (negCode f c) |codeValue f c| := by
  rw [quantize_eq (K := ℚ) Part.zero mode r _ _ (fun h => absurd h Bool.false_ne_true), add_zero, sub_zero, abs_codeValue, codeMag_eq_sig]

theorem negCode_of_value {c : Nat} (h : codeValue f c ≠ 0) : negCode f c = decide (codeValue f c < 0) :=
  negCode_eq_decide (by simpa [codeValue_eq_zero] using h)

/-! ## NaNs (07 R130) -/

theorem mod_signBit_mod (c : Nat) : c % f.signBit % 2 ^ f.frac = c % 2 ^ f.frac := by
  rw [signBit_eq, Nat.mod_mul_left_mod]

/-- A NaN code quietened. -/
theorem quiet_eq (src dst : Fmt) (c : Nat) :
    dst.quiet (negCode src c) (c % src.signBit % 2 ^ src.frac) src.frac = quietedInto src dst c := by
  unfold Fmt.quiet quietedInto codeOf
  rw [mod_signBit_mod]
  dsimp only
  split <;> split <;> omega

theorem signallingCode_of_not_nan {c : Nat} (h : nanCode f c = false) : signallingCode f c = false := by rw [signallingCode, h]; rfl

end

end Sys2Proof.Rounding

/-! PROOFS about conversions (07 R129, R130, R133, 08 R155-R158, R160): integers, formats, element codes; then the statement on them. -/

namespace Sys2Proof.Conversions
open Sys2Proof Sys2Proof.Machine Sys2Proof.Safety Sys2Proof.Codes Sys2Proof.Rounding

section
variable {f : Fmt} {mode : RMode} {r : Nat}

/-! ## Integers and formats (08 R155, R160) -/

theorem fromInteger (hf : Proper f) (v : ℤ) : FromInteger f mode r v (intToF f mode r v) := by
  unfold intToF
  refine ⟨fun h => ?_, fun h => ?_⟩
  · rw [h]
    exact ⟨rfl, rfl⟩
  · rw [if_neg (by simpa using h)]
    refine roundsTo_round hf (by exact_mod_cast h) (decide_eq_decide.2 Int.cast_lt_zero.symm) ?_
    rw [zpow_zero, mul_one, Nat.cast_natAbs, Int.cast_abs]

theorem word_eq (v : ℤ) : (((v % 4294967296).toNat : Nat) : ℤ) = v % 2 ^ 32 := Int.toNat_of_nonneg (Int.emod_nonneg _ (by decide))

/-- The integer that a finite code is rounded to. -/
theorem integral_code (c : Nat) : integral mode r (codeValue f c)
    = if negCode f c then -((nearby mode r (negCode f c) |codeValue f c|).1 : ℤ) else ((nearby mode r (negCode f c) |codeValue f c|).1 : ℤ) := by
  rw [integral_eq negCode_of_value]
  by_cases h : codeValue f c = 0
  · have hz : (nearby mode r (negCode f c) |codeValue f c|).1 = 0 := by
      rw [h, abs_zero, ← Nat.cast_zero, nearby_natCast]
    simp [hz]
  · rw [negCode_of_value h]
    simp only [decide_eq_true_eq]

theorem toInteger {lo hi : ℤ} (c : Nat) : ToInteger f mode r lo hi c (fToInt f mode r lo hi c) := by
  unfold ToInteger fToInt
  dsimp only
  refine ⟨fun h => ?_, fun h => ?_, fun h => ?_⟩
  · rw [decode_nan h]
    exact ⟨rfl, rfl⟩
  · rw [decode_inf h]
    exact ⟨word_eq _, rfl⟩
  · have hex := integral_exact_iff (mode := mode) (r := r) (negCode_of_value (f := f) (c := c))
    rw [decode_fin h]
    dsimp only
    rw [quantize_code, ← integral_code]
    generalize integral mode r (codeValue f c) = n at hex ⊢
    unfold clamped
    by_cases hlo : n < lo
    · simp only [hlo, if_true, true_or]
      exact ⟨word_eq _, trivial⟩
    · by_cases hhi : hi < n
      · simp only [hlo, hhi, if_true, if_false, or_true]
        exact ⟨word_eq _, trivial⟩
      · simp only [hlo, hhi, if_false, or_false]
        refine ⟨word_eq _, ?_⟩
        cases hq : (nearby mode r (negCode f c) |codeValue f c|).2 with
        | false => rw [if_pos (hex.2 hq)]; rfl
        | true => rw [if_neg (fun he => by rw [hex.1 he] at hq; cases hq)]; rfl

theorem converted {src dst : Fmt} (hs : Proper src) (hd : Proper dst) (c : Nat) : Converted src dst mode r c (fconv src dst mode r c) := by
  unfold fconv
  refine ⟨fun h => ?_, fun h => ?_, fun h => ?_, fun h hz => ?_⟩
  · have hsig := decode_isSignalling hs c
    rw [decode_nan h] at hsig ⊢
    refine ⟨quiet_eq .., ?_⟩
    rw [← hsig]
    rfl
  · rw [decode_inf h]
    exact ⟨rfl, rfl⟩
  · rw [decode_fin (finiteCode_of_zero hs h)]
    dsimp only
    rw [sig_beq_zero, if_pos h]
    exact ⟨rfl, rfl⟩
  · rw [decode_fin h]
    dsimp only
    rw [sig_beq_zero, hz, if_neg Bool.false_ne_true]
    exact roundsTo_code hd hz

end

/-! ## MX elements (07 R122, R129, R133, 08 R156-R158) -/

/-- The MX formats that elements convert. -/
abbrev Mx (b : BFmt) : Prop := b = .mx8e4 ∨ b = .mx8e5

section
variable {b : BFmt} {sat : Bool} {x mu : Nat}

theorem Mx.proper (h : Mx b) : Proper b.fmt := by
  rcases h with rfl | rfl <;> exact ⟨by decide, by decide⟩

theorem Mx.signBit (h : Mx b) : b.fmt.signBit = 128 := by
  rcases h with rfl | rfl <;> rfl

theorem Mx.maxMag_lt (h : Mx b) : b.maxMag + 1 < b.fmt.signBit := by
  rcases h with rfl | rfl <;> decide

theorem Mx.nanCode_eq (h : Mx b) (n : Bool) : b.nanCode n = codeOf b.fmt n 0x7F := by
  rcases h with rfl | rfl <;> cases n <;> rfl

theorem encode_full (v : FVal) : b.encode sat 255 mu v = { bits := b.nanCode v.neg, flags := flagNV } := by simp [BFmt.encode]

theorem Mx.encode_nan (h : Mx b) (hx : x ≠ 255) (n s : Bool) (m w : Nat) :
    b.encode sat x mu (.nan n s m w) = { bits := b.nanCode n, flags := flagIf s flagNV } := by
  rcases h with rfl | rfl <;> simp [BFmt.encode, hx, BFmt.isWeft, BFmt.noNaN]

theorem Mx.encode_inf (h : Mx b) (hx : x ≠ 255) (n : Bool) :
    b.encode sat x mu (.inf n) = if sat then { bits := codeOf b.fmt n b.maxMag, flags := flagOF }
      else if b = .mx8e5 then .exact (codeOf b.fmt n 0x7C) else { bits := b.nanCode n, flags := flagNV } := by
  rcases h with rfl | rfl <;> simp [BFmt.encode, hx, BFmt.isWeft, BFmt.noNaN, codeOf]

/-- The result that an MX encoding makes of a rounded magnitude. -/
def elementOf (b : BFmt) (n : Bool) (y : Rounded) : FRes :=
  if y.mag > b.maxMag then { bits := codeOf b.fmt n b.maxMag, flags := flagOF ||| flagNX }
  else { bits := codeOf b.fmt n y.mag, flags := flagIf y.inexact flagNX ||| flagIf (y.inexact && y.tiny) flagUF,
         ufZero := y.inexact && y.tiny && y.mag == 0 }

theorem Mx.encode_fin (h : Mx b) (hx : x ≠ 255) (n : Bool) (k : Nat) (e : Int) :
    b.encode sat x mu (.fin n k e) = elementOf b n (roundMag b.fmt .rne 0 n k (e - ((x : Int) - 127)) false) := by
  rcases h with rfl | rfl <;> simp [BFmt.encode, hx, BFmt.isWeft, elementOf, codeOf]

end

theorem flagNV_or (c : Bool) : flagNV ||| flagIf c flagNV = flagNV := by cases c <;> decide
theorem flagIf_or_self (c : Bool) : flagIf c flagNV ||| flagIf c flagNV = flagIf c flagNV := by cases c <;> decide

theorem encodeElem_bits (b : BFmt) (a scale : Nat) : (encodeElem b a scale).bits
    = (b.encode (scale / 256 % 2 == 1) (scale % 256) (scale / 256 % 2) (fmt32.decode a)).bits := rfl
theorem encodeElem_ufZero (b : BFmt) (a scale : Nat) : (encodeElem b a scale).ufZero
    = (b.encode (scale / 256 % 2 == 1) (scale % 256) (scale / 256 % 2) (fmt32.decode a)).ufZero := rfl

theorem encodeElem_flags (b : BFmt) (a scale : Nat) : (encodeElem b a scale).flags
    = (b.encode (scale / 256 % 2 == 1) (scale % 256) (scale / 256 % 2) (fmt32.decode a)).flags ||| flagIf (signallingCode fmt32 a) flagNV := by
  rw [← decode_isSignalling proper32]
  rfl

/-- Without a signalling NaN the encoding is that of the value. -/
theorem encodeElem_of_not_signalling {b : BFmt} {a scale : Nat} (h : signallingCode fmt32 a = false) :
    encodeElem b a scale = b.encode (scale / 256 % 2 == 1) (scale % 256) (scale / 256 % 2) (fmt32.decode a) := by
  have hflags := encodeElem_flags b a scale
  rw [h] at hflags
  unfold encodeElem at hflags ⊢
  dsimp only at hflags ⊢
  rw [hflags]
  simp [flagIf]

/-- A magnitude above zero that is rounded to the nearest element code. -/
theorem elementOf_roundedMag {b : BFmt} (h : Mx b) (s : Bool) {w : ℚ} (hw : 0 < w) :
    (units b.fmt (b.maxMag + 1) ≤ w → (elementOf b s (roundedMag b.fmt .rne 0 s w)).bits = codeOf b.fmt s b.maxMag
        ∧ (elementOf b s (roundedMag b.fmt .rne 0 s w)).flags = flagOF ||| flagNX)
    ∧ (w < units b.fmt (b.maxMag + 1) → ∃ c, Nearest b.fmt w c
      ∧ (c = b.maxMag + 1 → (elementOf b s (roundedMag b.fmt .rne 0 s w)).bits = codeOf b.fmt s b.maxMag
        ∧ (elementOf b s (roundedMag b.fmt .rne 0 s w)).flags = flagOF ||| flagNX)
      ∧ (c ≤ b.maxMag → (elementOf b s (roundedMag b.fmt .rne 0 s w)).bits = codeOf b.fmt s c
        ∧ (elementOf b s (roundedMag b.fmt .rne 0 s w)).ufZero = decide (c = 0)
        ∧ (units b.fmt c = w → (elementOf b s (roundedMag b.fmt .rne 0 s w)).flags = 0)
        ∧ ((units b.fmt c : ℚ) ≠ w → Inexact b.fmt w (elementOf b s (roundedMag b.fmt .rne 0 s w)).flags))) := by
  have hmax := h.maxMag_lt
  have hle := mag_le_succ (f := b.fmt) (mode := .rne) (r := 0) (neg := s) (w := w)
  rw [cast_units_of_lt hmax]
  refine ⟨fun hge => ?_, fun hlt => ⟨(roundedMag b.fmt .rne 0 s w).mag, ?_, fun hc => ?_, fun hc => ?_⟩⟩
  · have hlow := (le_lower_iff hw _).2 hge
    rw [elementOf, if_pos (by omega)]
    exact ⟨rfl, rfl⟩
  · have hlow := (lower_lt_iff hw _).2 hlt
    obtain ⟨hdown, hup, htie⟩ := mag_rne (r := 0) (neg := s) hw h.proper (m := (roundedMag b.fmt .rne 0 s w).mag) rfl
    refine ⟨lower b.fmt w, by omega, ?_⟩
    rw [cast_units_of_lt (by omega), cast_units_of_lt (by omega)]
    exact ⟨lower_le hw, lt_lower_succ hw, hdown, hup, fun he => ⟨by omega, htie he⟩⟩
  · rw [elementOf, if_pos (by omega)]
    exact ⟨rfl, rfl⟩
  · have hlow := (lower_lt_iff hw _).2 hlt
    have hexact : (units b.fmt (roundedMag b.fmt .rne 0 s w).mag : ℚ) = w ↔ (roundedMag b.fmt .rne 0 s w).inexact = false := by
      rw [cast_units_of_lt (by omega), roundedMag_inexact, decide_eq_false_iff_not, not_not, above_eq_zero_iff hw]
      constructor
      · intro he
        have h1 := (le_lower_iff (f := b.fmt) hw _).2 he.le
        rwa [le_antisymm h1 hle.1] at he
      · intro he
        have hz := (above_eq_zero_iff hw).2 he
        rwa [roundedMag_mag, goesUp_of_exact hz, if_neg Bool.false_ne_true]
    rw [elementOf, if_neg (by omega)]
    refine ⟨rfl, ?_, fun he => ?_, fun hne => ?_⟩
    · rw [Bool.eq_iff_iff, Bool.and_eq_true, Bool.and_eq_true, beq_iff_eq, decide_eq_true_eq, and_iff_right_iff_imp]
      intro hz
      refine ⟨?_, tiny_of_mag_eq_zero hw h.proper hz⟩
      by_contra hin
      have he := hexact.2 (by simpa using hin)
      rw [hz, cast_units_of_lt signBit_pos, magUnits_zero, Nat.cast_zero] at he
      exact hw.ne he
    · rw [hexact.1 he]
      simp [flagIf]
    · have hin : (roundedMag b.fmt .rne 0 s w).inexact = true := by simpa using mt hexact.2 hne
      dsimp only
      rw [hin]
      exact inexact_of_lt hw h.proper rfl

theorem encodedMX {b : BFmt} (h : Mx b) (a scale : Nat) : EncodedMX b a scale (encodeElem b a scale) := by
  unfold EncodedMX
  dsimp only
  refine ⟨fun hx => ?_, fun hx => ⟨fun hn => ?_, fun hi hsat => ?_, fun hi hsat => ?_, fun hz => ?_, fun hfin hz => ?_⟩⟩
  · rw [encodeElem_bits, encodeElem_flags, hx, encode_full, decode_neg, h.nanCode_eq]
    exact ⟨rfl, flagNV_or _⟩
  · have hsig := decode_isSignalling proper32 a
    rw [decode_nan hn] at hsig
    rw [encodeElem_bits, encodeElem_flags, decode_nan hn, h.encode_nan hx, h.nanCode_eq, ← hsig, FVal.isSignalling]
    exact ⟨rfl, flagIf_or_self _⟩
  · rw [encodeElem_of_not_signalling (signallingCode_of_not_nan (nanCode_of_inf hi)), decode_inf hi, h.encode_inf hx, hsat]
    exact ⟨rfl, rfl⟩
  · rw [encodeElem_of_not_signalling (signallingCode_of_not_nan (nanCode_of_inf hi)), decode_inf hi, h.encode_inf hx,
      beq_eq_false_iff_ne.2 hsat]
    simp only [Bool.false_eq_true, if_false]
    split
    · exact ⟨rfl, rfl⟩
    · exact ⟨h.nanCode_eq _, rfl⟩
  · have hfin := finiteCode_of_zero proper32 hz
    have hsig0 : sig fmt32 (a % fmt32.signBit) = 0 := beq_iff_eq.1 ((sig_beq_zero a).trans hz)
    rw [encodeElem_of_not_signalling (signallingCode_of_not_nan (nanCode_of_finite hfin)), decode_fin hfin, h.encode_fin hx, hsig0]
    simp [elementOf, roundMag, flagIf]
  · have hw : |codeValue fmt32 a| / 2 ^ (((scale % 256 : Nat) : ℤ) - 127) * 2 ^ (b.fmt.bias + b.fmt.frac - 1)
        = ((sig fmt32 (a % fmt32.signBit) : ℚ) + 0) * 2 ^ (sigExp fmt32 (a % fmt32.signBit) - (((scale % 256 : Nat) : ℤ) - 127) + b.fmt.bias + b.fmt.frac - 1) := by
      have hfrac := h.proper.frac
      rw [abs_codeValue, codeMag_eq_sig, add_zero, mul_div_assoc, ← zpow_sub₀ two_ne_zero, mul_assoc, ← zpow_natCast, ← zpow_add₀ two_ne_zero]
      congr 2
      omega
    have hpos : (0 : ℚ) < |codeValue fmt32 a| / 2 ^ (((scale % 256 : Nat) : ℤ) - 127) * 2 ^ (b.fmt.bias + b.fmt.frac - 1) := by
      rw [abs_codeValue]
      exact mul_pos (div_pos (codeMag_pos hz) (zpow_pos two_pos _)) (pow_pos two_pos _)
    rw [encodeElem_of_not_signalling (signallingCode_of_not_nan (nanCode_of_finite hfin)), decode_fin hfin, h.encode_fin hx,
      roundMag_eq (K := ℚ) Part.zero (sig_ne_zero hz) (fun hs => absurd hs Bool.false_ne_true), ← hw]
    exact elementOf_roundedMag h _ hpos

end Sys2Proof.Conversions

/-! PROOFS about weft elements and about decoding element codes (07 R122, R123, R125, 08 R156-R158), and the statement on conversions. -/

namespace Sys2Proof.Conversions
open Sys2Proof Sys2Proof.Machine Sys2Proof.Safety Sys2Proof.Codes Sys2Proof.Rounding

/-! ## Weft elements -/

/-- The weft formats. -/
abbrev Weft (b : BFmt) : Prop := b = .wf8 ∨ b = .wf5 ∨ b = .wf3

section
variable {b : BFmt} {sat : Bool} {x mu : Nat}

theorem Weft.isWeft (h : Weft b) : b.isWeft = true := by
  rcases h with rfl | rfl | rfl <;> rfl

theorem Weft.maxMag_eq (h : Weft b) : b.maxMag = 2 ^ (b.q + 1) - 1 := by
  rcases h with rfl | rfl | rfl <;> rfl

theorem Weft.nanCode_eq (h : Weft b) (n : Bool) : b.nanCode n = 2 ^ (b.width - 1) := by
  rcases h with rfl | rfl | rfl <;> rfl

theorem Weft.width_pos (h : Weft b) : 1 ≤ b.width := by
  rcases h with rfl | rfl | rfl <;> decide

/-- The result that a weft encoding makes of an integer and of whether it was rounded. -/
def weftOf (b : BFmt) (n : Bool) (k : Nat) (q : Nat × Bool) : FRes :=
  let m := if q.1 > b.maxMag then b.maxMag else q.1
  { bits := if m == 0 then 0 else (if n then 2 ^ (b.width - 1) else 0) + m
    flags := flagIf (q.1 > b.maxMag) (flagOF ||| flagNX) ||| flagIf q.2 flagNX ||| flagIf (m == 0 && k != 0) (flagUF ||| flagNX)
    ufZero := m == 0 && k != 0 }

theorem Weft.encode_fin (h : Weft b) (hx : x ≠ 255) (n : Bool) (k : Nat) (e : Int) :
    b.encode sat x mu (.fin n k e) = weftOf b n k (quantize .rne 0 n k (e - ((x : Int) - 127) + b.q + mu) false 0) := by
  unfold BFmt.encode
  rw [if_neg (by simpa using hx), if_pos h.isWeft]
  rfl

theorem Weft.encode_other (h : Weft b) (hx : x ≠ 255) {v : FVal} (hv : ∀ n k e, v ≠ .fin n k e) :
    b.encode sat x mu v = { bits := 2 ^ (b.width - 1), flags := flagNV } := by
  unfold BFmt.encode
  rw [if_neg (by simpa using hx), if_pos h.isWeft, h.nanCode_eq]
  cases v with
  | fin n k e => exact absurd rfl (hv n k e)
  | nan => rfl
  | inf => rfl

theorem weft_flags_table : ∀ large inexact lost : Bool, (large && lost) = false →
    flagIf large (flagOF ||| flagNX) ||| flagIf inexact flagNX ||| flagIf lost (flagUF ||| flagNX)
      = if large then flagOF ||| flagNX else if lost then flagUF ||| flagNX else if inexact then flagNX else 0 := by decide

/-- What the flags of a weft encoding are, by cases. -/
theorem weftOf_flags (h : Weft b) (n : Bool) (k : Nat) (q : Nat × Bool) : (weftOf b n k q).flags
    = if b.maxMag < q.1 then flagOF ||| flagNX else if q.1 = 0 ∧ k ≠ 0 then flagUF ||| flagNX else if q.2 then flagNX else 0 := by
  have hpos : b.maxMag ≠ 0 := by
    rcases h with rfl | rfl | rfl <;> decide
  have hlost : ((if q.1 > b.maxMag then b.maxMag else q.1) == 0 && k != 0) = decide (q.1 = 0 ∧ k ≠ 0) := by
    rw [Bool.eq_iff_iff]
    simp only [Bool.and_eq_true, beq_iff_eq, bne_iff_ne, decide_eq_true_eq]
    split <;> omega
  unfold weftOf
  dsimp only
  rw [hlost, weft_flags_table _ _ _ (by rw [Bool.and_eq_false_iff, decide_eq_false_iff_not, decide_eq_false_iff_not]; omega)]
  simp only [decide_eq_true_eq, gt_iff_lt]

end

theorem nearby_rne (n : Bool) (x : ℚ) : nearby .rne 0 n x = nearby .rne 0 false x := rfl

theorem encodedWeft {b : BFmt} (h : Weft b) (a scale : Nat) : EncodedWeft b a scale (encodeElem b a scale) := by
  unfold EncodedWeft
  dsimp only
  refine ⟨fun hc => ?_, fun hx hfin => ?_⟩
  · rw [encodeElem_bits, encodeElem_flags]
    by_cases hx : scale % 256 = 255
    · rw [hx, encode_full]
      exact ⟨h.nanCode_eq _, flagNV_or _⟩
    · have hv : ∀ n k e, fmt32.decode a ≠ .fin n k e := by
        intro n k e he
        rcases code_cases fmt32 a with hn | hi | hf
        · rw [decode_nan hn] at he; cases he
        · rw [decode_inf hi] at he; cases he
        · rw [hc.resolve_left hx] at hf; cases hf
      rw [h.encode_other hx hv]
      exact ⟨rfl, flagNV_or _⟩
  · have hw : |codeValue fmt32 a| / 2 ^ (((scale % 256 : Nat) : ℤ) - 127) * 2 ^ (b.q + scale / 256 % 2)
        = ((sig fmt32 (a % fmt32.signBit) : ℚ) + 0)
          * 2 ^ (sigExp fmt32 (a % fmt32.signBit) - (((scale % 256 : Nat) : ℤ) - 127) + b.q + ((scale / 256 % 2 : Nat) : ℤ) - 0) := by
      rw [abs_codeValue, codeMag_eq_sig, add_zero, mul_div_assoc, ← zpow_sub₀ two_ne_zero, mul_assoc, ← zpow_natCast, ← zpow_add₀ two_ne_zero]
      congr 2
      omega
    have hnonneg : (0 : ℚ) ≤ |codeValue fmt32 a| / 2 ^ (((scale % 256 : Nat) : ℤ) - 127) * 2 ^ (b.q + scale / 256 % 2) :=
      mul_nonneg (div_nonneg (abs_nonneg _) (zpow_nonneg two_pos.le _)) (pow_nonneg two_pos.le _)
    rw [encodeElem_of_not_signalling (signallingCode_of_not_nan (nanCode_of_finite hfin)), decode_fin hfin, h.encode_fin hx,
      quantize_eq (K := ℚ) Part.zero .rne 0 _ _ (fun hs => absurd hs Bool.false_ne_true), ← hw, nearby_rne]
    generalize |codeValue fmt32 a| / 2 ^ (((scale % 256 : Nat) : ℤ) - 127) * 2 ^ (b.q + scale / 256 % 2) = v at hnonneg ⊢
    have hneg : v ≠ 0 → false = decide (v < 0) := fun _ => (decide_eq_false (not_lt.2 hnonneg)).symm
    have hint := integral_eq (mode := .rne) (r := 0) hneg
    have hex := integral_exact_iff (mode := .rne) (r := 0) hneg
    rw [abs_of_nonneg hnonneg] at hint hex
    rw [if_neg (not_lt.2 hnonneg)] at hint
    rw [hint] at hex
    rw [hint, weftOf_flags h]
    generalize nearby .rne 0 false v = q at hex ⊢
    have htop : ((2 : ℤ) ^ (b.q + 1) - 1) = (b.maxMag : ℤ) := by
      rw [h.maxMag_eq, Nat.cast_sub Nat.one_le_two_pow]
      push_cast
      rfl
    have hm : (min (q.1 : ℤ) b.maxMag).toNat = if q.1 > b.maxMag then b.maxMag else q.1 := by
      split <;> omega
    have hk : (sig fmt32 (a % fmt32.signBit) ≠ 0) ↔ zeroCode fmt32 a = false := by
      rw [← sig_beq_zero, beq_eq_false_iff_ne]
    rw [htop, hm]
    unfold weftOf
    dsimp only
    refine ⟨by simp only [beq_iff_eq], ?_, ?_⟩
    · rw [Bool.eq_iff_iff]
      simp only [Bool.and_eq_true, beq_iff_eq, bne_iff_ne, decide_eq_true_eq, hk, Bool.not_eq_true']
    · have hmax : b.maxMag ≠ 0 := by
        rcases h with rfl | rfl | rfl <;> decide
      have hz : (if q.1 > b.maxMag then b.maxMag else q.1) = 0 ↔ q.1 = 0 := by
        split <;> omega
      have hsticky : (q.2 = true) ↔ ¬ ((q.1 : ℤ) : ℚ) = v := by rw [hex]; simp
      simp only [hz, hk, Nat.cast_lt, hsticky]
      split
      · rfl
      · split
        · rfl
        · split <;> simp_all

/-! ## Decoding element codes -/

/-- What the model decodes to: a NaN, an infinity, or the exact number. -/
inductive DecodesTo (b : BFmt) (c x mu : Nat) : FVal → Prop
  | nan {n s : Bool} {m w : Nat} (h : x = 255 ∨ elementNaN b c = true) : DecodesTo b c x mu (.nan n s m w)
  | inf (hx : x ≠ 255) (hn : elementNaN b c = false) (hi : elementInf b c = true) : DecodesTo b c x mu (.inf (elementNeg b c))
  | fin {n : Bool} {k : Nat} {e : Int} (hx : x ≠ 255) (hn : elementNaN b c = false) (hi : elementInf b c = false)
      (hneg : elementNeg b c = n) (hv : (k : ℚ) * 2 ^ e = elementMag b c * 2 ^ ((x : ℤ) - 127 - (if b.isWeft then mu else 0 : Nat))) :
      DecodesTo b c x mu (.fin n k e)

theorem Weft.decodesTo {b : BFmt} (h : Weft b) (c x mu : Nat) : DecodesTo b c x mu (b.decode c x mu) := by
  have hwidth : 2 ^ b.width = 2 ^ (b.width - 1) * 2 := by
    rw [← pow_succ, Nat.sub_add_cancel h.width_pos]
  have hmod : c % 2 ^ b.width % 2 ^ (b.width - 1) = c % 2 ^ (b.width - 1) := by rw [hwidth, Nat.mod_mul_right_mod]
  have hdiv : c % 2 ^ b.width / 2 ^ (b.width - 1) = c / 2 ^ (b.width - 1) % 2 := by rw [hwidth, Nat.mod_mul_right_div_self]
  have hpos : 0 < 2 ^ (b.width - 1) := Nat.two_pow_pos _
  have hsplit := Nat.div_add_mod (c % 2 ^ b.width) (2 ^ (b.width - 1))
  rw [hmod, hdiv] at hsplit
  have hnan : elementNaN b c = (c % 2 ^ b.width == 2 ^ (b.width - 1)) := by
    rcases h with rfl | rfl | rfl <;> rfl
  have hinf : elementInf b c = false := by
    rcases h with rfl | rfl | rfl <;> rfl
  have hmag : elementMag b c = (c % 2 ^ (b.width - 1) : Nat) / 2 ^ b.q := by rw [elementMag, if_pos h.isWeft]
  unfold BFmt.decode
  dsimp only
  rw [if_pos h.isWeft, hmod, hdiv]
  by_cases hx : x = 255
  · rw [if_pos (by simpa using hx)]
    exact .nan (.inl hx)
  · rw [if_neg (by simpa using hx)]
    by_cases hm : c % 2 ^ (b.width - 1) = 0
    · rw [if_pos (by simpa using hm)]
      by_cases hs : c / 2 ^ (b.width - 1) % 2 = 1
      · rw [if_pos (by simpa using hs)]
        refine .nan (.inr ?_)
        rw [hnan, beq_iff_eq, ← hsplit, hm, hs]
        omega
      · rw [if_neg (by simpa using hs)]
        have hs0 : c / 2 ^ (b.width - 1) % 2 = 0 := by omega
        refine .fin hx ?_ hinf ?_ ?_
        · rw [hnan, beq_eq_false_iff_ne, ← hsplit, hm, hs0]
          omega
        · rw [elementNeg, hs0]
          rfl
        · rw [hmag, hm]
          simp
    · rw [if_neg (by simpa using hm)]
      have hlt := Nat.mod_lt c hpos
      refine .fin hx ?_ hinf rfl ?_
      · rw [hnan, beq_eq_false_iff_ne, ← hsplit]
        rcases Nat.mod_two_eq_zero_or_one (c / 2 ^ (b.width - 1)) with hs | hs <;> rw [hs] <;> omega
      · have hexp : (x : ℤ) - 127 - b.q - mu = (x : ℤ) - 127 - mu - b.q := by ring
        rw [hmag, if_pos h.isWeft, hexp, zpow_sub₀ two_ne_zero (_ - _ : ℤ), zpow_natCast]
        ring

theorem Mx.decodesTo {b : BFmt} (h : Mx b) (c x mu : Nat) : DecodesTo b c x mu (b.decode c x mu) := by
  have hweft : b.isWeft = false := by
    rcases h with rfl | rfl <;> rfl
  have hi8 : (b == .mxi8) = false := by
    rcases h with rfl | rfl <;> rfl
  have hwidth : b.width = 8 := by
    rcases h with rfl | rfl <;> rfl
  have hmod : c % 2 ^ b.width % b.fmt.signBit = c % 128 := by rw [hwidth, h.signBit]; omega
  have hdiv : c % 2 ^ b.width / b.fmt.signBit % 2 = c / 128 % 2 := by rw [hwidth, h.signBit]; omega
  have hneg : elementNeg b c = (c / 128 % 2 == 1) := by rw [elementNeg, hwidth]; rfl
  have hmag : elementMag b c = (sig b.fmt (c % 128) : ℚ) * 2 ^ sigExp b.fmt (c % 128) := by
    rw [elementMag, hweft, if_neg Bool.false_ne_true, abs_codeValue, codeMag_eq_sig, h.signBit]
  have hnan : elementNaN b c = (b == .mx8e4 && c % 128 == 0x7F || b == .mx8e5 && decide (0x7C < c % 128)) := by
    rcases h with rfl | rfl
    · exact (Bool.or_false _).symm
    · rfl
  have hinf : elementInf b c = (b == .mx8e5 && c % 128 == 0x7C) := rfl
  have hscale (k : Nat) (e : ℤ) (hk : sig b.fmt (c % 128) = k) (he : e = sigExp b.fmt (c % 128) + ((x : ℤ) - 127)) :
      (k : ℚ) * 2 ^ e = elementMag b c * 2 ^ ((x : ℤ) - 127 - (if b.isWeft then mu else 0 : Nat)) := by
    rw [hmag, hk, hweft, he, if_neg Bool.false_ne_true, Nat.cast_zero, sub_zero, zpow_add₀ two_ne_zero, mul_assoc]
  unfold BFmt.decode
  dsimp only
  rw [hweft, hi8, hmod, hdiv, ← hneg]
  by_cases hx : x = 255
  · rw [if_pos (by simpa using hx)]
    exact .nan (.inl hx)
  · rw [if_neg (by simpa using hx), if_neg Bool.false_ne_true, if_neg Bool.false_ne_true]
    by_cases h4 : (b == .mx8e4 && c % 128 == 0x7F) = true
    · rw [if_pos h4]
      exact .nan (.inr (by rw [hnan, h4, Bool.true_or]))
    · rw [if_neg h4]
      by_cases hi : (b == .mx8e5 && c % 128 == 0x7C) = true
      · rw [if_pos hi]
        refine .inf hx ?_ (hinf.trans hi)
        have hc : c % 128 = 0x7C := by
          rw [Bool.and_eq_true, beq_iff_eq, beq_iff_eq] at hi
          exact hi.2
        rw [hnan, hc]
        simp
      · rw [if_neg hi]
        by_cases h5 : (b == .mx8e5 && decide (c % 128 > 0x7C)) = true
        · rw [if_pos h5]
          exact .nan (.inr (by rw [hnan, Bool.or_eq_true]; exact .inr h5))
        · rw [if_neg h5]
          have hn : elementNaN b c = false := by
            rw [hnan, Bool.or_eq_false_iff]
            exact ⟨by simpa using h4, by simpa using h5⟩
          by_cases he : c % 128 / 2 ^ b.fmt.frac = 0
          · rw [if_pos (by simpa using he)]
            refine .fin hx hn (hinf.trans (by simpa using hi)) rfl (hscale _ _ ?_ ?_)
            · rw [sig, if_pos he]
            · rw [sigExp, he]
              omega
          · rw [if_neg (by simpa using he)]
            refine .fin hx hn (hinf.trans (by simpa using hi)) rfl (hscale _ _ ?_ ?_)
            · rw [sig, if_neg he]
            · rw [sigExp]
              generalize c % 128 / 2 ^ b.fmt.frac = q at he ⊢
              omega

/-- A decoded element code, rounded into binary32. -/
theorem decoded {b : BFmt} {c scale : Nat} (h : DecodesTo b c (scale % 256) (scale / 256 % 2) (b.decode c (scale % 256) (scale / 256 % 2)))
    (mode : RMode) : Decoded b mode c scale (decodeElem b mode c scale) := by
  unfold Decoded decodeElem
  generalize b.decode c (scale % 256) (scale / 256 % 2) = v at h ⊢
  cases h with
  | nan h =>
    refine ⟨fun _ => ⟨rfl, rfl⟩, fun hx hi => ?_, fun hx hn _ => ?_⟩
    · have hn := h.resolve_left hx
      have hc : b = .mx8e5 ∧ c % 128 = 0x7C := by simpa [elementInf] using hi
      rw [hc.1, elementNaN, hc.2] at hn
      simp at hn
    · rw [h.resolve_left hx] at hn
      cases hn
  | inf hx hn hi =>
    refine ⟨fun h => ?_, fun _ _ => ⟨rfl, rfl⟩, fun _ _ h => absurd (hi.symm.trans h) Bool.noConfusion⟩
    rw [hn] at h
    exact absurd (h.resolve_right Bool.false_ne_true) hx
  | @fin n k e hx hn hi hneg hv =>
    refine ⟨fun h => ?_, fun _ h => absurd (h.symm.trans hi) Bool.noConfusion, fun _ _ _ => ?_⟩
    · rw [hn] at h
      exact absurd (h.resolve_right Bool.false_ne_true) hx
    · dsimp only
      rw [← hv, hneg]
      refine ⟨fun hz => ?_, fun hz => ?_⟩
      · have hk : k = 0 := by
          rw [mul_eq_zero, or_iff_left (zpow_ne_zero _ two_ne_zero)] at hz
          exact_mod_cast hz
        rw [hk]
        exact ⟨rfl, rfl⟩
      · have hk : k ≠ 0 := by
          rintro rfl
          simp at hz
        have hk0 : (k == 0) = false := beq_eq_false_iff_ne.2 hk
        rw [hk0, if_neg Bool.false_ne_true]
        have hm : (if (mode == .sr) = true then RMode.rne else mode) = if mode = .sr then .rne else mode := by cases mode <;> rfl
        rw [hm]
        exact roundsTo_signed proper32 hk n e

/-- Settles O12: the forms write their functions; the functions give a rounding of the exact value, or a special value. -/
theorem conversionForms : Obligations.ConversionForms := by
  intro t d a b
  obtain ⟨fromS32, fromN32, toS32, toN32, toS8, toH16, fromLow, fromHigh, toMx8e4, toMx8e5, toWf8, toWf5, toWf3, fromMx8e4, fromMx8e5,
    fromWf8, fromWf5, fromWf3⟩ := Beats.conversionBeats t d a b
  refine ⟨fromS32, fromN32, toS32, toN32, toS8, toH16, fromLow, fromHigh, toMx8e4, toMx8e5, toWf8, toWf5, toWf3, fromMx8e4, fromMx8e5,
    fromWf8, fromWf5, fromWf3, fun f mode r hf => ?_, fun mode c scale => ⟨fun m hm => ?_, fun w hw => ?_⟩⟩
  · have hp := Proper.of_ieee hf
    exact ⟨fromInteger hp, fun c => ⟨fun lo hi _ _ => toInteger c, fun dst hdst => converted hp (.of_ieee hdst) c⟩⟩
  · have h : Mx m := by simpa using hm
    exact ⟨encodedMX h c scale, decoded (h.decodesTo ..) mode⟩
  · have h : Weft w := by simpa using hw
    exact ⟨encodedWeft h c scale, decoded (h.decodesTo ..) mode⟩

end Sys2Proof.Conversions

/-! PROOFS about exact sums and products (07 R127, R130, R137, 08 R148, R154): the model forms them exactly and rounds once. -/

namespace Sys2Proof.Sums
open Sys2Proof Sys2Proof.Machine Sys2Proof.Safety Sys2Proof.Codes Sys2Proof.Rounding

/-! ## NaN operands (07 R130) -/

section
variable {f : Fmt} {mode : RMode} {r : Nat}

/-- What a list of operands decodes to. -/
def decoded (ops : List (Fmt × Nat)) : List FVal := ops.map fun o => o.1.decode o.2

theorem find_nan (ops : List (Fmt × Nat)) :
    (decoded ops).find? FVal.isNaN = (ops.find? fun o => nanCode o.1 o.2).map fun o => o.1.decode o.2 := by
  rw [decoded, List.find?_map]
  congr 2
  funext o
  exact decode_isNaN _

theorem any_signalling {ops : List (Fmt × Nat)} (hops : ∀ o ∈ ops, Proper o.1) :
    (decoded ops).any FVal.isSignalling = ops.any fun o => signallingCode o.1 o.2 := by
  rw [decoded, List.any_map, Bool.eq_iff_iff, List.any_eq_true, List.any_eq_true]
  exact exists_congr fun o => and_congr_right fun ho => by rw [Function.comp_apply, decode_isSignalling (hops o ho)]

/-! ## Terms -/

/-- A decoded value is a term of an exact sum. -/
inductive Means : FVal → Term → Prop
  | nan {n s : Bool} {m w : Nat} {t : Term} (hn : t.nan = true) (hi : t.inf = false) : Means (.nan n s m w) t
  | inf {n : Bool} {t : Term} (hn : t.nan = false) (hi : t.inf = true) (hs : t.neg = n) : Means (.inf n) t
  | fin {n : Bool} {k : Nat} {e : Int} {t : Term} (hn : t.nan = false) (hi : t.inf = false) (hs : t.neg = n)
      (hm : t.mag = (k : ℚ) * 2 ^ e) : Means (.fin n k e) t

theorem means_decode (f : Fmt) (c : Nat) : Means (f.decode c) (Term.of f c) := by
  rcases code_cases f c with h | h | h
  · rw [decode_nan h]
    exact .nan h (infCode_of_nan h)
  · rw [decode_inf h]
    exact .inf (nanCode_of_inf h) h rfl
  · rw [decode_fin h]
    exact .fin (nanCode_of_finite h) (infCode_of_finite h) rfl ((abs_codeValue c).trans (codeMag_eq_sig c))

theorem Means.of_isInf {v : FVal} {t : Term} (h : Means v t) (hv : v.isInf = true) : v = .inf t.neg ∧ t.inf = true := by
  cases h with
  | nan => cases hv
  | inf hn hi hs => exact ⟨by rw [hs], hi⟩
  | fin => cases hv

theorem Means.negate {v : FVal} {t : Term} (h : Means v t) : Means v.negate t.opposite := by
  cases h with
  | nan hn hi => exact .nan hn hi
  | inf hn hi hs => exact .inf hn hi (congrArg not hs)
  | fin hn hi hs hm => exact .fin hn hi (congrArg not hs) hm

theorem Means.mul {v w : FVal} {s t : Term} (h : Means v s) (g : Means w t) : Means (mulFVal v w).1 (s.times t) := by
  cases h with
  | nan hn hi =>
    have h1 : (s.times t).nan = true := by simp [Term.times, hn]
    have h2 : (s.times t).inf = false := by simp [Term.times, hn]
    cases g <;> exact .nan h1 h2
  | inf hn hi hs =>
    cases g with
    | nan hn' hi' => exact .nan (by simp [Term.times, hn']) (by simp [Term.times, hn'])
    | inf hn' hi' hs' => exact .inf (by simp [Term.times, hn, hn']) (by simp [Term.times, hi, hn, hn']) (by rw [Term.times, hs, hs'])
    | fin hn' hi' hs' hm => exact .inf (by simp [Term.times, hn, hn']) (by simp [Term.times, hi, hn, hn']) (by rw [Term.times, hs, hs'])
  | fin hn hi hs hm =>
    cases g with
    | nan hn' hi' => exact .nan (by simp [Term.times, hn']) (by simp [Term.times, hn'])
    | inf hn' hi' hs' => exact .inf (by simp [Term.times, hn, hn']) (by simp [Term.times, hi', hn, hn']) (by rw [Term.times, hs, hs'])
    | fin hn' hi' hs' hm' =>
      refine .fin (by simp [Term.times, hn, hn']) (by simp [Term.times, hi, hi']) (by rw [Term.times, hs, hs']) ?_
      rw [Term.times, hm, hm', zpow_add₀ two_ne_zero]
      push_cast
      ring

/-- The model's invalid product is that of 0 and infinity. -/
theorem mul_invalid {g : Fmt} (hf : Proper f) (hg : Proper g) (a b : Nat) :
    (mulFVal (f.decode a) (g.decode b)).2 = (Term.of f a).invalid (Term.of g b) := by
  have hz {h : Fmt} (c : Nat) : decide ((Term.of h c).mag = 0) = zeroCode h c := by
    rw [Bool.eq_iff_iff, decide_eq_true_eq, ← codeMag_eq_zero, ← abs_codeValue]
    rfl
  have hnz {h : Fmt} (hp : Proper h) {c : Nat} (hc : finiteCode h c = false) : zeroCode h c = false := by
    by_contra hne
    rw [finiteCode_of_zero hp (by simpa using hne)] at hc
    cases hc
  rw [Term.invalid, hz, hz]
  have ha : (Term.of f a).inf = infCode f a := rfl
  have hb : (Term.of g b).inf = infCode g b := rfl
  rw [ha, hb]
  rcases code_cases f a with h | h | h
  · rw [decode_nan h, infCode_of_nan h, hnz hf (finiteCode_of_nan h), Bool.false_and, Bool.and_false]
    cases g.decode b <;> rfl
  · rcases code_cases g b with h' | h' | h'
    · rw [decode_inf h, decode_nan h', infCode_of_nan h', hnz hg (finiteCode_of_nan h'), Bool.and_false, Bool.false_and]
      rfl
    · rw [decode_inf h, decode_inf h', hnz hg (finiteCode_of_inf h'), hnz hf (finiteCode_of_inf h), Bool.and_false, Bool.and_false]
      rfl
    · rw [decode_inf h, decode_fin h', h, infCode_of_finite h', Bool.true_and, Bool.false_and, Bool.or_false, ← sig_beq_zero]
      rfl
  · rcases code_cases g b with h' | h' | h'
    · rw [decode_fin h, decode_nan h', infCode_of_finite h, infCode_of_nan h', Bool.false_and, Bool.false_and]
      rfl
    · rw [decode_fin h, decode_inf h', infCode_of_finite h, h', Bool.true_and, Bool.false_and, Bool.false_or, ← sig_beq_zero]
      rfl
    · rw [decode_fin h, decode_fin h', infCode_of_finite h, infCode_of_finite h', Bool.false_and, Bool.false_and]
      rfl

theorem value_eq (t : Term) : t.value = Rounding.signed t.neg t.mag := rfl

theorem value_of (c : Nat) : (Term.of f c).value = codeValue f c := by
  rw [value_eq, codeValue_eq, ← abs_codeValue]
  rfl

theorem value_times (s t : Term) : (s.times t).value = s.value * t.value := (signed_mul s.neg t.neg s.mag t.mag).symm

theorem value_opposite (t : Term) : t.opposite.value = -t.value := by
  rw [value_eq, value_eq]
  cases h : t.neg <;> simp [Rounding.signed, Term.opposite, h]

/-! ## Exact sums -/

theorem leastExp_le (vs : List FVal) : ∀ d, leastExp d vs ≤ d ∧ ∀ n k e, .fin n k e ∈ vs → k ≠ 0 → leastExp d vs ≤ e := by
  induction vs with
  | nil => exact fun d => ⟨le_rfl, fun n k e h => absurd h List.not_mem_nil⟩
  | cons v vs ih =>
    intro d
    cases v with
    | nan => exact ⟨(ih d).1, fun n k e h => (ih d).2 n k e (by simpa using h)⟩
    | inf => exact ⟨(ih d).1, fun n k e h => (ih d).2 n k e (by simpa using h)⟩
    | fin n' k' e' =>
      unfold leastExp
      by_cases hc : k' ≠ 0 ∧ e' < d
      · rw [if_pos (by simpa using hc)]
        refine ⟨(ih e').1.trans hc.2.le, fun n k e h hk => ?_⟩
        rcases List.mem_cons.1 h with h | h
        · cases h
          exact (ih e').1
        · exact (ih e').2 n k e h hk
      · rw [if_neg (by simpa using hc)]
        refine ⟨(ih d).1, fun n k e h hk => ?_⟩
        rcases List.mem_cons.1 h with h | h
        · cases h
          exact (ih d).1.trans (not_lt.1 fun hlt => hc ⟨hk, hlt⟩)
        · exact (ih d).2 n k e h hk

theorem sumAt_fin (u : Int) (n : Bool) (k : Nat) (e : Int) (vs : List FVal) : sumAt u (.fin n k e :: vs)
    = (if n then -(if k == 0 then (0 : ℤ) else ((k * 2 ^ (e - u).toNat : Nat) : ℤ)) else if k == 0 then 0 else (k * 2 ^ (e - u).toNat : Nat))
      + sumAt u vs := rfl

/-- The integer sum is the exact one, in multiples of 2^u. -/
theorem sumAt_value (u : Int) (l : List (FVal × Term)) (h : ∀ p ∈ l, Means p.1 p.2) (hfin : ∀ p ∈ l, p.2.nan = false ∧ p.2.inf = false)
    (hu : ∀ n k e, .fin n k e ∈ l.map Prod.fst → k ≠ 0 → u ≤ e) :
    (sumAt u (l.map Prod.fst) : ℚ) * 2 ^ u = ((l.map Prod.snd).map Term.value).sum := by
  induction l with
  | nil => simp [sumAt]
  | cons p l ih =>
    obtain ⟨v, t⟩ := p
    have ih := ih (fun q hq => h q (List.mem_cons_of_mem _ hq)) (fun q hq => hfin q (List.mem_cons_of_mem _ hq))
      fun n k e he => hu n k e (List.mem_cons_of_mem _ he)
    have hp : Means v t := h (v, t) List.mem_cons_self
    have hpf : t.nan = false ∧ t.inf = false := hfin (v, t) List.mem_cons_self
    rw [List.map_cons, List.map_cons, List.map_cons, List.sum_cons, ← ih]
    cases hp with
    | nan hn => rw [hn] at hpf; exact absurd hpf.1 Bool.noConfusion
    | inf hn hi => rw [hi] at hpf; exact absurd hpf.2 Bool.noConfusion
    | @fin n k e _ hn hi hs hm =>
      have hterm : ((if k == 0 then (0 : ℤ) else ((k * 2 ^ (e - u).toNat : Nat) : ℤ) : ℤ) : ℚ) * 2 ^ u = t.mag := by
        rw [hm]
        by_cases hk : k = 0
        · simp [hk]
        · have hle := hu n k e List.mem_cons_self hk
          have hpow : ((2 : ℚ) ^ (e - u).toNat) = 2 ^ (e - u) := by
            rw [← zpow_natCast, Int.toNat_of_nonneg (sub_nonneg.2 hle)]
          rw [if_neg (by simpa using hk)]
          push_cast
          rw [hpow, mul_assoc, ← zpow_add₀ two_ne_zero, sub_add_cancel]
      rw [sumAt_fin, Int.cast_add, add_mul, value_eq, ← hterm, hs]
      congr 1
      cases n
      · rfl
      · rw [if_pos rfl, Int.cast_neg, neg_mul]
        rfl

/-! ## The model's sum -/

/-- The sum of finite terms. -/
def sumFinite (f : Fmt) (mode : RMode) (r : Nat) (terms : List FVal) : FRes :=
  if sumAt (leastExp 4096 terms) terms == 0 then
    .exact (if (if terms.all (fun t => t.isZero && t.neg) then true
      else if terms.all (fun t => t.isZero && !t.neg) then false else mode == .rdn) then f.signBit else 0)
  else f.round mode r (decide (sumAt (leastExp 4096 terms) terms < 0)) (sumAt (leastExp 4096 terms) terms).natAbs (leastExp 4096 terms) false

section
variable {nans terms : List FVal} {bad : Bool}

theorem sumRound_nan {n s : Bool} {m w : Nat} (h : nans.find? FVal.isNaN = some (.nan n s m w)) : sumRound f mode r nans terms bad
    = { bits := f.quiet n m w, flags := flagIf ((bad || oppositeInf terms) || nans.any FVal.isSignalling) flagNV } := by
  unfold sumRound
  rw [h]

theorem sumRound_bad (h : nans.find? FVal.isNaN = none) (hb : (bad || oppositeInf terms) = true) :
    sumRound f mode r nans terms bad = { bits := f.defaultNaN, flags := flagNV } := by
  unfold sumRound
  rw [h, hb]
  rfl

theorem sumRound_inf (h : nans.find? FVal.isNaN = none) (hb : (bad || oppositeInf terms) = false) {t : FVal}
    (ht : terms.find? FVal.isInf = some t) : sumRound f mode r nans terms bad = .exact (codeOf f t.neg f.infMag) := by
  unfold sumRound
  rw [h, hb, ht]
  rfl

theorem sumRound_finite (h : nans.find? FVal.isNaN = none) (hb : (bad || oppositeInf terms) = false)
    (ht : terms.find? FVal.isInf = none) : sumRound f mode r nans terms bad = sumFinite f mode r terms := by
  unfold sumRound
  rw [h, hb, ht]
  rfl

end

/-- The exact sum of the terms of a list. -/
def total (l : List (FVal × Term)) : ℚ := ((l.map Prod.snd).map Term.value).sum

section
variable {l : List (FVal × Term)}

theorem any_inf (h : ∀ p ∈ l, Means p.1 p.2) (n : Bool) :
    ((l.map Prod.fst).any (· == .inf n)) = (l.map Prod.snd).any fun t => t.inf && (if n then t.neg else !t.neg) := by
  rw [List.any_map, List.any_map, Bool.eq_iff_iff, List.any_eq_true, List.any_eq_true]
  refine exists_congr fun p => and_congr_right fun hp => ?_
  obtain ⟨v, t⟩ := p
  rw [Function.comp_apply, Function.comp_apply]
  dsimp only
  have hm : Means v t := h _ hp
  cases hm with
  | nan hn hi => simp [hi]
  | inf hn hi hs => cases n <;> simp [hi, hs]
  | fin hn hi => simp [hi]

theorem oppositeInf_eq (h : ∀ p ∈ l, Means p.1 p.2) : oppositeInf (l.map Prod.fst)
    = (((l.map Prod.snd).any fun t => t.inf && t.neg) && (l.map Prod.snd).any fun t => t.inf && !t.neg) := by
  rw [oppositeInf, any_inf h, any_inf h]
  rfl

theorem find_inf_none (h : ∀ p ∈ l, Means p.1 p.2) :
    (l.map Prod.fst).find? FVal.isInf = none ↔ ∀ t ∈ l.map Prod.snd, t.inf = false := by
  rw [List.find?_eq_none, List.forall_mem_map, List.forall_mem_map]
  refine forall_congr' fun p => forall_congr' fun hp => ?_
  obtain ⟨v, t⟩ := p
  dsimp only
  have hm : Means v t := h _ hp
  cases hm with
  | nan hn hi => simp [hi, FVal.isInf]
  | inf hn hi => simp [hi, FVal.isInf]
  | fin hn hi => simp [hi, FVal.isInf]

theorem all_zero (h : ∀ p ∈ l, Means p.1 p.2) (hfin : ∀ p ∈ l, p.2.nan = false ∧ p.2.inf = false) (n : Bool) :
    ((l.map Prod.fst).all fun t => t.isZero && (if n then t.neg else !t.neg))
      = (l.map Prod.snd).all fun t => decide (t.mag = 0) && (if n then t.neg else !t.neg) := by
  rw [List.all_map, List.all_map, Bool.eq_iff_iff, List.all_eq_true, List.all_eq_true]
  refine forall_congr' fun p => forall_congr' fun hp => ?_
  obtain ⟨v, t⟩ := p
  rw [Function.comp_apply, Function.comp_apply]
  dsimp only
  have hpf : t.nan = false ∧ t.inf = false := hfin _ hp
  have hmeans : Means v t := h _ hp
  cases hmeans with
  | nan hn => rw [hn] at hpf; exact absurd hpf.1 Bool.noConfusion
  | inf hn hi => rw [hi] at hpf; exact absurd hpf.2 Bool.noConfusion
  | @fin s k e _ hn hi hs hm =>
    have hz : (FVal.fin s k e).isZero = decide (t.mag = 0) := by
      rw [hm, Bool.eq_iff_iff, decide_eq_true_eq, mul_eq_zero, or_iff_left (zpow_ne_zero _ two_ne_zero), Nat.cast_eq_zero, FVal.isZero,
        beq_iff_eq]
    rw [hz, hs]
    rfl

theorem sum_eq_total (h : ∀ p ∈ l, Means p.1 p.2) (hfin : ∀ p ∈ l, p.2.nan = false ∧ p.2.inf = false) :
    (sumAt (leastExp 4096 (l.map Prod.fst)) (l.map Prod.fst) : ℚ) * 2 ^ leastExp 4096 (l.map Prod.fst) = total l :=
  sumAt_value _ l h hfin (leastExp_le _ 4096).2

/-- A sum of finite terms that is not 0 is its exact value, rounded. -/
theorem sumFinite_eq_roundNumber (hf : Proper f) (h : ∀ p ∈ l, Means p.1 p.2) (hfin : ∀ p ∈ l, p.2.nan = false ∧ p.2.inf = false)
    (hx : total l ≠ 0) : sumFinite f mode r (l.map Prod.fst) = roundNumber f mode r (total l) := by
  have hsum := sum_eq_total h hfin
  unfold sumFinite
  generalize leastExp 4096 (l.map Prod.fst) = u at hsum ⊢
  generalize sumAt u (l.map Prod.fst) = m at hsum ⊢
  have hpow : (0 : ℚ) < 2 ^ u := zpow_pos two_pos _
  have hm : m ≠ 0 := by
    rintro rfl
    rw [Int.cast_zero, zero_mul] at hsum
    exact hx hsum.symm
  rw [if_neg (by simpa using hm)]
  refine round_eq_roundNumber hf hx (decide_eq_decide.2 ?_) ?_
  · rw [← hsum, ← Int.cast_lt_zero (R := ℚ)]
    exact ⟨fun h => mul_neg_of_neg_of_pos h hpow, fun h => not_le.1 fun hle => not_le.2 h (mul_nonneg hle hpow.le)⟩
  · rw [← hsum, abs_mul, abs_of_pos hpow, Nat.cast_natAbs, Int.cast_abs]

/-- An exact zero has the sign that the terms share, or that of the mode. -/
theorem sumFinite_zero (h : ∀ p ∈ l, Means p.1 p.2) (hfin : ∀ p ∈ l, p.2.nan = false ∧ p.2.inf = false) (hx : total l = 0) :
    sumFinite f mode r (l.map Prod.fst) = .exact (codeOf f (if (l.map Prod.snd).all (fun t => decide (t.mag = 0) && t.neg) then true
      else if (l.map Prod.snd).all (fun t => decide (t.mag = 0) && !t.neg) then false else mode == .rdn) 0) := by
  have hsum := sum_eq_total h hfin
  rw [hx, mul_eq_zero, or_iff_left (zpow_ne_zero _ two_ne_zero), Int.cast_eq_zero] at hsum
  have h1 := all_zero h hfin true
  have h2 := all_zero h hfin false
  simp only [if_true, Bool.false_eq_true, if_false] at h1 h2
  unfold sumFinite
  rw [if_pos (by simpa using hsum), h1, h2]
  rfl

/-- The model's sum is the rounded exact sum of its terms. -/
theorem sumOf_sumRound (hf : Proper f) {ops : List (Fmt × Nat)} {bad : Bool} (hops : ∀ o ∈ ops, Proper o.1) (h : ∀ p ∈ l, Means p.1 p.2)
    (hnan : (∀ o ∈ ops, nanCode o.1 o.2 = false) → ∀ p ∈ l, p.2.nan = false) :
    SumOf f mode r ops bad (l.map Prod.snd) (sumRound f mode r (decoded ops) (l.map Prod.fst) bad) := by
  have hopp := oppositeInf_eq h
  have hfind := find_nan ops
  unfold SumOf NaNRule
  dsimp only
  rw [← hopp]
  refine ⟨⟨fun o ho => ?_, fun hnone hbad => ?_⟩, fun hno hgood => ?_⟩
  · have hc : nanCode o.1 o.2 = true := by simpa using List.find?_some ho
    rw [ho, Option.map_some, decode_nan hc] at hfind
    rw [sumRound_nan hfind, any_signalling hops]
    exact ⟨quiet_eq .., rfl⟩
  · rw [hnone, Option.map_none] at hfind
    rw [sumRound_bad hfind hbad]
    exact ⟨rfl, rfl⟩
  · have hnone : ops.find? (fun o => nanCode o.1 o.2) = none := List.find?_eq_none.2 fun o ho => by simp [hno o ho]
    rw [hnone, Option.map_none] at hfind
    refine ⟨fun t ht hi => ?_, fun hfinite => ?_⟩
    · cases hinf : (l.map Prod.fst).find? FVal.isInf with
      | none => rw [(find_inf_none h).1 hinf t ht] at hi; cases hi
      | some v =>
        rw [sumRound_inf hfind hgood hinf]
        obtain ⟨p, hp, rfl⟩ := List.mem_map.1 (List.mem_of_find?_eq_some hinf)
        obtain ⟨hv, hpi⟩ := (h p hp).of_isInf (List.find?_some hinf)
        have hsame : p.2.neg = t.neg := by
          rw [hopp, Bool.or_eq_false_iff, Bool.and_eq_false_iff] at hgood
          by_contra hne
          have hp' : p.2 ∈ l.map Prod.snd := List.mem_map_of_mem hp
          rcases hgood.2 with hg | hg
          · rw [List.any_eq_false] at hg
            have g1 := hg _ hp'
            have g2 := hg _ ht
            rw [hpi] at g1
            rw [hi] at g2
            cases hp1 : p.2.neg <;> cases ht1 : t.neg <;> simp_all
          · rw [List.any_eq_false] at hg
            have g1 := hg _ hp'
            have g2 := hg _ ht
            rw [hpi] at g1
            rw [hi] at g2
            cases hp1 : p.2.neg <;> cases ht1 : t.neg <;> simp_all
        rw [hv, ← hsame]
        exact ⟨rfl, rfl⟩
    · have hfin : ∀ p ∈ l, p.2.nan = false ∧ p.2.inf = false := fun p hp => ⟨hnan hno p hp, hfinite _ (List.mem_map_of_mem hp)⟩
      rw [sumRound_finite hfind hgood ((find_inf_none h).2 hfinite)]
      refine ⟨fun hx => ?_, fun hx => ?_⟩
      · rw [sumFinite_eq_roundNumber hf h hfin hx]
        exact roundsTo_roundNumber hf hx
      · rw [sumFinite_zero h hfin hx]
        exact ⟨rfl, rfl⟩

end

end

end Sys2Proof.Sums

/-! PROOFS about the sums, products, minima, classes and integral roundings of the formats (08 R148-R154). -/

namespace Sys2Proof.Sums
open Sys2Proof Sys2Proof.Machine Sys2Proof.Safety Sys2Proof.Codes Sys2Proof.Rounding

section
variable {f : Fmt} {mode : RMode} {r a b : Nat}

/-! ## Sums and products (08 R148, R154) -/

theorem sumOf_fadd (hf : Proper f) : SumOf f mode r [(f, a), (f, b)] false [Term.of f a, Term.of f b] (fadd f mode r a b) :=
  sumOf_sumRound (l := [(f.decode a, Term.of f a), (f.decode b, Term.of f b)]) hf (by simp [hf]) (by simp [means_decode])
    (by simp [Term.of])

theorem sumOf_fsub (hf : Proper f) : SumOf f mode r [(f, a), (f, b)] false [Term.of f a, (Term.of f b).opposite] (fsub f mode r a b) :=
  sumOf_sumRound (l := [(f.decode a, Term.of f a), ((f.decode b).negate, (Term.of f b).opposite)]) hf (by simp [hf])
    (by simp [means_decode, (means_decode f b).negate]) (by simp [Term.of, Term.opposite])

/-- A product is the sum of one term: of an exact zero too. -/
theorem fmul_eq : fmul f mode r a b = sumRound f mode r [f.decode a, f.decode b] [(mulFVal (f.decode a) (f.decode b)).1]
    (mulFVal (f.decode a) (f.decode b)).2 := by
  unfold fmul
  dsimp only
  split
  next n e h =>
    have hx : (f.decode a).isNaN = false := by
      cases hx : f.decode a with
      | nan => rw [hx, mulFVal] at h; cases h
      | inf => rfl
      | fin => rfl
    have hy : (f.decode b).isNaN = false := by
      cases hy : f.decode b with
      | nan => rw [hy] at h; cases hx : f.decode a <;> rw [hx, mulFVal] at h <;> cases h
      | inf => rfl
      | fin => rfl
    have hbad : (mulFVal (f.decode a) (f.decode b)).2 = false := by
      cases hx : f.decode a <;> cases hy : f.decode b <;> rw [hx, hy] at h <;> first | rfl | cases h
    have hnone : [f.decode a, f.decode b].find? FVal.isNaN = none := by simp [hx, hy]
    rw [h, hbad, sumRound_finite hnone rfl rfl, sumFinite]
    cases n <;> simp [sumAt, FVal.isZero, FVal.neg]
  · rfl

theorem sumOf_fmul (hf : Proper f) : SumOf f mode r [(f, a), (f, b)] ((Term.of f a).invalid (Term.of f b))
    [(Term.of f a).times (Term.of f b)] (fmul f mode r a b) := by
  rw [fmul_eq, mul_invalid hf hf]
  exact sumOf_sumRound (l := [((mulFVal (f.decode a) (f.decode b)).1, (Term.of f a).times (Term.of f b))]) hf (by simp [hf])
    (by simp [(means_decode f a).mul (means_decode f b)]) (by simp [Term.of, Term.times])

theorem sumOf_fmac (hf : Proper f) (minus : Bool) (d : Nat) : SumOf f mode r ([(f, a), (f, b)] ++ [(f, d)])
    ((Term.of f a).invalid (Term.of f b))
    [Term.of f d, if minus then ((Term.of f a).times (Term.of f b)).opposite else (Term.of f a).times (Term.of f b)]
    (fmac f mode r minus a b d) := by
  have hp := (means_decode f a).mul (means_decode f b)
  have hm : Means (if minus then (mulFVal (f.decode a) (f.decode b)).1.negate else (mulFVal (f.decode a) (f.decode b)).1)
      (if minus then ((Term.of f a).times (Term.of f b)).opposite else (Term.of f a).times (Term.of f b)) := by
    cases minus
    · exact hp
    · exact hp.negate
  unfold fmac
  dsimp only
  rw [mul_invalid hf hf]
  refine sumOf_sumRound (l := [(f.decode d, Term.of f d), (_, _)]) (ops := [(f, a), (f, b), (f, d)]) hf (by simp [hf])
    (by simp only [List.mem_cons, List.not_mem_nil, or_false, forall_eq_or_imp, forall_eq]; exact ⟨means_decode f d, hm⟩) fun hno => ?_
  have hnan : (if minus then ((Term.of f a).times (Term.of f b)).opposite else (Term.of f a).times (Term.of f b)).nan
      = (nanCode f a || nanCode f b) := by cases minus <;> rfl
  simp only [List.mem_cons, List.not_mem_nil, or_false, forall_eq_or_imp, forall_eq] at hno ⊢
  exact ⟨hno.2.2, hnan.trans (by rw [hno.1, hno.2.1]; rfl)⟩

theorem sumOf_fdot {h : Fmt} (hh : Proper h) (d : Option Nat) :
    let lane (w k : Nat) := w / 65536 ^ k % 65536
    let x (k : Nat) := Term.of h (lane a k)
    let z (k : Nat) := Term.of h (lane b k)
    SumOf fmt32 mode r ([(h, lane a 0), (h, lane b 0), (h, lane a 1), (h, lane b 1)] ++ d.toList.map fun c => (fmt32, c))
      ((x 0).invalid (z 0) || (x 1).invalid (z 1)) ([(x 0).times (z 0), (x 1).times (z 1)] ++ d.toList.map (Term.of fmt32))
      (fdot h mode r a b d) := by
  dsimp only
  rw [pow_zero, pow_one, Nat.div_one, Nat.div_one]
  have h0 := (means_decode h (a % 65536)).mul (means_decode h (b % 65536))
  have h1 := (means_decode h (a / 65536 % 65536)).mul (means_decode h (b / 65536 % 65536))
  unfold fdot
  dsimp only
  rw [mul_invalid hh hh, mul_invalid hh hh]
  cases d with
  | none =>
    refine sumOf_sumRound (l := [(_, _), (_, _)])
      (ops := [(h, a % 65536), (h, b % 65536), (h, a / 65536 % 65536), (h, b / 65536 % 65536)]) proper32 (by simp [hh])
      (by simp only [List.mem_cons, List.not_mem_nil, or_false, forall_eq_or_imp, forall_eq]; exact ⟨h0, h1⟩) ?_
    simp [Term.of]
    tauto
  | some c =>
    refine sumOf_sumRound (l := [(_, _), (_, _), (_, _)])
      (ops := [(h, a % 65536), (h, b % 65536), (h, a / 65536 % 65536), (h, b / 65536 % 65536), (fmt32, c)]) proper32 (by simp [hh, proper32])
      (by simp only [List.mem_cons, List.not_mem_nil, or_false, forall_eq_or_imp, forall_eq]; exact ⟨h0, h1, means_decode _ _⟩) ?_
    simp [Term.of]
    tauto

/-! ## Sums of finite numbers -/

theorem sumRound_eq_roundNumber (hf : Proper f) {nans : List FVal} {l : List (FVal × Term)} (hnan : nans.find? FVal.isNaN = none)
    (h : ∀ p ∈ l, Means p.1 p.2) (hfin : ∀ p ∈ l, p.2.nan = false ∧ p.2.inf = false) (hx : total l ≠ 0) :
    sumRound f mode r nans (l.map Prod.fst) false = roundNumber f mode r (total l) := by
  have hinf : ∀ t ∈ l.map Prod.snd, t.inf = false := by
    rw [List.forall_mem_map]
    exact fun p hp => (hfin p hp).2
  have hopp : oppositeInf (l.map Prod.fst) = false := by
    rw [oppositeInf_eq h, Bool.and_eq_false_iff]
    refine .inl (List.any_eq_false.2 fun t ht => ?_)
    rw [hinf t ht]
    exact Bool.false_ne_true
  rw [sumRound_finite (bad := false) hnan hopp ((find_inf_none h).2 hinf), sumFinite_eq_roundNumber hf h hfin hx]

/-- An integer of units, rounded by the model. -/
theorem round_units (hf : Proper f) {n : ℤ} (hn : n ≠ 0) (e : ℤ) :
    f.round mode r (decide (n < 0)) n.natAbs e false = roundNumber f mode r (n * 2 ^ e) := by
  have hpow : (0 : ℚ) < 2 ^ e := zpow_pos two_pos _
  refine round_eq_roundNumber hf (mul_ne_zero (by exact_mod_cast hn) hpow.ne') (decide_eq_decide.2 ?_) ?_
  · rw [← Int.cast_lt_zero (R := ℚ)]
    exact ⟨fun h => mul_neg_of_neg_of_pos h hpow, fun h => not_le.1 fun hle => not_le.2 h (mul_nonneg hle hpow.le)⟩
  · rw [abs_mul, abs_of_pos hpow, Nat.cast_natAbs, Int.cast_abs]

theorem codeValue_add (e : ℤ) (he : e = 1 - (f.bias : ℤ) - f.frac) :
    codeValue f a + codeValue f b = ((units f a + units f b : ℤ) : ℚ) * 2 ^ e := by
  rw [codeValue, codeValue, he]
  push_cast
  ring

theorem codeValue_sub (e : ℤ) (he : e = 1 - (f.bias : ℤ) - f.frac) :
    codeValue f a - codeValue f b = ((units f a - units f b : ℤ) : ℚ) * 2 ^ e := by
  rw [codeValue, codeValue, he]
  push_cast
  ring

theorem codeValue_mul (e : ℤ) (he : e = 1 - (f.bias : ℤ) - f.frac) :
    codeValue f a * codeValue f b = ((units f a * units f b : ℤ) : ℚ) * 2 ^ (2 * e) := by
  rw [codeValue, codeValue, he, two_mul, zpow_add₀ two_ne_zero]
  push_cast
  ring

theorem find_nan_finite (ha : finiteCode f a = true) (hb : finiteCode f b = true) : [f.decode a, f.decode b].find? FVal.isNaN = none := by
  simp [decode_isNaN, nanCode_of_finite ha, nanCode_of_finite hb]

section
variable (hf : Proper f) (ha : finiteCode f a = true) (hb : finiteCode f b = true) {e : ℤ} (he : e = 1 - (f.bias : ℤ) - f.frac)
include hf ha hb he

theorem fadd_finite (h : units f a + units f b ≠ 0) : fadd f mode r a b
    = f.round mode r (decide (units f a + units f b < 0)) (units f a + units f b).natAbs e false := by
  have ht : total [(f.decode a, Term.of f a), (f.decode b, Term.of f b)] = ((units f a + units f b : ℤ) : ℚ) * 2 ^ e := by
    rw [← codeValue_add e he]
    simp [total, value_of]
  rw [round_units hf h, ← ht]
  refine sumRound_eq_roundNumber (l := [(f.decode a, Term.of f a), (f.decode b, Term.of f b)]) hf (find_nan_finite ha hb)
    (by simp [means_decode]) (by simp [Term.of, nanCode_of_finite ha, nanCode_of_finite hb, infCode_of_finite ha, infCode_of_finite hb]) ?_
  rw [ht]
  exact mul_ne_zero (by exact_mod_cast h) (zpow_ne_zero _ two_ne_zero)

theorem fsub_finite (h : units f a - units f b ≠ 0) : fsub f mode r a b
    = f.round mode r (decide (units f a - units f b < 0)) (units f a - units f b).natAbs e false := by
  have ht : total [(f.decode a, Term.of f a), ((f.decode b).negate, (Term.of f b).opposite)] = ((units f a - units f b : ℤ) : ℚ) * 2 ^ e := by
    rw [← codeValue_sub e he]
    simp [total, value_of, value_opposite, sub_eq_add_neg]
  rw [round_units hf h, ← ht]
  refine sumRound_eq_roundNumber (l := [(f.decode a, Term.of f a), ((f.decode b).negate, (Term.of f b).opposite)]) hf
    (find_nan_finite ha hb) (by simp [means_decode, (means_decode f b).negate])
    (by simp [Term.of, Term.opposite, nanCode_of_finite ha, nanCode_of_finite hb, infCode_of_finite ha, infCode_of_finite hb]) ?_
  rw [ht]
  exact mul_ne_zero (by exact_mod_cast h) (zpow_ne_zero _ two_ne_zero)

theorem fmul_finite (h : units f a * units f b ≠ 0) : fmul f mode r a b
    = f.round mode r (decide (units f a * units f b < 0)) (units f a * units f b).natAbs (2 * e) false := by
  have ht : total [((mulFVal (f.decode a) (f.decode b)).1, (Term.of f a).times (Term.of f b))]
      = ((units f a * units f b : ℤ) : ℚ) * 2 ^ (2 * e) := by
    rw [← codeValue_mul e he]
    simp [total, value_of, value_times]
  have hbad : (mulFVal (f.decode a) (f.decode b)).2 = false := by rw [decode_fin ha, decode_fin hb]; rfl
  rw [round_units hf h, ← ht, fmul_eq, hbad]
  refine sumRound_eq_roundNumber (l := [((mulFVal (f.decode a) (f.decode b)).1, (Term.of f a).times (Term.of f b))]) hf
    (find_nan_finite ha hb) (by simp [(means_decode f a).mul (means_decode f b)])
    (by simp [Term.of, Term.times, nanCode_of_finite ha, nanCode_of_finite hb, infCode_of_finite ha, infCode_of_finite hb]) ?_
  rw [ht]
  exact mul_ne_zero (by exact_mod_cast h) (zpow_ne_zero _ two_ne_zero)

end

/-! ## Minimum and maximum (08 R149) -/

theorem less_iff (a b : Nat) : less f a b ↔ f.key a < f.key b := by
  have ha := magUnits_eq_zero (f := f) (m := a % f.signBit)
  have hb := magUnits_eq_zero (f := f) (m := b % f.signBit)
  have h1 := magUnits_lt_iff (f := f) (m := a % f.signBit) (n := b % f.signBit)
  have h2 := magUnits_lt_iff (f := f) (m := b % f.signBit) (n := a % f.signBit)
  rw [less, units_eq, units_eq, key_eq, key_eq]
  cases negCode f a <;> cases negCode f b <;> simp only [Bool.false_eq_true, if_false, if_true, and_true, and_false, or_false,
    Bool.true_eq_false] <;> omega

/-- Codes of one key are one code, above the bits that no format holds. -/
theorem mod_eq_of_key (h : f.key a = f.key b) : a % (2 * f.signBit) = b % (2 * f.signBit) := by
  have hsplit (c : Nat) : c % (2 * f.signBit) = c % f.signBit + f.signBit * (if negCode f c = true then 1 else 0) := by
    have hbit : (if negCode f c = true then 1 else 0) = c / f.signBit % 2 := by
      rw [negCode]
      rcases Nat.mod_two_eq_zero_or_one (c / f.signBit) with h | h <;> simp [h]
    rw [hbit, Nat.mul_comm 2, Nat.mod_mul]
  rw [key_eq, key_eq] at h
  rw [hsplit, hsplit]
  split at h <;> split at h
  next h1 h2 => rw [if_pos h1, if_pos h2]; omega
  · omega
  · omega
  next h1 h2 => rw [if_neg h1, if_neg h2]; omega

/-- The lesser or greater of two codes that are no NaN. -/
theorem fminmax_numbers {greater : Bool} (ha : nanCode f a = false) (hb : nanCode f b = false) :
    (fminmax f greater a b).bits = if decide (f.key a < f.key b) != greater then a else b := by
  rw [← decode_isNaN] at ha hb
  unfold fminmax
  dsimp only
  cases hx : f.decode a with
  | nan => rw [hx] at ha; cases ha
  | inf => cases hy : f.decode b <;> first | rfl | (rw [hy] at hb; cases hb)
  | fin => cases hy : f.decode b <;> first | rfl | (rw [hy] at hb; cases hb)

theorem fminmax_flags (hf : Proper f) {greater : Bool} :
    (fminmax f greater a b).flags = if signallingCode f a || signallingCode f b then flagNV else 0 := by
  rw [← decode_isSignalling hf, ← decode_isSignalling hf]
  unfold fminmax
  dsimp only
  cases f.decode a <;> cases f.decode b <;> rfl

theorem lesserOf (hf : Proper f) {greater : Bool} : LesserOf f greater a b (fminmax f greater a b) := by
  refine ⟨fminmax_flags hf, fun ha hb => ?_, fun ha hb => ?_, fun ha hb => ?_, fun ha hb => ⟨fun h => ?_, fun h => ?_, fun h1 h2 => ?_⟩⟩
  · rw [fminmax, decode_nan ha, decode_nan hb]
    exact quiet_eq ..
  · rw [← decode_isNaN] at hb
    rw [fminmax, decode_nan ha]
    cases hy : f.decode b with
    | nan => rw [hy] at hb; cases hb
    | inf => rfl
    | fin => rfl
  · rw [← decode_isNaN] at ha
    rw [fminmax, decode_nan hb]
    cases hx : f.decode a with
    | nan => rw [hx] at ha; cases ha
    | inf => rfl
    | fin => rfl
  · rw [fminmax_numbers ha hb, decide_eq_true ((less_iff a b).1 h)]
    cases greater <;> rfl
  · rw [fminmax_numbers ha hb, decide_eq_false (not_lt.2 ((less_iff b a).1 h).le)]
    cases greater <;> rfl
  · rw [less_iff] at h1 h2
    rw [fminmax_numbers ha hb]
    split
    · rfl
    · exact mod_eq_of_key (le_antisymm (not_lt.1 h1) (not_lt.1 h2))

/-! ## Classes (08 R151) -/

theorem fclass_eq (a : Nat) : fclass a = 2 ^ classOf a := by
  have hsig := decode_isSignalling proper32 a
  have hsb : fmt32.signBit = 2 ^ 31 := rfl
  unfold fclass classOf
  dsimp only
  rcases code_cases fmt32 a with h | h | h
  · rw [decode_nan h] at hsig ⊢
    rw [if_pos h, ← hsig, FVal.isSignalling]
    dsimp only
    split <;> rfl
  · rw [decode_inf h, nanCode_of_inf h, if_neg Bool.false_ne_true, if_pos h]
    dsimp only
    split <;> rfl
  · have hsmall : sig fmt32 (a % fmt32.signBit) < 2 ^ 23 ↔ a % 2 ^ 31 < 2 ^ 23 := by
      rw [hsb, sig]
      change (if a % 2 ^ 31 / 2 ^ 23 = 0 then _ else 2 ^ 23 + _) < _ ↔ _
      split
      next hz =>
        have hlt : a % 2 ^ 31 < 2 ^ 23 := by omega
        exact iff_of_true (Nat.mod_lt _ (Nat.two_pow_pos _)) hlt
      next hz => exact iff_of_false (by omega) (by omega)
    rw [decode_fin h, nanCode_of_finite h, infCode_of_finite h, if_neg Bool.false_ne_true, if_neg Bool.false_ne_true]
    dsimp only
    rw [sig_beq_zero]
    simp only [hsmall]
    split
    · split <;> rfl
    · split
      · split <;> rfl
      · split <;> rfl

end

end Sys2Proof.Sums

/-! PROOFS about numbers that a format holds exactly, roundings to an integral value, quotients and square roots (08 R152, R159). -/

namespace Sys2Proof.Sums
open Sys2Proof Sys2Proof.Machine Sys2Proof.Safety Sys2Proof.Codes Sys2Proof.Rounding

section
variable {f : Fmt} {mode : RMode} {r a b : Nat} {neg : Bool}

/-! ## Numbers that a format holds -/

/-- A number with few enough bits is one of the codes'. -/
theorem above_of_small {K : Type} [Field K] [LinearOrder K] [IsStrictOrderedRing K] [FloorRing K] {k : Nat} (hk : k ≠ 0)
    (hlt : k < 2 ^ (f.frac + 1)) {e : ℤ} (he : 0 ≤ e) : above (steps f ((k : K) * 2 ^ e)) = 0 := by
  have hlog : Int.log 2 ((k : K) * 2 ^ e) = Nat.log2 k + e := by
    have := log_part (K := K) Part.zero hk e
    rwa [add_zero] at this
  have hlog2 : Nat.log2 k < f.frac + 1 := (Nat.log2_lt hk).2 hlt
  have hx : steps f ((k : K) * 2 ^ e) = ((k * 2 ^ (e - grid f ((k : K) * 2 ^ e)).toNat : Nat) : K) := by
    have hg : (grid f ((k : K) * 2 ^ e) : ℤ) ≤ e := by
      rw [grid, hlog]
      omega
    rw [steps, ← zpow_natCast, mul_div_assoc, ← zpow_sub₀ two_ne_zero, Nat.cast_mul, Nat.cast_pow, ← zpow_natCast ((2 : Nat) : K),
      Int.toNat_of_nonneg (sub_nonneg.2 hg)]
    rfl
  rw [hx, above, Nat.floor_natCast, sub_self]

theorem magUnits_infMag (hf : Proper f) : magUnits f f.infMag = 2 ^ (f.frac + (2 ^ f.ebits - 2)) := by
  have h2 : 2 ≤ 2 ^ f.ebits := by
    have := Nat.pow_le_pow_right (n := 2) (by decide) hf.ebits
    rwa [pow_one] at this
  have hinf : f.infMag = 2 ^ f.frac + (2 ^ f.ebits - 2) * 2 ^ f.frac := by
    obtain ⟨n, hn⟩ := Nat.exists_eq_add_of_le h2
    rw [Fmt.infMag, hn, Nat.add_sub_cancel_left, show 2 + n - 1 = n + 1 by omega, Nat.succ_mul, Nat.add_comm]
  rw [hinf, magUnits_grid (Nat.pow_le_pow_right (by decide) (Nat.le_succ _)) (.inr le_rfl), ← pow_add]

theorem codeValue_codeOf {m : Nat} (h : m < f.signBit) :
    codeValue f (codeOf f neg m) = Rounding.signed neg (magUnits f m * (2 : ℚ) ^ (1 - (f.bias : ℤ) - f.frac)) := by
  rw [codeValue_eq, negCode_codeOf h, codeMag, codeOf_mod h]

/-- The model's rounding of a number that the format holds. -/
theorem round_exact (hf : Proper f) {k : Nat} (hk : k ≠ 0) (hlt : k < 2 ^ (f.frac + 1)) {e : ℤ} (hlow : 0 ≤ e + f.bias + f.frac - 1)
    (hhigh : e + f.bias + f.frac + 2 ≤ 2 ^ f.ebits) : ∃ c, f.round mode r neg k e false = .exact c ∧ finiteCode f c = true
      ∧ negCode f c = neg ∧ codeValue f c = Rounding.signed neg ((k : ℚ) * 2 ^ e) := by
  have hw : (0 : ℚ) < (k : ℚ) * 2 ^ (e + f.bias + f.frac - 1) := mul_pos (by exact_mod_cast Nat.pos_of_ne_zero hk) (zpow_pos two_pos _)
  have hex := (above_eq_zero_iff hw).1 (above_of_small (f := f) hk hlt hlow)
  have hinf : lower f ((k : ℚ) * 2 ^ (e + f.bias + f.frac - 1)) < f.infMag := by
    rw [lower_lt_iff hw, magUnits_infMag hf]
    have h2 : 2 ≤ 2 ^ f.ebits := by
      have := Nat.pow_le_pow_right (n := 2) (by decide) hf.ebits
      rwa [pow_one] at this
    calc (k : ℚ) * 2 ^ (e + f.bias + f.frac - 1) < 2 ^ (f.frac + 1) * 2 ^ (e + f.bias + f.frac - 1) :=
          mul_lt_mul_of_pos_right (by exact_mod_cast hlt) (zpow_pos two_pos _)
      _ = (2 : ℚ) ^ ((f.frac + 1 : Nat) + (e + f.bias + f.frac - 1) : ℤ) := by rw [zpow_add₀ two_ne_zero, zpow_natCast]
      _ ≤ (2 : ℚ) ^ ((f.frac + (2 ^ f.ebits - 2) : Nat) : ℤ) := zpow_le_zpow_right₀ one_le_two (by push_cast [Nat.cast_sub h2]; omega)
      _ = _ := by rw [zpow_natCast]; push_cast; rfl
  have hsb := hinf.trans infMag_lt
  refine ⟨codeOf f neg (lower f ((k : ℚ) * 2 ^ (e + f.bias + f.frac - 1))), ?_, ?_, negCode_codeOf hsb, ?_⟩
  · rw [round_eq (K := ℚ) hk, roundedTo_exact hw hinf hex]
  · rw [finiteCode, codeOf_mod hsb]
    exact decide_eq_true hinf
  · rw [codeValue_codeOf hsb, hex, mul_assoc, ← zpow_add₀ two_ne_zero]
    congr 3
    ring

/-! ## Rules of one and of two operands (07 R130) -/

theorem nanRule_one {src : Fmt} {invalid : Bool} {y : FRes}
    (hn : nanCode src a = true → y.bits = quietedInto src f a ∧ y.flags = if invalid || signallingCode src a then flagNV else 0)
    (hi : nanCode src a = false → invalid = true → y.bits = f.defaultNaN ∧ y.flags = flagNV) : NaNRule f [(src, a)] invalid y := by
  unfold NaNRule
  dsimp only
  cases h : nanCode src a with
  | true => simpa [h] using hn h
  | false => simpa [h] using hi h

theorem nanRule_two {invalid : Bool} {y : FRes}
    (ha : nanCode f a = true → y.bits = quietedInto f f a
      ∧ y.flags = if invalid || (signallingCode f a || signallingCode f b) then flagNV else 0)
    (hb : nanCode f a = false → nanCode f b = true → y.bits = quietedInto f f b
      ∧ y.flags = if invalid || (signallingCode f a || signallingCode f b) then flagNV else 0)
    (hi : nanCode f a = false → nanCode f b = false → invalid = true → y.bits = f.defaultNaN ∧ y.flags = flagNV) :
    NaNRule f [(f, a), (f, b)] invalid y := by
  unfold NaNRule
  dsimp only
  cases h : nanCode f a with
  | true => simpa [h] using ha h
  | false =>
    cases h' : nanCode f b with
    | true => simpa [h, h'] using hb h h'
    | false => simpa [h, h'] using hi h h'

/-! ## Integral values (08 R152) -/

theorem sig_lt (m : Nat) : sig f m < 2 ^ (f.frac + 1) := by
  have := Nat.mod_lt m (Nat.two_pow_pos f.frac)
  rw [sig, pow_succ]
  split <;> omega

/-- A value that is no integer is small. -/
theorem nearby_le_of_inexact (h : (nearby mode r neg |codeValue f a|).2 = true) : (nearby mode r neg |codeValue f a|).1 ≤ 2 ^ f.frac := by
  have hexp : sigExp f (a % f.signBit) < 0 := by
    by_contra hc
    obtain ⟨n, hn⟩ := Int.eq_ofNat_of_zero_le (not_lt.1 hc)
    have hnat : |codeValue f a| = ((sig f (a % f.signBit) * 2 ^ n : Nat) : ℚ) := by
      rw [abs_codeValue, codeMag_eq_sig, hn, zpow_natCast]
      push_cast
      rfl
    rw [hnat, nearby_natCast] at h
    cases h
  have hlt : |codeValue f a| < 2 ^ f.frac := by
    have hs : (sig f (a % f.signBit) : ℚ) < 2 ^ (f.frac + 1) := by exact_mod_cast sig_lt _
    calc |codeValue f a| = (sig f (a % f.signBit) : ℚ) * 2 ^ sigExp f (a % f.signBit) := by rw [abs_codeValue, codeMag_eq_sig]
      _ ≤ (sig f (a % f.signBit) : ℚ) * 2 ^ (-1 : ℤ) :=
          mul_le_mul_of_nonneg_left (zpow_le_zpow_right₀ one_le_two (by omega)) (Nat.cast_nonneg _)
      _ < 2 ^ (f.frac + 1) * 2 ^ (-1 : ℤ) := mul_lt_mul_of_pos_right hs (zpow_pos two_pos _)
      _ = 2 ^ f.frac := by rw [pow_succ, mul_assoc, zpow_neg_one, mul_inv_cancel₀ two_ne_zero, mul_one]
  have hfloor : ⌊|codeValue f a|⌋₊ < 2 ^ f.frac := (Nat.floor_lt (abs_nonneg _)).2 (by exact_mod_cast hlt)
  unfold nearby
  dsimp only
  split <;> omega

/-- A small integer of a sign as a code. -/
theorem integer_code {n : Nat} (hn : n ≤ 2 ^ 23) (neg : Bool) : ∃ c, (fmt32.round .rtz 0 neg n 0 false).bits = c ∧ finiteCode fmt32 c = true
    ∧ negCode fmt32 c = neg ∧ codeValue fmt32 c = Rounding.signed neg n := by
  by_cases hz : n = 0
  · refine ⟨codeOf fmt32 neg 0, by rw [hz]; rfl, ?_, negCode_codeOf signBit_pos, ?_⟩
    · rw [finiteCode, codeOf_mod signBit_pos]
      exact decide_eq_true (infMag_pos proper32)
    · rw [codeValue_codeOf signBit_pos, magUnits_zero, hz, Nat.cast_zero, zero_mul]
  · obtain ⟨c, hc, hrest⟩ := round_exact (f := fmt32) (mode := .rtz) (r := 0) (neg := neg) proper32 hz
      (hn.trans_lt (Nat.pow_lt_pow_right (by decide) (by decide))) (e := 0) (by decide) (by decide)
    rw [zpow_zero, mul_one] at hrest
    exact ⟨c, by rw [hc]; rfl, hrest⟩

/-- The rounding of a finite code to an integral value. -/
theorem frnd_finite (h : finiteCode fmt32 a = true) :
    frnd mode r a = if (nearby mode r (negCode fmt32 a) |codeValue fmt32 a|).2 = true then
      { bits := (fmt32.round .rtz 0 (negCode fmt32 a) (nearby mode r (negCode fmt32 a) |codeValue fmt32 a|).1 0 false).bits
        flags := flagNX }
      else .exact a := by
  unfold frnd
  rw [decode_fin h]
  simp only [quantize_code]

theorem integralOf (a : Nat) : IntegralOf mode r a (frnd mode r a) := by
  refine ⟨nanRule_one (fun h => ?_) (fun _ h => absurd h Bool.false_ne_true), fun h => ?_, fun h => ?_⟩
  · have hsig := decode_isSignalling proper32 a
    unfold frnd
    rw [decode_nan h] at hsig ⊢
    rw [← hsig]
    exact ⟨quiet_eq .., rfl⟩
  · unfold frnd
    rw [decode_inf h]
    exact ⟨rfl, rfl⟩
  · have hneg := negCode_of_value (f := fmt32) (c := a)
    have hint := Conversions.integral_code (f := fmt32) (mode := mode) (r := r) a
    have hex := integral_exact_iff (mode := mode) (r := r) hneg
    rw [frnd_finite h]
    cases hq : (nearby mode r (negCode fmt32 a) |codeValue fmt32 a|).2 with
    | true =>
      obtain ⟨c, hc, hfin, hcn, hv⟩ := integer_code (nearby_le_of_inexact hq) (negCode fmt32 a)
      have hval : codeValue fmt32 c = integral mode r (codeValue fmt32 a) := by
        rw [hv, hint, Rounding.signed]
        split <;> push_cast <;> rfl
      have hne : codeValue fmt32 c ≠ codeValue fmt32 a := by
        rw [hval]
        intro he
        rw [hex.1 he] at hq
        cases hq
      rw [if_pos rfl, hc, if_neg hne]
      exact ⟨hfin, hval, hcn, rfl, fun he => absurd he hne⟩
    | false =>
      rw [if_neg Bool.false_ne_true]
      exact ⟨h, (hex.2 hq).symm, rfl, (if_pos rfl).symm, fun _ => rfl⟩

/-! ## Quotients (08 R159) -/

theorem roundsTo_quotient (hs : zeroCode fmt64 a = false) (ht : zeroCode fmt64 b = false) :
    RoundsTo fmt64 mode r (codeValue fmt64 a / codeValue fmt64 b)
      (fmt64.round mode r (negCode fmt64 a != negCode fmt64 b) (sig fmt64 (a % fmt64.signBit) * 2 ^ 220 / sig fmt64 (b % fmt64.signBit))
        (sigExp fmt64 (a % fmt64.signBit) - sigExp fmt64 (b % fmt64.signBit) - 220)
        (sig fmt64 (a % fmt64.signBit) * 2 ^ 220 % sig fmt64 (b % fmt64.signBit) != 0)) := by
  have hk := sig_ne_zero hs
  have hl := sig_ne_zero ht
  have hl53 := sig_lt (f := fmt64) (b % fmt64.signBit)
  have hpos : 0 < codeMag fmt64 a / codeMag fmt64 b := div_pos (codeMag_pos hs) (codeMag_pos ht)
  have hx : codeValue fmt64 a / codeValue fmt64 b
      = Rounding.signed (negCode fmt64 a != negCode fmt64 b) (codeMag fmt64 a / codeMag fmt64 b) := by
    rw [codeValue_eq, codeValue_eq]
    cases negCode fmt64 a <;> cases negCode fmt64 b <;> simp [Rounding.signed, neg_div, div_neg]
  rw [hx, RoundsTo, ← neg_eq_decide hpos, abs_signed hpos.le, codeMag_eq_sig, codeMag_eq_sig]
  generalize sig fmt64 (a % fmt64.signBit) = k at hk ⊢
  generalize sig fmt64 (b % fmt64.signBit) = l at hl hl53 ⊢
  generalize sigExp fmt64 (a % fmt64.signBit) = e
  generalize sigExp fmt64 (b % fmt64.signBit) = g
  have hl0 : (l : ℚ) ≠ 0 := by exact_mod_cast hl
  have hlq : (0 : ℚ) < l := by exact_mod_cast Nat.pos_of_ne_zero hl
  have hbig : 2 ^ 167 ≤ k * 2 ^ 220 / l := by
    rw [Nat.le_div_iff_mul_le (Nat.pos_of_ne_zero hl)]
    calc 2 ^ 167 * l ≤ 2 ^ 167 * 2 ^ 53 := Nat.mul_le_mul_left _ hl53.le
      _ = 1 * 2 ^ 220 := by rw [← pow_add, Nat.one_mul]
      _ ≤ k * 2 ^ 220 := Nat.mul_le_mul_right _ (Nat.one_le_iff_ne_zero.2 hk)
  have hn : k * 2 ^ 220 / l ≠ 0 := (lt_of_lt_of_le (Nat.two_pow_pos _) hbig).ne'
  have hpart : Part (((k * 2 ^ 220 % l : Nat) : ℚ) / l) (k * 2 ^ 220 % l != 0) := by
    refine ⟨div_nonneg (Nat.cast_nonneg _) hlq.le, ?_, ?_⟩
    · rw [div_lt_one hlq]
      exact_mod_cast Nat.mod_lt _ (Nat.pos_of_ne_zero hl)
    · rw [Bool.eq_iff_iff, bne_iff_ne, decide_eq_true_eq, ne_eq, ne_eq, div_eq_zero_iff, or_iff_left hl0, Nat.cast_eq_zero]
  have hquot : ((k * 2 ^ 220 / l : Nat) : ℚ) + ((k * 2 ^ 220 % l : Nat) : ℚ) / l = (k : ℚ) * 2 ^ 220 / l := by
    have h := Nat.div_add_mod (k * 2 ^ 220) l
    rw [eq_div_iff hl0, add_mul, div_mul_cancel₀ _ hl0, mul_comm ((k * 2 ^ 220 / l : Nat) : ℚ)]
    exact_mod_cast h
  have hw : (k : ℚ) * 2 ^ e / ((l : ℚ) * 2 ^ g) * 2 ^ (fmt64.bias + fmt64.frac - 1)
      = (((k * 2 ^ 220 / l : Nat) : ℚ) + ((k * 2 ^ 220 % l : Nat) : ℚ) / l) * 2 ^ (e - g - 220 + fmt64.bias + fmt64.frac - 1) := by
    have h1 : (2 : ℚ) ^ (e - g - 220 + fmt64.bias + fmt64.frac - 1)
        = 2 ^ e * (2 ^ g)⁻¹ * ((2 : ℚ) ^ 220)⁻¹ * 2 ^ (fmt64.bias + fmt64.frac - 1) := by
      rw [← zpow_natCast, ← zpow_natCast, ← zpow_neg, ← zpow_neg, ← zpow_add₀ two_ne_zero, ← zpow_add₀ two_ne_zero, ← zpow_add₀ two_ne_zero]
      congr 1
      change e - g - 220 + 1023 + 52 - 1 = e + -g + -220 + 1074
      ring
    have h220 : (2 : ℚ) ^ 220 ≠ 0 := pow_ne_zero _ two_ne_zero
    have hg : (2 : ℚ) ^ g ≠ 0 := zpow_ne_zero _ two_ne_zero
    rw [hquot, h1]
    field_simp
  rw [hw, round_part hpart hn (fun _ => (Nat.le_log2 hn).2 ((Nat.pow_le_pow_right (by decide) (by decide)).trans hbig))]
  refine rounds_roundedTo proper64 ?_
  rw [← hw]
  have hkq : (0 : ℚ) < k := by exact_mod_cast Nat.pos_of_ne_zero hk
  exact mul_pos (div_pos (mul_pos hkq (zpow_pos two_pos _)) (mul_pos hlq (zpow_pos two_pos _))) (pow_pos two_pos _)

theorem zeroCode_of_not_finite (hf : Proper f) (h : finiteCode f a = false) : zeroCode f a = false := by
  by_contra hc
  rw [finiteCode_of_zero hf (by simpa using hc)] at h
  cases h

theorem quotientOf (a b : Nat) : QuotientOf fmt64 mode r a b (fdiv fmt64 mode r a b) := by
  have hsa := decode_isSignalling proper64 a
  have hsb := decode_isSignalling proper64 b
  have hna := decode_neg (f := fmt64) a
  have hnb := decode_neg (f := fmt64) b
  unfold fdiv
  dsimp only
  rw [hsa, hsb, hna, hnb]
  refine ⟨nanRule_two (fun ha => ?_) (fun ha hb => ?_) (fun ha hb hi => ?_), fun ha hb => ⟨fun hia hib => ?_, fun hia hib => ?_,
    fun hfa hza hzb => ?_, fun hza hfb hzb => ?_, fun hfa hfb hza hzb => ?_⟩⟩
  · rw [infCode_of_nan ha, zeroCode_of_not_finite proper64 (finiteCode_of_nan ha), decode_nan ha]
    exact ⟨quiet_eq .., rfl⟩
  · rw [infCode_of_nan hb, zeroCode_of_not_finite proper64 (finiteCode_of_nan hb), signallingCode_of_not_nan ha, decode_nan hb,
      Bool.and_false, Bool.and_false]
    rw [← decode_isNaN] at ha
    cases hx : fmt64.decode a with
    | nan => rw [hx] at ha; cases ha
    | inf => exact ⟨quiet_eq .., rfl⟩
    | fin => exact ⟨quiet_eq .., rfl⟩
  · rw [Bool.or_eq_true, Bool.and_eq_true, Bool.and_eq_true] at hi
    rcases hi with ⟨hia, hib⟩ | ⟨hza, hzb⟩
    · rw [decode_inf hia, decode_inf hib]
      exact ⟨rfl, rfl⟩
    · rw [decode_fin (finiteCode_of_zero proper64 hza), decode_fin (finiteCode_of_zero proper64 hzb)]
      dsimp only
      rw [sig_beq_zero, sig_beq_zero, hza, hzb]
      exact ⟨rfl, rfl⟩
  · have hfb : finiteCode fmt64 b = true := ((code_cases fmt64 b).resolve_left (by simp [hb])).resolve_left (by simp [hib])
    rw [decode_inf hia, decode_fin hfb]
    exact ⟨rfl, rfl⟩
  · have hfa : finiteCode fmt64 a = true := ((code_cases fmt64 a).resolve_left (by simp [ha])).resolve_left (by simp [hia])
    rw [decode_fin hfa, decode_inf hib]
    exact ⟨rfl, rfl⟩
  · rw [decode_fin hfa, decode_fin (finiteCode_of_zero proper64 hzb)]
    dsimp only
    rw [sig_beq_zero, sig_beq_zero, hza, hzb]
    exact ⟨rfl, rfl⟩
  · rw [decode_fin (finiteCode_of_zero proper64 hza), decode_fin hfb]
    dsimp only
    rw [sig_beq_zero, sig_beq_zero, hza, hzb]
    exact ⟨rfl, rfl⟩
  · rw [decode_fin hfa, decode_fin hfb]
    dsimp only
    rw [sig_beq_zero, sig_beq_zero, hza, hzb, if_neg Bool.false_ne_true, if_neg Bool.false_ne_true]
    exact roundsTo_quotient hza hzb

/-! ## Square roots (08 R159) -/

/-- Newton's iteration from above halves its distance to the root. -/
theorem isqrtFrom_eq {n : Nat} (hn : n ≠ 0) (k : Nat) : ∀ x, Nat.sqrt n ≤ x → x < Nat.sqrt n + 2 ^ k → ∀ fuel, k < fuel → isqrtFrom fuel n x = Nat.sqrt n := by
  have hs : 0 < Nat.sqrt n := Nat.sqrt_pos.2 (Nat.pos_of_ne_zero hn)
  have hle := Nat.sqrt_le n
  have hlt := Nat.lt_succ_sqrt n
  generalize Nat.sqrt n = s at hs hle hlt
  have mean {x : Nat} (hx : s ≤ x) : 2 * s ≤ x + n / x := by
    rcases Nat.lt_or_ge x (2 * s) with h | h
    · have : 2 * s - x ≤ n / x := by
        rw [Nat.le_div_iff_mul_le (by omega)]
        refine le_trans ?_ hle
        obtain ⟨d, rfl⟩ := Nat.exists_eq_add_of_le hx
        have hd : 2 * s - (s + d) = s - d := by omega
        rw [hd, Nat.mul_comm, ← Nat.sq_sub_sq, sq]
        exact Nat.sub_le _ _
      omega
    · exact h.trans (Nat.le_add_right _ _)
  induction k with
  | zero =>
    intro x h1 h2 fuel hf
    have hx : x = s := by omega
    obtain ⟨m, rfl⟩ := Nat.exists_eq_succ_of_ne_zero (by omega : fuel ≠ 0)
    have := mean le_rfl
    unfold isqrtFrom
    dsimp only
    rw [hx, if_neg (by omega)]
  | succ k ih =>
    intro x h1 h2 fuel hf
    obtain ⟨m, rfl⟩ := Nat.exists_eq_succ_of_ne_zero (by omega : fuel ≠ 0)
    have hm := mean h1
    unfold isqrtFrom
    dsimp only
    by_cases hx : x = s
    · rw [hx] at hm ⊢
      rw [if_neg (by omega)]
    · have hq : n / x < s + 1 := by
        rw [Nat.div_lt_iff_lt_mul (by omega)]
        exact hlt.trans_le (Nat.mul_le_mul_left _ (by omega))
      rw [pow_succ] at h2
      rw [if_pos (by omega)]
      exact ih _ (by omega) (by omega) m (by omega)

theorem isqrt_eq {n : Nat} (h : Nat.log2 n ≤ 1000) : isqrt n = Nat.sqrt n := by
  unfold isqrt
  by_cases hn : n = 0
  · rw [hn]
    rfl
  · rw [if_neg (by simpa using hn)]
    have hlt : Nat.sqrt n < 2 ^ (Nat.log2 n / 2 + 1) := by
      rw [Nat.sqrt_lt', ← pow_mul]
      exact Nat.lt_log2_self.trans_le (Nat.pow_le_pow_right (by decide) (by omega))
    exact isqrtFrom_eq hn (Nat.log2 n / 2 + 1) _ hlt.le (Nat.lt_add_of_pos_left (Nat.sqrt_pos.2 (Nat.pos_of_ne_zero hn))) 600
      (by omega)

/-- The root of an integer is its floor and a part. -/
theorem part_sqrt (m : Nat) : Part (Real.sqrt m - Nat.sqrt m) (Nat.sqrt m * Nat.sqrt m != m) := by
  have hle : ((Nat.sqrt m : Nat) : ℝ) ≤ Real.sqrt m := Real.nat_sqrt_le_real_sqrt
  have hlt : Real.sqrt m < (Nat.sqrt m : ℝ) + 1 := Real.real_sqrt_lt_nat_sqrt_succ
  refine ⟨sub_nonneg.2 hle, by linarith, ?_⟩
  rw [Bool.eq_iff_iff, bne_iff_ne, decide_eq_true_eq, ne_eq, ne_eq, sub_eq_zero, Real.sqrt_eq_iff_mul_self_eq (Nat.cast_nonneg _) (Nat.cast_nonneg _)]
  exact not_congr (by exact_mod_cast eq_comm)

/-- The root of k * 2^e, with an even exponent and many bits. -/
theorem sqrt_scaled {k : Nat} {e : ℤ} {m : Nat} {h : ℤ} (hm : (m : ℝ) * 2 ^ (2 * h) = (k : ℝ) * 2 ^ e) :
    Real.sqrt ((k : ℝ) * 2 ^ e) = Real.sqrt m * 2 ^ h := by
  rw [← hm, Real.sqrt_mul (Nat.cast_nonneg _), two_mul, zpow_add₀ two_ne_zero, Real.sqrt_mul_self (zpow_nonneg two_pos.le _)]

theorem rounds_root {k m : Nat} {e h : ℤ} (hbits : 2 ^ 240 ≤ m) (hlog : Nat.log2 m ≤ 1000) (hm : (m : ℝ) * 2 ^ (2 * h) = (k : ℝ) * 2 ^ e) :
    Rounds fmt64 mode r false (Real.sqrt ((k : ℝ) * 2 ^ e) * 2 ^ (fmt64.bias + fmt64.frac - 1))
      (fmt64.round mode r false (isqrt m) h (isqrt m * isqrt m != m)) := by
  have hm0 : m ≠ 0 := (lt_of_lt_of_le (Nat.two_pow_pos _) hbits).ne'
  have hroot : 2 ^ 120 ≤ Nat.sqrt m := by
    rw [Nat.le_sqrt, ← pow_add]
    exact hbits
  have hn : Nat.sqrt m ≠ 0 := (lt_of_lt_of_le (Nat.two_pow_pos _) hroot).ne'
  have hw : Real.sqrt ((k : ℝ) * 2 ^ e) * 2 ^ (fmt64.bias + fmt64.frac - 1)
      = ((Nat.sqrt m : ℝ) + (Real.sqrt m - Nat.sqrt m)) * 2 ^ (h + fmt64.bias + fmt64.frac - 1) := by
    rw [sqrt_scaled hm, add_sub_cancel, mul_assoc, ← zpow_natCast, ← zpow_add₀ two_ne_zero]
    congr 2
    change h + 1074 = h + 1023 + 52 - 1
    ring
  rw [isqrt_eq hlog, hw, round_part (part_sqrt m) hn (fun _ => (Nat.le_log2 hn).2 ((Nat.pow_le_pow_right (by decide) (by decide)).trans hroot))]
  refine rounds_roundedTo proper64 (mul_pos ?_ (zpow_pos two_pos _))
  rw [add_sub_cancel]
  exact Real.sqrt_pos.2 (by exact_mod_cast Nat.pos_of_ne_zero hm0)

theorem rootOf (a : Nat) : RootOf fmt64 mode r a (fsqrt fmt64 mode r a) := by
  have hbelow : below fmt64 a = (negCode fmt64 a && !zeroCode fmt64 a && !nanCode fmt64 a) := rfl
  unfold fsqrt
  refine ⟨nanRule_one (fun h => ?_) (fun hn hb => ?_), fun h => ?_, fun hfin hz hneg => ?_⟩
  · have hsig := decode_isSignalling proper64 a
    rw [decode_nan h] at hsig ⊢
    rw [hbelow, h, ← hsig, Bool.not_true, Bool.and_false]
    exact ⟨quiet_eq .., rfl⟩
  · rw [hbelow, Bool.and_eq_true, Bool.and_eq_true, Bool.not_eq_true'] at hb
    obtain ⟨⟨hneg, hz⟩, -⟩ := hb
    rcases (code_cases fmt64 a).resolve_left (by simp [hn]) with hi | hfin
    · rw [decode_inf hi, hneg]
      exact ⟨rfl, rfl⟩
    · rw [decode_fin hfin, hneg]
      dsimp only
      rw [sig_beq_zero, hz]
      exact ⟨rfl, rfl⟩
  · rcases h with hz | ⟨hi, hneg⟩
    · rw [decode_fin (finiteCode_of_zero proper64 hz)]
      dsimp only
      rw [sig_beq_zero, hz]
      exact ⟨rfl, rfl⟩
    · rw [decode_inf hi, hneg]
      exact ⟨rfl, rfl⟩
  · have hk := sig_ne_zero hz
    have hk53 := sig_lt (f := fmt64) (a % fmt64.signBit)
    have hval : ((codeValue fmt64 a : ℚ) : ℝ) = (sig fmt64 (a % fmt64.signBit) : ℝ) * 2 ^ sigExp fmt64 (a % fmt64.signBit) := by
      rw [codeValue_eq, hneg, codeMag_eq_sig, Rounding.signed, if_neg Bool.false_ne_true]
      push_cast
      rfl
    rw [decode_fin hfin, hval]
    dsimp only
    rw [sig_beq_zero, hz, hneg, if_neg Bool.false_ne_true, if_neg Bool.false_ne_true]
    generalize sig fmt64 (a % fmt64.signBit) = k at hk hk53 ⊢
    generalize sigExp fmt64 (a % fmt64.signBit) = e
    have hk1 : 1 ≤ k := Nat.one_le_iff_ne_zero.2 hk
    have hk53 : k < 2 ^ 53 := hk53
    have hbits (n : Nat) (hn : 240 ≤ n) : 2 ^ 240 ≤ k * 2 ^ n :=
      (Nat.pow_le_pow_right (by decide) hn).trans (Nat.le_mul_of_pos_left _ hk1)
    have hlog (n : Nat) (hn : n ≤ 241) : Nat.log2 (k * 2 ^ n) ≤ 1000 := by
      have h : k * 2 ^ n < 2 ^ (53 + n) := by
        rw [pow_add]
        exact Nat.mul_lt_mul_of_pos_right hk53 (Nat.two_pow_pos _)
      have := (Nat.log2_lt (Nat.mul_ne_zero hk (Nat.two_pow_pos _).ne')).2 h
      omega
    have hscale (n : Nat) (h : ℤ) (hh : (n : ℤ) + 2 * h = e) : ((k * 2 ^ n : Nat) : ℝ) * 2 ^ (2 * h) = (k : ℝ) * 2 ^ e := by
      rw [Nat.cast_mul, Nat.cast_pow, Nat.cast_ofNat, mul_assoc, ← zpow_natCast, ← zpow_add₀ two_ne_zero, hh]
    by_cases he : e % 2 = 0
    · simp only [he, beq_self_eq_true, if_true]
      exact rounds_root (hbits 240 le_rfl) (hlog 240 (by decide)) (hscale 240 _ (by omega))
    · have he' : (e % 2 == 0) = false := beq_eq_false_iff_ne.2 he
      simp only [he', Bool.false_eq_true, if_false]
      exact rounds_root (hbits 241 (by decide)) (hlog 241 le_rfl) (hscale 241 _ (by omega))

end

end Sys2Proof.Sums

/-! PROOFS about the reciprocal and root seeds (08 R161-R163). -/

namespace Sys2Proof.Seeds
open Sys2Proof Sys2Proof.Machine Sys2Proof.Safety Sys2Proof.Codes Sys2Proof.Rounding Sys2Proof.Sums

section
variable {a fr i k n : Nat} {e x : ℤ} {neg : Bool}

/-! ## Normal form (08 R161) -/

/-- The magnitude of a code is 2^x * (1 + fr / 2^23). -/
def Mantissa (a fr : Nat) (x : ℤ) : Prop := fr < 2 ^ 23 ∧ |codeValue fmt32 a| = 2 ^ x * (1 + fr / 2 ^ 23)

theorem normalise_spec (hk : k ≠ 0) (hlt : k < 2 ^ 24) (e : ℤ) : (normalise k e).1 < 2 ^ 23
    ∧ (k : ℚ) * 2 ^ e = 2 ^ (normalise k e).2 * (1 + (normalise k e).1 / 2 ^ 23) ∧ e ≤ (normalise k e).2 ∧ (normalise k e).2 ≤ e + 23 := by
  have hl : Nat.log2 k ≤ 23 := Nat.lt_succ_iff.1 ((Nat.log2_lt hk).2 hlt)
  have hn : normalise k e = (k * 2 ^ (23 - Nat.log2 k) % 2 ^ 23, Nat.log2 k + e) := by
    unfold normalise
    dsimp only
    rw [if_pos hl]
  have h23 : Nat.log2 k + (23 - Nat.log2 k) = 23 := by omega
  have hlow : 2 ^ 23 ≤ k * 2 ^ (23 - Nat.log2 k) := by
    calc 2 ^ 23 = 2 ^ Nat.log2 k * 2 ^ (23 - Nat.log2 k) := by rw [← pow_add, h23]
      _ ≤ _ := Nat.mul_le_mul_right _ (Nat.log2_self_le hk)
  have hhigh : k * 2 ^ (23 - Nat.log2 k) < 2 ^ 24 := by
    calc _ < 2 ^ (Nat.log2 k + 1) * 2 ^ (23 - Nat.log2 k) := Nat.mul_lt_mul_of_pos_right Nat.lt_log2_self (Nat.two_pow_pos _)
      _ = 2 ^ 24 := by rw [← pow_add, Nat.add_right_comm, h23]
  have hsum : 2 ^ 23 + k * 2 ^ (23 - Nat.log2 k) % 2 ^ 23 = k * 2 ^ (23 - Nat.log2 k) := by omega
  rw [hn]
  refine ⟨Nat.mod_lt _ (Nat.two_pow_pos _), ?_, by dsimp only; omega, by dsimp only; omega⟩
  dsimp only
  have hq : (2 : ℚ) ^ 23 + ((k * 2 ^ (23 - Nat.log2 k) % 2 ^ 23 : Nat) : ℚ) = k * 2 ^ (23 - Nat.log2 k) := by exact_mod_cast hsum
  have h1 : (1 : ℚ) + ((k * 2 ^ (23 - Nat.log2 k) % 2 ^ 23 : Nat) : ℚ) / 2 ^ 23 = k * 2 ^ (23 - Nat.log2 k) / 2 ^ 23 := by
    rw [← hq, add_div, div_self (by norm_num)]
  have h2 : (2 : ℚ) ^ (23 - Nat.log2 k) * 2 ^ Nat.log2 k = 2 ^ 23 := by rw [← pow_add, Nat.add_comm, h23]
  rw [h1, zpow_add₀ two_ne_zero, zpow_natCast, eq_comm]
  calc (2 : ℚ) ^ Nat.log2 k * 2 ^ e * (k * 2 ^ (23 - Nat.log2 k) / 2 ^ 23)
      = k * 2 ^ e * (2 ^ (23 - Nat.log2 k) * 2 ^ Nat.log2 k) / 2 ^ 23 := by ring
    _ = _ := by rw [h2, mul_div_assoc, div_self (by norm_num), mul_one]

/-- A finite code's exponent. -/
theorem sigExp_bounds (h : finiteCode fmt32 a = true) : -149 ≤ sigExp fmt32 (a % fmt32.signBit) ∧ sigExp fmt32 (a % fmt32.signBit) ≤ 104 := by
  have hlt : a % fmt32.signBit < 255 * 2 ^ 23 := of_decide_eq_true h
  have hdiv : a % fmt32.signBit / 2 ^ 23 < 255 := (Nat.div_lt_iff_lt_mul (Nat.two_pow_pos _)).2 hlt
  have he : sigExp fmt32 (a % fmt32.signBit) = ((a % fmt32.signBit / 2 ^ 23 - 1 : Nat) : ℤ) + (1 - 127 - 23) := rfl
  omega

/-- The normal form of a finite nonzero code. -/
theorem mantissa_normalise (h : finiteCode fmt32 a = true) (hz : zeroCode fmt32 a = false) {fr : Nat} {x : ℤ}
    (hn : normalise (sig fmt32 (a % fmt32.signBit)) (sigExp fmt32 (a % fmt32.signBit)) = (fr, x)) :
    Mantissa a fr x ∧ -149 ≤ x ∧ x ≤ 127 := by
  obtain ⟨h1, h2, h3, h4⟩ := normalise_spec (sig_ne_zero hz) (sig_lt _) (sigExp fmt32 (a % fmt32.signBit))
  have hb := sigExp_bounds h
  rw [hn] at h1 h2 h3 h4
  dsimp only at h1 h2 h3 h4
  exact ⟨⟨h1, by rw [abs_codeValue, codeMag_eq_sig, h2]⟩, by omega, by omega⟩

/-- The exponent and the interval are those of the normal form. -/
theorem Mantissa.of_normalised (h : Mantissa a fr x) (hn : n ≤ 23) (hi : Normalised n a e i) : x = e ∧ fr / 2 ^ (23 - n) = i := by
  obtain ⟨hfr, hv⟩ := h
  obtain ⟨hi, hle, hlt⟩ := hi
  rw [hv] at hle hlt
  have hfr1 : (fr : ℚ) / 2 ^ 23 < 1 := (div_lt_one (by norm_num)).2 (by exact_mod_cast hfr)
  have hfr0 : (0 : ℚ) ≤ fr / 2 ^ 23 := div_nonneg (Nat.cast_nonneg _) (by norm_num)
  have hp : (0 : ℚ) < 2 ^ n := pow_pos two_pos _
  have hi0 : (0 : ℚ) ≤ i / 2 ^ n := div_nonneg (Nat.cast_nonneg _) hp.le
  have hi1 : ((i : ℚ) + 1) / 2 ^ n ≤ 1 := (div_le_one hp).2 (by exact_mod_cast hi)
  have hx0 : (0 : ℚ) < 2 ^ x := zpow_pos two_pos _
  have he0 : (0 : ℚ) < 2 ^ e := zpow_pos two_pos _
  have hx : x = e := by
    have h1 : Int.log 2 ((2 : ℚ) ^ x * (1 + fr / 2 ^ 23)) = x :=
      log_eq (le_mul_of_one_le_right hx0.le (by linarith))
        (by rw [zpow_add_one₀ two_ne_zero]; exact mul_lt_mul_of_pos_left (by linarith) hx0)
    have h2 : Int.log 2 ((2 : ℚ) ^ x * (1 + fr / 2 ^ 23)) = e :=
      log_eq ((le_mul_of_one_le_right he0.le (by linarith)).trans hle)
        (hlt.trans_le (by rw [zpow_add_one₀ two_ne_zero]; exact mul_le_mul_of_nonneg_left (by linarith) he0.le))
    exact h1.symm.trans h2
  subst hx
  refine ⟨rfl, ?_⟩
  have h1 : (i : ℚ) / 2 ^ n ≤ fr / 2 ^ 23 := by have := le_of_mul_le_mul_left hle hx0; linarith
  have h2 : (fr : ℚ) / 2 ^ 23 < (i + 1) / 2 ^ n := by have := lt_of_mul_lt_mul_left hlt hx0.le; linarith
  have h23 : (2 : ℚ) ^ 23 = 2 ^ (23 - n) * 2 ^ n := by rw [← pow_add, Nat.sub_add_cancel hn]
  have hc : (0 : ℚ) < 2 ^ (23 - n) := pow_pos two_pos _
  rw [h23, ← div_div, div_le_div_iff_of_pos_right hp, le_div_iff₀ hc] at h1
  rw [h23, ← div_div, div_lt_div_iff_of_pos_right hp, div_lt_iff₀ hc] at h2
  refine Nat.div_eq_of_lt_le ?_ ?_
  · exact_mod_cast h1
  · exact_mod_cast h2

theorem Mantissa.eq_zero_iff (h : Mantissa a fr x) : fr = 0 ↔ |codeValue fmt32 a| = 2 ^ x := by
  rw [h.2, mul_eq_left₀ (zpow_ne_zero _ two_ne_zero), add_eq_left, div_eq_zero_iff, or_iff_left (by norm_num), Nat.cast_eq_zero]

theorem Normalised.nonzero (h : Normalised n a e i) : zeroCode fmt32 a = false := by
  by_contra hz
  have h0 : codeValue fmt32 a = 0 := codeValue_eq_zero.2 (by simpa using hz)
  obtain ⟨-, h1, -⟩ := h
  rw [h0, abs_zero] at h1
  have h2 : (0 : ℚ) ≤ i / 2 ^ n := div_nonneg (Nat.cast_nonneg _) (pow_nonneg two_pos.le _)
  have h3 : (0 : ℚ) < 2 ^ e * (1 + i / 2 ^ n) := mul_pos (zpow_pos two_pos _) (by linarith)
  linarith

/-! ## Exact results -/

/-- A number that binary32 holds, without a flag. -/
theorem exactly_round (hk : k ≠ 0) (hlt : k < 2 ^ 24) (hlow : -149 ≤ e) (hhigh : e ≤ 104) :
    Exactly (Rounding.signed neg ((k : ℚ) * 2 ^ e)) (.exact (fmt32.round .rne 0 neg k e false).bits) := by
  have h1 : (fmt32.bias : ℤ) = 127 := rfl
  have h2 : (fmt32.frac : ℤ) = 23 := rfl
  have h3 : (2 : ℤ) ^ fmt32.ebits = 256 := rfl
  obtain ⟨c, hc, hfin, -, hv⟩ := round_exact (f := fmt32) (mode := .rne) (r := 0) (neg := neg) proper32 hk hlt (e := e)
    (by omega) (by omega)
  rw [hc]
  exact ⟨hfin, hv, fun h0 => absurd h0 (signed_ne_zero hk neg e), rfl⟩

theorem exactly_round_pos (hk : k ≠ 0) (hlt : k < 2 ^ 24) (hlow : -149 ≤ e) (hhigh : e ≤ 104) :
    Exactly ((k : ℚ) * 2 ^ e) (.exact (fmt32.round .rne 0 false k e false).bits) := exactly_round hk hlt hlow hhigh

/-! ## Root seeds (08 R162) -/

/-- Half the floor of a root, rounded, is the nearest integer to half the root. -/
theorem root_seed {m n : Nat} (hm : m ≠ 0) (hlow : 2 ^ 26 * m ≤ n) (hhigh : n < 2 ^ 42 * m) {q : Nat} (hq : q = (isqrt (n / m) + 1) / 2) :
    (2 * q - 1) ^ 2 * m ≤ n ∧ n ≤ (2 * q + 1) ^ 2 * m ∧ q ≠ 0 ∧ q < 2 ^ 24 := by
  have hmpos := Nat.pos_of_ne_zero hm
  have hquot : n / m < 2 ^ 42 := (Nat.div_lt_iff_lt_mul hmpos).2 hhigh
  have hs : isqrt (n / m) = Nat.sqrt (n / m) := by
    refine isqrt_eq ?_
    by_cases h0 : n / m = 0
    · rw [h0]
      decide
    · exact ((Nat.log2_lt h0).2 hquot).le.trans (by decide)
  have hle := Nat.sqrt_le' (n / m)
  have hlt := Nat.lt_succ_sqrt' (n / m)
  have hs1 : 2 ^ 13 ≤ Nat.sqrt (n / m) := by
    rw [Nat.le_sqrt', Nat.le_div_iff_mul_le hmpos]
    exact hlow
  have hs2 : Nat.sqrt (n / m) < 2 ^ 21 := by
    rw [Nat.sqrt_lt']
    exact hquot
  rw [hs] at hq
  generalize Nat.sqrt (n / m) = s at hle hlt hs1 hs2 hq
  refine ⟨?_, ?_, by omega, by omega⟩
  · exact (Nat.le_div_iff_mul_le hmpos).1 ((Nat.pow_le_pow_left (by omega) 2).trans hle)
  · exact ((Nat.div_lt_iff_lt_mul hmpos).1 (hlt.trans_le (Nat.pow_le_pow_left (by omega) 2))).le

theorem half_div (c : Nat) : 2 ^ 41 / c = 2 ^ 42 / (c * 2) := by
  have h : 2 ^ 42 / 2 = 2 ^ 41 := by decide
  rw [Nat.mul_comm, ← Nat.div_div_eq_div_mul, h]

theorem frsqs_normal (hf : finiteCode fmt32 a = true) (hz : zeroCode fmt32 a = false) (hn : negCode fmt32 a = false)
    (hx : normalise (sig fmt32 (a % fmt32.signBit)) (sigExp fmt32 (a % fmt32.signBit)) = (fr, x)) :
    frsqs a = if x % 2 = 0 then
        if fr = 0 then .exact (fmt32.round .rne 0 false 1 (-(x / 2)) false).bits
        else .exact (fmt32.round .rne 0 false ((isqrt (2 ^ 42 / (4096 + 2 * (fr / 2 ^ 12) + 1)) + 1) / 2) (-14 - x / 2) false).bits
      else .exact (fmt32.round .rne 0 false ((isqrt (2 ^ 41 / (4096 + 2 * (fr / 2 ^ 12) + 1)) + 1) / 2) (-14 - (x - 1) / 2) false).bits := by
  unfold frsqs
  rw [decode_fin hf]
  dsimp only
  rw [sig_beq_zero, hz, hn, hx]
  simp only [Bool.false_eq_true, if_false, beq_iff_eq]

theorem rootSeedOf (a : Nat) : RootSeedOf a (frsqs a) := by
  have hbelow : below fmt32 a = (negCode fmt32 a && !zeroCode fmt32 a && !nanCode fmt32 a) := rfl
  refine ⟨nanRule_one (fun h => ?_) (fun hn hb => ?_), fun hz => ?_, fun hi hneg => ?_, fun e i hf hneg hi => ?_⟩
  · have hsig := decode_isSignalling proper32 a
    unfold frsqs
    rw [decode_nan h] at hsig ⊢
    rw [hbelow, h, ← hsig, Bool.not_true, Bool.and_false]
    exact ⟨quiet_eq .., rfl⟩
  · rw [hbelow, Bool.and_eq_true, Bool.and_eq_true, Bool.not_eq_true'] at hb
    obtain ⟨⟨hneg, hz⟩, -⟩ := hb
    unfold frsqs
    rcases (code_cases fmt32 a).resolve_left (by simp [hn]) with hi | hfin
    · rw [decode_inf hi, hneg]
      exact ⟨rfl, rfl⟩
    · rw [decode_fin hfin, hneg]
      dsimp only
      rw [sig_beq_zero, hz]
      exact ⟨rfl, rfl⟩
  · unfold frsqs
    rw [decode_fin (finiteCode_of_zero proper32 hz)]
    dsimp only
    rw [sig_beq_zero, hz]
    exact ⟨rfl, rfl⟩
  · unfold frsqs
    rw [decode_inf hi, hneg]
    exact ⟨rfl, rfl⟩
  · have hz := Normalised.nonzero hi
    cases hx : normalise (sig fmt32 (a % fmt32.signBit)) (sigExp fmt32 (a % fmt32.signBit)) with
    | mk fr x =>
      obtain ⟨hm, hlow, hhigh⟩ := mantissa_normalise hf hz hx
      obtain ⟨rfl, rfl⟩ := hm.of_normalised (by decide) hi
      have habs : |codeValue fmt32 a| = codeValue fmt32 a := by rw [abs_codeValue, codeValue_eq, hneg]; rfl
      have hfr := hm.eq_zero_iff
      have hi11 : fr / 2 ^ 12 < 2 ^ 11 := hi.1
      rw [habs] at hfr
      rw [frsqs_normal hf hz hneg hx]
      generalize fr / 2 ^ 12 = i at hi11 ⊢
      by_cases heven : x % 2 = 0
      · rw [if_pos heven]
        by_cases h0 : fr = 0
        · rw [if_pos h0, if_pos ⟨heven, hfr.1 h0⟩]
          have := exactly_round_pos (k := 1) (e := -(x / 2)) one_ne_zero (by decide) (by omega) (by omega)
          rwa [Nat.cast_one, one_mul] at this
        · rw [if_neg h0, if_neg fun h => h0 (hfr.2 h.2)]
          obtain ⟨h1, h2, h3, h4⟩ := root_seed (m := 4097 + 2 * i) (n := 2 ^ 42) (by omega) (by omega) (by omega) rfl
          refine ⟨(isqrt (2 ^ 42 / (4097 + 2 * i)) + 1) / 2, ?_, ?_, ?_⟩
          · rw [if_pos heven, Nat.mul_one]
            exact h1
          · rw [if_pos heven, Nat.mul_one]
            exact h2
          · have hadd : 4096 + 2 * i + 1 = 4097 + 2 * i := by omega
            rw [hadd]
            exact exactly_round_pos h3 h4 (by omega) (by omega)
      · rw [if_neg heven, if_neg fun h => heven h.1]
        obtain ⟨h1, h2, h3, h4⟩ := root_seed (m := (4097 + 2 * i) * 2) (n := 2 ^ 42) (by omega) (by omega) (by omega) rfl
        refine ⟨(isqrt (2 ^ 42 / ((4097 + 2 * i) * 2)) + 1) / 2, ?_, ?_, ?_⟩
        · rw [if_neg heven]
          exact h1
        · rw [if_neg heven]
          exact h2
        · have hadd : 4096 + 2 * i + 1 = 4097 + 2 * i := by omega
          have hhalf : (x - 1) / 2 = x / 2 := by omega
          rw [hadd, hhalf, half_div]
          exact exactly_round_pos h3 h4 (by omega) (by omega)

/-! ## Reciprocal seeds (08 R163) -/

theorem reciprocal_seed {d : Nat} (hlow : 8193 ≤ d) (hhigh : d < 2 ^ 14) {q : Nat} (hq : q = (2 ^ 28 + d) / (2 * d)) :
    (2 * q - 1) * d ≤ 2 ^ 28 ∧ 2 ^ 28 ≤ (2 * q + 1) * d ∧ q ≠ 0 := by
  have h1 : q * (2 * d) ≤ 2 ^ 28 + d := by
    rw [hq]
    exact Nat.div_mul_le_self _ _
  have h2 : 2 ^ 28 + d < (q + 1) * (2 * d) := by
    rw [← Nat.div_lt_iff_lt_mul (by omega), hq]
    exact Nat.lt_succ_self _
  have h3 : 1 ≤ q := by
    rw [hq, Nat.le_div_iff_mul_le (by omega)]
    omega
  refine ⟨?_, by nlinarith, by omega⟩
  obtain ⟨p, rfl⟩ := Nat.exists_eq_add_of_le h3
  have h4 : 2 * (1 + p) - 1 = 2 * p + 1 := by omega
  rw [h4]
  nlinarith

theorem frcps_normal (hf : finiteCode fmt32 a = true) (hz : zeroCode fmt32 a = false)
    (hx : normalise (sig fmt32 (a % fmt32.signBit)) (sigExp fmt32 (a % fmt32.signBit)) = (fr, x)) :
    frcps a = if fr = 0 then fmt32.round .rne 0 (negCode fmt32 a) 1 (-x) false
      else fmt32.round .rne 0 (negCode fmt32 a) ((2 ^ 28 + (8192 + 2 * (fr / 2 ^ 11) + 1)) / (2 * (8192 + 2 * (fr / 2 ^ 11) + 1)))
        (-14 - x) false := by
  unfold frcps
  rw [decode_fin hf]
  dsimp only
  rw [sig_beq_zero, hz, hx]
  simp only [Bool.false_eq_true, if_false, beq_iff_eq]

theorem sign_mul (neg : Bool) (y : ℚ) : (if neg then -1 else 1) * y = Rounding.signed neg y := by
  cases neg
  · exact one_mul y
  · exact neg_one_mul y

theorem reciprocalSeedOf (a : Nat) : ReciprocalSeedOf a (frcps a) := by
  refine ⟨nanRule_one (fun h => ?_) (fun _ h => absurd h Bool.false_ne_true), fun hz => ?_, fun hi => ?_, fun e i hf hi => ?_⟩
  · have hsig := decode_isSignalling proper32 a
    unfold frcps
    rw [decode_nan h] at hsig ⊢
    rw [← hsig]
    exact ⟨quiet_eq .., rfl⟩
  · unfold frcps
    rw [decode_fin (finiteCode_of_zero proper32 hz)]
    dsimp only
    rw [sig_beq_zero, hz]
    exact ⟨rfl, rfl⟩
  · unfold frcps
    rw [decode_inf hi]
    exact ⟨rfl, rfl⟩
  · have hz := Normalised.nonzero hi
    cases hx : normalise (sig fmt32 (a % fmt32.signBit)) (sigExp fmt32 (a % fmt32.signBit)) with
    | mk fr x =>
      obtain ⟨hm, -, -⟩ := mantissa_normalise hf hz hx
      obtain ⟨rfl, rfl⟩ := hm.of_normalised (by decide) hi
      have hi12 : fr / 2 ^ 11 < 2 ^ 12 := hi.1
      rw [frcps_normal hf hz hx]
      by_cases h0 : fr = 0
      · rw [if_pos h0, if_pos (hm.eq_zero_iff.1 h0), sign_mul]
        have := roundsTo_signed (mode := .rne) (r := 0) proper32 one_ne_zero (negCode fmt32 a) (-x)
        rwa [Nat.cast_one, one_mul] at this
      · rw [if_neg h0, if_neg fun h => h0 (hm.eq_zero_iff.2 h)]
        have hadd : 8192 + 2 * (fr / 2 ^ 11) + 1 = 8193 + 2 * (fr / 2 ^ 11) := by omega
        rw [hadd]
        obtain ⟨h1, h2, h3⟩ := reciprocal_seed (d := 8193 + 2 * (fr / 2 ^ 11)) (by omega) (by omega) rfl
        refine ⟨_, h1, h2, ?_⟩
        rw [mul_assoc, sign_mul]
        exact roundsTo_signed proper32 h3 _ _

end

end Sys2Proof.Seeds

/-! PROOFS about the seeds of the logarithm and of the exponential (08 R164, R165). -/

namespace Sys2Proof.Seeds
open Sys2Proof Sys2Proof.Machine Sys2Proof.Safety Sys2Proof.Codes Sys2Proof.Rounding Sys2Proof.Sums

section
variable {a fr c k n : Nat} {x : ℤ}

/-! ## Logarithms (08 R165) -/

theorem pow_le_of_le_log {p l : Nat} (hp : p ≠ 0) (h : l ≤ Nat.log2 p) : 2 ^ l ≤ p := (Nat.le_log2 hp).1 h

/-- The logarithm of c / 2^13 in steps of 2 / n, to the nearest, for c in (2^13, 2^14). -/
theorem log_seed (hn : 8192 ≤ n) (hlow : 8193 ≤ c) (hhigh : c < 2 ^ 14) {t : Nat} (ht : t = (Nat.log2 (c ^ n) - 13 * n + 1) / 2) :
    0 < t ∧ 2 ^ (13 * n + 2 * t - 1) ≤ c ^ n ∧ c ^ n ≤ 2 ^ (13 * n + 2 * t + 1) ∧ 2 * t ≤ n := by
  have hp : c ^ n ≠ 0 := pow_ne_zero _ (by omega)
  have hone : 13 * n + 1 ≤ Nat.log2 (c ^ n) := by
    rw [Nat.le_log2 hp]
    have hbern : (2 : ℚ) ≤ (1 + 1 / 8192) ^ n :=
      calc (2 : ℚ) ≤ 1 + n * (1 / 8192) := by
            have : (8192 : ℚ) ≤ n := by exact_mod_cast hn
            linarith
        _ ≤ _ := one_add_mul_le_pow (by norm_num) n
    have hc : (2 : ℚ) ^ 13 * (1 + 1 / 8192) ≤ c := by
      have : (8193 : ℚ) ≤ c := by exact_mod_cast hlow
      linarith
    have hq : (2 : ℚ) ^ (13 * n + 1) ≤ (c : ℚ) ^ n :=
      calc (2 : ℚ) ^ (13 * n + 1) = (2 ^ 13) ^ n * 2 := by rw [pow_succ, pow_mul]
        _ ≤ (2 ^ 13) ^ n * (1 + 1 / 8192) ^ n := mul_le_mul_of_nonneg_left hbern (pow_nonneg (by norm_num) _)
        _ = (2 ^ 13 * (1 + 1 / 8192)) ^ n := (mul_pow ..).symm
        _ ≤ (c : ℚ) ^ n := pow_le_pow_left₀ (by norm_num) hc n
    exact_mod_cast hq
  have htop : Nat.log2 (c ^ n) < 14 * n := by
    rw [Nat.log2_lt hp, pow_mul]
    exact Nat.pow_lt_pow_left hhigh (by omega)
  refine ⟨by omega, pow_le_of_le_log hp (by omega), ?_, by omega⟩
  exact (Nat.lt_log2_self (n := c ^ n)).le.trans (Nat.pow_le_pow_right (by decide) (by omega))

/-- A multiple of 2^-16 as the logarithm's result. -/
theorem exactly_fixed (v : ℤ) (h : v.natAbs < 2 ^ 24) :
    Exactly ((v : ℚ) / 65536) (if v == 0 then .exact 0 else .exact (fmt32.round .rne 0 (decide (v < 0)) v.natAbs (-16) false).bits) := by
  by_cases h0 : v = 0
  · have hz : codeValue fmt32 0 = 0 := codeValue_eq_zero.2 rfl
    rw [h0, if_pos (beq_self_eq_true _), Int.cast_zero, zero_div]
    exact ⟨rfl, hz, fun _ => rfl, rfl⟩
  · have hv : (v : ℚ) / 65536 = Rounding.signed (decide (v < 0)) ((v.natAbs : ℚ) * 2 ^ (-16 : ℤ)) := by
      have h16 : (2 : ℚ) ^ (-16 : ℤ) = 1 / 65536 := by norm_num
      rw [h16, Nat.cast_natAbs, Rounding.signed]
      by_cases hneg : v < 0
      · rw [if_pos (decide_eq_true hneg), abs_of_neg hneg]
        push_cast
        ring
      · rw [if_neg (by simpa using hneg), abs_of_nonneg (not_lt.1 hneg)]
        ring
    rw [if_neg (by simpa using h0), hv]
    exact exactly_round (Int.natAbs_ne_zero.2 h0) h (by decide) (by decide)

/-- The logarithm's steps of a normal form. -/
def logSteps (fr : Nat) : Nat := if fr == 0 then 0 else (Nat.log2 ((8193 + 2 * (fr / 2 ^ 11)) ^ 131072) - 13 * 131072 + 1) / 2

theorem flg2s_normal (hf : finiteCode fmt32 a = true) (hz : zeroCode fmt32 a = false) (hn : negCode fmt32 a = false)
    (hx : normalise (sig fmt32 (a % fmt32.signBit)) (sigExp fmt32 (a % fmt32.signBit)) = (fr, x)) :
    flg2s a = if x * 65536 + logSteps fr == 0 then .exact 0
      else .exact (fmt32.round .rne 0 (decide (x * 65536 + logSteps fr < 0)) (x * 65536 + logSteps fr).natAbs (-16) false).bits := by
  unfold flg2s logSteps
  rw [decode_fin hf]
  dsimp only
  rw [sig_beq_zero, hz, hn, hx]
  simp only [Bool.false_eq_true, if_false]

theorem logarithmSeedOf (a : Nat) : LogarithmSeedOf a (flg2s a) := by
  have hbelow : below fmt32 a = (negCode fmt32 a && !zeroCode fmt32 a && !nanCode fmt32 a) := rfl
  refine ⟨nanRule_one (fun h => ?_) (fun hn hb => ?_), fun hz => ?_, fun hi hneg => ?_, fun e i hf hneg hi => ?_⟩
  · have hsig := decode_isSignalling proper32 a
    unfold flg2s
    rw [decode_nan h] at hsig ⊢
    rw [hbelow, h, ← hsig, Bool.not_true, Bool.and_false]
    exact ⟨quiet_eq .., rfl⟩
  · rw [hbelow, Bool.and_eq_true, Bool.and_eq_true, Bool.not_eq_true'] at hb
    obtain ⟨⟨hneg, hz⟩, -⟩ := hb
    unfold flg2s
    rcases (code_cases fmt32 a).resolve_left (by simp [hn]) with hi | hfin
    · rw [decode_inf hi, hneg]
      exact ⟨rfl, rfl⟩
    · rw [decode_fin hfin, hneg]
      dsimp only
      rw [sig_beq_zero, hz]
      exact ⟨rfl, rfl⟩
  · unfold flg2s
    rw [decode_fin (finiteCode_of_zero proper32 hz)]
    dsimp only
    rw [sig_beq_zero, hz]
    exact ⟨rfl, rfl⟩
  · unfold flg2s
    rw [decode_inf hi, hneg]
    exact ⟨rfl, rfl⟩
  · have hz := Normalised.nonzero hi
    cases hx : normalise (sig fmt32 (a % fmt32.signBit)) (sigExp fmt32 (a % fmt32.signBit)) with
    | mk fr x =>
      obtain ⟨hm, hlow, hhigh⟩ := mantissa_normalise hf hz hx
      obtain ⟨rfl, (rfl : fr / 2 ^ 11 = i)⟩ := hm.of_normalised (by decide) hi
      have habs : |codeValue fmt32 a| = codeValue fmt32 a := by rw [abs_codeValue, codeValue_eq, hneg]; rfl
      have hfr := hm.eq_zero_iff
      have hi12 : fr / 2 ^ 11 < 2 ^ 12 := hi.1
      have hfixed (t : Nat) : ((x * 65536 + t : ℤ) : ℚ) / 65536 = x + t / 65536 := by
        push_cast
        ring
      rw [habs] at hfr
      rw [flg2s_normal hf hz hneg hx]
      by_cases h0 : fr = 0
      · have ht : logSteps fr = 0 := by rw [h0]; rfl
        have hexact := exactly_fixed (x * 65536 + (0 : Nat)) (by omega)
        rw [hfixed, Nat.cast_zero, zero_div, add_zero] at hexact
        rw [if_pos (hfr.1 h0), ht]
        exact hexact
      · rw [if_neg fun h => h0 (hfr.2 h)]
        have hlow : 8193 ≤ 8193 + 2 * (fr / 2 ^ 11) := by omega
        have hhigh : 8193 + 2 * (fr / 2 ^ 11) < 2 ^ 14 := by omega
        obtain ⟨h1, h2, h3, h4⟩ := log_seed (n := 131072) (by decide) hlow hhigh (t := logSteps fr) (if_neg (by simpa using h0))
        have hexact := exactly_fixed (x * 65536 + logSteps fr) (by omega)
        rw [hfixed] at hexact
        exact ⟨logSteps fr, h1, h2, h3, hexact⟩

/-! ## Exponentials (08 R164) -/

/-- The bisection keeps its lower end below the root and its upper end above. -/
theorem ex2Search_spec {bound : Nat} : ∀ k lo, (2 * lo - 1) ^ 8192 ≤ bound → bound < (2 * (lo + 2 ^ k) - 1) ^ 8192 →
    lo ≤ ex2Search k bound lo ∧ ex2Search k bound lo < lo + 2 ^ k ∧ (2 * ex2Search k bound lo - 1) ^ 8192 ≤ bound
      ∧ bound < (2 * ex2Search k bound lo + 1) ^ 8192 := by
  intro k
  induction k with
  | zero =>
    intro lo
    have h : 2 * (lo + 2 ^ 0) - 1 = 2 * lo + 1 := by omega
    have hz : ex2Search 0 bound lo = lo := rfl
    rw [h, hz]
    intro h1 h2
    exact ⟨le_rfl, Nat.lt_succ_self _, h1, h2⟩
  | succ k ih =>
    intro lo h1 h2
    unfold ex2Search
    dsimp only
    have hdouble : lo + 2 ^ (k + 1) = lo + 2 ^ k + 2 ^ k := by rw [pow_succ]; omega
    split
    next h =>
      obtain ⟨g1, g2, g3, g4⟩ := ih (lo + 2 ^ k) h (by rwa [← hdouble])
      exact ⟨(Nat.le_add_right _ _).trans g1, by rwa [hdouble], g3, g4⟩
    next h =>
      obtain ⟨g1, g2, g3, g4⟩ := ih lo h1 (not_le.1 h)
      exact ⟨g1, g2.trans_le (by rw [hdouble]; exact Nat.le_add_right _ _), g3, g4⟩

/-- The powers at both ends of the search. -/
theorem search_ends {j : Nat} (hn : n = 8192) (hj : j < n) :
    (2 * 8192 - 1) ^ n ≤ 2 ^ (14 * n + j) ∧ 2 ^ (14 * n + j) < (2 * (8192 + 2 ^ 13) - 1) ^ n := by
  constructor
  · calc (2 * 8192 - 1) ^ n ≤ (2 ^ 14) ^ n := Nat.pow_le_pow_left (by decide) n
      _ = 2 ^ (14 * n) := (pow_mul ..).symm
      _ ≤ _ := Nat.pow_le_pow_right (by decide) (Nat.le_add_right _ _)
  · have hbern : (3 : ℚ) / 4 ≤ (1 + -(1 / 2 ^ 15)) ^ n :=
      calc (3 : ℚ) / 4 = 1 + n * -(1 / 2 ^ 15) := by rw [hn]; norm_num
        _ ≤ _ := one_add_mul_le_pow (by norm_num) n
    have hpos : (0 : ℚ) < (2 ^ 15) ^ n := pow_pos (by norm_num) n
    have hq : (2 : ℚ) ^ (14 * n + j) < (2 ^ 15 - 1) ^ n :=
      calc (2 : ℚ) ^ (14 * n + j) = 2 ^ (14 * n + j + 1) / 2 := by rw [pow_succ, mul_div_cancel_right₀ _ two_ne_zero]
        _ ≤ 2 ^ (15 * n) / 2 := div_le_div_of_nonneg_right (pow_le_pow_right₀ one_le_two (by omega)) two_pos.le
        _ = (2 ^ 15) ^ n / 2 := by rw [pow_mul]
        _ < (2 ^ 15) ^ n * (3 / 4) := by
          rw [div_eq_mul_inv]
          exact mul_lt_mul_of_pos_left (by norm_num) hpos
        _ ≤ (2 ^ 15) ^ n * (1 + -(1 / 2 ^ 15)) ^ n := mul_le_mul_of_nonneg_left hbern hpos.le
        _ = (2 ^ 15 * (1 + -(1 / 2 ^ 15))) ^ n := (mul_pow ..).symm
        _ = (2 ^ 15 - 1) ^ n := by norm_num
    have hnat : (2 : ℚ) ^ 15 - 1 = ((2 * (8192 + 2 ^ 13) - 1 : Nat) : ℚ) := by norm_num
    rw [hnat] at hq
    exact_mod_cast hq

/-- Half the 8192-th root of 2^(14 * 8192 + j), to the nearest. -/
theorem exponential_seed {j : Nat} (hj : j < 8192) {q : Nat} (hq : q = ex2Search 13 (2 ^ (14 * 8192 + j)) 8192) :
    (2 * q - 1) ^ 8192 ≤ 2 ^ (14 * 8192 + j) ∧ 2 ^ (14 * 8192 + j) ≤ (2 * q + 1) ^ 8192 ∧ q ≠ 0 ∧ q < 2 ^ 14 := by
  obtain ⟨hlow, hhigh⟩ := search_ends rfl hj
  obtain ⟨h1, h2, h3, h4⟩ := ex2Search_spec 13 8192 hlow hhigh
  rw [← hq] at h1 h2 h3 h4
  exact ⟨h3, h4.le, by omega, by omega⟩

theorem rounded_eq {y : Rounded} {m : Nat} {b c : Bool} (hm : y.mag = m) (hb : y.inexact = b) (hc : y.tiny = c) :
    y = { mag := m, inexact := b, tiny := c } := by
  subst hm hb hc
  rfl

theorem roundedMag_mag_eq {f : Fmt} {mode : RMode} {r : Nat} {neg : Bool} (w : ℚ) :
    (roundedMag f mode r neg w).mag = (nearby mode r neg (steps f w)).1 + grid f w * 2 ^ f.frac := rfl

theorem roundedMag_inexact_eq {f : Fmt} {mode : RMode} {r : Nat} {neg : Bool} (w : ℚ) :
    (roundedMag f mode r neg w).inexact = (nearby mode r neg (steps f w)).2 := rfl

/-- A magnitude below half the smallest subnormal. -/
theorem roundedMag_small {w : ℚ} (hw : 0 < w) (hw1 : w < 1 / 2) :
    roundedMag fmt32 .rne 0 false w = { mag := 0, inexact := true, tiny := true } := by
  have hlog : Int.log 2 w < 0 := (Int.lt_zpow_iff_log_lt (b := 2) one_lt_two hw).1 (by rw [zpow_zero]; linarith)
  have hgrid : grid fmt32 w = 0 := by
    have : Int.log 2 w - fmt32.frac ≤ 0 := by omega
    exact Int.toNat_of_nonpos this
  have hsteps : steps fmt32 w = w := by rw [steps, hgrid, pow_zero, div_one]
  have hfloor : ⌊w⌋₊ = 0 := Nat.floor_eq_zero.2 (by linarith)
  have habove : above w = w := by rw [above, hfloor, Nat.cast_zero, sub_zero]
  have hup : roundsUp .rne 0 false 0 w = false := by
    have h1 : decide (1 / 2 < w) = false := decide_eq_false (not_lt.2 hw1.le)
    have h2 : decide (w = 1 / 2) = false := decide_eq_false hw1.ne
    simp only [roundsUp, h1, h2, Bool.false_and, Bool.or_self]
  have hnear : nearby .rne 0 false w = (0, true) := by
    unfold nearby
    rw [hfloor, habove, hup]
    simp [hw.ne']
  have htiny := tiny_of_lt (f := fmt32) (mode := .rne) (r := 0) (neg := false) hw (by
    have : (1 : ℚ) ≤ 2 ^ fmt32.frac := one_le_pow₀ one_le_two
    linarith)
  refine rounded_eq ?_ ?_ htiny
  · rw [roundedMag_mag_eq, hsteps, hgrid, hnear, Nat.zero_mul]
  · rw [roundedMag_inexact_eq, hsteps, hnear]

theorem roundNumber_small {x : ℚ} (hx : 0 < x) (hx1 : x * 2 ^ 149 < 1 / 2) :
    roundNumber fmt32 .rne 0 x = finish fmt32 .rne false { mag := 0, inexact := true, tiny := true } := by
  rw [roundNumber, roundedTo, decide_eq_false (not_lt.2 hx.le), abs_of_pos hx]
  exact congrArg _ (roundedMag_small (mul_pos hx (pow_pos two_pos _)) hx1)

/-- Far below the subnormals the exponent makes no difference. -/
theorem roundsTo_clamped {q : Nat} (hq : q ≠ 0) (hlt : q < 2 ^ 14) (n : ℤ) {d : ℤ} (hd : 0 ≤ d) :
    RoundsTo fmt32 .rne 0 (q * 2 ^ (n - d)) (fmt32.round .rne 0 false q ((if n < -1000 then -1000 else n) - d) false) := by
  have hqpos : (0 : ℚ) < q := by exact_mod_cast Nat.pos_of_ne_zero hq
  have hpos (m : ℤ) : (0 : ℚ) < q * 2 ^ m := mul_pos hqpos (zpow_pos two_pos _)
  have hround (m : ℤ) : fmt32.round .rne 0 false q m false = roundNumber fmt32 .rne 0 (q * 2 ^ m) :=
    round_eq_roundNumber proper32 (hpos m).ne' (decide_eq_false (not_lt.2 (hpos m).le)).symm (abs_of_pos (hpos m))
  have hsmall (m : ℤ) (hm : m ≤ -1000) : (q : ℚ) * 2 ^ m * 2 ^ 149 < 1 / 2 :=
    calc (q : ℚ) * 2 ^ m * 2 ^ 149 ≤ q * 2 ^ (-200 : ℤ) * 2 ^ 149 :=
          mul_le_mul_of_nonneg_right (mul_le_mul_of_nonneg_left (zpow_le_zpow_right₀ one_le_two (by omega)) hqpos.le) (by norm_num)
      _ < 2 ^ 14 * 2 ^ (-200 : ℤ) * 2 ^ 149 :=
          mul_lt_mul_of_pos_right (mul_lt_mul_of_pos_right (by exact_mod_cast hlt) (zpow_pos two_pos _)) (by norm_num)
      _ < 1 / 2 := by norm_num
  rw [hround]
  split
  next hn =>
    rw [roundNumber_small (hpos _) (hsmall _ (by omega)), ← roundNumber_small (hpos (n - d)) (hsmall _ (by omega))]
    exact roundsTo_roundNumber proper32 (hpos _).ne'
  next => exact roundsTo_roundNumber proper32 (hpos _).ne'

/-- A finite code's value in units of 2^-149. -/
def scaled (a : Nat) : ℤ :=
  if negCode fmt32 a then -((sig fmt32 (a % fmt32.signBit) * 2 ^ (sigExp fmt32 (a % fmt32.signBit) + 149).toNat : Nat) : ℤ)
  else ((sig fmt32 (a % fmt32.signBit) * 2 ^ (sigExp fmt32 (a % fmt32.signBit) + 149).toNat : Nat) : ℤ)

theorem codeValue_scaled (hf : finiteCode fmt32 a = true) : codeValue fmt32 a = (scaled a : ℚ) / ((2 ^ 149 : Nat) : ℚ) := by
  obtain ⟨hlow, -⟩ := sigExp_bounds hf
  have hmag : codeMag fmt32 a
      = ((sig fmt32 (a % fmt32.signBit) * 2 ^ (sigExp fmt32 (a % fmt32.signBit) + 149).toNat : Nat) : ℚ) / ((2 ^ 149 : Nat) : ℚ) := by
    have h149 : ((2 ^ 149 : Nat) : ℚ) = 2 ^ (149 : ℤ) := by push_cast; norm_cast
    rw [codeMag_eq_sig, h149, eq_div_iff (zpow_ne_zero _ two_ne_zero), mul_assoc, ← zpow_add₀ two_ne_zero, Nat.cast_mul, Nat.cast_pow,
      ← zpow_natCast ((2 : Nat) : ℚ), Int.toNat_of_nonneg (by omega)]
    rfl
  rw [codeValue_eq, hmag, Rounding.signed, scaled]
  split
  · push_cast
    rw [neg_div]
  · push_cast
    rfl

/-- The model's exponential of a finite code, from its floor and fraction. -/
theorem fex2s_finite (hf : finiteCode fmt32 a = true) (hz : zeroCode fmt32 a = false) :
    fex2s a = if scaled a / 2 ^ 149 ≥ 128 then { bits := fmt32.infMag, flags := flagOF ||| flagNX }
      else if (scaled a % 2 ^ 149).toNat = 0 then
        fmt32.round .rne 0 false 1 (if scaled a / 2 ^ 149 < -1000 then -1000 else scaled a / 2 ^ 149) false
      else fmt32.round .rne 0 false (ex2Search 13 (2 ^ (14 * 8192 + (2 * ((scaled a % 2 ^ 149).toNat / 2 ^ 137) + 1))) 8192)
        ((if scaled a / 2 ^ 149 < -1000 then -1000 else scaled a / 2 ^ 149) - 13) false := by
  unfold fex2s scaled
  rw [decode_fin hf]
  dsimp only
  rw [sig_beq_zero, hz]
  simp only [Bool.false_eq_true, if_false, beq_iff_eq]

theorem exponentialSeedOf (a : Nat) : ExponentialSeedOf a (fex2s a) := by
  refine ⟨nanRule_one (fun h => ?_) (fun _ h => absurd h Bool.false_ne_true), fun hz => ?_, fun hi => ?_, fun hf hz => ?_⟩
  · have hsig := decode_isSignalling proper32 a
    unfold fex2s
    rw [decode_nan h] at hsig ⊢
    rw [← hsig]
    exact ⟨quiet_eq .., rfl⟩
  · unfold fex2s
    rw [decode_fin (finiteCode_of_zero proper32 hz)]
    dsimp only
    rw [sig_beq_zero, hz]
    exact ⟨rfl, rfl⟩
  · unfold fex2s
    rw [decode_inf hi]
    exact ⟨rfl, rfl⟩
  · have hval := codeValue_scaled hf
    have hfloor : ⌊codeValue fmt32 a⌋ = scaled a / 2 ^ 149 := by
      rw [hval]
      exact_mod_cast Rat.floor_intCast_div_natCast (scaled a) (2 ^ 149)
    rw [fex2s_finite hf hz, hfloor]
    generalize codeValue fmt32 a = v at hval hfloor ⊢
    generalize scaled a = m at hval hfloor ⊢
    have hmod : 0 ≤ m % 2 ^ 149 := Int.emod_nonneg _ (by decide)
    have hmodlt : m % 2 ^ 149 < 2 ^ 149 := Int.emod_lt_of_pos _ (by decide)
    have hdm : 2 ^ 149 * (m / 2 ^ 149) + m % 2 ^ 149 = m := Int.mul_ediv_add_emod m (2 ^ 149)
    obtain ⟨f, hmf⟩ := Int.eq_ofNat_of_zero_le hmod
    rw [hmf] at hmodlt hdm ⊢
    generalize m / 2 ^ 149 = fl at hdm ⊢
    have hd : v - (fl : ℚ) = (f : ℚ) / 2 ^ 149 := by
      rw [hval, ← hdm]
      push_cast
      field_simp
      ring
    rw [hd, Int.toNat_natCast]
    refine ⟨fun h => ?_, fun h => ?_⟩
    · rw [if_pos h]
      exact ⟨rfl, rfl⟩
    · rw [if_neg (not_le.2 h)]
      by_cases h0 : f = 0
      · have hclamp := roundsTo_clamped (q := 1) one_ne_zero (by decide) fl le_rfl
        rw [sub_zero, sub_zero, Nat.cast_one, one_mul] at hclamp
        rw [if_pos h0, h0, Nat.cast_zero, zero_div, if_pos rfl]
        exact hclamp
      · have hne : (f : ℚ) / 2 ^ 149 ≠ 0 := div_ne_zero (by exact_mod_cast h0) (by norm_num)
        have hi : ⌊(f : ℚ) / 2 ^ 149 * 4096⌋₊ = f / 2 ^ 137 := by
          have h149 : (f : ℚ) / 2 ^ 149 * 4096 = f / ((2 ^ 137 : Nat) : ℚ) := by
            push_cast
            rw [div_mul_eq_mul_div, div_eq_div_iff (by norm_num) (by norm_num)]
            ring
          rw [h149, Nat.floor_div_natCast, Nat.floor_natCast]
        have hi12 : f / 2 ^ 137 < 2 ^ 12 := by
          rw [Nat.div_lt_iff_lt_mul (Nat.two_pow_pos _), ← pow_add]
          exact_mod_cast hmodlt
        rw [if_neg h0, if_neg hne, hi, ← Nat.add_assoc]
        obtain ⟨h1, h2, h3, h4⟩ := exponential_seed (j := 2 * (f / 2 ^ 137) + 1) (by omega) rfl
        exact ⟨_, h1, h2, roundsTo_clamped h3 h4 fl (by decide)⟩

end

end Sys2Proof.Seeds

/-! PROOFS: every rounded result, special value and seed. -/

namespace Sys2Proof.Seeds
open Sys2Proof Sys2Proof.Machine Sys2Proof.Safety Sys2Proof.Codes Sys2Proof.Rounding Sys2Proof.Sums

/-- Settles O56: the model's rounding is that of the exact magnitude (`rounds_roundedTo`), a sum's terms mean what their codes do
(`sumOf_sumRound`), quotients and roots are a floor and a part (`roundsTo_quotient`, `rounds_root`), and the seeds' searches and
logarithms end at the nearest integer (`ex2Search_spec`, `log_seed`). -/
theorem roundedResults : Obligations.RoundedResults := by
  unfold Obligations.RoundedResults
  refine ⟨fun f mode r neg num exp hf hn => rounds_round (.of_ieee hf) hn exp, fun f mode r a b hf => ?_, fun h mode r a b d hh => ?_,
    fun mode r a b => ⟨quotientOf a b, rootOf a, integralOf a⟩,
    fun a => ⟨fclass_eq a, rootSeedOf a, reciprocalSeedOf a, exponentialSeedOf a, logarithmSeedOf a⟩⟩
  · have hp : Proper f := .of_ieee hf
    refine ⟨fun ha hb => ?_, ⟨sumOf_fadd hp, sumOf_fsub hp, sumOf_fmul hp, fun minus d => sumOf_fmac hp minus d⟩, lesserOf hp, lesserOf hp⟩
    have ha' : finiteCode f a = true := decide_eq_true ha
    have hb' : finiteCode f b = true := decide_eq_true hb
    exact ⟨fadd_finite hp ha' hb' rfl, fsub_finite hp ha' hb' rfl, fmul_finite hp ha' hb' rfl⟩
  · exact sumOf_fdot (.of_ieee (hh.elim (.inr ∘ .inr ∘ .inl) (.inr ∘ .inr ∘ .inr))) d

end Sys2Proof.Seeds
